-- ==== Sys2Proof/Word.lean ====
section
/-! DEFINITION. The machine's words: a 64-bit register word and a memory byte (R12, R201). -/

namespace Sys2Proof

/-- A BAR0 register, a scalar register and an instruction word are 64 bits wide (R12, R192, R201). -/
abbrev Word := BitVec 64

/-- The smallest addressable unit of every memory (R30). -/
abbrev Byte := BitVec 8

end Sys2Proof
end

