-- ==== Sys2Proof/Syntax.lean ====
section
/-! DEFINITION. The commands of the block: every row of spec/opcode_table.json is one constructor of `Instr`. The
four field records are the four formats of R202, reserved bits included, so that the checks of R203 are the
machine's and not the reader's. -/

namespace Sys2Proof

/-- Fields of a CTRL word below its opcode (R202). -/
structure CtrlF where
  sa : BitVec 5
  f : BitVec 1
  rsv : BitVec 2
  imm16 : BitVec 16
  off32 : BitVec 32
  deriving DecidableEq, Repr

/-- Fields of a SCALAR word below its opcode (R202). -/
structure ScalF where
  sd : BitVec 5
  sa : BitVec 5
  sb : BitVec 5
  fn : BitVec 5
  rsv : BitVec 4
  imm32 : BitVec 32
  deriving DecidableEq, Repr

/-- Fields of a TENSOR word below its opcode (R202). -/
structure TensF where
  dd : BitVec 4
  da : BitVec 4
  db : BitVec 4
  dc : BitVec 4
  pm : BitVec 3
  ts : BitVec 2
  slot : BitVec 3
  sx : BitVec 5
  mode : BitVec 27
  deriving DecidableEq, Repr

/-- Fields of a SYNC word below its opcode (R202). -/
structure SyncF where
  sa : BitVec 5
  rsv : BitVec 3
  group : BitVec 16
  imm32 : BitVec 32
  deriving DecidableEq, Repr

/-- Who makes a register access (R527, R537, R544): the physical function, the virtual function of a parcel, or
management. -/
inductive Req
  | pf
  | vf (p : BitVec 2)
  | mgt
  deriving DecidableEq, Repr

/-- Width of a BAR0 access in bits (R12). -/
inductive AccWidth
  | w8
  | w16
  | w32
  | w64
  deriving DecidableEq, Repr

/-- A BAR0 access (R12): its requester, its byte offset in the 64 MiB of BAR0, its width, and the value of a write, in the
low bits. -/
structure RegAcc where
  req : Req
  addr : BitVec 26
  width : AccWidth
  v : BitVec 64
  deriving DecidableEq, Repr

/-- The instructions of the test port (R570); `debug` is every other. -/
inductive TapInst
  | bypass
  | idcode
  | sample
  | extest
  | extestPulse
  | extestTrain
  | debug
  deriving DecidableEq, Repr


/-- One constructor per row of spec/opcode_table.json: what reaches the module from outside or comes about in it, in the table's order. Station instructions name the logical station FD × 128 + n that issues them (R26) and carry every field of their word (R202). -/
inductive Instr
  /-- NOP, R204: The sequencer issues an instruction that does nothing. -/
  | nop (stn : BitVec 11) (f : CtrlF)
  /-- END, R220: The station drains every engine, completes barrier steps 1 and 2, and enters IDLE. -/
  | end_ (stn : BitVec 11) (f : CtrlF)
  /-- LEG, R211: The station ends the current leg, measures lateness and begins the named leg; with BARRIER set it also drains, checks, clears the tiles and writes a barrier record. -/
  | leg (stn : BitVec 11) (f : CtrlF)
  /-- JMP, R195: The sequencer branches unconditionally to PC plus OFF32. -/
  | jmp (stn : BitVec 11) (f : CtrlF)
  /-- LOOP, R195: The sequencer decrements a count register and branches while the count is non-zero, or faults when the count carries DATA. -/
  | loop (stn : BitVec 11) (f : CtrlF)
  /-- SELECT, R196: The sequencer branches through a variant table indexed by a scalar, clamping or faulting when the index is out of range. -/
  | select (stn : BitVec 11) (f : CtrlF)
  /-- TRAP, R204: The station faults with TRAP and records IMM16. -/
  | trap (stn : BitVec 11) (f : CtrlF)
  /-- SLI, R204: A scalar register is loaded with a sign-extended immediate and DATA cleared. -/
  | sli (stn : BitVec 11) (f : ScalF)
  /-- SLUI, R204: The upper half of a scalar register is loaded with an immediate. -/
  | slui (stn : BitVec 11) (f : ScalF)
  /-- SADD, R204: A scalar register receives the sum of two registers and an immediate. -/
  | sadd (stn : BitVec 11) (f : ScalF)
  /-- SSUB, R204: A scalar register receives a difference of two registers plus an immediate. -/
  | ssub (stn : BitVec 11) (f : ScalF)
  /-- SMUL, R204: A scalar register receives the low 64 bits of a product. -/
  | smul (stn : BitVec 11) (f : ScalF)
  /-- SLOGIC, R222: A scalar register receives a bitwise function selected by FN. -/
  | slogic (stn : BitVec 11) (f : ScalF)
  /-- SSHIFT, R222: A scalar register receives a shift selected by FN. -/
  | sshift (stn : BitVec 11) (f : ScalF)
  /-- SMINMAX, R222: A scalar register receives a signed or unsigned minimum or maximum. -/
  | sminmax (stn : BitVec 11) (f : ScalF)
  /-- SLD, R223: A scalar register is loaded from the local store or a survey address and marked DATA. -/
  | sld (stn : BitVec 11) (f : ScalF)
  /-- SST, R223: A scalar register is stored to the local store or a survey address. -/
  | sst (stn : BitVec 11) (f : ScalF)
  /-- SMFS, R224: A scalar register receives a station source selected by FN with DATA set. -/
  | smfs (stn : BitVec 11) (f : ScalF)
  /-- SMFP, R225: A scalar register receives a predicate mask, its population count or its lowest set bit. -/
  | smfp (stn : BitVec 11) (f : ScalF)
  /-- DLD, R226: A descriptor register is loaded from 64 bytes of memory without checking. -/
  | dld (stn : BitVec 11) (f : ScalF)
  /-- DST, R226: A descriptor register is stored to 64 bytes of memory. -/
  | dst (stn : BitVec 11) (f : ScalF)
  /-- DSET, R199: One descriptor field is set after a width check. -/
  | dset (stn : BitVec 11) (f : ScalF)
  /-- DADV, R226: A descriptor BASE is advanced by a stride times a count. -/
  | dadv (stn : BitVec 11) (f : ScalF)
  /-- DCOPY, R204: One descriptor register is copied to another. -/
  | dcopy (stn : BitVec 11) (f : ScalF)
  /-- DGET, R226: One descriptor field is read into a scalar register. -/
  | dget (stn : BitVec 11) (f : ScalF)
  /-- COPY, R228: A permuting copy is checked and queued, then read, permuted and written, staging when overlapping. -/
  | copy (stn : BitVec 11) (f : TensF)
  /-- CVLD, R228: A converting load permutes and converts a tensor into its destination, through a mask for plats. -/
  | cvld (stn : BitVec 11) (f : TensF)
  /-- TLD, R229: An accumulator tile is loaded from memory with its term count and TL. -/
  | tld (stn : BitVec 11) (f : TensF)
  /-- TST, R229: An accumulator tile is stored to memory and its term count returned in a scalar. -/
  | tst (stn : BitVec 11) (f : TensF)
  /-- TCLR, R230: An accumulator tile, its term count, TL and skip mask are cleared. -/
  | tclr (stn : BitVec 11) (f : TensF)
  /-- MPASS, R233: Dense passes multiply an activation block by a weight block into a tile. -/
  | mpass (stn : BitVec 11) (f : TensF)
  /-- MELEM, R235: An element-wise mode combines two operands exactly into a tile. -/
  | melem (stn : BitVec 11) (f : TensF)
  /-- CHIN, R236: A tile is declared to expect a number of chain inputs with one CHAIN_ID. -/
  | chin (stn : BitVec 11) (f : TensF)
  /-- CHOUT, R236: A tile is sent as a chain transfer to another station. -/
  | chout (stn : BitVec 11) (f : TensF)
  /-- VLD, R237: Vector lanes are loaded from the first row of a tensor and converted to FP32. -/
  | vld (stn : BitVec 11) (f : TensF)
  /-- VST, R237: Vector lanes are converted and written to the first row of a tensor. -/
  | vst (stn : BitVec 11) (f : TensF)
  /-- VARITH, R238: Vector lanes receive an FP32 add, subtract, multiply, minimum or maximum. -/
  | varith (stn : BitVec 11) (f : TensF)
  /-- VFMA, R238: Vector lanes receive an FP32 fused multiply-add. -/
  | vfma (stn : BitVec 11) (f : TensF)
  /-- VFUNC, R239: Vector lanes receive a correctly rounded FP32 function. -/
  | vfunc (stn : BitVec 11) (f : TensF)
  /-- VCMP, R240: A predicate receives lane comparisons. -/
  | vcmp (stn : BitVec 11) (f : TensF)
  /-- VSEL, R240: Vector lanes are selected from two registers by a predicate. -/
  | vsel (stn : BitVec 11) (f : TensF)
  /-- VRED, R241: Vector lanes are added exactly into a tile row. -/
  | vred (stn : BitVec 11) (f : TensF)
  /-- VCVT, R242: Vector lanes are converted according to KIND. -/
  | vcvt (stn : BitVec 11) (f : TensF)
  /-- VGATHER, R243: Vector lanes are loaded from a tensor at data-chosen indices. -/
  | vgather (stn : BitVec 11) (f : TensF)
  /-- SPMM, R144: A dense activation block is multiplied by a weight plat into a tile. -/
  | spmm (stn : BitVec 11) (f : TensF)
  /-- SPMM_T, R150: The transposed sparse product of the backward pass is computed into a tile. -/
  | spmmT (stn : BitVec 11) (f : TensF)
  /-- RECON, R245: An estimating pass writes a bitmap of output sub-tiles to skip. -/
  | recon (stn : BitVec 11) (f : TensF)
  /-- PRUNE, R154: A fixed-mode plat is written keeping the top k candidates of each group. -/
  | prune (stn : BitVec 11) (f : TensF)
  /-- REGROW, R155: A plat is written adding the highest-scoring positions to each group. -/
  | regrow (stn : BitVec 11) (f : TensF)
  /-- FENCE, R207: The station waits until all its earlier writes are visible. -/
  | fence (stn : BitVec 11) (f : SyncF)
  /-- BARRIER, R208: The station enters a group barrier and waits for every member. -/
  | barrier (stn : BitVec 11) (f : SyncF)
  /-- WAITMK, R247: The station waits for a meridian mark of a lockstep group. -/
  | waitmk (stn : BitVec 11) (f : SyncF)
  /-- WAITMK_MARK_REACHED, R270: The meridian reaches a planned instant and the waiting WAITMK completes, setting lateness. -/
  | waitmkMarkReached (stn : BitVec 11)
  /-- LOCKSTEP_MARK_COMPLETE, R274: The meridian reaches M of a lockstep mark and every member completes its WAITMK. -/
  | lockstepMarkComplete (p : BitVec 2) (group : BitVec 16)
  /-- SIGNAL, R208: The station sends an increment to a signal counter of a logical station. -/
  | signal (stn : BitVec 11) (f : SyncF)
  /-- SIGNAL_DELIVERY, R208: A signal increment arrives at its target station counter, saturating if needed. -/
  | signalDelivery (source : BitVec 16) (target : BitVec 11) (counter : BitVec 4)
  /-- WAITSIG, R208: The station waits until a signal counter reaches a count, then subtracts it. -/
  | waitsig (stn : BitVec 11) (f : SyncF)
  /-- COLL, R248: A planned collective is started and bound to a handle. -/
  | coll (stn : BitVec 11) (f : TensF)
  /-- COLLWAIT, R248: The station waits for the collective of a handle and frees the handle. -/
  | collwait (stn : BitVec 11) (f : SyncF)
  /-- LASUM, R249: Element (0,0) of a tile is summed exactly across all participants of a plan. -/
  | lasum (stn : BitVec 11) (f : TensF)
  /-- RNGSET, R250: The random seed, a stream number or an index base is written. -/
  | rngset (stn : BitVec 11) (f : ScalF)
  /-- RAND, R251: A distribution is drawn into a destination tensor. -/
  | rand (stn : BitVec 11) (f : TensF)
  /-- SAMPLE, R252: Candidate lists are formed or merged by Gumbel-max categorical sampling. -/
  | sample (stn : BitVec 11) (f : TensF)
  /-- QUANT, R253: A tile or FP32 tensor is quantised with scale choice and statistics. -/
  | quant (stn : BitVec 11) (f : TensF)
  /-- DIGEST, R255: Witness terms of a tensor are added to a witness piece. -/
  | digest (stn : BitVec 11) (f : TensF)
  /-- ENGINE_QUEUE_DISPATCH, R205: An engine takes the next instruction from its queue and executes it once room and inputs allow. -/
  | engineQueueDispatch (stn : BitVec 11) (eng : BitVec 3)
  /-- CHAIN_TRANSFER_ARRIVAL, R101: A chain transfer arrives at a station and waits in, or is added from, the chain-in buffer. -/
  | chainTransferArrival (dest : BitVec 11)
  /-- TQ_DOORBELL, R530: The host writes a traverse queue tail, which is accepted or discarded. -/
  | tqDoorbell (req : Req) (p : BitVec 2) (q : BitVec 1) (tail : BitVec 16)
  /-- SUBMIT, R532: A traverse submission is taken when the parcel is IDLE and loading begins. -/
  | submit (p : BitVec 2)
  /-- ABANDON, R532: The parcel's traverse and collective contexts are ended. -/
  | abandon (p : BitVec 2)
  /-- RESUME, R532: Faulted stations re-issue from STN_PC and held stations continue. -/
  | resume (p : BitVec 2)
  /-- RESUME_BARRIER, R454: Faulted stations repeat their legs from the last barrier record. -/
  | resumeBarrier (p : BitVec 2)
  /-- AU_RELEASE, R532: Named held AUs leave HELD, optionally skipping the held entry. -/
  | auRelease (p : BitVec 2)
  /-- TRAVERSE_LOADING_END, R263: Loading checks finish and the traverse is armed or refused. -/
  | traverseLoadingEnd (p : BitVec 2)
  /-- TRAVERSE_START, R266: At ORIGIN every station with a program begins leg 0 of period 0. -/
  | traverseStart (p : BitVec 2)
  /-- STN_HALT_WRITE, R218: A write of STN_CTL.HALT halts or resumes a station at an instruction boundary. -/
  | stnHaltWrite (stn : BitVec 11) (halt : Bool)
  /-- STN_STEP, R216: A halted station issues one instruction, waits for it and returns to HALTED. -/
  | stnStep (stn : BitVec 11)
  /-- STN_STATE_REG_WRITE, R217: A BAR0 write to an S, P, SG, D register or STN_SDATA takes effect only while HALTED. -/
  | stnStateRegWrite (stn : BitVec 11) (off : BitVec 12) (v : BitVec 64)
  /-- STN_RNG_REG_WRITE, R189: A BAR0 write to the seed or a random slot takes effect only while halted. -/
  | stnRngRegWrite (stn : BitVec 11) (off : BitVec 12) (v : BitVec 64)
  /-- RC_REGISTER_READ, R15: A read of an RC field returns its value and returns it to its reset value. -/
  | rcRegisterRead (x : RegAcc)
  /-- REGISTER_WRITE, R14: A BAR0 write to a register without behaviour of its own is applied under its access codes. -/
  | registerWrite (x : RegAcc) (y : Option RegAcc)
  /-- PARCEL_CFG_WRITE, R39: A write of SPLIT is discarded when an affected parcel is busy, or starts tenant clearing. -/
  | parcelCfgWrite (q : Req) (split : BitVec 3)
  /-- PARCEL_CLEARING_END, R40: Tenant clearing of affected parcels ends, COUNT changes and new parcels accept work. -/
  | parcelClearingEnd
  /-- MODULE_NUM_WRITE, R35: A write of GLB_MODULE_NUM assigns or clears the module number, retraining ports. -/
  | moduleNumWrite (q : Req) (v : BitVec 64)
  /-- MEM_TRK_CFG_WRITE, R320: A tracker configuration write is applied only while no traverse is loaded. -/
  | memTrkCfgWrite (fd : BitVec 4) (v : BitVec 64)
  /-- POISON_LOG_POP, R306: A write of POP removes the head poison log entry. -/
  | poisonLogPop (fd : BitVec 4)
  /-- PWR_DIST_POP, R476: A write of POP removes the head disturbance record. -/
  | pwrDistPop
  /-- ENERGY_SNAP, R493: Every energy meter and the meridian are latched from one sample. -/
  | energySnap
  /-- POWER_CAP_WRITE, R483: A cap register write changes the effective cap. -/
  | powerCapWrite (cap : BitVec 3) (watts : BitVec 16)
  /-- VOLTAGE_REQUEST_WRITE, R482: A write of PWR_VREQp changes the target voltages of the parcel's FDs. -/
  | voltageRequestWrite (p : BitVec 2) (mv : BitVec 10)
  /-- MER_SET_WRITE, R498: A MER_SET write steps the meridian when stepping is allowed, else is discarded. -/
  | merSetWrite (v : BitVec 64)
  /-- MER_CTL_WRITE, R496: A MER_CTL write selects the meridian reference, discarding invalid LINK selections. -/
  | merCtlWrite (v : BitVec 64)
  /-- RESET_COLD, R507: A write of GLB_RESET.COLD starts a cold reset. -/
  | resetCold (req : Req)
  /-- RESET_WARM, R507: A write of GLB_RESET.WARM resets every die except the PKC and RoT. -/
  | resetWarm (req : Req)
  /-- RESET_PARCEL, R509: A write of a PARCEL bit ends the parcel's activity and resets it. -/
  | resetParcel (req : Req) (mask : BitVec 4)
  /-- PARCEL_RESET_COMPLETE, R520: A parcel reset, re-forming tier-2 if pending, completes. -/
  | parcelResetComplete (p : BitVec 2)
  /-- STATION_RESET, R512: Named logical stations return to reset state when their parcel is IDLE. -/
  | stationReset (fd : BitVec 4) (m : BitVec 1) (mask : BitVec 64)
  /-- LP_PARK, R517: A PARK bit parks or unparks an FD. -/
  | lpPark (fd : BitVec 4) (on : Bool)
  /-- LP_STANDBY, R517: STANDBY enters or leaves module standby. -/
  | lpStandby (on : Bool)
  /-- LINK_L1_ENTRY, R517: A torus port idle for L1_IDLE_US enters L1. -/
  | linkL1Entry (k : BitVec 4)
  /-- LINK_L1_WAKE, R517: A waiting flit wakes a port from L1. -/
  | linkL1Wake (k : BitVec 4)
  /-- RB_SELECT, R522: A write of STN_RB_SEL copies 256 bytes of a readback object into the window. -/
  | rbSelect (req : Req) (fd : BitVec 4) (phys : BitVec 8) (v : BitVec 64)
  /-- EVQ_HEAD_WRITE, R536: The host reports consumed event records, freeing ring space and allowing signals. -/
  | evqHeadWrite (req : Req) (f : BitVec 3) (r : BitVec 2) (hd : BitVec 16)
  /-- EVQ_CFG_WRITE, R536: An event ring configuration write, discarded when ENABLE names a vector beyond the table. -/
  | evqCfgWrite (req : Req) (f : BitVec 3) (r : BitVec 2) (v : BitVec 64)
  /-- MSIX_HOLDOFF_EXPIRY, R536: HOLDOFF_US passes and a ring may signal its vector again. -/
  | msixHoldoffExpiry (f : BitVec 3) (r : BitVec 2)
  /-- BAR2_ACCESS, R528: A host BAR2 access reaches a survey address after the checks of R290. -/
  | bar2Access (req : Req) (off : BitVec 40) (len : BitVec 13) (data : List Byte)
  /-- PERST_N_CHANGE, R507: PERST_N is asserted or released, resetting the host link. -/
  | perstNChange (active : Bool) (held : Bool)
  /-- HOST_LINK_DOWN, R510: The PCIe link leaves L0 for Detect and a host-link reset begins. -/
  | hostLinkDown
  /-- HOST_LINK_RESTORED, R510: The link returns to L0 with bus mastering and held events are delivered. -/
  | hostLinkRestored
  /-- FLR_PF, R511: An FLR resets the physical function's interface state. -/
  | flrPf
  /-- FLR_VF, R511: An FLR resets a virtual function and ends its parcel's activity. -/
  | flrVf (p : BitVec 2)
  /-- COLD_RESET, R518: Power is applied and start-up begins. -/
  | coldReset
  /-- START_UP_COMPLETE, R518: Tier-2 is trained and zeroed and READY becomes 1. -/
  | startUpComplete (rotOk : Bool) (good : BitVec 4) (fails : List (BitVec 4 × BitVec 8))
  /-- ENTRY_LOSS, R472: A 48 V entry is lost and the other takes the load under an automatic cap, or a dropout begins. -/
  | entryLoss (entry : BitVec 2) (cause : BitVec 2)
  /-- ENTRY_RESTORE, R473: An entry within range for 100 ms returns to full service. -/
  | entryRestore (entry : BitVec 1)
  /-- RIDE_THROUGH_END, R477: An entry above 40 V for 100 us ends a dropout and operation continues. -/
  | rideThroughEnd (entry : BitVec 1)
  /-- GO_DOWN, R478: After 2 ms or at the reserve the module stops, powers off and writes the last gasp. -/
  | goDown (cause : BitVec 2)
  /-- SUPPLY_SAMPLE, R474: Each entry is sampled and disturbances classified and recorded. -/
  | supplySample (va : BitVec 18) (vb : BitVec 18) (ia : BitVec 16) (ib : BitVec 16) (inUj : BitVec 32) (dieUj : List (BitVec 32)) (charge : BitVec 8)
  /-- CAP_CONTROL_LOOP, R486: Every 10 us the PKC trims FD voltages to meet the cap. -/
  | capControlLoop (watts : BitVec 16) (other : BitVec 16) (model : List (List (BitVec 16))) (fds : List (BitVec 10 × BitVec 10 × BitVec 10))
  /-- FD_THERMAL_SAMPLE, R488: An FD junction is read and its thermal level applied. -/
  | fdThermalSample (fd : BitVec 4) (temp : BitVec 8)
  /-- STACK_THERMAL_SAMPLE, R321: A tier-1 stack sensor is read and its level applied. -/
  | stackThermalSample (fd : BitVec 4) (temp : BitVec 8)
  /-- EDGE_DIE_THERMAL_SAMPLE, R489: An LD or IG junction is read, halving rates or bringing the module down. -/
  | edgeDieThermalSample (die : BitVec 2) (temp : BitVec 8)
  /-- THERM_ALERT_N_CHANGE, R490: THERM_ALERT_N is asserted or released and FDs go to or leave their floors. -/
  | thermAlertNChange (active : Bool) (held : Bool)
  /-- HALT_N_CHANGE, R546: HALT_N is asserted or released and every station halts or resumes. -/
  | haltNChange (active : Bool) (held : Bool)
  /-- PWR_CAP_N_CHANGE, R483: PWR_CAP_N is asserted or released and the pin cap applies or ends. -/
  | pwrCapNChange (active : Bool) (held : Bool)
  /-- MER_PPS_EDGE, R496: An accepted PPS edge marks a reference meridian value. -/
  | merPpsEdge
  /-- SIDEBAND_HELD_10S, R546: A sideband input held active for 10 s sets STUCK. -/
  | sidebandHeld10s (i : BitVec 3)
  /-- MERIDIAN_STAMP_EXCHANGE, R497: A port exchanges meridian stamps with its partner and the servo disciplines the meridian. -/
  | meridianStampExchange (k : BitVec 4) (t1 : BitVec 64) (t2 : BitVec 64) (t3 : BitVec 64) (t4 : BitVec 64)
  /-- MER_REFERENCE_LOSS, R499: The active reference is lost and the meridian enters HOLDOVER. -/
  | merReferenceLoss
  /-- MER_REFERENCE_RETURN, R499: The reference returns and the meridian enters ACQUIRING. -/
  | merReferenceReturn
  /-- RESYNC_ROUND, R503: An unsynchronised port runs a resynchronisation exchange and may enter UP_SYNC. -/
  | resyncRound (k : BitVec 4) (t1 : BitVec 64) (t2 : BitVec 64) (t3 : BitVec 64) (t4 : BitVec 64)
  /-- PTP_SYNC, R500: A PTP Sync message is timestamped for the servo. -/
  | ptpSync (mac : BitVec 48) (domain : BitVec 8) (seq : BitVec 16)
  /-- PTP_FOLLOW_UP, R500: A PTP Follow_Up message gives the precise origin time. -/
  | ptpFollowUp (seq : BitVec 16) (sec : BitVec 48) (ns : BitVec 32)
  /-- PTP_DELAY_RESP, R500: A PTP Delay_Resp completes a delay measurement. -/
  | ptpDelayResp (seq : BitVec 16) (sec : BitVec 48) (ns : BitVec 32)
  /-- LINK_TRAINING_COMPLETE, R332: Lane training, lock and deskew complete and the port sends HELLO. -/
  | linkTrainingComplete (k : BitVec 4) (lanes : BitVec 4)
  /-- HELLO, R333: A HELLO is received and the neighbour check brings the port up or marks it miswired. -/
  | hello (k : BitVec 4) (module : BitVec 18) (port : BitVec 4) (version : BitVec 8) (credits : BitVec 128) (t1 : BitVec 64) (t2 : BitVec 64) (t3 : BitVec 64) (t4 : BitVec 64)
  /-- PORT_NO_LANE_RETRY, R332: A port left with no lane returns to TRAIN after 1 s. -/
  | portNoLaneRetry (k : BitVec 4)
  /-- PORT_ENABLE, R333: LNK_CFG.ENABLE written from 0 to 1 restarts port bring-up. -/
  | portEnable (k : BitVec 4) (en : Bool)
  /-- FLIT_RECEIVE, R337: A torus flit is checked and accepted in order or discarded with a NAK. -/
  | flitReceive (k : BitVec 4) (f : List (BitVec 8))
  /-- NAK_RECEIVE, R337: A NAK makes the sender replay from its SEQ, retraining after eight failures. -/
  | nakReceive (k : BitVec 4) (seq ack credit : BitVec 16)
  /-- REPLAY_TIMEOUT, R337: No ACK advances for 2 us and the sender replays. -/
  | replayTimeout (k : BitVec 4)
  /-- PORT_RETRAIN_END, R337: A retrain ends, resuming the port or taking it down and rerouting. -/
  | portRetrainEnd (k : BitVec 4) (ok : Bool)
  /-- LANE_RETIRE, R330: A lane exceeding UNCORR_MAX or losing block lock is removed from the deal. -/
  | laneRetire (k : BitVec 4) (lane : BitVec 2) (uncorr : BitVec 32) (lockLost : Bool)
  /-- LANE_REJOIN_REQUEST, R331: A REJOIN write starts a PRBS test of a retired lane. -/
  | laneRejoinRequest (k : BitVec 4) (mask : BitVec 4)
  /-- LANE_REJOIN_TEST_END, R331: The lane test ends and the lane rejoins the deal or stays retired. -/
  | laneRejoinTestEnd (k : BitVec 4) (lane : BitVec 2) (ok : Bool)
  /-- UPLINK_DOWN, R329: An uplink lane fails and the uplink's traffic moves to other planes. -/
  | uplinkDown (plane : BitVec 2)
  /-- UPLINK_FRAME_RECEIVE, R348: An uplink frame is filtered and accepted in E2E order or discarded. -/
  | uplinkFrameReceive (plane : BitVec 2) (f : List (BitVec 8))
  /-- E2E_NAK_RECEIVE, R346: An end-to-end NAK makes the sender retransmit from its sequence. -/
  | e2eNakReceive (plane : BitVec 2) (peer : BitVec 18) (vc : BitVec 3) (seq : BitVec 32)
  /-- E2E_RTO_EXPIRY, R346: RTO passes without progress and the sender retransmits. -/
  | e2eRtoExpiry (plane : BitVec 2) (peer : BitVec 18) (vc : BitVec 3)
  /-- E2E_CONTEXT_CLOSE, R346: A context idle for 10 ms with everything acknowledged closes. -/
  | e2eContextClose (plane : BitVec 2) (peer : BitVec 18) (vc : BitVec 3)
  /-- PFC_FRAME_RECEIVE, R347: A PFC frame pauses the named VCs on that uplink. -/
  | pfcFrameReceive (plane : BitVec 2) (enable : BitVec 8) (quanta : BitVec 128)
  /-- PAUSE_FRAME_RECEIVE, R347: An 802.3x PAUSE frame is discarded and counted. -/
  | pauseFrameReceive (plane : BitVec 2)
  /-- COLL_SEND, R352: A route step sends a value or range once its inputs are ready. -/
  | collSend (p : BitVec 2) (plan : BitVec 16) (step : BitVec 32)
  /-- COLL_RECV_ADD, R355: A received tree value is checked and added to form a node. -/
  | collRecvAdd (p : BitVec 2) (plan : BitVec 16) (step : BitVec 32) (module : BitVec 18) (level : BitVec 8) (node : BitVec 32) (vals : List (BitVec 256))
      (stream : List (BitVec 8)) (poison : List Bool) (terms : BitVec 32)
  /-- COLL_RECV_COPY, R352: A received range is copied into its destination. -/
  | collRecvCopy (p : BitVec 2) (plan : BitVec 16) (step : BitVec 32) (module : BitVec 18) (vals : List (BitVec 256))
      (stream : List (BitVec 8)) (poison : List Bool) (terms : BitVec 32)
  /-- COLL_DELIVER, R356: Result values are delivered to the member's destination. -/
  | collDeliver (p : BitVec 2) (plan : BitVec 16) (step : BitVec 32)
  /-- READY_MESSAGE, R366: A READY message carries a module's readiness time for a spanning lockstep group. -/
  | readyMessage (p : BitVec 2) (group : BitVec 16) (mark : BitVec 32) (module : BitVec 18) (time : BitVec 64)
  /-- MEM_READ_REQUEST, R317: A read reaches its home and is served, granting read-shared lines through the directory. -/
  | memReadRequest (fd : BitVec 4) (addr : BitVec 64) (errs : List (BitVec 8))
  /-- MEM_WRITE_REQUEST, R311: A write reaches its home, locks the line and snoops sharers or is applied. -/
  | memWriteRequest (fd : BitVec 5) (addr : BitVec 64) (data errs : List (BitVec 8))
  /-- SNOOP_RECEIVE, R313: A sharer answers a snoop and invalidates or drops its copy. -/
  | snoopReceive (fd : BitVec 4) (addr : BitVec 64)
  /-- SNOOP_ANSWER_RECEIVE, R311: The home counts a snoop answer and, on the last, applies the write. -/
  | snoopAnswerReceive (fd : BitVec 4) (addr : BitVec 64)
  /-- SHARER_EVICTION, R312: A sharer evicts a line, enters evict-pending and sends a notice. -/
  | sharerEviction (fd : BitVec 4) (addr : BitVec 64)
  /-- EVICTION_NOTICE_RECEIVE, R312: The home clears the sharer bit or discards a stale notice, and acknowledges. -/
  | evictionNoticeReceive (fd : BitVec 4) (addr : BitVec 64)
  /-- EVICTION_ACK_RECEIVE, R312: The sharer leaves evict-pending. -/
  | evictionAckReceive (fd : BitVec 4) (addr : BitVec 64)
  /-- READ_GRANT_RECEIVE, R313: A read grant is installed or delivered use-once. -/
  | readGrantReceive (fd : BitVec 4) (addr : BitVec 64)
  /-- ATOMIC_OPERATION, R315: A write into the atomic window applies its operation at the slice. -/
  | atomicOperation (fd : BitVec 4) (op : BitVec 4) (off : BitVec 32) (data : List (BitVec 8)) (stn : Option (BitVec 11))
  /-- REMOTE_REQUEST_RECEIVE, R291: A request from another module is checked for domain and address and served or refused. -/
  | remoteRequestReceive (module : BitVec 18) (tag : BitVec 32) (addr : BitVec 64) (len : BitVec 16) (data : List (BitVec 8))
      (sld stn poison : Bool)
  /-- DOMAIN_DENIAL_RECEIVE, R291: A domain denial returns to the requester. -/
  | domainDenialReceive (addr : BitVec 64)
  /-- ADDRESS_REFUSAL_RECEIVE, R290: A remote address refusal returns and the station faults late. -/
  | addressRefusalReceive (addr : BitVec 64)
  /-- DRAM_INTERFACE_ERROR, R300: A controller repeats a failed command and retires the channel after the fourth failure. -/
  | dramInterfaceError (fd : BitVec 4) (tier2 : Bool) (ch : BitVec 6) (ok : Bool)
  /-- SCRUB_STEP, R304: The scrubber reads and corrects or poisons one codeword. -/
  | scrubStep (fd : BitVec 4) (tier : BitVec 2) (errs : List (BitVec 8))
  /-- EDGE_FLIT_RECEIVE, R319: A die-edge flit is checked and acknowledged or resent. -/
  | edgeFlitReceive (fd : BitVec 4) (edge : BitVec 2) (seq : BitVec 16) (cls : BitVec 2) (crcOk : Bool)
  /-- MESH_ROUTER_FAULT, R25: An FD's mesh router stops. -/
  | meshRouterFault (fd : BitVec 4)
  /-- AU_COMMAND_TAKE, R377: The AU takes the next ring entry and checks it. -/
  | auCommandTake (fd : BitVec 4)
  /-- ADAMW, R386: The AU applies AdamW to each block and commits it through the journal. -/
  | adamw (fd : BitVec 4) (n : BitVec 32)
  /-- SGDM, R386: The AU applies SGD with momentum to each block. -/
  | sgdm (fd : BitVec 4) (n : BitVec 32)
  /-- NORMSQ, R389: The AU adds the exact squares of gradient elements into an LA192 sum. -/
  | normsq (fd : BitVec 4)
  /-- MASKSYNC, R391: The AU commits a step zeroing parameters outside a new mask. -/
  | masksync (fd : BitVec 4) (n : BitVec 32)
  /-- REFRESH, R384: The AU rewrites working copies of pending blocks. -/
  | refresh (fd : BitVec 4) (n : BitVec 32)
  /-- ROLLBACK, R385: The AU returns blocks of a step to their previous slot. -/
  | rollback (fd : BitVec 4) (n : BitVec 32)
  /-- SNAPCOPY, R395: The AU appends a region to its snapshot area. -/
  | snapcopy (fd : BitVec 4)
  /-- SNAPEND, R395: The AU closes its snapshot for the armed step. -/
  | snapend (fd : BitVec 4)
  /-- SNAP_ARM, R395: A write of ARM arms a parcel snapshot for a step. -/
  | snapArm (p : BitVec 2) (step : BitVec 32)
  /-- SNAPSHOT_SHIP_DONE, R396: Every FD's snapshot area has been shipped and STATE becomes DONE. -/
  | snapshotShipDone (p : BitVec 2)
  /-- SHADOW_MESSAGE_RECEIVE, R458: A peer lands a shadow block and acknowledges a complete stripe. -/
  | shadowMessageReceive (fd : BitVec 4) (owner : BitVec 18) (mode : BitVec 2) (step : BitVec 64) (q : BitVec 32) (blocks : BitVec 32) (slot : List Byte)
  /-- SHADOW_ACK_RECEIVE, R459: An owner counts a peer acknowledgement and completes the shadow step on the eighth. -/
  | shadowAckReceive (fd : BitVec 4) (k : BitVec 3) (step : BitVec 32)
  /-- SHD_PULL_START, R463: A spare FD queries its peers for the newest complete shadow generation. -/
  | shdPullStart (fd : BitVec 4) (owner : BitVec 18) (step : BitVec 32)
  /-- PULL_REQUEST_RECEIVE, R464: A peer answers a pull and sends its stripe. -/
  | pullRequestReceive (fd : BitVec 4) (module : BitVec 18) (owner : BitVec 18) (stripe : BitVec 3) (step : Option (BitVec 64))
  /-- PULL_RESPONSE_RECEIVE, R463: A peer's newest step is received and the resume step formed. -/
  | pullResponseReceive (fd : BitVec 4) (stripe : BitVec 3) (step : Option (BitVec 64))
  /-- PULL_STRIPE_RECEIVE, R464: Shadow blocks are written to slot 0 and, at the end, the journal marked pending. -/
  | pullStripeReceive (fd : BitVec 4) (stripe : BitVec 3) (ok : Bool) (mode : BitVec 2) (data : List Byte)
  /-- PEER_DISCARD, R462: Held requests to a lost module are dropped and its collective contexts freed. -/
  | peerDiscard (p : BitVec 2) (module : BitVec 18)
  /-- STATION_ERROR, R443: A station check fails and the station is restaked or the traverse stops. -/
  | stationError (fd : BitVec 4) (phys : BitVec 8) (closing : Bool)
  /-- WATCHDOG_TIMEOUT, R443: No handshake completes for 100 us and a station error is found. -/
  | watchdogTimeout (fd : BitVec 4) (phys : BitVec 8)
  /-- SPARE_SELF_TEST, R443: An idle spare runs its self-test and fails or passes. -/
  | spareSelfTest (fd : BitVec 4) (phys : BitVec 8) (ok : Bool)
  /-- FD_RETIRE, R451: After the parcel's stations reach a barrier, an FD without spares is retired. -/
  | fdRetire (fd : BitVec 4)
  /-- RETURN_START, R455: A failed station begins its isolated self-test. -/
  | returnStart (fd : BitVec 4) (phys : BitVec 8)
  /-- RETURN_TEST_DONE, R455: The self-test ends and the station shadows or stays failed. -/
  | returnTestDone (fd : BitVec 4) (ok : Bool)
  /-- INGEST_START, R420: START checks the job descriptor and sets RUNNING or HELD. -/
  | ingestStart (q : BitVec 2)
  /-- INGEST_STOP, R420: STOP ends the job at the next step boundary. -/
  | ingestStop (q : BitVec 2)
  /-- INGEST_STEP_BEGIN, R419: Once credit allows, a step's samples are read, decoded and tokenised. -/
  | ingestStepBegin (q : BitVec 2)
  /-- INGEST_STEP_COMPLETE, R419: A step buffer becomes visible and its signal is sent. -/
  | ingestStepComplete (q : BitVec 2)
  /-- NVME_READ_COMPLETE, R439: An NVMe read completes, retrying or marking a gap on error. -/
  | nvmeReadComplete (q : BitVec 2) (b : BitVec 12) (ok : Bool) (len : BitVec 32) (data : List Byte)
  /-- NVME_CONTROLLER_LOST, R439: A controller fails or its link goes down and its jobs hold. -/
  | nvmeControllerLost (ctrl : BitVec 4)
  /-- NONCE_REQ, R571: The RoT places a fresh nonce in SEC_NONCE. -/
  | nonceReq
  /-- NONCE_EXPIRY, R571: A nonce unused for 10 minutes becomes invalid. -/
  | nonceExpiry
  /-- TOKEN_SUBMIT, R574: An unlock token is checked and its scopes granted or rejected. -/
  | tokenSubmit
  /-- TOKEN_LOCKOUT_END, R575: The 60 s refusal after 16 failures ends. -/
  | tokenLockoutEnd
  /-- DECOMMISSION, R560: An accepted DECOMMISSION token zeroes memory, zeroises and blows the state fuse. -/
  | decommission
  /-- GRANT_EXPIRY, R576: A grant's duration runs out on the RoT oscillator. -/
  | grantExpiry (sec : BitVec 32)
  /-- RELOCK, R576: A write of RELOCK ends every grant. -/
  | relock
  /-- SVN_COMMIT, R564: Fused SVNs are raised to the running images' SVNs. -/
  | svnCommit
  /-- TO_FIELD, R559: In OWNED, the transition to FIELD is requested for the next cold reset. -/
  | toField
  /-- SEC_LOCK_WRITE, R578: A write of 1 to SEC_LOCK freezes every RWL field. -/
  | secLockWrite (lock : Bool)
  /-- TENANT_CLEAR, R568: A SEC_TENANT_CLEAR write starts tenant clearing of an IDLE parcel. -/
  | tenantClear (mask : BitVec 4) (wipe : Bool)
  /-- TENANT_CLEAR_DONE, R568: Tenant clearing ends and held doorbells are released. -/
  | tenantClearDone (p : BitVec 2)
  /-- ROT_SELFTEST_FAILURE, R556: An in-service RoT test fails, grants end and the RoT enters its error state. -/
  | rotSelftestFailure
  /-- TAP_INSTRUCTION_SELECT, R570: A test-port instruction is selected, holding cold reset for EXTEST. -/
  | tapInstructionSelect (i : TapInst)
  /-- SMBUS_TIMEOUT, R540: SMBus clock low for 35 ms resets the target and discards the message. -/
  | smbusTimeout
  /-- SET_ENDPOINT_ID, R541: MCTP control command setting the endpoint ID. -/
  | setEndpointId (eid : BitVec 8)
  /-- GET_ENDPOINT_ID, R541: MCTP control command returning the endpoint ID. -/
  | getEndpointId
  /-- GET_ENDPOINT_UUID, R541: MCTP control command returning the endpoint UUID. -/
  | getEndpointUuid
  /-- GET_MCTP_VERSION_SUPPORT, R541: MCTP control command returning supported versions. -/
  | getMctpVersionSupport (typ : BitVec 8)
  /-- GET_MESSAGE_TYPE_SUPPORT, R541: MCTP control command returning message types. -/
  | getMessageTypeSupport
  /-- GET_VENDOR_DEFINED_MESSAGE_SUPPORT, R541: MCTP control command returning vendor message support. -/
  | getVendorDefinedMessageSupport
  /-- SETTID, R542: PLDM command setting the terminus ID. -/
  | settid (tid : BitVec 8)
  /-- GETTID, R542: PLDM command returning the terminus ID. -/
  | gettid
  /-- GETPLDMVERSION, R542: PLDM command returning a type's version. -/
  | getpldmversion (typ : BitVec 8)
  /-- GETPLDMTYPES, R542: PLDM command returning supported types. -/
  | getpldmtypes
  /-- GETPLDMCOMMANDS, R542: PLDM command returning supported commands. -/
  | getpldmcommands (typ : BitVec 8)
  /-- GETPDRREPOSITORYINFO, R542: PLDM command returning PDR repository information. -/
  | getpdrrepositoryinfo
  /-- GETPDR, R542: PLDM command returning a PDR. -/
  | getpdr (handle : BitVec 32)
  /-- GETSENSORREADING, R542: PLDM command returning a numeric sensor reading. -/
  | getsensorreading (id : BitVec 16)
  /-- GETSTATESENSORREADINGS, R542: PLDM command returning state sensor readings. -/
  | getstatesensorreadings
  /-- SETNUMERICEFFECTERVALUE, R542: PLDM command setting PWR_CAP_MGT. -/
  | setnumericeffectervalue (id : BitVec 16) (v : BitVec 16)
  /-- GETNUMERICEFFECTERVALUE, R542: PLDM command returning PWR_CAP_MGT. -/
  | getnumericeffectervalue (id : BitVec 16)
  /-- SETEVENTRECEIVER, R542: PLDM command naming the event receiver. -/
  | seteventreceiver (mode : BitVec 2) (eid : BitVec 8)
  /-- POLLFORPLATFORMEVENTMESSAGE, R542: PLDM command returning a pending event. -/
  | pollforplatformeventmessage
  /-- EVENTMESSAGEBUFFERSIZE, R542: PLDM command negotiating the event buffer size. -/
  | eventmessagebuffersize (n : BitVec 16)
  /-- QUERYDEVICEIDENTIFIERS, R542: PLDM firmware command returning device identifiers. -/
  | querydeviceidentifiers
  /-- GETFIRMWAREPARAMETERS, R542: PLDM firmware command returning active and pending versions. -/
  | getfirmwareparameters
  /-- REQUESTUPDATE, R542: PLDM firmware command entering update mode. -/
  | requestupdate
  /-- PASSCOMPONENTTABLE, R542: PLDM firmware command passing the component table. -/
  | passcomponenttable (comp : BitVec 16) (last : Bool)
  /-- UPDATECOMPONENT, R542: PLDM firmware command starting transfer of a component image. -/
  | updatecomponent (comp : BitVec 16)
  /-- TRANSFERCOMPLETE, R542: The module reports the image transfer complete. -/
  | transfercomplete (result : BitVec 8) (image : List Byte)
  /-- VERIFYCOMPLETE, R562: The RoT verifies the image and the module reports the result. -/
  | verifycomplete
  /-- APPLYCOMPLETE, R542: The module reports the image applied to its slot. -/
  | applycomplete (result : BitVec 8)
  /-- ACTIVATEFIRMWARE, R543: The new PKC or ingest image is activated, rolling back if it fails. -/
  | activatefirmware (starts : BitVec 2)
  /-- GETSTATUS, R542: PLDM firmware command returning update status. -/
  | getstatus
  /-- CANCELUPDATECOMPONENT, R542: PLDM firmware command cancelling a component update. -/
  | cancelupdatecomponent
  /-- CANCELUPDATE, R542: PLDM firmware command leaving update mode. -/
  | cancelupdate
  /-- MGT_REG_READ, R544: A vendor message reads a BAR0 register with PF access. -/
  | mgtRegRead (a : BitVec 32)
  /-- MGT_REG_WRITE, R544: A vendor message writes a BAR0 register, denied for traverse queue registers. -/
  | mgtRegWrite (a : BitVec 32) (v : BitVec 64)
  /-- GET_VERSION, R544: SPDM request returning supported versions. -/
  | getVersion
  /-- GET_CAPABILITIES, R544: SPDM request returning capabilities. -/
  | getCapabilities
  /-- NEGOTIATE_ALGORITHMS, R544: SPDM request selecting P-384 and SHA-384. -/
  | negotiateAlgorithms
  /-- GET_DIGESTS, R565: SPDM request returning certificate chain digests. -/
  | getDigests
  /-- GET_CERTIFICATE, R565: SPDM request returning a certificate chain. -/
  | getCertificate (slot : BitVec 1) (off : BitVec 16) (len : BitVec 16)
  /-- CHALLENGE, R565: SPDM request answered with an alias-key signature. -/
  | challenge (slot : BitVec 1) (nonce : List Byte)
  /-- GET_MEASUREMENTS, R565: SPDM request returning signed measurement blocks. -/
  | getMeasurements (idx : BitVec 8) (nonce : List Byte)
  /-- I2C_BUS_CLEAR, R545: After a controller reset mid-transfer, the PKC clocks a stuck segment free. -/
  | i2cBusClear
  /-- I2C_SEGMENT_ISOLATE, R545: A data line still low after 35 ms isolates its segment. -/
  | i2cSegmentIsolate (seg : BitVec 2)
  /-- I2C_RESTORE, R545: A RESTORE bit clears and reconnects a segment. -/
  | i2cRestore (mask : BitVec 4) (free : BitVec 4)
  /-- NFC_GO, R549: A wired tag access reads or writes the tag under a session lock. -/
  | nfcGo (v : BitVec 64) (ok : Bool)
  /-- NFC_SESSION_EXPIRY, R548: The session lock ends after 50 ms. -/
  | nfcSessionExpiry
  /-- RF_REQUEST, R548: An RF reader command is served or refused by the tag. -/
  | rfRequest (block : BitVec 16) (count : BitVec 12) (write : Bool) (data : List Byte) (field : Bool)
  /-- UPLINK_UP, R329: An uplink completes its 800GBASE-R training and lock on all four lanes and carries traffic on its plane again. -/
  | uplinkUp (plane : BitVec 2)
  /-- PFC_PAUSE_EXPIRY, R347: The quanta of a received PFC pause run out and the paused VC may transmit again on that uplink. -/
  | pfcPauseExpiry (plane : BitVec 2) (vc : BitVec 3)
  /-- TOKEN_VERIFICATION_DONE, R574: The RoT finishes verifying a submitted token, records TOKEN_RESULT and grants or rejects its scopes. -/
  | tokenVerificationDone
  /-- WARM_RESET_END, R507: The warm reset finishes after at most 50 ms and the dies resume, with ports retraining. -/
  | warmResetEnd
  /-- PACE_WINDOW_END, R44: A meridian microsecond window closes and STN_PACE.PACE and PACE_MIN are updated from the handshakes counted. -/
  | paceWindowEnd (fd : BitVec 4) (phys : BitVec 8) (handshakes : BitVec 16) (whole : Bool)
  /-- REPAIR_RECORD_METER_WRITE, R515: The PKC writes the energy meters into the repair record, at least once per second. -/
  | repairRecordMeterWrite
  /-- ATS_INVALIDATE_REQUEST, R525: The host sends an ATS invalidation request and the function's translation cache entries are invalidated. -/
  | atsInvalidateRequest (fn : BitVec 3) (page : BitVec 52) (count : BitVec 52)
  /-- SRIOV_VF_ENABLE, R529: The host enables or disables virtual functions, moving ownership of parcel queue sets between the PF and the VFs. -/
  | sriovVfEnable (n : BitVec 3)
  /-- NFC_LOCK_GAP_END, R548: The 10 ms after a session lock ends elapse and a waiting wired tag access may open a new lock. -/
  | nfcLockGapEnd (ok : Bool)
  deriving DecidableEq, Repr


end Sys2Proof
end

