-- ==== Sys2Proof/Config.lean ====
section
/-! DEFINITION. The free values: results the spec leaves open, or that a unit outside the spec computes
(a video decoder's pixels, a key's signature). Each is a constant without a body, so no proof can see its value;
each is named in the assumption log. `State.freeCtr` is the plain-data counter some of them are applied to. -/

namespace Sys2Proof

/-- A fresh unconstrained number for an effect whose value the spec does not state (log 3). -/
opaque Config.freeNat : Nat → Nat

/-- Byte `k` of the scratch contents a traverse starts with, which R307 calls undefined (log 4). -/
opaque Config.scratchByte : Nat → Nat → Byte

/-- What an overlapping copy leaves in byte `k` of its staging region, by the number of the copy: 0 for the byte's
earlier value, j + 1 for byte j of the source data, taken modulo the number of choices R127 allows (log 5). -/
opaque Config.stagingPick : Nat → Nat → Nat

/-- Profiles that the table of R424 names, and any other. -/
inductive VProfile
  | main | p422 | constrainedBaseline | high | high422 | main10 | main42210 | vp9p0 | vp9p2 | other
  deriving DecidableEq, Repr, Inhabited

/-- The tools that each decoder rejects (R424), and a profile, level, depth or chroma beyond its table. -/
inductive VTool
  | snrScalability | spatialScalability | multiview | mpegDataPartitioning
  | extendedProfile | fmo | aso | redundantSlices | svc | mvc | avc3d | high444 | separatePlanes | lossless
  | rangeExtension | scc | shvc | mvHevc | hevc3d
  | av1High | av1Professional | largeScaleTile
  | vp9Profile1 | vp9Profile3
  | beyond
  deriving DecidableEq, Repr, Inhabited

/-- The tools of R424 with the codec that rejects each, in the rule's order. -/
def VTool.table : List (VTool × Nat) :=
  [(.snrScalability, 0), (.spatialScalability, 0), (.multiview, 0), (.mpegDataPartitioning, 0),
   (.extendedProfile, 1), (.fmo, 1), (.aso, 1), (.redundantSlices, 1), (.svc, 1), (.mvc, 1), (.avc3d, 1), (.high444, 1),
   (.separatePlanes, 1), (.lossless, 1),
   (.rangeExtension, 2), (.scc, 2), (.shvc, 2), (.mvHevc, 2), (.hevc3d, 2),
   (.av1High, 3), (.av1Professional, 3), (.largeScaleTile, 3),
   (.vp9Profile1, 4), (.vp9Profile3, 4)]

/-- Whether the decoder of a codec rejects a tool (R424). -/
def VTool.of (codec : Nat) (t : VTool) : Bool := VTool.table.any (fun x => decide (x.1 = t) && decide (x.2 = codec))

/-- The number by which an event names a tool: its place in R424's list, from 1; one more for what is beyond the table
(DESIGN CHOICE, log 266). -/
def VTool.num (t : VTool) : Nat := VTool.table.findIdx (fun x => decide (x.1 = t)) + 1

/-- Kinds of audio stream (R429). -/
inductive SKind
  | layer1 | layer2 | layer3 | aacLc | aacMain | aacSsr | aacLtp | latm | ac3 | eac3 | other
  deriving DecidableEq, Repr, Inhabited

/-- One picture as the standard of its codec makes it of a stream's units, in decoding order (R424, R425): size, sample depth,
chroma (0 4:2:0, 1 4:2:2, 2 monochrome, 3 4:4:4), profile, level (ten times its number; of MPEG-2 1 Low, 2 Main, 3 High 1440,
4 High) and tier, the tools it uses, progressive_frame, whether it is coded as fields or MBAFF, whether its top field comes
first, whether its syntax is right and its references are there, the units it depends on and the unit it begins in, its frame
period in 90 kHz units, its place in display order, the matrix (1 BT.601, 2 BT.709, 3 BT.2020) and range it signals, and its
samples by rows. -/
structure DecPic where
  w : Nat
  h : Nat
  depth : Nat
  chroma : Nat
  profile : VProfile
  level : Nat
  highTier : Bool
  tools : List VTool
  progressive : Bool
  fields : Bool
  topFirst : Bool
  valid : Bool
  deps : List Nat
  unit : Nat
  period : Nat
  order : Nat
  matrix : Option Nat
  full : Option Bool
  y : List (List Nat)
  cb : List (List Nat)
  cr : List (List Nat)
  deriving DecidableEq, Repr, Inhabited

/-- An audio stream as its standard decodes it (R429), of AAC with SBR or PS the core: kind, rate in Hz, and the channels as
FP32 (1, 2, or 6 in the order L, R, C, LFE, Ls, Rs). -/
structure DecSound where
  kind : SKind
  rate : Nat
  chans : List (List Nat)
  deriving DecidableEq, Repr, Inhabited

/-- The pictures that a codec's standard makes of the units of a stream, none for a byte not there. The standards that R424
names define them, and the spec does not reproduce them (log 6). -/
opaque Config.pictures : Nat → List (List (Option Byte)) → List DecPic

/-- The audio that its standard makes of the packets of a stream, by stream_type (R429; log 6). -/
opaque Config.soundOf : Nat → List (List (Option Byte)) → DecSound

/-- The matrix in which a stream is read that signals none where IN_DEFAULT is 0 too, by stream (R432; log 268). -/
opaque Config.unsignalledMatrix : Nat → Nat

/-- How many NVMe controllers the root port finds, by its number of links (R438; log 270). -/
opaque Config.nvmeCount : Nat → Nat

/-- What an empty entry of a candidate list of SAMPLE holds as SCORE, KEY and INDEX, 96 bits, by output row and place in the list:
R188 states none, and runs do not differ in it (R402; log 264). -/
opaque Config.emptyEntry : Nat → Nat → Nat

/-- The latest planned instant that other modules' members of a lockstep group wait at, by parcel, group and mark: no
message brings it (R274, R366; log 216). -/
opaque Config.farPlanned : Nat → Nat → Nat → Nat

/-- The cause of a power loss that the payload of a CTRL flit announces, none where it says something else: R478 has a neighbour
read it, and the spec gives the payload no layout (log 274). -/
opaque Config.announcedLoss : List Byte → Option Nat

/-- Whether the host has enabled ATS for a function, 0 the PF, 1 + p VF p: its PCIe configuration space, which the spec gives no
register of, holds the enable (R289, R525; log 259). -/
opaque Config.atsOn : Nat → Bool

/-- The W48 leaf of a virtual shard for an element that no member supplies (R351, R353; log 30). -/
opaque Config.absentLeaf : Nat → Nat → Nat

/-- Bytes the root of trust produces from secrets the spec gives no value of: nonces (R571), signatures and
certificates (R565), by the number of the request (log 7). -/
opaque Config.rotByte : Nat → Nat → Byte

/-- The digest of the public key in a fused key slot: 0 to 3 Erfehorn, 4 to 7 owner (R557; log 7). -/
opaque Config.slotDigest : Nat → List Byte

/-- The digest of the device public key, the module's DEVICE_ID (R572; log 7). -/
opaque Config.deviceId : List Byte

/-- Bytes of the tag's NDEF message and of the serial number (R547; log 41). -/
opaque Config.ndefByte : Nat → Byte
opaque Config.serialByte : Nat → Byte

/-- How the PKC lays the service log out in the tag (R547): its bytes, by the module-fatal records kept (log 41). -/
opaque Config.serviceLayout : List (List Byte) → Nat → Byte

/-- Bytes of management answers that the standards of R541 to R544 and R565 define and the spec does not give (versions,
UUID, PDRs, certificates), by message type, command and arguments (log 42). -/
opaque Config.mgtBytes : Nat → Nat → List Nat → List Byte

/-- A signature of the alias key over a message, by the digest of the running PKC image, none for the one the module was
made with (R558, R565; log 42). -/
opaque Config.aliasSign : Option (List Byte) → List Byte → List Byte

/-- BODY_DIGEST of the images the module was made with, PKC and ingest (log 42). -/
opaque Config.factoryDigest : Nat → List Byte

end Sys2Proof
end

