-- ==== Sys2Proof/Machine/State.lean ====
section
/-! DEFINITION. The module's state as plain data. Every register field of the spec's BAR0 tables lives in
`State.regs`, keyed by BAR0 offset (R13); everything else the spec gives the module (tiles, vector registers,
queues, memories, protocol state) has a field of its own here. Maps are lists of pairs with strictly rising keys
and no entry equal to the map's default (`Sparse` in Machine/Sparse.lean), so equal states are equal data. -/

namespace Sys2Proof.Machine

/-- Why the machine stops. No rule of the spec stops the module without saying what follows: a station that
cannot go on is FAULTED (R214), a module that goes down answers nothing (R478), and both are states. So there is
no reason here, and no meaning ends in a fault. -/
inductive Fault
  deriving DecidableEq, Repr

/-- Why a command has no meaning in the model. -/
inductive Refusal
  /-- The command is not modelled yet; raised by its arm of `exec` alone. Safe: the model claims nothing of it. -/
  | notModelled (mnemonic : String)
  deriving DecidableEq, Repr

/-- A map kept as pairs with strictly rising keys and no default entries. -/
abbrev Sparse (α : Type) := List (Nat × α)

/-- Where a register field lives: BAR0 offset of its 64-bit register, low bit and width. -/
structure Fld where
  addr : Nat
  lo : Nat
  w : Nat
  deriving DecidableEq, Repr

/-- A long-accumulator element: L and the flags N and C (R58). -/
structure LA where
  l : BitVec 192
  n : Bool
  c : Bool
  deriving DecidableEq, Repr

/-- LA zero with both flags clear (R61). -/
def LA.zero : LA := ⟨0, false, false⟩

/-- An accumulator tile: element (m, n) at index 64m + n, term count, TL flag, skip mask (R62, R162), the chain
inputs still expected with their CHAIN_ID (R101), whether a pass or clear has opened it (R101), and the handle of a
LASUM that locks it (R92, R249). -/
structure Tile where
  el : Sparse LA
  terms : Nat
  tl : Bool
  skip : BitVec 4
  expect : Nat
  chainId : BitVec 16
  opened : Bool
  lockedBy : Option Nat
  deriving DecidableEq, Repr

/-- A cleared tile that expects nothing. -/
def Tile.zero : Tile := ⟨[], 0, false, 0, 0, 0, false, none⟩

/-- A chain transfer (R100). -/
structure ChainXfer where
  src : Nat
  srcTile : Nat
  dest : Nat
  destTile : Nat
  chainId : BitVec 16
  terms : Nat
  tl : Bool
  el : Sparse LA
  deriving DecidableEq, Repr

/-- The slab an MPASS left active for HOLD (R84, R234): weight format code, zero grid flag, FP4 mode of the pass, reduction
extent K, and per column its exponent EB, grid values and non-finite bits. -/
structure Slab where
  fmt : Nat
  limb : Bool
  fp4 : Bool
  k : Nat
  eb : List Int
  vals : List (List Int)
  nf : List (List Bool)
  deriving DecidableEq, Repr

/-- One instruction in an engine queue (R205): its engine, its word, and the PC and
leg it was issued at. -/
structure QEnt where
  eng : Nat
  word : BitVec 64
  pc : Nat
  leg : Nat
  deriving DecidableEq, Repr

/-- What a station in a class W instruction waits for (R205, R208, R247, R248, R211, R220). -/
inductive Wait
  | drain (leg : Option Nat)           -- END (none) or a leg barrier (the leg it begins)
  | fence
  | barrier (group : Nat)
  | mark (since : Nat) (planned : Int) -- WAITMK of group 0
  | lockstep (group : Nat) (k : Nat) (planned : Int) (since : Nat)
  | sig (ctr : Nat) (count : Int)
  | coll (handle : Nat)
  deriving DecidableEq, Repr

/-- A single step under way (R216): none; its instruction still to issue; or issued, and in an engine. -/
inductive StepSt
  | none'
  | issue
  | busy (q : QEnt)
  deriving DecidableEq, Repr

/-- A barrier record (R211): the station's registers of R192, kept as (offset in the station block, value),
its vector registers, PC, leg and period. -/
structure BarRec where
  regs : List (Nat × BitVec 64)
  vregs : Sparse (BitVec 32)
  pc : Nat
  leg : Nat
  period : Nat
  deriving DecidableEq, Repr

/-- A station effect received since the last leg barrier, kept for a repeated leg (R445). -/
inductive Inbound
  | write (off : Nat) (bytes : List Byte) (poison : Bool)
  | signal (ctr : Nat) (inc : Nat)
  | chain (x : ChainXfer)
  deriving DecidableEq, Repr

/-- The state of one physical station beside its registers (R192, R205, R211, R445): among it the 16 row feeder queues
(R80) and the exponent queue (R81), each oldest first, the active and the shadow weight registers (R83), whether all 16
shadow rows are written, and whether the pass under way holds its slab (R84); whether an error that no restake followed has
stopped it for good (R449, R451). `step` is the single step under way. -/
structure Stn where
  vregs : Sparse (BitVec 32)
  tiles : Sparse Tile
  chainBuf : Option ChainXfer
  engq : List QEnt
  waiting : Option Wait
  active : Bool
  ended : Bool
  faulted : Bool
  held : Bool
  holdReq : Bool
  dead : Bool
  step : StepSt
  slab : Option Slab
  feedq : List (List (BitVec 48))
  expq : List (BitVec 16)
  wreg : Sparse (BitVec 64)
  wshadow : Sparse (BitVec 64)
  shadowFull : Bool
  holdPass : Bool
  evClamp : Bool
  evNonfin : Bool
  evTermLim : Bool
  evMeta : Bool
  paceHist : List Nat
  deriving DecidableEq, Repr

/-- A station after reset: nothing queued, nothing awaited, tiles clear. -/
def Stn.idle : Stn :=
  { vregs := [], tiles := [], chainBuf := none, engq := [], waiting := none, active := false, ended := false,
    faulted := false, held := false, holdReq := false, dead := false, step := .none', slab := none, feedq := [], expq := [], wreg := [], wshadow := [],
    shadowFull := false, holdPass := false,
    evClamp := false, evNonfin := false, evTermLim := false, evMeta := false,
    paceHist := [] }

/-- A restake in progress (R446 to R448): the physical station that failed, the spare, the meridian of the error and
the leg and period the error was found in, with the legs repeated so far. -/
structure Restake where
  phys : Nat
  spare : Nat
  time : BitVec 64
  leg : Nat
  period : Nat
  legs : Nat
  deriving DecidableEq, Repr

/-- What the FD keeps for a logical station outside it (R211, R248, R274, R445, R447): its last barrier record, the
inbound log and its size, signals received on each counter since the barrier, by PC the effects its port has released since
the barrier and, while legs are repeated, those counted again, how many chain transfers of the log are still to arrive again, the
marks and barriers completed since and counted
again, the collective handles in use, the WAITMKs issued for each lockstep group of the traverse,
the LASUMs delivered since the barrier (ordinal of the contribution, sum, term count), for a repetition of them, and the
periods from the barrier on whose late overrun is counted (R273), and the codewords of its local store that the current leg has
written (R443). -/
structure Lst where
  barrec : Option BarRec
  inlog : List Inbound
  inBytes : Nat
  sigRcv : Sparse Nat
  relCount : Sparse Nat
  repeating : Bool
  repCount : Sparse Nat
  rechain : Nat
  mkDone : Sparse Nat
  mkRep : Sparse Nat
  handles : List (Nat × Nat)
  lockK : Sparse Nat
  laDone : List (Nat × LA × Nat)
  restake : Option Restake
  endAt : Nat
  overruns : List Nat
  wrote : List Nat
  deriving DecidableEq, Repr

/-- A logical station of which nothing is recorded. -/
def Lst.empty : Lst :=
  { barrec := none, inlog := [], inBytes := 0, sigRcv := [], relCount := [], repeating := false, repCount := [], rechain := 0,
    mkDone := [], mkRep := [], handles := [], lockK := [], laDone := [], restake := none, endAt := 0,
    overruns := [], wrote := [] }

/-- What the module sends: each message it emits is appended to `State.outbox` in order. -/
inductive OutKind
  | completion     -- a host read or non-posted access completes: args [function, status 0 done/1 unsupported/2 poisoned]
  | msix           -- an MSI-X signal: args [set, vector] (R536)
  | mgtResponse    -- the answer to a management message: args [status] (R544)
  | mctpResponse   -- an MCTP, PLDM or SPDM answer: args [type, command, completion code]
  | platformEvent  -- PlatformEventMessage with a record of R533 as data (R542)
  | linkFlit       -- a torus flit: args [port, lane, SEQ, VC, KIND, module, die, parcel, index, POISON, ...] (R328, R335)
  | frame          -- an uplink frame: args [plane, module, VC, E2E_SEQ, flits, KIND, die, index, ...] (R344)
  | meshMessage    -- a message between dies of the module: args name source and destination
  | nvmeRead       -- an NVMe read command: args [controller, lba, blocks]
  | tagAccess      -- the PKC's access to the NFC tag: args [address, length, write]; or the answer to an RF request:
                   -- args [address, length, write, error code, 0 for none]
  | sideOut        -- a change of an output pin: args [pin, level]; 16 + j NVME_PERST_N j, 20 + j NVME_REFCLK j (1 it runs), 5 an edge of the 1 PPS output, 6 the 10 MHz output (1 it runs)
  deriving DecidableEq, Repr

/-- A message the module has sent. -/
structure OutMsg where
  kind : OutKind
  args : List Nat
  data : List Byte
  deriving DecidableEq, Repr

/-- Signal state of one event ring (R536): whether a signal is pending its holdoff, whether HOLDOFF_US has passed,
and whether the host has written HEAD since. -/
structure RingSig where
  pending : Bool
  heldOff : Bool
  headWritten : Bool
  deriving DecidableEq, Repr

/-- A ring that has never signalled. -/
def RingSig.ready : RingSig := ⟨false, false, false⟩

/-- An entry of an FD's poison log (R296): survey address, meridian time, owning parcel, tier, how found, station. -/
structure PoisonEnt where
  addr : Nat
  time : BitVec 64
  parcel : Nat
  tier : Nat
  found : Nat
  station : Nat
  deriving DecidableEq, Repr

/-- A request at a line's home (R309 to R313): the die it came from, the logical station that made it (0xFFFF for none), the
key of its first byte, whether it is a write, its data, whether that is poisoned, and whether a read is marked use once. -/
structure HomeReq where
  die : Nat
  stn : Nat
  key : Nat
  isWrite : Bool
  data : List Byte
  poison : Bool
  once : Bool
  deriving DecidableEq, Repr

/-- A directory entry (R310): the line (own-die key / 128), its sharers, its epoch, whether it is locked for a write
whose snoops are awaited, the sharers still to answer, the write that waits, whether a back-invalidation locked it, and
the requests that wait for the lock in arrival order. -/
structure DirEnt where
  line : Nat
  sharers : BitVec 16
  epoch : BitVec 8
  locked : Bool
  awaiting : BitVec 16
  write : Option HomeReq
  backInv : Bool
  queue : List HomeReq
  deriving DecidableEq, Repr

/-- A read-shared copy another FD's cache holds (R309), the slice it lies in (R308), and the epoch of its grant. -/
structure Copy where
  fd : Nat
  line : Nat
  slice : Nat
  epoch : BitVec 8
  bytes : List Byte
  evicting : Bool
  deriving DecidableEq, Repr

/-- A request of this module to another module that has not completed (R291, R320): the die it came from (limits of R320 are an FD's), the
station (0xFFFF and up for none), the PC and leg of the instruction that asked, the parcel, the target address, its
length, whether it is the SLD that INC_FETCH serves, and for a write its data and whether that is poisoned. -/
structure RemoteReq where
  fd : Nat
  stn : Nat
  pc : Nat
  leg : Nat
  parcel : Nat
  addr : Nat
  len : Nat
  sld : Bool
  isWrite : Bool
  data : List Byte
  poison : Bool
  deriving DecidableEq, Repr

/-- A member of a collective that has issued its COLL or LASUM (R248, R249, R351): its logical station, handle, the
tile of a LASUM, its entry in the plan's member list, the destination descriptor (register, bits, extents in use; for a LASUM
the ordinal of its contribution instead) and whether its part is complete. -/
structure CollMem where
  stn : Nat
  handle : Nat
  tile : Option Nat
  idx : Nat
  dnum : Nat
  dbits : Nat
  ext : List Nat
  done : Bool
  deriving DecidableEq, Repr

/-- A row of an ALL_TO_ALL known here (R359): index of the source module in the module list, source virtual shard, row
ordinal, GLOBAL_INDEX, destination index, the member that holds it if any, whether it is accepted once known, its
elements once here, and whether its index derives from a poisoned codeword (R363). -/
structure A2aRow where
  src : Nat
  shard : Nat
  row : Nat
  gidx : Nat
  dest : Nat
  side : Option (Nat × Nat)
  acc : Option Bool
  data : List Nat
  bad : Bool
  deriving DecidableEq, Repr

/-- What a run keeps of a plat that a member joined with (R165 to R167): the element of the plan's tensor that its first slot
is, header bytes K, FORMAT, MODE, KEEP and GROUP, the accepted positions of each row, and the scale entries of each row
written as the values of `CollRun`. -/
structure PlatOwn where
  base : Nat
  k : Nat
  fmt : Nat
  mode : Nat
  keep : Nat
  group : Nat
  rows : List (List Nat)
  scales : List (List Nat)
  deriving DecidableEq, Repr

/-- A row of a gathered or broadcast plat known here (R165): its number, whether it brings its codes (FULL form), its slots
as (position, value), and its scale entries; values and scales are written as those of `CollRun`. -/
structure PlatRow where
  row : Nat
  full : Bool
  slots : List (Nat × Nat)
  scales : List Nat
  deriving DecidableEq, Repr

/-- A collective in progress (R350 to R361): its parcel and plan, the link die that holds its context, the members
that have joined, the leaves and received tree values, the results, the exact sums of LA_SUM, the route steps done,
whether it is held, the rows of an ALL_TO_ALL, and of a SPARSE plan the plats joined and the rows known. A value is 0 where
absent, else 1 + poison + 2 × its encoding. -/
structure CollRun where
  parcel : Nat
  plan : Nat
  ld : Nat
  mems : List CollMem
  vals : Sparse Nat
  res : Sparse Nat
  la : LA
  laTerms : Nat
  laPoison : Bool
  laFinal : Bool
  steps : List Nat
  held : Bool
  rows : List A2aRow
  plats : List PlatOwn
  prows : List PlatRow
  deriving DecidableEq, Repr

/-- A return to service in progress (R455): FD, physical station, the logical station it shadows once it shadows, and
the period and leg in which the shadow run began. -/
structure ReturnRun where
  fd : Nat
  phys : Nat
  log : Option Nat
  period : Nat
  leg : Nat
  deriving DecidableEq, Repr

/-- A read grant on its way to an FD (R310, R313). -/
structure Grant where
  fd : Nat
  line : Nat
  epoch : BitVec 8
  once : Bool
  bytes : List Byte
  deriving DecidableEq, Repr

/-- A flit to send (R335): VC, KIND, destination module and die, sender's parcel, its place in its message and whether it is
the message's last, POISON, the torus port it came in by (16: made here) with the half of that port's receive buffer it
still holds (R339), on the first flit what the message says, the plan, plus 1, whose collective sends it from here, with
whether that plan has LOCKSTEP (R365), and whether it has left the receive buffer it was held in. -/
structure TxFlit where
  vc : Nat
  kind : Nat
  peer : Nat
  die : Nat
  parcel : Nat
  idx : Nat
  last : Bool
  poison : Bool
  src : Nat
  upper : Bool
  args : List Nat
  data : List Byte
  plan : Nat := 0
  lockstep : Bool := false
  left : Bool := false
  deriving DecidableEq, Repr

/-- The first flit of a message made here. -/
def TxFlit.msg (vc kind peer die parcel : Nat) (args : List Nat) (data : List Byte) : TxFlit :=
  { vc := vc, kind := kind, peer := peer, die := die, parcel := parcel, idx := 0, last := true, poison := false, src := 16,
    upper := false, args := args, data := data }

/-- A port's state beside its registers (R332, R337, R503, R517): the next SEQ expected and whether the gap was answered
with a NAK; the next SEQ to send, flits not acknowledged and flits that wait; replays in a row of one SEQ; HELLO
rounds received; whether it retrains, found no lane, or sleeps in L1; resynchronisation rounds of the batch and whether one
lay outside the guard; exchanges in a row outside the guard; VCs paused on an uplink (R347); flits ahead of the next in
their deal (R328); flits in the receive buffer by 2 · VC + half (R339); the lane last dealt to (R328); by VC, the
message under way as 1 + 4 · port it came in by + parcel (R335); the deficits of R340 by VC and of R368 by 8 + 4 · VC
+ parcel, the VC whose turn it is and by VC the parcel's; the part of a flit slot that has passed, in 1/1024
(R327, R340); and the cause of the power loss that the partner has announced (R478). -/
structure Port where
  rxSeq : Nat
  nakSent : Bool
  txSeq : Nat
  unacked : List (Nat × TxFlit)
  txq : List TxFlit
  tries : Nat
  trySeq : Nat
  rounds : Nat
  retrain : Bool
  noLane : Bool
  l1 : Bool
  batch : Nat
  batchBad : Bool
  high : Nat
  paused : BitVec 8
  early : List (Nat × List Byte)
  rxBuf : Sparse Nat
  lane : Nat
  opened : Sparse Nat
  deficit : Sparse Nat
  turn : Nat
  turns : Sparse Nat
  slot : Nat
  loss : Option Nat
  deriving DecidableEq, Repr

/-- A port on which nothing has happened. -/
def Port.idle : Port :=
  { rxSeq := 0, nakSent := false, txSeq := 0, unacked := [], txq := [], tries := 0, trySeq := 0, rounds := 0, retrain := false,
    noLane := false, l1 := false, batch := 0, batchBad := false, high := 0, paused := 0, early := [], rxBuf := [], lane := 0,
    opened := [], deficit := [], turn := 1, turns := [], slot := 0, loss := none }

/-- An end-to-end context (R346): peer, plane and VC; next E2E_SEQ to send and expected; frames unacknowledged; flits that
wait for the window; whether this round trip's NAK was sent; retransmissions in a row, 21 once the peer is lost (R364); the
E2E_SEQ from which frames are owed again while the VC is paused, the acknowledgement (false) or NAK (true) owed then (R347); and
the parcel, plus 1, of the message under way (R335). -/
structure Ctx where
  plane : Nat
  peer : Nat
  vc : Nat
  txSeq : Nat
  rxSeq : Nat
  unacked : List (Nat × List TxFlit)
  wait : List TxFlit
  nakSent : Bool
  tries : Nat
  owed : Option Nat
  reply : Option Bool
  opened : Nat
  deriving DecidableEq, Repr

/-- A context just opened. -/
def Ctx.fresh (plane peer vc : Nat) : Ctx := ⟨plane, peer, vc, 0, 0, [], [], false, 0, none, none, 0⟩

/-- A disturbance of the supply (R475, R476): TYPE, ENTRY (0 A, 1 B, 2 both), meridian of its first sample, duration in
samples, EXTREME_MV. -/
structure Dist where
  typ : Nat
  entry : Nat
  start : Nat
  dur : Nat
  ext : Nat
  deriving DecidableEq, Repr

/-- What the PKC tracks of one 48 V entry (R474, R475): its last 100 samples (mV, 10 mA units), newest first; runs below
SAG_MV, above SWELL_MV and off the mean, and whether the last met a sag, swell or loss; the ripple window's samples and
sum of squares, the ripple record open, and the loss record open. -/
structure EntryTrk where
  win : List (Nat × Nat)
  sag : Option Dist
  swell : Option Dist
  trans : Option Dist
  covered : Bool
  ripN : Nat
  ripSum : Nat
  ripple : Option Dist
  loss : Option Dist
  deriving DecidableEq, Repr

/-- An entry of which nothing has been seen. -/
def EntryTrk.idle : EntryTrk := ⟨[], none, none, none, false, 0, 0, none, none⟩

/-- Energy meters in µJ (R491): input, the 20 dies, the four parcels, loss. -/
structure Meters where
  ein : Nat
  dies : List Nat
  pars : List Nat
  loss : Nat
  deriving DecidableEq, Repr

/-- Meters at zero. -/
def Meters.zero : Meters := ⟨0, List.replicate 20 0, List.replicate 4 0, 0⟩

/-- Power state beside the registers: the two entries; a dropout's record, its detection and the lowest samples of each
entry meanwhile; the entry that carries the load alone after one (R473); the disturbance log (R476), the last eight
records, and one more than the second of the last EV_PWR_DISTURBANCE; the meters, and those last written to the repair
record (R515); one more than the time of the last EV_PWR_CAP_CHANGED; when the cap last fell, until it is met or
counted unmet, and whether it is unmet still (R486); what the ramp lets the input power rise by, in 10 mW, as far as the
targets have not used it (R484); the cap voltage of each parcel as last formed (R485); the meridian of the last sample; what the control loop last found (R481, R485): the power
outside the FDs, each parcel's predicted FD power at 600 mV + 5 mV · i, and each FD's pace ceiling. -/
structure Pwr where
  ea : EntryTrk
  eb : EntryTrk
  dropout : Option Dist
  rideAt : Nat
  minA : Nat
  minB : Nat
  alone : Option Nat
  distLog : List Dist
  recent : List Dist
  distSec : Nat
  met : Meters
  saved : Meters
  capTime : Nat
  capFell : Option Nat
  unmet : Bool
  rampBank : Nat
  capV : List Nat
  sampleAt : Nat
  other : Nat
  model : List (List Nat)
  pace : List Nat
  deriving DecidableEq, Repr

/-- Power state after reset. -/
def Pwr.idle : Pwr :=
  { ea := EntryTrk.idle, eb := EntryTrk.idle, dropout := none, rideAt := 0, minA := 0, minB := 0, alone := none, distLog := [],
    recent := [], distSec := 0, met := Meters.zero, saved := Meters.zero, capTime := 0, capFell := none, unmet := false, rampBank := 0, capV := [], sampleAt := 0,
    other := 0, model := [], pace := [] }

/-- Meridian state beside the registers (R496 to R503): exchanges in a row within the guard while ACQUIRING; what the servo
still has to correct, ps, at which rate, and its fraction of a tick; PTP: the Sync received (sequence, receipt), and
the exchange awaiting its Delay_Resp (sequence, t1, t2, t3). -/
structure Mer where
  lockCnt : Nat
  slewLeft : Int
  slewPpm : Nat
  slewAcc : Nat
  sync : Option (Nat × BitVec 64)
  delay : Option (Nat × BitVec 64 × BitVec 64 × BitVec 64)
  deriving DecidableEq, Repr

/-- Meridian state after reset. -/
def Mer.idle : Mer := ⟨0, 0, 0, 0, none, none⟩

/-- The filter of a sideband input (R546): the raw level, one more than the time of the last accepted change, and whether
an edge was passed over since. -/
structure SbIn where
  raw : Bool
  last : Nat
  passed : Bool
  deriving DecidableEq, Repr

/-- An input that has not changed. -/
def SbIn.idle : SbIn := ⟨false, 0, false⟩

/-- The command an adjustment unit runs (R377, R382): its 64 bytes, its ring position, the hyperparameter record, the
clip factor, the block in hand, the next of R382's writes for it (0 slot, 1 and 2 commit copies A and B, 3 working
copy, 4 and 5 the journal's copies again), and whether its EV_AU_NONFINITE was raised. -/
structure AuRun where
  cmd : List Byte
  pos : Nat
  hyp : List Nat
  clip : Nat
  j : Nat
  phase : Nat
  nonfin : Bool
  deriving DecidableEq, Repr

/-- An adjustment unit that runs nothing. -/
def AuRun.idle : AuRun := ⟨[], 0, [], 0, 0, 0, false⟩

/-- A shadow pull in progress (R463, R464): the peers' newest complete steps, the stripes received, and the step the host
imposed, 0 for none. -/
structure PullRun where
  answers : List (Nat × Nat)
  got : List Nat
  imposed : Nat
  deriving DecidableEq, Repr

/-- The NVMe bytes of one sample of the step in progress (R421, R439): the sample's local index, its controller, the clip's
length, the bytes so far (none for a gap), and the failures of the piece awaited. -/
structure IngRead where
  b : Nat
  ctrl : Nat
  len : Nat
  have' : List (Option Byte)
  tries : Nat
  deriving DecidableEq, Repr

/-- An ingest job (R414, R419, R420): its descriptor, the next step or the one in progress, whether that step is in
progress, whether the job is to be held at its end, its NVMe reads, the clips that raised EV_ING_STREAM_ERR, the samples of
the step still to be decoded, and those of them that hold a decode context (R437); whether a START waits for a descriptor that
another module holds. -/
structure IngJob where
  desc : List Byte
  step : Nat
  busy : Bool
  hold : Bool
  reads : List IngRead
  errClips : List Nat
  left : List Nat
  ctx : List Nat
  starting : Bool
  deriving DecidableEq, Repr

/-- No job. -/
def IngJob.idle : IngJob := ⟨[], 0, false, false, [], [], [], [], false⟩

/-- The ingest dies beside their registers: by die, whose turn the deficit round robin over decode contexts is at, and by
4 × die + parcel the deficits (R437); of the storage root port, whether it runs as four x4 links, whether its reference
clocks run, and whether its links' resets are released (R438, R583); how many NVMe controllers were enumerated, and the module
time of the last EV_ING_NVME_ERR plus one, 0 for none (R439). -/
structure IgDie where
  turn : Sparse Nat
  deficit : Sparse Nat
  bifurcated : Bool
  clocks : Bool
  released : Bool
  nvme : Nat
  errTime : Nat
  deriving DecidableEq, Repr

/-- The ingest dies at power-up: the port as shipped, its clocks off and its resets low, no controller enumerated. -/
def IgDie.idle : IgDie := ⟨[], [], false, false, false, 0, 0⟩

/-- The root of trust beside its registers (R571 to R576, R559, R560, R570): the valid nonce and the number drawn; the
token, key and nonce of a SUBMIT under verification; whether SUBMIT is refused after 16 failures, and the failures in a
row; open grants as (scope bit, seconds left) and who
signed them; whether FIELD takes effect at the next cold reset; whether an accepted
DECOMMISSION is still to be carried out; the test port's instruction; new parcels that SPLIT's clearing still
prepares (R40). -/
structure Sec where
  nonce : Option (List Byte)
  nonceNo : Nat
  verifying : Option (List Byte × List Byte × Option (List Byte))
  refused : Bool
  failRun : Nat
  grants : Sparse Nat
  signers : Sparse Nat
  toField : Bool
  decom : Bool
  tap : TapInst
  splitNew : List Nat
  deriving DecidableEq, Repr

/-- The root of trust after reset. -/
def Sec.idle : Sec := ⟨none, 0, none, false, 0, [], [], false, false, .bypass, []⟩

/-- A firmware image in its slot (R561, R563): whether there is one, its SVN, version string, body digest (none for the
image the module was made with), Erfehorn slot, and owner slot if it carries an owner signature. -/
structure FwImg where
  present : Bool
  svn : Nat
  version : List Byte
  digest : Option (List Byte)
  erf : Nat
  owner : Option Nat
  deriving DecidableEq, Repr

/-- An empty slot. -/
def FwImg.none' : FwImg := ⟨false, 0, [], none, 0, none⟩

/-- The image a module is made with. -/
def FwImg.factory : FwImg := ⟨true, 0, [], none, 0, none⟩

/-- Firmware and the PLDM update (R542, R543, R563): the images, PKC A and B, ingest A and B; the slot of each component
last activated; the image each of PKC, IG0 and IG1 runs (none: without firmware); the update's state (0 idle, 1 learning
components, 2 ready, 3 download, 4 verify, 5 apply, as DSP0267 names them), the components passed, the one in hand and its
image, those applied, and whether the ingest dies have still to change to an activated image, and if so whether it will start. -/
structure Fw where
  imgs : List FwImg
  active : List Nat
  run : List (Option Nat)
  upd : Nat
  table : List Nat
  comp : Nat
  image : List Byte
  applied : List Nat
  pend : Option Bool
  deriving DecidableEq, Repr

/-- Firmware of a module as made. -/
def Fw.reset : Fw := ⟨[FwImg.factory, FwImg.none', FwImg.factory, FwImg.none'], [0, 0], [some 0, some 0, some 0], 0, [], 0, [], [], none⟩

/-- Management endpoints (R541, R542): the MCTP endpoint ID, the PLDM terminus ID, the event message buffer size. -/
structure Mgt where
  eid : Nat
  tid : Nat
  evBuf : Nat
  deriving DecidableEq, Repr

/-- The tag's session lock (R548): its opening if held, whether the 10 ms after one runs, and the accesses that wait, with
NFC_CTL as it was at GO. -/
structure Nfc where
  lock : Option Nat
  gap : Bool
  waiting : List (BitVec 64)
  deriving DecidableEq, Repr

/-- No session, nothing waiting. -/
def Nfc.idle : Nfc := ⟨none, false, []⟩

/-- A traverse in LOADING (R263, R532): parcel, tag, survey address of the image, origin, the host address of its
queue entry's STATUS byte if it came from a queue, and those of ABANDON entries that wait for the loading to end. -/
structure Loading where
  parcel : Nat
  tag : Nat
  base : Nat
  origin : Nat
  slot : Option Nat
  abandon : List Nat
  deriving DecidableEq, Repr

/-- A lockstep group of other modules that this module's members have left by END (R276): parcel, group, the latest END, the
PORT and peer of its READY plan's sends, and the marks answered. -/
structure LockEnd where
  parcel : Nat
  group : Nat
  time : Nat
  sends : List (Nat × Nat)
  marks : List Nat
  deriving DecidableEq, Repr

/-- What the module's fabric holds beside its registers: flits that no route reaches (R364); transactions that wait for a
tracker limit (R320); reads that wait for a directory
entry (R310); transfers each mesh router has forwarded, by FD (R24); and, by FD × 4 + edge, the flits an edge's sender
holds after an error, as (SEQ, class) (R318, R319). -/
structure Fab where
  unrouted : List TxFlit
  stalled : List RemoteReq
  dirWait : List HomeReq
  forwards : Sparse Nat
  edgeHeld : Sparse (List (Nat × Nat))
  deriving DecidableEq, Repr

/-- A fabric at rest. -/
def Fab.idle : Fab := ⟨[], [], [], [], []⟩

/-- The module. -/
structure State where
  pending : List Instr
  /-- BAR0 register fields by BAR0 offset (R13); fields computed from other state are overlaid when read. -/
  regs : Sparse (BitVec 64)
  /-- The meridian count, ticks of 250 ps (R43). -/
  meridian : BitVec 64
  /-- Every byte of the module's own dies, keyed DIE · 2^41 + OFFSET (R30, R32, R288). -/
  mem : List Host.Cell
  /-- Poisoned codewords: keys of the bytes divided by 32 (R296). -/
  poison : List Nat
  /-- Host memory that the module reads and writes through the IG0 endpoint (R289). -/
  hostMem : List Host.Cell
  stns : Sparse Stn
  /-- What is kept of logical station FD × 128 + n outside it (R445). -/
  lsts : Sparse Lst
  /-- Poison logs, by FD, head first, at most 16 entries (R306). -/
  poisonLog : Sparse (List PoisonEnt)
  /-- Directory entries of each home FD in order of their last grant, oldest first (R310). -/
  dir : Sparse (List DirEnt)
  /-- Read-shared copies held away from home (R309). -/
  copies : List Copy
  /-- Read grants on their way (R310, R313): FD, line, epoch, whether the read is marked use once, and the data. -/
  grants : List Grant
  /-- Snoops on their way to a sharer: home key's line, FD, epoch (R311). -/
  snoops : List (Nat × Nat × Nat)
  /-- Snoop answers on their way home: line and sharer (R313). -/
  snoopAns : List (Nat × Nat)
  /-- Eviction notices on their way home: line, FD, stored epoch (R312). -/
  notices : List (Nat × Nat × Nat)
  /-- Acknowledgements of notices on their way: line and FD (R312). -/
  evictAcks : List (Nat × Nat)
  /-- Requests of an FD for a line that wait for it to leave evict-pending (R312), in order. -/
  readWait : List HomeReq
  /-- Channels whose codewords are poisoned unless rewritten: FD, tier 0 or 1 with its pseudo-channel or sub-channel, or 2 and
  0 for the redirect reserve (R301 to R303). `poison` lists the codewords that differ from this. -/
  lostChan : List (Nat × Nat × Nat)
  /-- Expected sequence number of each die edge, and failures in a row of its next flit (R319); key FD × 4 + edge. -/
  edgeSeq : Sparse Nat
  edgeRun : Sparse Nat
  /-- One more than the meridian of the last EV_ECC_CORRECTED, by FD × 4 + tier (R325). -/
  eccTime : Sparse Nat
  /-- Repetitions of the command a tier's channel is repeating (R300): key (FD × 2 + tier) × 64 + channel. -/
  dramTry : Sparse Nat
  /-- The scrubber's next codeword in each tier, by FD × 4 + tier (R304). -/
  scrubAt : Sparse Nat
  /-- The module has gone down and answers nothing until its next cold reset (R478). -/
  down : Bool
  pwr : Pwr
  mer : Mer
  /-- Sideband inputs HALT_N, PWR_CAP_N, PERST_N, THERM_ALERT_N, MER_PPS (R546). -/
  sbIn : Sparse SbIn
  /-- FDs stopped by their junction (R488) or their stack (R322), and edge dies in the level of R489. -/
  fdTrip : List Nat
  memTrip : List Nat
  edgeHot : List Nat
  /-- The NFC tag's bytes (R547). -/
  tag : Sparse Byte
  /-- The last 32 module-fatal event records, oldest first (R547). -/
  fatalLog : List (List Byte)
  /-- What each FD's adjustment unit runs (R377). -/
  au : Sparse AuRun
  /-- FDs that have closed their parcel's snapshot (R395). -/
  snapClosed : List Nat
  /-- One more than the step whose shadow each owner FD is sending (R459). -/
  shdStep : Sparse Nat
  /-- Shadow pulls of each FD (R463). -/
  pulls : Sparse PullRun
  /-- Ingest jobs of the parcels (R420). -/
  ing : Sparse IngJob
  sec : Sec
  fw : Fw
  mgt : Mgt
  nfc : Nfc
  /-- Virtual functions SR-IOV enables: VF p is enabled when p is below it (R529). -/
  numVfs : Nat
  /-- Translations the endpoint caches: function and 4 KiB page of a host address, oldest first (R525). -/
  atc : List (Nat × Nat)
  /-- The module-wide reset in progress: 0 none, 2 cold, 3 warm; and parcels whose reset is (R507, R508). -/
  rstKind : Nat
  rstParcels : List Nat
  ports : Sparse Port
  /-- End-to-end contexts of the uplinks (R346), and flits that wait for one with their planes. -/
  ctxs : List Ctx
  ctxWait : List (Nat × TxFlit)
  /-- Requests to other modules not yet answered (R291). -/
  remote : List RemoteReq
  /-- Bytes other modules have answered to station reads still to execute, by 2^64 + survey address: 1 + the byte, and
  256 more when it came poisoned. -/
  remoteBuf : Sparse Nat
  /-- Retired FDs whose memory no longer answers: their parcel has since been reset or re-divided (R453). -/
  fdUnreach : List Nat
  /-- Sub-channels of each FD in service at its last re-forming reset, as a mask (R294, R303). -/
  t2Set : Sparse Nat
  /-- Copies waiting for each FD's die-level transposer: (FD, station key) (R121). -/
  xpQueue : List (Nat × Nat)
  /-- Chain transfers on their way between stations, oldest first (R100, R103). -/
  chains : List ChainXfer
  /-- Signal increments on their way: sending and target station, counter, increment (R208). -/
  sigs : List (Nat × Nat × Nat × Int)
  /-- Submitted traverses whose loading has not ended (R263). -/
  loading : List Loading
  /-- Which undefined contents each FD's scratch started its traverse with (R307) and, by 16 + FD and 32 + FD, its tier-1 and
  tier-2 have held since they lost power (R322, R478); 0: zeros. Bytes of that memory are kept in `mem` combined by exclusive
  or with those contents, so that writing nothing leaves them. -/
  scrGen : Sparse Nat
  /-- FDs whose scratch a traverse has been given since it was last cleared (R307). -/
  scrUsed : List Nat
  /-- Collectives in progress (R248, R367). -/
  colls : List CollRun
  /-- READY times of lockstep groups that span modules (R366): (parcel, group, mark, module, meridian time). -/
  ready : List (Nat × Nat × Nat × Nat × Nat)
  /-- READY messages that wait for a port to reach UP_SYNC (R365): (port, parcel, group, mark, module, time). -/
  readyHeld : List (Nat × Nat × Nat × Nat × Nat × Nat)
  /-- FDs to be retired once their parcel's stations reach a leg barrier (R451): FD and the failing logical station. -/
  retireReq : List (Nat × Nat)
  returns : List ReturnRun
  /-- Failed physical stations: FD, station, and the logical station it held, 255 for a spare (R29, R446, R455). -/
  failed : List (Nat × Nat × Nat)
  ringSig : Sparse RingSig
  ringSeq : Sparse Nat
  /-- Events in the holding buffers: (queue set, record), oldest first (R535). -/
  evHeld : List (Nat × List Byte)
  evLost : Sparse Nat
  /-- The PCIe link is in reset, or not yet back in L0 with bus mastering (R510). -/
  hostLinkDown : Bool
  /-- Queue sets whose rings a link reset cleared and the host has not set up again (R510). -/
  evAwait : List Nat
  /-- The PLDM event receiver: its MCTP endpoint, and whether events are sent rather than polled (R542). -/
  pldmReceiver : Option (Nat × Bool)
  /-- Platform event records waiting to be polled (R542). -/
  platQueue : List (List Byte)
  /-- Events already raised that a rule raises at most once (per period, per second, per condition). -/
  evOnce : List (Nat × Nat)
  fab : Fab
  igd : IgDie
  /-- Lockstep groups across modules whose members here have all completed END, while no other traverse is armed (R276). -/
  lockEnded : List LockEnd
  outbox : List OutMsg
  freeCtr : Nat
  deriving DecidableEq, Repr

/-- The module right after a cold reset begins: every register at the value of its Reset column, the meridian at
zero, every memory zero (R514), start-up not yet complete (R518, R519). The "Per module" fields take the values
of log 1. -/
def State.reset : State :=
  { pending := [], regs := [], meridian := 0, mem := [], poison := [], hostMem := [], stns := [], lsts := [], poisonLog := [],
      dir := [], copies := [], grants := [], snoops := [], snoopAns := [], notices := [], evictAcks := [], readWait := [],
      lostChan := [], edgeSeq := [], edgeRun := [], eccTime := [], dramTry := [], scrubAt := [], down := false, pwr := Pwr.idle,
      mer := Mer.idle, sbIn := [], fdTrip := [], memTrip := [], edgeHot := [], tag := [], fatalLog := [], au := [],
      snapClosed := [], shdStep := [], pulls := [], ing := [], sec := Sec.idle, fw := Fw.reset, mgt := ⟨0, 0, 0⟩,
      nfc := Nfc.idle, numVfs := 0, atc := [], rstKind := 2, rstParcels := [], ports := [], ctxs := [], ctxWait := [], remote := [],
      remoteBuf := [], xpQueue := [], chains := [], sigs := [], loading := [], scrGen := [], scrUsed := [], colls := [],
      ready := [], readyHeld := [], retireReq := [], returns := [], failed := [], fdUnreach := [], t2Set := [], ringSig := [],
    ringSeq := [], evHeld := [], evLost := [], hostLinkDown := false, evAwait := [], pldmReceiver := none, platQueue := [],
        evOnce := [], fab := Fab.idle, igd := IgDie.idle, lockEnded := [], outbox := [], freeCtr := 0 }

end Sys2Proof.Machine
end

