-- ==== Sys2Proof/Machine/Regs.lean ====
section
/-! DEFINITION. Every BAR0 register field the spec's register tables name (R13), as the place it is kept:
the register's BAR0 offset, its low bit and its width. Station fields take the base of the physical
station's block (R26), per-FD fields the FD, per-parcel GLB fields the parcel, HIF fields the queue
set. Written from the register tables of spec/00 to spec/19; each docstring names the table's rule. -/

namespace Sys2Proof.Machine

/-- `STN_QST_CTL.ENABLE`, 02 R74. -/
def Reg.stnQstCtlEnable (b : Nat) : Fld := ⟨b + 0x200, 0, 1⟩
/-- `STN_QST_CTL.SAT_THRESH`, 02 R74. -/
def Reg.stnQstCtlSatThresh (b : Nat) : Fld := ⟨b + 0x200, 32, 32⟩
/-- `STN_QST_SEQ.SEQ`, 02 R74. -/
def Reg.stnQstSeqSeq (b : Nat) : Fld := ⟨b + 0x208, 0, 64⟩
/-- `STN_QST_COUNT.COUNT`, 02 R74. -/
def Reg.stnQstCountCount (b : Nat) : Fld := ⟨b + 0x210, 0, 64⟩
/-- `STN_QST_SAT.SAT`, 02 R74. -/
def Reg.stnQstSatSat (b : Nat) : Fld := ⟨b + 0x218, 0, 64⟩
/-- `STN_QST_SSE.SSE`, 02 R74. -/
def Reg.stnQstSseSse (b : Nat) : Fld := ⟨b + 0x220, 0, 64⟩
/-- `STN_ARITH_NONFIN.NONFIN`, 02 R74. -/
def Reg.stnArithNonfinNonfin (b : Nat) : Fld := ⟨b + 0x228, 0, 64⟩
/-- `STN_LA_CLAMP.CLAMP`, 02 R74. -/
def Reg.stnLaClampClamp (b : Nat) : Fld := ⟨b + 0x230, 0, 64⟩
/-- `MA_PASSES.PASSES`, 03 R107. -/
def Reg.maPassesPasses (b : Nat) : Fld := ⟨b + 0x300, 0, 64⟩
/-- `MA_STALL_FEED.COUNT`, 03 R107. -/
def Reg.maStallFeedCount (b : Nat) : Fld := ⟨b + 0x308, 0, 64⟩
/-- `MA_STALL_WLOAD.COUNT`, 03 R107. -/
def Reg.maStallWloadCount (b : Nat) : Fld := ⟨b + 0x310, 0, 64⟩
/-- `MA_STALL_TILE.COUNT`, 03 R107. -/
def Reg.maStallTileCount (b : Nat) : Fld := ⟨b + 0x318, 0, 64⟩
/-- `MA_STALL_CHAIN.COUNT`, 03 R107. -/
def Reg.maStallChainCount (b : Nat) : Fld := ⟨b + 0x320, 0, 64⟩
/-- `MA_ARB_LOSS.COUNT`, 03 R107. -/
def Reg.maArbLossCount (b : Nat) : Fld := ⟨b + 0x328, 0, 64⟩
/-- `MA_FEED_OCC0.OCCj`, 03 R107. -/
def Reg.maFeedOcc0Occ (b : Nat) (j : Nat) : Fld := ⟨b + 0x330, 0 + j * 8, 6⟩
/-- `MA_FEED_OCC1.OCCj`, 03 R107. -/
def Reg.maFeedOcc1Occ (b : Nat) (j : Nat) : Fld := ⟨b + 0x338, 0 + j * 8, 6⟩
/-- `MA_FEED_STATUS.EXP_OCC`, 03 R107. -/
def Reg.maFeedStatusExpOcc (b : Nat) : Fld := ⟨b + 0x340, 0, 6⟩
/-- `MA_FEED_STATUS.LEAD`, 03 R107. -/
def Reg.maFeedStatusLead (b : Nat) : Fld := ⟨b + 0x340, 8, 5⟩
/-- `MA_FEED_STATUS.SHADOW_FULL`, 03 R107. -/
def Reg.maFeedStatusShadowFull (b : Nat) : Fld := ⟨b + 0x340, 16, 1⟩
/-- `MA_FEED_STATUS.HOLD`, 03 R107. -/
def Reg.maFeedStatusHold (b : Nat) : Fld := ⟨b + 0x340, 17, 1⟩
/-- `MA_FEED_STATUS.TILE_LOCK`, 03 R107. -/
def Reg.maFeedStatusTileLock (b : Nat) : Fld := ⟨b + 0x340, 20, 4⟩
/-- `MA_FEED_STATUS.CHAIN_PEND`, 03 R107. -/
def Reg.maFeedStatusChainPend (b : Nat) : Fld := ⟨b + 0x340, 24, 4⟩
/-- `MA_FEED_STATUS.CHAIN_BUF`, 03 R107. -/
def Reg.maFeedStatusChainBuf (b : Nat) : Fld := ⟨b + 0x340, 28, 1⟩
/-- `MA_CHAIN_WAIT.COUNT`, 03 R107. -/
def Reg.maChainWaitCount (b : Nat) : Fld := ⟨b + 0x348, 0, 64⟩
/-- `STN_XP_SLICES.COUNT`, 04 R131. -/
def Reg.stnXpSlicesCount (b : Nat) : Fld := ⟨b + 0x380, 0, 64⟩
/-- `STN_XP_WAIT.COUNT`, 04 R131. -/
def Reg.stnXpWaitCount (b : Nat) : Fld := ⟨b + 0x388, 0, 64⟩
/-- `STN_XP_STAGED.BYTES`, 04 R131. -/
def Reg.stnXpStagedBytes (b : Nat) : Fld := ⟨b + 0x390, 0, 64⟩
/-- `STN_XP_FAULTS.OVERLAP`, 04 R131. -/
def Reg.stnXpFaultsOverlap (b : Nat) : Fld := ⟨b + 0x398, 0, 16⟩
/-- `STN_XP_FAULTS.TOO_LARGE`, 04 R131. -/
def Reg.stnXpFaultsTooLarge (b : Nat) : Fld := ⟨b + 0x398, 16, 16⟩
/-- `STN_XP_FAULTS.LAYOUT`, 04 R131. -/
def Reg.stnXpFaultsLayout (b : Nat) : Fld := ⟨b + 0x398, 32, 16⟩
/-- `FD_XP_SLICES.COUNT`, 04 R132. -/
def Reg.fdXpSlicesCount (n : Nat) : Fld := ⟨0x1000000 + n * 0x100000 + 0x800, 0, 64⟩
/-- `FD_XP_STATUS.QUEUE`, 04 R132. -/
def Reg.fdXpStatusQueue (n : Nat) : Fld := ⟨0x1000000 + n * 0x100000 + 0x808, 0, 5⟩
/-- `FD_XP_STATUS.BUSY`, 04 R132. -/
def Reg.fdXpStatusBusy (n : Nat) : Fld := ⟨0x1000000 + n * 0x100000 + 0x808, 5, 1⟩
/-- `FD_XP_STALL.COUNT`, 04 R132. -/
def Reg.fdXpStallCount (n : Nat) : Fld := ⟨0x1000000 + n * 0x100000 + 0x810, 0, 64⟩
/-- `STN_SP_RANGE.COUNT`, 05 R168. -/
def Reg.stnSpRangeCount (b : Nat) : Fld := ⟨b + 0x400, 0, 64⟩
/-- `STN_SP_DUP.COUNT`, 05 R168. -/
def Reg.stnSpDupCount (b : Nat) : Fld := ⟨b + 0x408, 0, 64⟩
/-- `STN_SP_ORDER.COUNT`, 05 R168. -/
def Reg.stnSpOrderCount (b : Nat) : Fld := ⟨b + 0x410, 0, 64⟩
/-- `STN_SP_BOUND.COUNT`, 05 R168. -/
def Reg.stnSpBoundCount (b : Nat) : Fld := ⟨b + 0x418, 0, 64⟩
/-- `STN_SP_PASS_SKIP.COUNT`, 05 R168. -/
def Reg.stnSpPassSkipCount (b : Nat) : Fld := ⟨b + 0x420, 0, 64⟩
/-- `STN_SP_SUB_SKIP.COUNT`, 05 R168. -/
def Reg.stnSpSubSkipCount (b : Nat) : Fld := ⟨b + 0x428, 0, 64⟩
/-- `STN_SP_RECON_KEPT.COUNT`, 05 R168. -/
def Reg.stnSpReconKeptCount (b : Nat) : Fld := ⟨b + 0x430, 0, 64⟩
/-- `STN_SP_RECON_SKIP.COUNT`, 05 R168. -/
def Reg.stnSpReconSkipCount (b : Nat) : Fld := ⟨b + 0x438, 0, 64⟩
/-- `STN_SP_FILL.COUNT`, 05 R168. -/
def Reg.stnSpFillCount (b : Nat) : Fld := ⟨b + 0x440, 0, 64⟩
/-- `STN_SP_STATUS.SKIPi`, 05 R168. -/
def Reg.stnSpStatusSkip (b : Nat) (j : Nat) : Fld := ⟨b + 0x448, 0 + j * 4, 4⟩
/-- `LS_CONFLICT.COUNT`, 06 R177. -/
def Reg.lsConflictCount (b : Nat) : Fld := ⟨b + 0x488, 0, 64⟩
/-- `LS_ECC.CORR`, 06 R177. -/
def Reg.lsEccCorr (b : Nat) : Fld := ⟨b + 0x490, 0, 32⟩
/-- `LS_ECC.UNCORR`, 06 R177. -/
def Reg.lsEccUncorr (b : Nat) : Fld := ⟨b + 0x490, 32, 16⟩
/-- `LS_POISON_ADDR.ADDR`, 06 R177. -/
def Reg.lsPoisonAddrAddr (b : Nat) : Fld := ⟨b + 0x498, 0, 32⟩
/-- `LS_POISON_ADDR.VALID`, 06 R177. -/
def Reg.lsPoisonAddrValid (b : Nat) : Fld := ⟨b + 0x498, 63, 1⟩
/-- `STN_RNG_SEED.SEED`, 06 R189. -/
def Reg.stnRngSeedSeed (b : Nat) : Fld := ⟨b + 0x500, 0, 64⟩
/-- `STN_RNG_DRAWS.COUNT`, 06 R189. -/
def Reg.stnRngDrawsCount (b : Nat) : Fld := ⟨b + 0x508, 0, 64⟩
/-- `STN_RNG_STREAMj.STREAM`, 06 R189. -/
def Reg.stnRngStreamStream (b : Nat) (i : Nat) : Fld := ⟨b + 0x510 + i * 0x10, 0, 64⟩
/-- `STN_RNG_BASEj.BASE`, 06 R189. -/
def Reg.stnRngBaseBase (b : Nat) (i : Nat) : Fld := ⟨b + 0x518 + i * 0x10, 0, 64⟩
/-- `STN_RNG_STATUS.WR_DISCARD`, 06 R189. -/
def Reg.stnRngStatusWrDiscard (b : Nat) : Fld := ⟨b + 0x590, 0, 16⟩
/-- `STN_RNG_STATUS.BUSY`, 06 R189. -/
def Reg.stnRngStatusBusy (b : Nat) : Fld := ⟨b + 0x590, 16, 1⟩
/-- `STN_CTL.HALT`, 07 R216. -/
def Reg.stnCtlHalt (b : Nat) : Fld := ⟨b + 0x0, 0, 1⟩
/-- `STN_CTL.STEP`, 07 R216. -/
def Reg.stnCtlStep (b : Nat) : Fld := ⟨b + 0x0, 1, 1⟩
/-- `STN_STATUS.STATE`, 07 R216. -/
def Reg.stnStatusState (b : Nat) : Fld := ⟨b + 0x8, 0, 3⟩
/-- `STN_STATUS.ENG_BUSY`, 07 R216. -/
def Reg.stnStatusEngBusy (b : Nat) : Fld := ⟨b + 0x8, 4, 6⟩
/-- `STN_STATUS.WR_DISCARD`, 07 R216. -/
def Reg.stnStatusWrDiscard (b : Nat) : Fld := ⟨b + 0x8, 16, 16⟩
/-- `STN_PC.PC`, 07 R216. -/
def Reg.stnPcPc (b : Nat) : Fld := ⟨b + 0x10, 0, 32⟩
/-- `STN_PC.LEG`, 07 R216. -/
def Reg.stnPcLeg (b : Nat) : Fld := ⟨b + 0x10, 32, 32⟩
/-- `STN_FAULT.CAUSE`, 07 R216. -/
def Reg.stnFaultCause (b : Nat) : Fld := ⟨b + 0x18, 0, 8⟩
/-- `STN_FAULT.LATE`, 07 R216. -/
def Reg.stnFaultLate (b : Nat) : Fld := ⟨b + 0x18, 8, 1⟩
/-- `STN_FAULT.VALID`, 07 R216. -/
def Reg.stnFaultValid (b : Nat) : Fld := ⟨b + 0x18, 9, 1⟩
/-- `STN_FAULT.MORE`, 07 R216. -/
def Reg.stnFaultMore (b : Nat) : Fld := ⟨b + 0x18, 16, 16⟩
/-- `STN_FAULT.PC`, 07 R216. -/
def Reg.stnFaultPc (b : Nat) : Fld := ⟨b + 0x18, 32, 32⟩
/-- `STN_FAULT_INFO.INFO`, 07 R216. -/
def Reg.stnFaultInfoInfo (b : Nat) : Fld := ⟨b + 0x20, 0, 64⟩
/-- `STN_FAULT_WORD.WORD`, 07 R216. -/
def Reg.stnFaultWordWord (b : Nat) : Fld := ⟨b + 0x28, 0, 64⟩
/-- `STN_FAULT_TIME.MERIDIAN`, 07 R216. -/
def Reg.stnFaultTimeMeridian (b : Nat) : Fld := ⟨b + 0x30, 0, 64⟩
/-- `STN_HAZARD_WAIT.COUNT`, 07 R216. -/
def Reg.stnHazardWaitCount (b : Nat) : Fld := ⟨b + 0x48, 0, 64⟩
/-- `STN_ISSUE_STALL.COUNT`, 07 R216. -/
def Reg.stnIssueStallCount (b : Nat) : Fld := ⟨b + 0x50, 0, 64⟩
/-- `STN_SEL_CLAMP.EXCESS`, 07 R216. -/
def Reg.stnSelClampExcess (b : Nat) : Fld := ⟨b + 0x58, 0, 48⟩
/-- `STN_SEL_CLAMP.OVF`, 07 R216. -/
def Reg.stnSelClampOvf (b : Nat) : Fld := ⟨b + 0x58, 48, 16⟩
/-- `Si.VALUE`, 07 R216. -/
def Reg.stnS (b : Nat) (i : Nat) : Fld := ⟨b + 0x600 + i * 0x8, 0, 64⟩
/-- `STN_SDATA.DATA`, 07 R216. -/
def Reg.stnSdataData (b : Nat) : Fld := ⟨b + 0x700, 0, 32⟩
/-- `Pk.MASK`, 07 R216. -/
def Reg.stnP (b : Nat) (i : Nat) : Fld := ⟨b + 0x708 + i * 0x8, 0, 64⟩
/-- `SGk.COUNT`, 07 R216. -/
def Reg.stnSg (b : Nat) (i : Nat) : Fld := ⟨b + 0x780 + i * 0x8, 0, 32⟩
/-- `Dj.BITS`, 07 R216. -/
def Reg.stnD (b : Nat) (i : Nat) (w : Nat) : Fld := ⟨b + 0x800 + i * 0x40 + w * 0x8, 0, 64⟩
/-- `STN_TRV_POS.PERIOD`, 09 R285. -/
def Reg.stnTrvPosPeriod (b : Nat) : Fld := ⟨b + 0xC00, 0, 32⟩
/-- `STN_LEG_END.END`, 09 R285. -/
def Reg.stnLegEndEnd (b : Nat) : Fld := ⟨b + 0xC08, 0, 64⟩
/-- `STN_LATENESS.LATENESS`, 09 R285. -/
def Reg.stnLatenessLateness (b : Nat) : Fld := ⟨b + 0xC10, 0, 64⟩
/-- `STN_LATE_MAX.MAX`, 09 R285. -/
def Reg.stnLateMaxMax (b : Nat) : Fld := ⟨b + 0xC18, 0, 64⟩
/-- `STN_PACING.OVERRUNS`, 09 R285. -/
def Reg.stnPacingOverruns (b : Nat) : Fld := ⟨b + 0xC20, 0, 32⟩
/-- `STN_PACING.MISS`, 09 R285. -/
def Reg.stnPacingMiss (b : Nat) : Fld := ⟨b + 0xC20, 32, 16⟩
/-- `STN_PACING.MISMATCH`, 09 R285. -/
def Reg.stnPacingMismatch (b : Nat) : Fld := ⟨b + 0xC20, 48, 16⟩
/-- `STN_SHAPE_CLAMP.EXCESS`, 09 R285. -/
def Reg.stnShapeClampExcess (b : Nat) : Fld := ⟨b + 0xC28, 0, 64⟩
/-- `STN_WAITMK.TICKS`, 09 R285. -/
def Reg.stnWaitmkTicks (b : Nat) : Fld := ⟨b + 0xC30, 0, 64⟩
/-- `GLB_TRV_STATUSp.STATE`, 09 R286. -/
def Reg.glbTrvStatusState (p : Nat) : Fld := ⟨0x400 + p * 0x100 + 0x0, 0, 3⟩
/-- `GLB_TRV_STATUSp.REFUSE`, 09 R286. -/
def Reg.glbTrvStatusRefuse (p : Nat) : Fld := ⟨0x400 + p * 0x100 + 0x0, 8, 4⟩
/-- `GLB_TRV_STATUSp.TAG`, 09 R286. -/
def Reg.glbTrvStatusTag (p : Nat) : Fld := ⟨0x400 + p * 0x100 + 0x0, 32, 32⟩
/-- `GLB_TRV_ORIGINp.ORIGIN`, 09 R286. -/
def Reg.glbTrvOriginOrigin (p : Nat) : Fld := ⟨0x400 + p * 0x100 + 0x8, 0, 64⟩
/-- `GLB_TRV_BASEp.BASE`, 09 R286. -/
def Reg.glbTrvBaseBase (p : Nat) : Fld := ⟨0x400 + p * 0x100 + 0x10, 0, 64⟩
/-- `GLB_TRV_DIGESTp_w.BYTES`, 09 R286. -/
def Reg.glbTrvDigestBytes (p : Nat) (i : Nat) : Fld := ⟨0x400 + p * 0x100 + 0x20 + i * 0x8, 0, 64⟩
/-- `GLB_TRV_SHORT_T1p.BYTES`, 09 R286. -/
def Reg.glbTrvShortT1Bytes (p : Nat) : Fld := ⟨0x400 + p * 0x100 + 0x50, 0, 48⟩
/-- `GLB_TRV_SHORT_T1p.FD`, 09 R286. -/
def Reg.glbTrvShortT1Fd (p : Nat) : Fld := ⟨0x400 + p * 0x100 + 0x50, 48, 4⟩
/-- `GLB_TRV_SHORT_T2p.BYTES`, 09 R286. -/
def Reg.glbTrvShortT2Bytes (p : Nat) : Fld := ⟨0x400 + p * 0x100 + 0x58, 0, 48⟩
/-- `GLB_TRV_SHORT_T2p.FD`, 09 R286. -/
def Reg.glbTrvShortT2Fd (p : Nat) : Fld := ⟨0x400 + p * 0x100 + 0x58, 48, 4⟩
/-- `GLB_TRV_SHORT_SCp.BYTES`, 09 R286. -/
def Reg.glbTrvShortScBytes (p : Nat) : Fld := ⟨0x400 + p * 0x100 + 0x60, 0, 48⟩
/-- `GLB_TRV_SHORT_SCp.FD`, 09 R286. -/
def Reg.glbTrvShortScFd (p : Nat) : Fld := ⟨0x400 + p * 0x100 + 0x60, 48, 4⟩
/-- `GLB_TRV_SHORT_LSp.BYTES`, 09 R286. -/
def Reg.glbTrvShortLsBytes (p : Nat) : Fld := ⟨0x400 + p * 0x100 + 0x68, 0, 32⟩
/-- `FD_MEM_CAP.T1_MIB`, 10 R323. -/
def Reg.fdMemCapT1Mib (n : Nat) : Fld := ⟨0x1000000 + n * 0x100000 + 0x1000, 0, 16⟩
/-- `FD_MEM_CAP.T2_MIB`, 10 R323. -/
def Reg.fdMemCapT2Mib (n : Nat) : Fld := ⟨0x1000000 + n * 0x100000 + 0x1000, 16, 20⟩
/-- `FD_MEM_CAP.SC_KIB`, 10 R323. -/
def Reg.fdMemCapScKib (n : Nat) : Fld := ⟨0x1000000 + n * 0x100000 + 0x1000, 36, 20⟩
/-- `FD_MEM_T2_RESV.MIB`, 10 R323. -/
def Reg.fdMemT2ResvMib (n : Nat) : Fld := ⟨0x1000000 + n * 0x100000 + 0x1008, 0, 20⟩
/-- `SC_PART.SCRATCH_KIB`, 10 R323. -/
def Reg.scPartScratchKib (n : Nat) : Fld := ⟨0x1000000 + n * 0x100000 + 0x1010, 0, 20⟩
/-- `SC_PART.CACHE_KIB`, 10 R323. -/
def Reg.scPartCacheKib (n : Nat) : Fld := ⟨0x1000000 + n * 0x100000 + 0x1010, 20, 20⟩
/-- `SC_DIR.OCC`, 10 R323. -/
def Reg.scDirOcc (n : Nat) : Fld := ⟨0x1000000 + n * 0x100000 + 0x1018, 0, 17⟩
/-- `SC_STALE_NOTE.COUNT`, 10 R323. -/
def Reg.scStaleNoteCount (n : Nat) : Fld := ⟨0x1000000 + n * 0x100000 + 0x1020, 0, 64⟩
/-- `SC_SNOOP_NP.COUNT`, 10 R323. -/
def Reg.scSnoopNpCount (n : Nat) : Fld := ⟨0x1000000 + n * 0x100000 + 0x1028, 0, 64⟩
/-- `SC_BACKINV.COUNT`, 10 R323. -/
def Reg.scBackinvCount (n : Nat) : Fld := ⟨0x1000000 + n * 0x100000 + 0x1030, 0, 64⟩
/-- `SC_FILL_ONCE.COUNT`, 10 R323. -/
def Reg.scFillOnceCount (n : Nat) : Fld := ⟨0x1000000 + n * 0x100000 + 0x1038, 0, 64⟩
/-- `SC_ATOMIC_OPS.COUNT`, 10 R323. -/
def Reg.scAtomicOpsCount (n : Nat) : Fld := ⟨0x1000000 + n * 0x100000 + 0x1040, 0, 64⟩
/-- `T1_ECC.CORR`, 10 R323. -/
def Reg.t1EccCorr (n : Nat) : Fld := ⟨0x1000000 + n * 0x100000 + 0x1100, 0, 32⟩
/-- `T1_ECC.UNCORR`, 10 R323. -/
def Reg.t1EccUncorr (n : Nat) : Fld := ⟨0x1000000 + n * 0x100000 + 0x1100, 32, 16⟩
/-- `T1_RETRY.COUNT`, 10 R323. -/
def Reg.t1RetryCount (n : Nat) : Fld := ⟨0x1000000 + n * 0x100000 + 0x1108, 0, 64⟩
/-- `T1_PC_RETIRED.MASK`, 10 R323. -/
def Reg.t1PcRetiredMask (n : Nat) : Fld := ⟨0x1000000 + n * 0x100000 + 0x1110, 0, 64⟩
/-- `T1_REDIRECT.PC`, 10 R323. -/
def Reg.t1RedirectPc (n : Nat) : Fld := ⟨0x1000000 + n * 0x100000 + 0x1118, 0, 6⟩
/-- `T1_REDIRECT.USED`, 10 R323. -/
def Reg.t1RedirectUsed (n : Nat) : Fld := ⟨0x1000000 + n * 0x100000 + 0x1118, 6, 1⟩
/-- `T1_TEMP.TEMP`, 10 R323. -/
def Reg.t1TempTemp (n : Nat) : Fld := ⟨0x1000000 + n * 0x100000 + 0x1120, 0, 8⟩
/-- `T1_TEMP.LEVEL`, 10 R323. -/
def Reg.t1TempLevel (n : Nat) : Fld := ⟨0x1000000 + n * 0x100000 + 0x1120, 8, 2⟩
/-- `T1_TEMP.MAX`, 10 R323. -/
def Reg.t1TempMax (n : Nat) : Fld := ⟨0x1000000 + n * 0x100000 + 0x1120, 16, 8⟩
/-- `T2_ECC.CORR`, 10 R323. -/
def Reg.t2EccCorr (n : Nat) : Fld := ⟨0x1000000 + n * 0x100000 + 0x1180, 0, 32⟩
/-- `T2_ECC.UNCORR`, 10 R323. -/
def Reg.t2EccUncorr (n : Nat) : Fld := ⟨0x1000000 + n * 0x100000 + 0x1180, 32, 16⟩
/-- `T2_RETRY.COUNT`, 10 R323. -/
def Reg.t2RetryCount (n : Nat) : Fld := ⟨0x1000000 + n * 0x100000 + 0x1188, 0, 64⟩
/-- `T2_STATUS.RETIRED`, 10 R323. -/
def Reg.t2StatusRetired (n : Nat) : Fld := ⟨0x1000000 + n * 0x100000 + 0x1190, 0, 8⟩
/-- `T2_STATUS.IN_SERVICE`, 10 R323. -/
def Reg.t2StatusInService (n : Nat) : Fld := ⟨0x1000000 + n * 0x100000 + 0x1190, 8, 4⟩
/-- `T2_STATUS.REFORM`, 10 R323. -/
def Reg.t2StatusReform (n : Nat) : Fld := ⟨0x1000000 + n * 0x100000 + 0x1190, 12, 1⟩
/-- `MEM_PARTIAL_POISON.COUNT`, 10 R323. -/
def Reg.memPartialPoisonCount (n : Nat) : Fld := ⟨0x1000000 + n * 0x100000 + 0x1200, 0, 64⟩
/-- `MEM_POISON_PROP.COUNT`, 10 R323. -/
def Reg.memPoisonPropCount (n : Nat) : Fld := ⟨0x1000000 + n * 0x100000 + 0x1208, 0, 64⟩
/-- `MEM_POISON_STAT.LOG_COUNT`, 10 R323. -/
def Reg.memPoisonStatLogCount (n : Nat) : Fld := ⟨0x1000000 + n * 0x100000 + 0x1210, 0, 5⟩
/-- `MEM_POISON_STAT.OVF`, 10 R323. -/
def Reg.memPoisonStatOvf (n : Nat) : Fld := ⟨0x1000000 + n * 0x100000 + 0x1210, 16, 16⟩
/-- `MEM_POISON_STAT.POP`, 10 R323. -/
def Reg.memPoisonStatPop (n : Nat) : Fld := ⟨0x1000000 + n * 0x100000 + 0x1210, 32, 1⟩
/-- `MEM_POISON_ADDR.ADDR`, 10 R323. -/
def Reg.memPoisonAddrAddr (n : Nat) : Fld := ⟨0x1000000 + n * 0x100000 + 0x1218, 0, 64⟩
/-- `MEM_POISON_TIME.MERIDIAN`, 10 R323. -/
def Reg.memPoisonTimeMeridian (n : Nat) : Fld := ⟨0x1000000 + n * 0x100000 + 0x1220, 0, 64⟩
/-- `MEM_POISON_INFO.PARCEL`, 10 R323. -/
def Reg.memPoisonInfoParcel (n : Nat) : Fld := ⟨0x1000000 + n * 0x100000 + 0x1228, 0, 2⟩
/-- `MEM_POISON_INFO.TIER`, 10 R323. -/
def Reg.memPoisonInfoTier (n : Nat) : Fld := ⟨0x1000000 + n * 0x100000 + 0x1228, 2, 2⟩
/-- `MEM_POISON_INFO.FOUND`, 10 R323. -/
def Reg.memPoisonInfoFound (n : Nat) : Fld := ⟨0x1000000 + n * 0x100000 + 0x1228, 4, 3⟩
/-- `MEM_POISON_INFO.STATION`, 10 R323. -/
def Reg.memPoisonInfoStation (n : Nat) : Fld := ⟨0x1000000 + n * 0x100000 + 0x1228, 8, 7⟩
/-- `MEM_SCRUB_CTL.ENABLE`, 10 R323. -/
def Reg.memScrubCtlEnable (n : Nat) : Fld := ⟨0x1000000 + n * 0x100000 + 0x1280, 0, 1⟩
/-- `MEM_SCRUB_CTL.T1_HOURS`, 10 R323. -/
def Reg.memScrubCtlT1Hours (n : Nat) : Fld := ⟨0x1000000 + n * 0x100000 + 0x1280, 8, 8⟩
/-- `MEM_SCRUB_CTL.T2_HOURS`, 10 R323. -/
def Reg.memScrubCtlT2Hours (n : Nat) : Fld := ⟨0x1000000 + n * 0x100000 + 0x1280, 16, 8⟩
/-- `MEM_SCRUB_CTL.SC_MIN`, 10 R323. -/
def Reg.memScrubCtlScMin (n : Nat) : Fld := ⟨0x1000000 + n * 0x100000 + 0x1280, 24, 8⟩
/-- `MEM_SCRUB_PASSES.T1`, 10 R323. -/
def Reg.memScrubPassesT1 (n : Nat) : Fld := ⟨0x1000000 + n * 0x100000 + 0x1288, 0, 16⟩
/-- `MEM_SCRUB_PASSES.T2`, 10 R323. -/
def Reg.memScrubPassesT2 (n : Nat) : Fld := ⟨0x1000000 + n * 0x100000 + 0x1288, 16, 16⟩
/-- `MEM_SCRUB_PASSES.SC`, 10 R323. -/
def Reg.memScrubPassesSc (n : Nat) : Fld := ⟨0x1000000 + n * 0x100000 + 0x1288, 32, 16⟩
/-- `MEM_TRK_CFG.LOCK_RESV`, 10 R323. -/
def Reg.memTrkCfgLockResv (n : Nat) : Fld := ⟨0x1000000 + n * 0x100000 + 0x1300, 0, 15⟩
/-- `MEM_TRK_CFG.REMOTE_MAX`, 10 R323. -/
def Reg.memTrkCfgRemoteMax (n : Nat) : Fld := ⟨0x1000000 + n * 0x100000 + 0x1300, 16, 15⟩
/-- `MEM_TRK_CFG.REMOTE_PER_DEST`, 10 R323. -/
def Reg.memTrkCfgRemotePerDest (n : Nat) : Fld := ⟨0x1000000 + n * 0x100000 + 0x1300, 32, 9⟩
/-- `MEM_TRK_CFG.STN_MAX`, 10 R323. -/
def Reg.memTrkCfgStnMax (n : Nat) : Fld := ⟨0x1000000 + n * 0x100000 + 0x1300, 48, 8⟩
/-- `MEM_TRK_OCC.TOTAL`, 10 R323. -/
def Reg.memTrkOccTotal (n : Nat) : Fld := ⟨0x1000000 + n * 0x100000 + 0x1308, 0, 15⟩
/-- `MEM_TRK_OCC.LOCK`, 10 R323. -/
def Reg.memTrkOccLock (n : Nat) : Fld := ⟨0x1000000 + n * 0x100000 + 0x1308, 16, 15⟩
/-- `MEM_TRK_OCC.REMOTE`, 10 R323. -/
def Reg.memTrkOccRemote (n : Nat) : Fld := ⟨0x1000000 + n * 0x100000 + 0x1308, 32, 15⟩
/-- `MEM_TRK_STALL.COUNT`, 10 R323. -/
def Reg.memTrkStallCount (n : Nat) : Fld := ⟨0x1000000 + n * 0x100000 + 0x1310, 0, 64⟩
/-- `FD_EDGE_ERRe.REPLAYS`, 10 R323. -/
def Reg.fdEdgeErrReplays (n : Nat) (i : Nat) : Fld := ⟨0x1000000 + n * 0x100000 + 0x1380 + i * 0x8, 0, 32⟩
/-- `FD_EDGE_ERRe.MAX_RUN`, 10 R323. -/
def Reg.fdEdgeErrMaxRun (n : Nat) (i : Nat) : Fld := ⟨0x1000000 + n * 0x100000 + 0x1380 + i * 0x8, 48, 16⟩
/-- `GLB_MEM_REACHp.FIRST`, 10 R324. -/
def Reg.glbMemReachFirst (p : Nat) : Fld := ⟨0x400 + p * 0x100 + 0x70, 0, 18⟩
/-- `GLB_MEM_REACHp.LAST`, 10 R324. -/
def Reg.glbMemReachLast (p : Nat) : Fld := ⟨0x400 + p * 0x100 + 0x70, 18, 18⟩
/-- `GLB_MEM_DOMAINp.DOMAIN`, 10 R324. -/
def Reg.glbMemDomainDomain (p : Nat) : Fld := ⟨0x400 + p * 0x100 + 0x78, 0, 32⟩
/-- `GLB_MEM_DOMAINp.VALID`, 10 R324. -/
def Reg.glbMemDomainValid (p : Nat) : Fld := ⟨0x400 + p * 0x100 + 0x78, 63, 1⟩
/-- `LNK_ETYPE.TYPE`, 11 R371. -/
def Reg.lnkEtypeType (d : Nat) : Fld := ⟨0x2000000 + d * 0x100000 + 0x0, 0, 16⟩
/-- `LNK_MAC_BASE.BASE`, 11 R371. -/
def Reg.lnkMacBaseBase (d : Nat) : Fld := ⟨0x2000000 + d * 0x100000 + 0x8, 20, 28⟩
/-- `LNK_UPLINK_CFG.VID`, 11 R371. -/
def Reg.lnkUplinkCfgVid (d : Nat) : Fld := ⟨0x2000000 + d * 0x100000 + 0x10, 0, 12⟩
/-- `LNK_UPLINK_CFG.FLITS`, 11 R371. -/
def Reg.lnkUplinkCfgFlits (d : Nat) : Fld := ⟨0x2000000 + d * 0x100000 + 0x10, 12, 4⟩
/-- `LNK_UPLINK_CFG.AN`, 11 R371. -/
def Reg.lnkUplinkCfgAn (d : Nat) : Fld := ⟨0x2000000 + d * 0x100000 + 0x10, 16, 4⟩
/-- `LNK_E2E_CFG.RTO`, 11 R371. -/
def Reg.lnkE2eCfgRto (d : Nat) : Fld := ⟨0x2000000 + d * 0x100000 + 0x18, 0, 16⟩
/-- `LNK_E2E_CFG.WINDOW`, 11 R371. -/
def Reg.lnkE2eCfgWindow (d : Nat) : Fld := ⟨0x2000000 + d * 0x100000 + 0x18, 16, 8⟩
/-- `LNK_SW_LAT.TICKS`, 11 R371. -/
def Reg.lnkSwLatTicks (d : Nat) : Fld := ⟨0x2000000 + d * 0x100000 + 0x20, 0, 32⟩
/-- `LNK_VC_WEIGHT.WEIGHT0`, 11 R371. -/
def Reg.lnkVcWeightWeight0 (d : Nat) : Fld := ⟨0x2000000 + d * 0x100000 + 0x28, 0, 8⟩
/-- `LNK_VC_WEIGHT.WEIGHT1`, 11 R371. -/
def Reg.lnkVcWeightWeight1 (d : Nat) : Fld := ⟨0x2000000 + d * 0x100000 + 0x28, 8, 8⟩
/-- `LNK_VC_WEIGHT.WEIGHT2`, 11 R371. -/
def Reg.lnkVcWeightWeight2 (d : Nat) : Fld := ⟨0x2000000 + d * 0x100000 + 0x28, 16, 8⟩
/-- `LNK_VC_WEIGHT.WEIGHT3`, 11 R371. -/
def Reg.lnkVcWeightWeight3 (d : Nat) : Fld := ⟨0x2000000 + d * 0x100000 + 0x28, 24, 8⟩
/-- `LNK_VC_WEIGHT.WEIGHT4`, 11 R371. -/
def Reg.lnkVcWeightWeight4 (d : Nat) : Fld := ⟨0x2000000 + d * 0x100000 + 0x28, 32, 8⟩
/-- `LNK_VC_WEIGHT.WEIGHT5`, 11 R371. -/
def Reg.lnkVcWeightWeight5 (d : Nat) : Fld := ⟨0x2000000 + d * 0x100000 + 0x28, 40, 8⟩
/-- `LNK_VC_WEIGHT.WEIGHT6`, 11 R371. -/
def Reg.lnkVcWeightWeight6 (d : Nat) : Fld := ⟨0x2000000 + d * 0x100000 + 0x28, 48, 8⟩
/-- `LNK_VC_WEIGHT.WEIGHT7`, 11 R371. -/
def Reg.lnkVcWeightWeight7 (d : Nat) : Fld := ⟨0x2000000 + d * 0x100000 + 0x28, 56, 8⟩
/-- `COL_PARCEL_SHARE.WEIGHTq`, 11 R371. -/
def Reg.colParcelShareWeight (d : Nat) (j : Nat) : Fld := ⟨0x2000000 + d * 0x100000 + 0x30, 0 + j * 8, 8⟩
/-- `COL_PARCEL_SHARE.AUTO`, 11 R371. -/
def Reg.colParcelShareAuto (d : Nat) : Fld := ⟨0x2000000 + d * 0x100000 + 0x30, 32, 1⟩
/-- `LNK_E2E_STAT.CONTEXTS`, 11 R371. -/
def Reg.lnkE2eStatContexts (d : Nat) : Fld := ⟨0x2000000 + d * 0x100000 + 0x38, 0, 12⟩
/-- `LNK_E2E_STAT.WAIT`, 11 R371. -/
def Reg.lnkE2eStatWait (d : Nat) : Fld := ⟨0x2000000 + d * 0x100000 + 0x38, 32, 32⟩
/-- `COL_STATUS.ACTIVE`, 11 R371. -/
def Reg.colStatusActive (d : Nat) : Fld := ⟨0x2000000 + d * 0x100000 + 0x40, 0, 5⟩
/-- `COL_TREE_ERR.COUNT`, 11 R371. -/
def Reg.colTreeErrCount (d : Nat) : Fld := ⟨0x2000000 + d * 0x100000 + 0x48, 0, 64⟩
/-- `COL_POISON.COUNT`, 11 R371. -/
def Reg.colPoisonCount (d : Nat) : Fld := ⟨0x2000000 + d * 0x100000 + 0x50, 0, 64⟩
/-- `COL_A2A_DROP.COUNT`, 11 R371. -/
def Reg.colA2aDropCount (d : Nat) : Fld := ⟨0x2000000 + d * 0x100000 + 0x58, 0, 64⟩
/-- `LNK_RX_DISCARD.FILTER`, 11 R371. -/
def Reg.lnkRxDiscardFilter (d : Nat) : Fld := ⟨0x2000000 + d * 0x100000 + 0x60, 0, 32⟩
/-- `LNK_RX_DISCARD.PAUSE`, 11 R371. -/
def Reg.lnkRxDiscardPause (d : Nat) : Fld := ⟨0x2000000 + d * 0x100000 + 0x60, 32, 32⟩
/-- `LNK_CFG.ENABLE`, 11 R372. -/
def Reg.lnkCfgEnable (k : Nat) : Fld := ⟨0x2010000 + (k / 8) * 0x100000 + (k % 8) * 0x1000 + 0x0, 0, 1⟩
/-- `LNK_CFG.LANE_MASK`, 11 R372. -/
def Reg.lnkCfgLaneMask (k : Nat) : Fld := ⟨0x2010000 + (k / 8) * 0x100000 + (k % 8) * 0x1000 + 0x0, 1, 4⟩
/-- `LNK_CFG.REJOIN`, 11 R372. -/
def Reg.lnkCfgRejoin (k : Nat) : Fld := ⟨0x2010000 + (k / 8) * 0x100000 + (k % 8) * 0x1000 + 0x0, 8, 4⟩
/-- `LNK_CFG.UNCORR_MAX`, 11 R372. -/
def Reg.lnkCfgUncorrMax (k : Nat) : Fld := ⟨0x2010000 + (k / 8) * 0x100000 + (k % 8) * 0x1000 + 0x0, 24, 8⟩
/-- `LNK_STATUS.STATE`, 11 R372. -/
def Reg.lnkStatusState (k : Nat) : Fld := ⟨0x2010000 + (k / 8) * 0x100000 + (k % 8) * 0x1000 + 0x8, 0, 3⟩
/-- `LNK_STATUS.LANES`, 11 R372. -/
def Reg.lnkStatusLanes (k : Nat) : Fld := ⟨0x2010000 + (k / 8) * 0x100000 + (k % 8) * 0x1000 + 0x8, 4, 4⟩
/-- `LNK_STATUS.RETIRED`, 11 R372. -/
def Reg.lnkStatusRetired (k : Nat) : Fld := ⟨0x2010000 + (k / 8) * 0x100000 + (k % 8) * 0x1000 + 0x8, 8, 4⟩
/-- `LNK_STATUS.PARTNER`, 11 R372. -/
def Reg.lnkStatusPartner (k : Nat) : Fld := ⟨0x2010000 + (k / 8) * 0x100000 + (k % 8) * 0x1000 + 0x8, 12, 18⟩
/-- `LNK_STATUS.PARTNER_PORT`, 11 R372. -/
def Reg.lnkStatusPartnerPort (k : Nat) : Fld := ⟨0x2010000 + (k / 8) * 0x100000 + (k % 8) * 0x1000 + 0x8, 30, 4⟩
/-- `LNK_FEC.CORR`, 11 R372. -/
def Reg.lnkFecCorr (k : Nat) : Fld := ⟨0x2010000 + (k / 8) * 0x100000 + (k % 8) * 0x1000 + 0x10, 0, 32⟩
/-- `LNK_FEC.UNCORR`, 11 R372. -/
def Reg.lnkFecUncorr (k : Nat) : Fld := ⟨0x2010000 + (k / 8) * 0x100000 + (k % 8) * 0x1000 + 0x10, 32, 32⟩
/-- `LNK_REPLAY.FLITS`, 11 R372. -/
def Reg.lnkReplayFlits (k : Nat) : Fld := ⟨0x2010000 + (k / 8) * 0x100000 + (k % 8) * 0x1000 + 0x18, 0, 32⟩
/-- `LNK_REPLAY.CRC_ERR`, 11 R372. -/
def Reg.lnkReplayCrcErr (k : Nat) : Fld := ⟨0x2010000 + (k / 8) * 0x100000 + (k % 8) * 0x1000 + 0x18, 32, 16⟩
/-- `LNK_REPLAY.RETRAINS`, 11 R372. -/
def Reg.lnkReplayRetrains (k : Nat) : Fld := ⟨0x2010000 + (k / 8) * 0x100000 + (k % 8) * 0x1000 + 0x18, 48, 16⟩
/-- `LNK_CREDIT_WAITv.COUNT`, 11 R372. -/
def Reg.lnkCreditWaitCount (k : Nat) (i : Nat) : Fld := ⟨0x2010000 + (k / 8) * 0x100000 + (k % 8) * 0x1000 + 0x20 + i * 0x8, 0, 64⟩
/-- `LNK_TX_FLITS.COUNT`, 11 R372. -/
def Reg.lnkTxFlitsCount (k : Nat) : Fld := ⟨0x2010000 + (k / 8) * 0x100000 + (k % 8) * 0x1000 + 0x60, 0, 64⟩
/-- `LNK_RX_FLITS.COUNT`, 11 R372. -/
def Reg.lnkRxFlitsCount (k : Nat) : Fld := ⟨0x2010000 + (k / 8) * 0x100000 + (k % 8) * 0x1000 + 0x68, 0, 64⟩
/-- `AU_QCFG.RING`, 12 R399. -/
def Reg.auQcfgRing (n : Nat) : Fld := ⟨0x1000000 + n * 0x100000 + 0x1800, 0, 32⟩
/-- `AU_QCFG.LOG2_ENTRIES`, 12 R399. -/
def Reg.auQcfgLog2Entries (n : Nat) : Fld := ⟨0x1000000 + n * 0x100000 + 0x1800, 32, 4⟩
/-- `AU_QTAIL.OFFSET`, 12 R399. -/
def Reg.auQtailOffset (n : Nat) : Fld := ⟨0x1000000 + n * 0x100000 + 0x1808, 0, 32⟩
/-- `AU_QSTAT.HEAD`, 12 R399. -/
def Reg.auQstatHead (n : Nat) : Fld := ⟨0x1000000 + n * 0x100000 + 0x1810, 0, 32⟩
/-- `AU_QSTAT.BUSY`, 12 R399. -/
def Reg.auQstatBusy (n : Nat) : Fld := ⟨0x1000000 + n * 0x100000 + 0x1810, 32, 1⟩
/-- `AU_QSTAT.HELD`, 12 R399. -/
def Reg.auQstatHeld (n : Nat) : Fld := ⟨0x1000000 + n * 0x100000 + 0x1810, 33, 1⟩
/-- `AU_JRNL.BASE`, 12 R399. -/
def Reg.auJrnlBase (n : Nat) : Fld := ⟨0x1000000 + n * 0x100000 + 0x1818, 0, 40⟩
/-- `AU_RNG_SEED.SEED`, 12 R399. -/
def Reg.auRngSeedSeed (n : Nat) : Fld := ⟨0x1000000 + n * 0x100000 + 0x1820, 0, 64⟩
/-- `AU_RNG_STREAM.STREAM`, 12 R399. -/
def Reg.auRngStreamStream (n : Nat) : Fld := ⟨0x1000000 + n * 0x100000 + 0x1828, 0, 64⟩
/-- `AU_SNAP_BASE.BASE`, 12 R399. -/
def Reg.auSnapBaseBase (n : Nat) : Fld := ⟨0x1000000 + n * 0x100000 + 0x1830, 0, 40⟩
/-- `AU_SNAP_LEN.BYTES`, 12 R399. -/
def Reg.auSnapLenBytes (n : Nat) : Fld := ⟨0x1000000 + n * 0x100000 + 0x1838, 0, 40⟩
/-- `AU_PARAMS_DONE.COUNT`, 12 R399. -/
def Reg.auParamsDoneCount (n : Nat) : Fld := ⟨0x1000000 + n * 0x100000 + 0x1840, 0, 64⟩
/-- `AU_CMDS.COUNT`, 12 R399. -/
def Reg.auCmdsCount (n : Nat) : Fld := ⟨0x1000000 + n * 0x100000 + 0x1848, 0, 64⟩
/-- `AU_POISON_SKIP.COUNT`, 12 R399. -/
def Reg.auPoisonSkipCount (n : Nat) : Fld := ⟨0x1000000 + n * 0x100000 + 0x1850, 0, 64⟩
/-- `AU_NONFIN.COUNT`, 12 R399. -/
def Reg.auNonfinCount (n : Nat) : Fld := ⟨0x1000000 + n * 0x100000 + 0x1858, 0, 64⟩
/-- `AU_SKIPPED.COUNT`, 12 R399. -/
def Reg.auSkippedCount (n : Nat) : Fld := ⟨0x1000000 + n * 0x100000 + 0x1860, 0, 64⟩
/-- `AU_FAULT.CAUSE`, 12 R399. -/
def Reg.auFaultCause (n : Nat) : Fld := ⟨0x1000000 + n * 0x100000 + 0x1868, 0, 8⟩
/-- `AU_FAULT.VALID`, 12 R399. -/
def Reg.auFaultValid (n : Nat) : Fld := ⟨0x1000000 + n * 0x100000 + 0x1868, 8, 1⟩
/-- `AU_FAULT.ENTRY`, 12 R399. -/
def Reg.auFaultEntry (n : Nat) : Fld := ⟨0x1000000 + n * 0x100000 + 0x1868, 32, 32⟩
/-- `GLB_SNAP_CTLp.STEP`, 12 R400. -/
def Reg.glbSnapCtlStep (p : Nat) : Fld := ⟨0x400 + p * 0x100 + 0x80, 0, 32⟩
/-- `GLB_SNAP_CTLp.ARM`, 12 R400. -/
def Reg.glbSnapCtlArm (p : Nat) : Fld := ⟨0x400 + p * 0x100 + 0x80, 32, 1⟩
/-- `GLB_SNAP_CTLp.STATE`, 12 R400. -/
def Reg.glbSnapCtlState (p : Nat) : Fld := ⟨0x400 + p * 0x100 + 0x80, 33, 3⟩
/-- `GLB_SNAP_DESTp.ADDR`, 12 R400. -/
def Reg.glbSnapDestAddr (p : Nat) : Fld := ⟨0x400 + p * 0x100 + 0x88, 0, 64⟩
/-- `GLB_SNAP_STRIDEp.BYTES`, 12 R400. -/
def Reg.glbSnapStrideBytes (p : Nat) : Fld := ⟨0x400 + p * 0x100 + 0x90, 0, 40⟩
/-- `GLB_SNAP_BYTESp.BYTES`, 12 R400. -/
def Reg.glbSnapBytesBytes (p : Nat) : Fld := ⟨0x400 + p * 0x100 + 0x98, 0, 64⟩
/-- `STN_DIG_TERMS.COUNT`, 13 R413. -/
def Reg.stnDigTermsCount (b : Nat) : Fld := ⟨b + 0xD00, 0, 64⟩
/-- `STN_DIG_MARKS.MARKS`, 13 R413. -/
def Reg.stnDigMarksMarks (b : Nat) : Fld := ⟨b + 0xD08, 0, 32⟩
/-- `STN_DIG_MARKS.EMPTY`, 13 R413. -/
def Reg.stnDigMarksEmpty (b : Nat) : Fld := ⟨b + 0xD08, 32, 32⟩
/-- `ING_PARCEL_SHARE.WEIGHTq`, 14 R440. -/
def Reg.ingParcelShareWeight (d : Nat) (j : Nat) : Fld := ⟨0x2200000 + d * 0x100000 + 0x0, 0 + j * 8, 8⟩
/-- `ING_PARCEL_SHARE.AUTO`, 14 R440. -/
def Reg.ingParcelShareAuto (d : Nat) : Fld := ⟨0x2200000 + d * 0x100000 + 0x0, 32, 1⟩
/-- `ING_TS_ERR.SYNC`, 14 R440. -/
def Reg.ingTsErrSync (d : Nat) : Fld := ⟨0x2200000 + d * 0x100000 + 0x8, 0, 16⟩
/-- `ING_TS_ERR.CC`, 14 R440. -/
def Reg.ingTsErrCc (d : Nat) : Fld := ⟨0x2200000 + d * 0x100000 + 0x8, 16, 16⟩
/-- `ING_TS_ERR.TEI`, 14 R440. -/
def Reg.ingTsErrTei (d : Nat) : Fld := ⟨0x2200000 + d * 0x100000 + 0x8, 32, 8⟩
/-- `ING_TS_ERR.SCRAMBLED`, 14 R440. -/
def Reg.ingTsErrScrambled (d : Nat) : Fld := ⟨0x2200000 + d * 0x100000 + 0x8, 40, 8⟩
/-- `ING_TS_ERR.PSI_CRC`, 14 R440. -/
def Reg.ingTsErrPsiCrc (d : Nat) : Fld := ⟨0x2200000 + d * 0x100000 + 0x8, 48, 8⟩
/-- `ING_DEC_STAT.CONTEXTS`, 14 R440. -/
def Reg.ingDecStatContexts (d : Nat) : Fld := ⟨0x2200000 + d * 0x100000 + 0x10, 0, 8⟩
/-- `ING_NVME_CFG.BIFURCATE`, 14 R440. -/
def Reg.ingNvmeCfgBifurcate (d : Nat) : Fld := ⟨0x2200000 + d * 0x100000 + 0x18, 0, 1⟩
/-- `ING_NVME_STAT.PRESENT`, 14 R440. -/
def Reg.ingNvmeStatPresent (d : Nat) : Fld := ⟨0x2200000 + d * 0x100000 + 0x20, 0, 16⟩
/-- `ING_NVME_STAT.LOST`, 14 R440. -/
def Reg.ingNvmeStatLost (d : Nat) : Fld := ⟨0x2200000 + d * 0x100000 + 0x20, 16, 16⟩
/-- `ING_NVME_STAT.READ_ERR`, 14 R440. -/
def Reg.ingNvmeStatReadErr (d : Nat) : Fld := ⟨0x2200000 + d * 0x100000 + 0x20, 32, 32⟩
/-- `ING_JOB_ADDRq.ADDR`, 14 R440. -/
def Reg.ingJobAddrAddr (d : Nat) (i : Nat) : Fld := ⟨0x2200000 + d * 0x100000 + 0x100 + i * 0x40, 0, 64⟩
/-- `ING_JOB_CTLq.START`, 14 R440. -/
def Reg.ingJobCtlStart (d : Nat) (i : Nat) : Fld := ⟨0x2200000 + d * 0x100000 + 0x108 + i * 0x40, 0, 1⟩
/-- `ING_JOB_CTLq.STOP`, 14 R440. -/
def Reg.ingJobCtlStop (d : Nat) (i : Nat) : Fld := ⟨0x2200000 + d * 0x100000 + 0x108 + i * 0x40, 1, 1⟩
/-- `ING_JOB_CTLq.STATE`, 14 R440. -/
def Reg.ingJobCtlState (d : Nat) (i : Nat) : Fld := ⟨0x2200000 + d * 0x100000 + 0x108 + i * 0x40, 2, 2⟩
/-- `ING_JOB_CTLq.ERR_OFF`, 14 R440. -/
def Reg.ingJobCtlErrOff (d : Nat) (i : Nat) : Fld := ⟨0x2200000 + d * 0x100000 + 0x108 + i * 0x40, 8, 8⟩
/-- `ING_JOB_STEPq.STEP`, 14 R440. -/
def Reg.ingJobStepStep (d : Nat) (i : Nat) : Fld := ⟨0x2200000 + d * 0x100000 + 0x110 + i * 0x40, 0, 64⟩
/-- `ING_JOB_STATq.FRAMES`, 14 R440. -/
def Reg.ingJobStatFrames (d : Nat) (i : Nat) : Fld := ⟨0x2200000 + d * 0x100000 + 0x118 + i * 0x40, 0, 32⟩
/-- `ING_JOB_STATq.BEHIND`, 14 R440. -/
def Reg.ingJobStatBehind (d : Nat) (i : Nat) : Fld := ⟨0x2200000 + d * 0x100000 + 0x118 + i * 0x40, 32, 16⟩
/-- `ING_JOB_STATq.BAD_CLIP`, 14 R440. -/
def Reg.ingJobStatBadClip (d : Nat) (i : Nat) : Fld := ⟨0x2200000 + d * 0x100000 + 0x118 + i * 0x40, 48, 8⟩
/-- `ING_JOB_STATq.DISCARD`, 14 R440. -/
def Reg.ingJobStatDiscard (d : Nat) (i : Nat) : Fld := ⟨0x2200000 + d * 0x100000 + 0x118 + i * 0x40, 56, 8⟩
/-- `ING_JOB_BADq.BAD`, 14 R440. -/
def Reg.ingJobBadBad (d : Nat) (i : Nat) : Fld := ⟨0x2200000 + d * 0x100000 + 0x120 + i * 0x40, 0, 32⟩
/-- `ING_JOB_BADq.EMPTY`, 14 R440. -/
def Reg.ingJobBadEmpty (d : Nat) (i : Nat) : Fld := ⟨0x2200000 + d * 0x100000 + 0x120 + i * 0x40, 32, 32⟩
/-- `FD_RSTK_CFG.INLOG_OFF`, 15 R468. -/
def Reg.fdRstkCfgInlogOff (n : Nat) : Fld := ⟨0x1000000 + n * 0x100000 + 0x1900, 0, 32⟩
/-- `FD_RSTK_CFG.INLOG_KIB`, 15 R468. -/
def Reg.fdRstkCfgInlogKib (n : Nat) : Fld := ⟨0x1000000 + n * 0x100000 + 0x1900, 32, 16⟩
/-- `FD_RSTK_STAT.RESTAKES`, 15 R468. -/
def Reg.fdRstkStatRestakes (n : Nat) : Fld := ⟨0x1000000 + n * 0x100000 + 0x1908, 0, 16⟩
/-- `FD_RSTK_STAT.LEGS`, 15 R468. -/
def Reg.fdRstkStatLegs (n : Nat) : Fld := ⟨0x1000000 + n * 0x100000 + 0x1908, 16, 16⟩
/-- `FD_RSTK_STAT.ESCALATED`, 15 R468. -/
def Reg.fdRstkStatEscalated (n : Nat) : Fld := ⟨0x1000000 + n * 0x100000 + 0x1908, 32, 16⟩
/-- `FD_RSTK_STAT.ERRORS`, 15 R468. -/
def Reg.fdRstkStatErrors (n : Nat) : Fld := ⟨0x1000000 + n * 0x100000 + 0x1908, 48, 16⟩
/-- `FD_RSTK_LAST.PHYS`, 15 R468. -/
def Reg.fdRstkLastPhys (n : Nat) : Fld := ⟨0x1000000 + n * 0x100000 + 0x1910, 0, 8⟩
/-- `FD_RSTK_LAST.LOGICAL`, 15 R468. -/
def Reg.fdRstkLastLogical (n : Nat) : Fld := ⟨0x1000000 + n * 0x100000 + 0x1910, 8, 7⟩
/-- `FD_RSTK_LAST.SPARE`, 15 R468. -/
def Reg.fdRstkLastSpare (n : Nat) : Fld := ⟨0x1000000 + n * 0x100000 + 0x1910, 16, 8⟩
/-- `FD_RSTK_LAST.LEGS`, 15 R468. -/
def Reg.fdRstkLastLegs (n : Nat) : Fld := ⟨0x1000000 + n * 0x100000 + 0x1910, 24, 8⟩
/-- `FD_RSTK_LAST.DELAY`, 15 R468. -/
def Reg.fdRstkLastDelay (n : Nat) : Fld := ⟨0x1000000 + n * 0x100000 + 0x1910, 32, 32⟩
/-- `FD_RSTK_UNREP0.MASK`, 15 R468. -/
def Reg.fdRstkUnrep0Mask (n : Nat) : Fld := ⟨0x1000000 + n * 0x100000 + 0x1918, 0, 64⟩
/-- `FD_RSTK_UNREP1.MASK`, 15 R468. -/
def Reg.fdRstkUnrep1Mask (n : Nat) : Fld := ⟨0x1000000 + n * 0x100000 + 0x1920, 0, 64⟩
/-- `FD_RETURN_CTL.PHYS`, 15 R468. -/
def Reg.fdReturnCtlPhys (n : Nat) : Fld := ⟨0x1000000 + n * 0x100000 + 0x1928, 0, 8⟩
/-- `FD_RETURN_CTL.START`, 15 R468. -/
def Reg.fdReturnCtlStart (n : Nat) : Fld := ⟨0x1000000 + n * 0x100000 + 0x1928, 8, 1⟩
/-- `FD_RETURN_CTL.STATE`, 15 R468. -/
def Reg.fdReturnCtlState (n : Nat) : Fld := ⟨0x1000000 + n * 0x100000 + 0x1928, 9, 2⟩
/-- `FD_RETIRE_INFO.CAUSE`, 15 R468. -/
def Reg.fdRetireInfoCause (n : Nat) : Fld := ⟨0x1000000 + n * 0x100000 + 0x1930, 0, 2⟩
/-- `FD_RETIRE_INFO.MEM_AVAIL`, 15 R468. -/
def Reg.fdRetireInfoMemAvail (n : Nat) : Fld := ⟨0x1000000 + n * 0x100000 + 0x1930, 2, 1⟩
/-- `FD_RETIRE_TIME.MERIDIAN`, 15 R468. -/
def Reg.fdRetireTimeMeridian (n : Nat) : Fld := ⟨0x1000000 + n * 0x100000 + 0x1938, 0, 64⟩
/-- `FD_SHD_CFG.MODE`, 15 R468. -/
def Reg.fdShdCfgMode (n : Nat) : Fld := ⟨0x1000000 + n * 0x100000 + 0x1A00, 0, 2⟩
/-- `FD_SHD_CFG.BLOCKS`, 15 R468. -/
def Reg.fdShdCfgBlocks (n : Nat) : Fld := ⟨0x1000000 + n * 0x100000 + 0x1A00, 8, 32⟩
/-- `FD_SHD_AREA.BASE`, 15 R468. -/
def Reg.fdShdAreaBase (n : Nat) : Fld := ⟨0x1000000 + n * 0x100000 + 0x1A08, 0, 40⟩
/-- `FD_SHD_PEERk.MODULE`, 15 R468. -/
def Reg.fdShdPeerModule (n : Nat) (i : Nat) : Fld := ⟨0x1000000 + n * 0x100000 + 0x1A10 + i * 0x8, 0, 18⟩
/-- `FD_SHD_PEERk.VALID`, 15 R468. -/
def Reg.fdShdPeerValid (n : Nat) (i : Nat) : Fld := ⟨0x1000000 + n * 0x100000 + 0x1A10 + i * 0x8, 63, 1⟩
/-- `FD_SHD_LAND.BASE`, 15 R468. -/
def Reg.fdShdLandBase (n : Nat) : Fld := ⟨0x1000000 + n * 0x100000 + 0x1A50, 0, 40⟩
/-- `FD_SHD_LSTRIDE.STRIDE`, 15 R468. -/
def Reg.fdShdLstrideStride (n : Nat) : Fld := ⟨0x1000000 + n * 0x100000 + 0x1A58, 0, 40⟩
/-- `FD_SHD_SERVEDk.MODULE`, 15 R468. -/
def Reg.fdShdServedModule (n : Nat) (i : Nat) : Fld := ⟨0x1000000 + n * 0x100000 + 0x1A60 + i * 0x8, 0, 18⟩
/-- `FD_SHD_SERVEDk.VALID`, 15 R468. -/
def Reg.fdShdServedValid (n : Nat) (i : Nat) : Fld := ⟨0x1000000 + n * 0x100000 + 0x1A60 + i * 0x8, 63, 1⟩
/-- `FD_SHD_STAT.DONE_STEP`, 15 R468. -/
def Reg.fdShdStatDoneStep (n : Nat) : Fld := ⟨0x1000000 + n * 0x100000 + 0x1AA0, 0, 32⟩
/-- `FD_SHD_STAT.VALID`, 15 R468. -/
def Reg.fdShdStatValid (n : Nat) : Fld := ⟨0x1000000 + n * 0x100000 + 0x1AA0, 32, 1⟩
/-- `FD_SHD_STAT.ACKED`, 15 R468. -/
def Reg.fdShdStatAcked (n : Nat) : Fld := ⟨0x1000000 + n * 0x100000 + 0x1AA0, 40, 8⟩
/-- `FD_SHD_STAT.REJECT`, 15 R468. -/
def Reg.fdShdStatReject (n : Nat) : Fld := ⟨0x1000000 + n * 0x100000 + 0x1AA0, 48, 16⟩
/-- `FD_SHD_DONE.STATION`, 15 R468. -/
def Reg.fdShdDoneStation (n : Nat) : Fld := ⟨0x1000000 + n * 0x100000 + 0x1AA8, 0, 16⟩
/-- `FD_SHD_DONE.CTR`, 15 R468. -/
def Reg.fdShdDoneCtr (n : Nat) : Fld := ⟨0x1000000 + n * 0x100000 + 0x1AA8, 16, 4⟩
/-- `FD_SHD_PULL.OWNER`, 15 R468. -/
def Reg.fdShdPullOwner (n : Nat) : Fld := ⟨0x1000000 + n * 0x100000 + 0x1AB0, 0, 18⟩
/-- `FD_SHD_PULL.START`, 15 R468. -/
def Reg.fdShdPullStart (n : Nat) : Fld := ⟨0x1000000 + n * 0x100000 + 0x1AB0, 18, 1⟩
/-- `FD_SHD_PULL.STATE`, 15 R468. -/
def Reg.fdShdPullState (n : Nat) : Fld := ⟨0x1000000 + n * 0x100000 + 0x1AB0, 19, 3⟩
/-- `FD_SHD_PULL.STEP`, 15 R468. -/
def Reg.fdShdPullStep (n : Nat) : Fld := ⟨0x1000000 + n * 0x100000 + 0x1AB0, 32, 32⟩
/-- `GLB_PEER_CTLp.MODULE`, 15 R469. -/
def Reg.glbPeerCtlModule (p : Nat) : Fld := ⟨0x400 + p * 0x100 + 0xA0, 0, 18⟩
/-- `GLB_PEER_CTLp.DISCARD`, 15 R469. -/
def Reg.glbPeerCtlDiscard (p : Nat) : Fld := ⟨0x400 + p * 0x100 + 0xA0, 18, 1⟩
/-- `PWR_IN_A.MV`, 16 R504. -/
def Reg.pwrInAMv : Fld := ⟨0x100000 + 0x0, 0, 16⟩
/-- `PWR_IN_B.MV`, 16 R504. -/
def Reg.pwrInBMv : Fld := ⟨0x100000 + 0x8, 0, 16⟩
/-- `PWR_IN_A.CURRENT`, 16 R504. -/
def Reg.pwrInACurrent : Fld := ⟨0x100000 + 0x0, 16, 16⟩
/-- `PWR_IN_B.CURRENT`, 16 R504. -/
def Reg.pwrInBCurrent : Fld := ⟨0x100000 + 0x8, 16, 16⟩
/-- `PWR_IN_A.MIN_MV`, 16 R504. -/
def Reg.pwrInAMinMv : Fld := ⟨0x100000 + 0x0, 32, 16⟩
/-- `PWR_IN_B.MIN_MV`, 16 R504. -/
def Reg.pwrInBMinMv : Fld := ⟨0x100000 + 0x8, 32, 16⟩
/-- `PWR_IN_A.LOST`, 16 R504. -/
def Reg.pwrInALost : Fld := ⟨0x100000 + 0x0, 48, 1⟩
/-- `PWR_IN_B.LOST`, 16 R504. -/
def Reg.pwrInBLost : Fld := ⟨0x100000 + 0x8, 48, 1⟩
/-- `PWR_INPUT.WATTS`, 16 R504. -/
def Reg.pwrInputWatts : Fld := ⟨0x100000 + 0x10, 0, 16⟩
/-- `PWR_INPUT.PEAK`, 16 R504. -/
def Reg.pwrInputPeak : Fld := ⟨0x100000 + 0x10, 16, 16⟩
/-- `PWR_DIST_CFG.SAG_MV`, 16 R504. -/
def Reg.pwrDistCfgSagMv : Fld := ⟨0x100000 + 0x18, 0, 16⟩
/-- `PWR_DIST_CFG.SWELL_MV`, 16 R504. -/
def Reg.pwrDistCfgSwellMv : Fld := ⟨0x100000 + 0x18, 16, 16⟩
/-- `PWR_DIST_CFG.TRANS_MV`, 16 R504. -/
def Reg.pwrDistCfgTransMv : Fld := ⟨0x100000 + 0x18, 32, 12⟩
/-- `PWR_DIST_CFG.RIPPLE_MV`, 16 R504. -/
def Reg.pwrDistCfgRippleMv : Fld := ⟨0x100000 + 0x18, 44, 12⟩
/-- `PWR_DIST_STAT.COUNT`, 16 R504. -/
def Reg.pwrDistStatCount : Fld := ⟨0x100000 + 0x20, 0, 7⟩
/-- `PWR_DIST_STAT.OVF`, 16 R504. -/
def Reg.pwrDistStatOvf : Fld := ⟨0x100000 + 0x20, 16, 16⟩
/-- `PWR_DIST_STAT.POP`, 16 R504. -/
def Reg.pwrDistStatPop : Fld := ⟨0x100000 + 0x20, 32, 1⟩
/-- `PWR_DIST_H0.START`, 16 R504. -/
def Reg.pwrDistH0Start : Fld := ⟨0x100000 + 0x28, 0, 64⟩
/-- `PWR_DIST_H1.TYPE`, 16 R504. -/
def Reg.pwrDistH1Type : Fld := ⟨0x100000 + 0x30, 0, 4⟩
/-- `PWR_DIST_H1.ENTRY`, 16 R504. -/
def Reg.pwrDistH1Entry : Fld := ⟨0x100000 + 0x30, 4, 2⟩
/-- `PWR_DIST_H1.EXTREME_MV`, 16 R504. -/
def Reg.pwrDistH1ExtremeMv : Fld := ⟨0x100000 + 0x30, 14, 18⟩
/-- `PWR_DIST_H1.DURATION`, 16 R504. -/
def Reg.pwrDistH1Duration : Fld := ⟨0x100000 + 0x30, 32, 32⟩
/-- `PWR_HOLD.CHARGE_PCT`, 16 R504. -/
def Reg.pwrHoldChargePct : Fld := ⟨0x100000 + 0x38, 0, 8⟩
/-- `PWR_HOLD.RIDING`, 16 R504. -/
def Reg.pwrHoldRiding : Fld := ⟨0x100000 + 0x38, 8, 1⟩
/-- `PWR_HOLD.LAST_US`, 16 R504. -/
def Reg.pwrHoldLastUs : Fld := ⟨0x100000 + 0x38, 16, 16⟩
/-- `PWR_HOLD.RIDES`, 16 R504. -/
def Reg.pwrHoldRides : Fld := ⟨0x100000 + 0x38, 32, 16⟩
/-- `PWR_CAP_HOST.WATTS`, 16 R504. -/
def Reg.pwrCapHostWatts : Fld := ⟨0x100000 + 0x40, 0, 16⟩
/-- `PWR_CAP_MGT.WATTS`, 16 R504. -/
def Reg.pwrCapMgtWatts : Fld := ⟨0x100000 + 0x48, 0, 16⟩
/-- `PWR_CAP_PIN.WATTS`, 16 R504. -/
def Reg.pwrCapPinWatts : Fld := ⟨0x100000 + 0x50, 0, 16⟩
/-- `PWR_CAP_RAMP.W_PER_MS`, 16 R504. -/
def Reg.pwrCapRampWPerMs : Fld := ⟨0x100000 + 0x58, 0, 16⟩
/-- `PWR_CAP_PARp.WATTS`, 16 R504. -/
def Reg.pwrCapParWatts (i : Nat) : Fld := ⟨0x100000 + 0x60 + i * 0x8, 0, 16⟩
/-- `PWR_CAP_STATUS.EFFECTIVE`, 16 R504. -/
def Reg.pwrCapStatusEffective : Fld := ⟨0x100000 + 0x80, 0, 16⟩
/-- `PWR_CAP_STATUS.SOURCE`, 16 R504. -/
def Reg.pwrCapStatusSource : Fld := ⟨0x100000 + 0x80, 16, 3⟩
/-- `PWR_CAP_STATUS.CLAMPED`, 16 R504. -/
def Reg.pwrCapStatusClamped : Fld := ⟨0x100000 + 0x80, 19, 1⟩
/-- `PWR_CAP_STATUS.PIN`, 16 R504. -/
def Reg.pwrCapStatusPin : Fld := ⟨0x100000 + 0x80, 20, 1⟩
/-- `PWR_CAP_STATUS.UNMET`, 16 R504. -/
def Reg.pwrCapStatusUnmet : Fld := ⟨0x100000 + 0x80, 32, 16⟩
/-- `PWR_FD_Vn.TARGET_MV`, 16 R504. -/
def Reg.pwrFdVTargetMv (i : Nat) : Fld := ⟨0x100000 + 0x100 + i * 0x8, 0, 10⟩
/-- `PWR_FD_Vn.ACTUAL_MV`, 16 R504. -/
def Reg.pwrFdVActualMv (i : Nat) : Fld := ⟨0x100000 + 0x100 + i * 0x8, 10, 10⟩
/-- `PWR_FD_Vn.FLOOR_MV`, 16 R504. -/
def Reg.pwrFdVFloorMv (i : Nat) : Fld := ⟨0x100000 + 0x100 + i * 0x8, 20, 10⟩
/-- `PWR_FD_Vn.CEIL_MV`, 16 R504. -/
def Reg.pwrFdVCeilMv (i : Nat) : Fld := ⟨0x100000 + 0x100 + i * 0x8, 30, 10⟩
/-- `PWR_FD_Vn.LIMIT`, 16 R504. -/
def Reg.pwrFdVLimit (i : Nat) : Fld := ⟨0x100000 + 0x100 + i * 0x8, 40, 3⟩
/-- `PWR_FD_Vn.TJ`, 16 R504. -/
def Reg.pwrFdVTj (i : Nat) : Fld := ⟨0x100000 + 0x100 + i * 0x8, 48, 8⟩
/-- `PWR_FD_Vn.TLEVEL`, 16 R504. -/
def Reg.pwrFdVTlevel (i : Nat) : Fld := ⟨0x100000 + 0x100 + i * 0x8, 56, 2⟩
/-- `PWR_VREQp.MV`, 16 R504. -/
def Reg.pwrVreqMv (i : Nat) : Fld := ⟨0x100000 + 0x180 + i * 0x8, 0, 10⟩
/-- `PWR_ENERGY_SNAP.SNAP`, 16 R504. -/
def Reg.pwrEnergySnapSnap : Fld := ⟨0x100000 + 0x200, 0, 1⟩
/-- `PWR_SNAP_TIME.MERIDIAN`, 16 R504. -/
def Reg.pwrSnapTimeMeridian : Fld := ⟨0x100000 + 0x208, 0, 64⟩
/-- `PWR_ENERGY_IN.UJ`, 16 R504. -/
def Reg.pwrEnergyInUj : Fld := ⟨0x100000 + 0x210, 0, 64⟩
/-- `PWR_ENERGY_LOSS.UJ`, 16 R504. -/
def Reg.pwrEnergyLossUj : Fld := ⟨0x100000 + 0x218, 0, 64⟩
/-- `PWR_ENERGY_DIEd.UJ`, 16 R504. -/
def Reg.pwrEnergyDieUj (i : Nat) : Fld := ⟨0x100000 + 0x220 + i * 0x8, 0, 64⟩
/-- `PWR_ENERGY_PARp.UJ`, 16 R504. -/
def Reg.pwrEnergyParUj (i : Nat) : Fld := ⟨0x100000 + 0x2C0 + i * 0x8, 0, 64⟩
/-- `PWR_ENERGY_FINALp.UJ`, 16 R504. -/
def Reg.pwrEnergyFinalUj (i : Nat) : Fld := ⟨0x100000 + 0x2E0 + i * 0x8, 0, 64⟩
/-- `PWR_FINAL_TIMEp.MERIDIAN`, 16 R504. -/
def Reg.pwrFinalTimeMeridian (i : Nat) : Fld := ⟨0x100000 + 0x300 + i * 0x8, 0, 64⟩
/-- `MER_NOW.VALUE`, 16 R505. -/
def Reg.merNowValue : Fld := ⟨0x200000 + 0x0, 0, 64⟩
/-- `MER_CTL.SRC`, 16 R505. -/
def Reg.merCtlSrc : Fld := ⟨0x200000 + 0x8, 0, 2⟩
/-- `MER_CTL.PORT`, 16 R505. -/
def Reg.merCtlPort : Fld := ⟨0x200000 + 0x8, 2, 4⟩
/-- `MER_CTL.ALT_PORT`, 16 R505. -/
def Reg.merCtlAltPort : Fld := ⟨0x200000 + 0x8, 6, 4⟩
/-- `MER_CTL.PTP_PLANE`, 16 R505. -/
def Reg.merCtlPtpPlane : Fld := ⟨0x200000 + 0x8, 10, 2⟩
/-- `MER_CTL.STEP_EN`, 16 R505. -/
def Reg.merCtlStepEn : Fld := ⟨0x200000 + 0x8, 12, 1⟩
/-- `MER_CTL.REF_OUT_EN`, 16 R505. -/
def Reg.merCtlRefOutEn : Fld := ⟨0x200000 + 0x8, 13, 1⟩
/-- `MER_STATUS.STATE`, 16 R505. -/
def Reg.merStatusState : Fld := ⟨0x200000 + 0x10, 0, 3⟩
/-- `MER_STATUS.SRC_ACTIVE`, 16 R505. -/
def Reg.merStatusSrcActive : Fld := ⟨0x200000 + 0x10, 3, 2⟩
/-- `MER_STATUS.PORT_ACTIVE`, 16 R505. -/
def Reg.merStatusPortActive : Fld := ⟨0x200000 + 0x10, 5, 4⟩
/-- `MER_STATUS.OFFSET_PS`, 16 R505. -/
def Reg.merStatusOffsetPs : Fld := ⟨0x200000 + 0x10, 32, 32⟩
/-- `MER_SERVO.SLEW_PPM`, 16 R505. -/
def Reg.merServoSlewPpm : Fld := ⟨0x200000 + 0x18, 0, 10⟩
/-- `MER_SERVO.RESYNC_PPM`, 16 R505. -/
def Reg.merServoResyncPpm : Fld := ⟨0x200000 + 0x18, 16, 10⟩
/-- `MER_SET.VALUE`, 16 R505. -/
def Reg.merSetValue : Fld := ⟨0x200000 + 0x20, 0, 64⟩
/-- `MER_REF_DELAY.PS`, 16 R505. -/
def Reg.merRefDelayPs : Fld := ⟨0x200000 + 0x28, 0, 32⟩
/-- `MER_EPOCH_OFF.TICKS`, 16 R505. -/
def Reg.merEpochOffTicks : Fld := ⟨0x200000 + 0x30, 0, 64⟩
/-- `MER_PTP_CFG.LOG_SYNC`, 16 R505. -/
def Reg.merPtpCfgLogSync : Fld := ⟨0x200000 + 0x38, 0, 8⟩
/-- `MER_PTP_CFG.DOMAIN`, 16 R505. -/
def Reg.merPtpCfgDomain : Fld := ⟨0x200000 + 0x38, 8, 8⟩
/-- `MER_PTP_MAC.MAC`, 16 R505. -/
def Reg.merPtpMacMac : Fld := ⟨0x200000 + 0x40, 0, 48⟩
/-- `MER_STEPS.STEPS`, 16 R505. -/
def Reg.merStepsSteps : Fld := ⟨0x200000 + 0x48, 0, 16⟩
/-- `MER_STEPS.DISCARD`, 16 R505. -/
def Reg.merStepsDiscard : Fld := ⟨0x200000 + 0x48, 16, 16⟩
/-- `MER_PORT_OFFk.OFFSET_PS`, 16 R505. -/
def Reg.merPortOffOffsetPs (i : Nat) : Fld := ⟨0x200000 + 0x80 + i * 0x8, 0, 32⟩
/-- `MER_PORT_OFFk.ASYM_PS`, 16 R505. -/
def Reg.merPortOffAsymPs (i : Nat) : Fld := ⟨0x200000 + 0x80 + i * 0x8, 32, 16⟩
/-- `MER_PORT_OFFk.RESYNCS`, 16 R505. -/
def Reg.merPortOffResyncs (i : Nat) : Fld := ⟨0x200000 + 0x80 + i * 0x8, 48, 16⟩
/-- `FD_STN_RESET0.MASK`, 17 R512. -/
def Reg.fdStnReset0Mask (n : Nat) : Fld := ⟨0x1000000 + n * 0x100000 + 0x180, 0, 64⟩
/-- `FD_STN_RESET1.MASK`, 17 R512. -/
def Reg.fdStnReset1Mask (n : Nat) : Fld := ⟨0x1000000 + n * 0x100000 + 0x188, 0, 64⟩
/-- `GLB_RESET.COLD`, 17 R513. -/
def Reg.glbResetCold : Fld := ⟨0x30, 0, 1⟩
/-- `GLB_RESET.WARM`, 17 R513. -/
def Reg.glbResetWarm : Fld := ⟨0x30, 1, 1⟩
/-- `GLB_RESET.PARCEL`, 17 R513. -/
def Reg.glbResetParcel : Fld := ⟨0x30, 4, 4⟩
/-- `GLB_RESET_CAUSE.KIND`, 17 R513. -/
def Reg.glbResetCauseKind : Fld := ⟨0x38, 0, 4⟩
/-- `GLB_RESET_CAUSE.SOURCE`, 17 R513. -/
def Reg.glbResetCauseSource : Fld := ⟨0x38, 4, 4⟩
/-- `GLB_RESET_CAUSE.DISCARD`, 17 R513. -/
def Reg.glbResetCauseDiscard : Fld := ⟨0x38, 8, 8⟩
/-- `GLB_RESET_CAUSE.PERST`, 17 R513. -/
def Reg.glbResetCausePerst : Fld := ⟨0x38, 16, 16⟩
/-- `GLB_RESET_CAUSE.APERTURE_DROP`, 17 R513. -/
def Reg.glbResetCauseApertureDrop : Fld := ⟨0x38, 32, 32⟩
/-- `GLB_LP_CTL.PARK`, 17 R516. -/
def Reg.glbLpCtlPark : Fld := ⟨0x40, 0, 16⟩
/-- `GLB_LP_CTL.STANDBY`, 17 R516. -/
def Reg.glbLpCtlStandby : Fld := ⟨0x40, 16, 1⟩
/-- `GLB_LP_CTL.L1_IDLE_US`, 17 R516. -/
def Reg.glbLpCtlL1IdleUs : Fld := ⟨0x40, 32, 16⟩
/-- `GLB_START_STATUS.PKC`, 17 R519. -/
def Reg.glbStartStatusPkc : Fld := ⟨0x48, 0, 1⟩
/-- `GLB_START_STATUS.MESH`, 17 R519. -/
def Reg.glbStartStatusMesh : Fld := ⟨0x48, 1, 1⟩
/-- `GLB_START_STATUS.T1`, 17 R519. -/
def Reg.glbStartStatusT1 : Fld := ⟨0x48, 2, 1⟩
/-- `GLB_START_STATUS.T2`, 17 R519. -/
def Reg.glbStartStatusT2 : Fld := ⟨0x48, 3, 1⟩
/-- `GLB_START_STATUS.READY`, 17 R519. -/
def Reg.glbStartStatusReady : Fld := ⟨0x48, 4, 1⟩
/-- `STN_RB_SEL.OBJECT`, 17 R522. -/
def Reg.stnRbSelObject (b : Nat) : Fld := ⟨b + 0xE00, 0, 8⟩
/-- `STN_RB_SEL.OFFSET`, 17 R522. -/
def Reg.stnRbSelOffset (b : Nat) : Fld := ⟨b + 0xE00, 8, 32⟩
/-- `STN_RB_STATUS.VALID`, 17 R522. -/
def Reg.stnRbStatusValid (b : Nat) : Fld := ⟨b + 0xE08, 0, 1⟩
/-- `STN_RB_STATUS.ERR`, 17 R522. -/
def Reg.stnRbStatusErr (b : Nat) : Fld := ⟨b + 0xE08, 1, 2⟩
/-- `STN_RB_STATUS.POISON`, 17 R522. -/
def Reg.stnRbStatusPoison (b : Nat) : Fld := ⟨b + 0xE08, 3, 1⟩
/-- `STN_RB_STATUS.SIZE`, 17 R522. -/
def Reg.stnRbStatusSize (b : Nat) : Fld := ⟨b + 0xE08, 32, 32⟩
/-- `STN_RB_DATA.DATA`, 17 R522. -/
def Reg.stnRbDataData (b : Nat) (i : Nat) : Fld := ⟨b + 0xF00 + i * 0x8, 0, 64⟩
/-- `FD_EDGE_CREDe.REQ`, 17 R524. -/
def Reg.fdEdgeCredReq (n : Nat) (i : Nat) : Fld := ⟨0x1000000 + n * 0x100000 + 0x13A0 + i * 0x8, 0, 6⟩
/-- `FD_EDGE_CREDe.RSP`, 17 R524. -/
def Reg.fdEdgeCredRsp (n : Nat) (i : Nat) : Fld := ⟨0x1000000 + n * 0x100000 + 0x13A0 + i * 0x8, 8, 6⟩
/-- `FD_EDGE_CREDe.SNP`, 17 R524. -/
def Reg.fdEdgeCredSnp (n : Nat) (i : Nat) : Fld := ⟨0x1000000 + n * 0x100000 + 0x13A0 + i * 0x8, 16, 5⟩
/-- `FD_EDGE_CREDe.LOCK`, 17 R524. -/
def Reg.fdEdgeCredLock (n : Nat) (i : Nat) : Fld := ⟨0x1000000 + n * 0x100000 + 0x13A0 + i * 0x8, 24, 5⟩
/-- `LNK_CREDIT0.VC`, 17 R524. -/
def Reg.lnkCredit0Vc (k : Nat) (j : Nat) : Fld := ⟨0x2010000 + (k / 8) * 0x100000 + (k % 8) * 0x1000 + 0x70, 0 + j * 16, 16⟩
/-- `LNK_CREDIT1.VC`, 17 R524. -/
def Reg.lnkCredit1Vc (k : Nat) (j : Nat) : Fld := ⟨0x2010000 + (k / 8) * 0x100000 + (k % 8) * 0x1000 + 0x78, 0 + j * 16, 16⟩
/-- `GLB_ARB_STATUS.COUNT`, 18 R538. -/
def Reg.glbArbStatusCount : Fld := ⟨0x50, 0, 16⟩
/-- `GLB_ARB_STATUS.LOSER`, 18 R538. -/
def Reg.glbArbStatusLoser : Fld := ⟨0x50, 16, 2⟩
/-- `GLB_ARB_STATUS.CLASS`, 18 R538. -/
def Reg.glbArbStatusClass : Fld := ⟨0x50, 18, 2⟩
/-- `GLB_ARB_STATUS.FUNC`, 18 R538. -/
def Reg.glbArbStatusFunc : Fld := ⟨0x50, 20, 4⟩
/-- `GLB_ARB_STATUS.OFFSET`, 18 R538. -/
def Reg.glbArbStatusOffset : Fld := ⟨0x50, 24, 26⟩
/-- `GLB_ARB_VALUE.VALUE`, 18 R538. -/
def Reg.glbArbValueValue : Fld := ⟨0x58, 0, 64⟩
/-- `NFC_CTL.ADDR`, 18 R549. -/
def Reg.nfcCtlAddr : Fld := ⟨0x600000 + 0x0, 0, 13⟩
/-- `NFC_CTL.LEN`, 18 R549. -/
def Reg.nfcCtlLen : Fld := ⟨0x600000 + 0x0, 16, 6⟩
/-- `NFC_CTL.WRITE`, 18 R549. -/
def Reg.nfcCtlWrite : Fld := ⟨0x600000 + 0x0, 24, 1⟩
/-- `NFC_CTL.KEEP`, 18 R549. -/
def Reg.nfcCtlKeep : Fld := ⟨0x600000 + 0x0, 25, 1⟩
/-- `NFC_CTL.GO`, 18 R549. -/
def Reg.nfcCtlGo : Fld := ⟨0x600000 + 0x0, 26, 1⟩
/-- `NFC_STATUS.BUSY`, 18 R549. -/
def Reg.nfcStatusBusy : Fld := ⟨0x600000 + 0x8, 0, 1⟩
/-- `NFC_STATUS.ERR`, 18 R549. -/
def Reg.nfcStatusErr : Fld := ⟨0x600000 + 0x8, 1, 2⟩
/-- `NFC_STATUS.LOCK`, 18 R549. -/
def Reg.nfcStatusLock : Fld := ⟨0x600000 + 0x8, 3, 1⟩
/-- `NFC_STATUS.RF_FIELD`, 18 R549. -/
def Reg.nfcStatusRfField : Fld := ⟨0x600000 + 0x8, 4, 1⟩
/-- `NFC_STATUS.RF_DENIED`, 18 R549. -/
def Reg.nfcStatusRfDenied : Fld := ⟨0x600000 + 0x8, 16, 16⟩
/-- `NFC_DATA.DATA`, 18 R549. -/
def Reg.nfcDataData (i : Nat) : Fld := ⟨0x600000 + 0x100 + i * 0x8, 0, 64⟩
/-- `MGT_SMB_CFG.ADDR`, 18 R549. -/
def Reg.mgtSmbCfgAddr : Fld := ⟨0x400000 + 0x0, 0, 7⟩
/-- `MGT_SMB_CFG.PEC_REQ`, 18 R549. -/
def Reg.mgtSmbCfgPecReq : Fld := ⟨0x400000 + 0x0, 7, 1⟩
/-- `MGT_SMB_STAT.TIMEOUTS`, 18 R549. -/
def Reg.mgtSmbStatTimeouts : Fld := ⟨0x400000 + 0x8, 0, 16⟩
/-- `MGT_SMB_STAT.PEC_ERR`, 18 R549. -/
def Reg.mgtSmbStatPecErr : Fld := ⟨0x400000 + 0x8, 16, 16⟩
/-- `MGT_I2C_STAT.ISOLATED`, 18 R549. -/
def Reg.mgtI2cStatIsolated : Fld := ⟨0x400000 + 0x10, 0, 4⟩
/-- `MGT_I2C_STAT.RESTORE`, 18 R549. -/
def Reg.mgtI2cStatRestore : Fld := ⟨0x400000 + 0x10, 4, 4⟩
/-- `MGT_I2C_STAT.CLEARS`, 18 R549. -/
def Reg.mgtI2cStatClears : Fld := ⟨0x400000 + 0x10, 8, 16⟩
/-- `MGT_SB_STATk.ACTIVE`, 18 R549. -/
def Reg.mgtSbStatActive (i : Nat) : Fld := ⟨0x400000 + 0x40 + i * 0x8, 0, 1⟩
/-- `MGT_SB_STATk.STUCK`, 18 R549. -/
def Reg.mgtSbStatStuck (i : Nat) : Fld := ⟨0x400000 + 0x40 + i * 0x8, 1, 1⟩
/-- `MGT_SB_STATk.GLITCH`, 18 R549. -/
def Reg.mgtSbStatGlitch (i : Nat) : Fld := ⟨0x400000 + 0x40 + i * 0x8, 16, 16⟩
/-- `MGT_SB_STATk.COLLAPSE`, 18 R549. -/
def Reg.mgtSbStatCollapse (i : Nat) : Fld := ⟨0x400000 + 0x40 + i * 0x8, 32, 16⟩
/-- `HIF_TQ_BASEq.ADDR`, 18 R550. -/
def Reg.hifTqBaseAddr (f : Nat) (i : Nat) : Fld := ⟨0x501000 + f * 0x1000 + 0x0 + i * 0x20, 0, 64⟩
/-- `HIF_TQ_CFGq.LOG2_ENTRIES`, 18 R550. -/
def Reg.hifTqCfgLog2Entries (f : Nat) (i : Nat) : Fld := ⟨0x501000 + f * 0x1000 + 0x8 + i * 0x20, 0, 4⟩
/-- `HIF_TQ_CFGq.ENABLE`, 18 R550. -/
def Reg.hifTqCfgEnable (f : Nat) (i : Nat) : Fld := ⟨0x501000 + f * 0x1000 + 0x8 + i * 0x20, 4, 1⟩
/-- `HIF_TQ_CFGq.BAD_DB`, 18 R550. -/
def Reg.hifTqCfgBadDb (f : Nat) (i : Nat) : Fld := ⟨0x501000 + f * 0x1000 + 0x8 + i * 0x20, 16, 16⟩
/-- `HIF_TQ_DBq.TAIL`, 18 R550. -/
def Reg.hifTqDbTail (f : Nat) (i : Nat) : Fld := ⟨0x501000 + f * 0x1000 + 0x10 + i * 0x20, 0, 16⟩
/-- `HIF_TQ_HEADq.HEAD`, 18 R550. -/
def Reg.hifTqHeadHead (f : Nat) (i : Nat) : Fld := ⟨0x501000 + f * 0x1000 + 0x18 + i * 0x20, 0, 16⟩
/-- `HIF_EVQ_BASEr.ADDR`, 18 R550. -/
def Reg.hifEvqBaseAddr (f : Nat) (i : Nat) : Fld := ⟨0x501000 + f * 0x1000 + 0x100 + i * 0x20, 0, 64⟩
/-- `HIF_EVQ_CFGr.LOG2_ENTRIES`, 18 R550. -/
def Reg.hifEvqCfgLog2Entries (f : Nat) (i : Nat) : Fld := ⟨0x501000 + f * 0x1000 + 0x108 + i * 0x20, 0, 4⟩
/-- `HIF_EVQ_CFGr.ENABLE`, 18 R550. -/
def Reg.hifEvqCfgEnable (f : Nat) (i : Nat) : Fld := ⟨0x501000 + f * 0x1000 + 0x108 + i * 0x20, 4, 1⟩
/-- `HIF_EVQ_CFGr.SEV_MASK`, 18 R550. -/
def Reg.hifEvqCfgSevMask (f : Nat) (i : Nat) : Fld := ⟨0x501000 + f * 0x1000 + 0x108 + i * 0x20, 5, 4⟩
/-- `HIF_EVQ_CFGr.VECTOR`, 18 R550. -/
def Reg.hifEvqCfgVector (f : Nat) (i : Nat) : Fld := ⟨0x501000 + f * 0x1000 + 0x108 + i * 0x20, 9, 11⟩
/-- `HIF_EVQ_CFGr.HOLDOFF_US`, 18 R550. -/
def Reg.hifEvqCfgHoldoffUs (f : Nat) (i : Nat) : Fld := ⟨0x501000 + f * 0x1000 + 0x108 + i * 0x20, 20, 12⟩
/-- `HIF_EVQ_HEADr.HEAD`, 18 R550. -/
def Reg.hifEvqHeadHead (f : Nat) (i : Nat) : Fld := ⟨0x501000 + f * 0x1000 + 0x110 + i * 0x20, 0, 16⟩
/-- `HIF_EVQ_STATr.TAIL`, 18 R550. -/
def Reg.hifEvqStatTail (f : Nat) (i : Nat) : Fld := ⟨0x501000 + f * 0x1000 + 0x118 + i * 0x20, 0, 16⟩
/-- `HIF_EVQ_STATr.HELD`, 18 R550. -/
def Reg.hifEvqStatHeld (f : Nat) (i : Nat) : Fld := ⟨0x501000 + f * 0x1000 + 0x118 + i * 0x20, 16, 9⟩
/-- `HIF_EVQ_STATr.LOST`, 18 R550. -/
def Reg.hifEvqStatLost (f : Nat) (i : Nat) : Fld := ⟨0x501000 + f * 0x1000 + 0x118 + i * 0x20, 32, 32⟩
/-- `HIF_BAR2_BASE.ADDR`, 18 R550. -/
def Reg.hifBar2BaseAddr (f : Nat) : Fld := ⟨0x501000 + f * 0x1000 + 0x200, 0, 64⟩
/-- `SEC_STATUS.LIFECYCLE`, 19 R578. -/
def Reg.secStatusLifecycle : Fld := ⟨0x300000 + 0x0, 0, 2⟩
/-- `SEC_STATUS.APPROVED`, 19 R578. -/
def Reg.secStatusApproved : Fld := ⟨0x300000 + 0x0, 2, 1⟩
/-- `SEC_STATUS.ROT_ERROR`, 19 R578. -/
def Reg.secStatusRotError : Fld := ⟨0x300000 + 0x0, 3, 1⟩
/-- `SEC_STATUS.TOKEN_RESULT`, 19 R578. -/
def Reg.secStatusTokenResult : Fld := ⟨0x300000 + 0x0, 4, 4⟩
/-- `SEC_STATUS.TOKEN_FAILS`, 19 R578. -/
def Reg.secStatusTokenFails : Fld := ⟨0x300000 + 0x0, 8, 8⟩
/-- `SEC_LOCK.LOCK`, 19 R578. -/
def Reg.secLockLock : Fld := ⟨0x300000 + 0x8, 0, 1⟩
/-- `SEC_CTL.NONCE_REQ`, 19 R578. -/
def Reg.secCtlNonceReq : Fld := ⟨0x300000 + 0x10, 0, 1⟩
/-- `SEC_CTL.SUBMIT`, 19 R578. -/
def Reg.secCtlSubmit : Fld := ⟨0x300000 + 0x10, 1, 1⟩
/-- `SEC_CTL.RELOCK`, 19 R578. -/
def Reg.secCtlRelock : Fld := ⟨0x300000 + 0x10, 2, 1⟩
/-- `SEC_CTL.SVN_COMMIT`, 19 R578. -/
def Reg.secCtlSvnCommit : Fld := ⟨0x300000 + 0x10, 3, 1⟩
/-- `SEC_CTL.TO_FIELD`, 19 R578. -/
def Reg.secCtlToField : Fld := ⟨0x300000 + 0x10, 4, 1⟩
/-- `SEC_GRANTS.SCOPE`, 19 R578. -/
def Reg.secGrantsScope : Fld := ⟨0x300000 + 0x18, 0, 8⟩
/-- `SEC_GRANTS.SIGNER`, 19 R578. -/
def Reg.secGrantsSigner : Fld := ⟨0x300000 + 0x18, 8, 2⟩
/-- `SEC_GRANTS.REMAIN_S`, 19 R578. -/
def Reg.secGrantsRemainS : Fld := ⟨0x300000 + 0x18, 16, 32⟩
/-- `SEC_NONCEi.BYTES`, 19 R578. -/
def Reg.secNonceBytes (i : Nat) : Fld := ⟨0x300000 + 0x20 + i * 0x8, 0, 64⟩
/-- `SEC_SVN.PKC_FUSED`, 19 R578. -/
def Reg.secSvnPkcFused : Fld := ⟨0x300000 + 0x40, 0, 6⟩
/-- `SEC_SVN.ING_FUSED`, 19 R578. -/
def Reg.secSvnIngFused : Fld := ⟨0x300000 + 0x40, 8, 6⟩
/-- `SEC_SVN.PKC_RUN`, 19 R578. -/
def Reg.secSvnPkcRun : Fld := ⟨0x300000 + 0x40, 16, 6⟩
/-- `SEC_SVN.ING_RUN`, 19 R578. -/
def Reg.secSvnIngRun : Fld := ⟨0x300000 + 0x40, 24, 6⟩
/-- `SEC_KEYS.ERF_REVOKED`, 19 R578. -/
def Reg.secKeysErfRevoked : Fld := ⟨0x300000 + 0x48, 0, 4⟩
/-- `SEC_KEYS.OWNER_REVOKED`, 19 R578. -/
def Reg.secKeysOwnerRevoked : Fld := ⟨0x300000 + 0x48, 4, 4⟩
/-- `SEC_KEYS.OWNER_COSIGN`, 19 R578. -/
def Reg.secKeysOwnerCosign : Fld := ⟨0x300000 + 0x48, 8, 1⟩
/-- `SEC_KEYS.VENDOR_OK`, 19 R578. -/
def Reg.secKeysVendorOk : Fld := ⟨0x300000 + 0x48, 9, 1⟩
/-- `SEC_TENANT_CLEAR.PARCEL`, 19 R578. -/
def Reg.secTenantClearParcel : Fld := ⟨0x300000 + 0x50, 0, 4⟩
/-- `SEC_TENANT_CLEAR.WIPE_DRAM`, 19 R578. -/
def Reg.secTenantClearWipeDram : Fld := ⟨0x300000 + 0x50, 4, 1⟩
/-- `SEC_TENANT_CLEAR.BUSY`, 19 R578. -/
def Reg.secTenantClearBusy : Fld := ⟨0x300000 + 0x50, 8, 4⟩
/-- `SEC_TOKEN.DATA`, 19 R578. -/
def Reg.secTokenData (i : Nat) : Fld := ⟨0x300000 + 0x100 + i * 0x8, 0, 64⟩
/-- `SEC_TOKEN_KEY.DATA`, 19 R578. -/
def Reg.secTokenKeyData (i : Nat) : Fld := ⟨0x300000 + 0x200 + i * 0x8, 0, 64⟩
/-- `GLB_ID.ID`, 00 R2. -/
def Reg.glbIdId : Fld := ⟨0x0, 0, 64⟩
/-- `GLB_MODULE_NUM.MODULE`, 01 R34. -/
def Reg.glbModuleNumModule : Fld := ⟨0x10, 0, 18⟩
/-- `GLB_MODULE_NUM.VALID`, 01 R34. -/
def Reg.glbModuleNumValid : Fld := ⟨0x10, 63, 1⟩
/-- `GLB_PARCEL_CFG.SPLIT`, 01 R37. -/
def Reg.glbParcelCfgSplit : Fld := ⟨0x20, 0, 3⟩
/-- `GLB_PARCEL_CFG.COUNT`, 01 R37. -/
def Reg.glbParcelCfgCount : Fld := ⟨0x20, 8, 3⟩
/-- `GLB_PARCEL_CFG.CLEARING`, 01 R37. -/
def Reg.glbParcelCfgClearing : Fld := ⟨0x20, 16, 1⟩
/-- `FD_STN_MAP.PHYS`, 01 R27. -/
def Reg.fdStnMapPhys (n : Nat) (i : Nat) (j : Nat) : Fld := ⟨0x1000000 + n * 0x100000 + 0x100 + i * 0x8, 0 + j * 8, 8⟩
/-- `FD_STATUS.ENABLED`, 01 R28. -/
def Reg.fdStatusEnabled (n : Nat) : Fld := ⟨0x1000000 + n * 0x100000 + 0x0, 0, 8⟩
/-- `FD_STATUS.SPARES_LEFT`, 01 R28. -/
def Reg.fdStatusSparesLeft (n : Nat) : Fld := ⟨0x1000000 + n * 0x100000 + 0x0, 8, 8⟩
/-- `FD_STATUS.FAILED`, 01 R28. -/
def Reg.fdStatusFailed (n : Nat) : Fld := ⟨0x1000000 + n * 0x100000 + 0x0, 16, 8⟩
/-- `FD_STATUS.RETIRED`, 01 R28. -/
def Reg.fdStatusRetired (n : Nat) : Fld := ⟨0x1000000 + n * 0x100000 + 0x0, 24, 1⟩
/-- `FD_STATUS.PARKED`, 01 R28. -/
def Reg.fdStatusParked (n : Nat) : Fld := ⟨0x1000000 + n * 0x100000 + 0x0, 25, 1⟩
/-- `FD_STATUS.PARCEL`, 01 R28. -/
def Reg.fdStatusParcel (n : Nat) : Fld := ⟨0x1000000 + n * 0x100000 + 0x0, 26, 2⟩
/-- `STN_PACE.PACE`, 01 R44. -/
def Reg.stnPacePace (b : Nat) : Fld := ⟨b + 0x40, 0, 16⟩
/-- `STN_PACE.PACE_MIN`, 01 R44. -/
def Reg.stnPacePaceMin (b : Nat) : Fld := ⟨b + 0x40, 16, 16⟩
/-- `LS_SIZE.BYTES`, 06 R170. -/
def Reg.lsSizeBytes (b : Nat) : Fld := ⟨b + 0x480, 0, 32⟩
/-- `LS_SIZE.BANKS`, 06 R170. -/
def Reg.lsSizeBanks (b : Nat) : Fld := ⟨b + 0x480, 32, 8⟩
/-- `LS_SIZE.WORD_LOG2`, 06 R170. -/
def Reg.lsSizeWordLog2 (b : Nat) : Fld := ⟨b + 0x480, 40, 4⟩

/-- One row of the register tables: `count` registers, `stride` bytes apart, from `off` in their block, with the
masks of their access codes (R14) and the value of their Reset column (R10). -/
structure RegRow where
  off : Nat
  stride : Nat
  count : Nat
  rw : Nat
  w1c : Nat
  rc : Nat
  rst : Nat
  deriving DecidableEq, Repr

/-- Access masks and reset values of the GLB block (R14). -/
def regRowsGlb : List RegRow :=
  [ ⟨0x0, 0x8, 1, 0x0, 0x0, 0x0, 0x4552464874201100⟩,
    ⟨0x10, 0x8, 1, 0x800000000003FFFF, 0x0, 0x0, 0x0⟩,
    ⟨0x20, 0x8, 1, 0x7, 0x0, 0x0, 0x100⟩,
    ⟨0x30, 0x8, 1, 0x0, 0x0, 0x0, 0x0⟩,
    ⟨0x38, 0x8, 1, 0xFFFFFFFFFFFFFF00, 0x0, 0x0, 0x1⟩,
    ⟨0x40, 0x8, 1, 0xFFFF0001FFFF, 0x0, 0x0, 0x0⟩,
    ⟨0x48, 0x8, 1, 0x0, 0x0, 0x0, 0x0⟩,
    ⟨0x50, 0x8, 1, 0xFFFF, 0x0, 0x0, 0x0⟩,
    ⟨0x58, 0x8, 1, 0x0, 0x0, 0x0, 0x0⟩ ]
/-- Access masks and reset values of the GLBP block (R14). -/
def regRowsGlbp : List RegRow :=
  [ ⟨0x0, 0x8, 1, 0x0, 0x0, 0x0, 0x0⟩,
    ⟨0x8, 0x8, 1, 0x0, 0x0, 0x0, 0x0⟩,
    ⟨0x10, 0x8, 1, 0x0, 0x0, 0x0, 0x0⟩,
    ⟨0x20, 0x8, 6, 0x0, 0x0, 0x0, 0x0⟩,
    ⟨0x50, 0x8, 1, 0x0, 0x0, 0x0, 0x0⟩,
    ⟨0x58, 0x8, 1, 0x0, 0x0, 0x0, 0x0⟩,
    ⟨0x60, 0x8, 1, 0x0, 0x0, 0x0, 0x0⟩,
    ⟨0x68, 0x8, 1, 0x0, 0x0, 0x0, 0x0⟩,
    ⟨0x70, 0x8, 1, 0xFFFFFFFFF, 0x0, 0x0, 0x0⟩,
    ⟨0x78, 0x8, 1, 0x80000000FFFFFFFF, 0x0, 0x0, 0x0⟩,
    ⟨0x80, 0x8, 1, 0x1FFFFFFFF, 0x0, 0x0, 0x0⟩,
    ⟨0x88, 0x8, 1, 0xFFFFFFFFFFFFFFFF, 0x0, 0x0, 0x0⟩,
    ⟨0x90, 0x8, 1, 0xFFFFFFFFFF, 0x0, 0x0, 0x0⟩,
    ⟨0x98, 0x8, 1, 0x0, 0x0, 0x0, 0x0⟩,
    ⟨0xA0, 0x8, 1, 0x3FFFF, 0x0, 0x0, 0x0⟩ ]
/-- Access masks and reset values of the PWR block (R14). -/
def regRowsPwr : List RegRow :=
  [ ⟨0x0, 0x8, 1, 0x0, 0x0, 0xFFFF00000000, 0xFFFF00000000⟩,
    ⟨0x8, 0x8, 1, 0x0, 0x0, 0xFFFF00000000, 0xFFFF00000000⟩,
    ⟨0x10, 0x8, 1, 0x0, 0x0, 0xFFFF0000, 0x0⟩,
    ⟨0x18, 0x8, 1, 0xFFFFFFFFFFFFFF, 0x0, 0x0, 0x1F47D0EA609C40⟩,
    ⟨0x20, 0x8, 1, 0xFFFF0000, 0x0, 0x0, 0x0⟩,
    ⟨0x28, 0x8, 1, 0x0, 0x0, 0x0, 0x0⟩,
    ⟨0x30, 0x8, 1, 0x0, 0x0, 0x0, 0x0⟩,
    ⟨0x38, 0x8, 1, 0xFFFF00000000, 0x0, 0x0, 0x0⟩,
    ⟨0x40, 0x8, 1, 0xFFFF, 0x0, 0x0, 0x0⟩,
    ⟨0x48, 0x8, 1, 0xFFFF, 0x0, 0x0, 0x0⟩,
    ⟨0x50, 0x8, 1, 0xFFFF, 0x0, 0x0, 0x578⟩,
    ⟨0x58, 0x8, 1, 0xFFFF, 0x0, 0x0, 0x0⟩,
    ⟨0x60, 0x8, 4, 0xFFFF, 0x0, 0x0, 0x0⟩,
    ⟨0x80, 0x8, 1, 0xFFFF00000000, 0x0, 0x0, 0xAF0⟩,
    ⟨0x100, 0x8, 16, 0x0, 0x0, 0x0, 0x0⟩,
    ⟨0x180, 0x8, 4, 0x3FF, 0x0, 0x0, 0x320⟩,
    ⟨0x200, 0x8, 1, 0x0, 0x0, 0x0, 0x0⟩,
    ⟨0x208, 0x8, 1, 0x0, 0x0, 0x0, 0x0⟩,
    ⟨0x210, 0x8, 1, 0x0, 0x0, 0x0, 0x0⟩,
    ⟨0x218, 0x8, 1, 0x0, 0x0, 0x0, 0x0⟩,
    ⟨0x220, 0x8, 20, 0x0, 0x0, 0x0, 0x0⟩,
    ⟨0x2C0, 0x8, 4, 0x0, 0x0, 0x0, 0x0⟩,
    ⟨0x2E0, 0x8, 4, 0x0, 0x0, 0x0, 0x0⟩,
    ⟨0x300, 0x8, 4, 0x0, 0x0, 0x0, 0x0⟩ ]
/-- Access masks and reset values of the MER block (R14). -/
def regRowsMer : List RegRow :=
  [ ⟨0x0, 0x8, 1, 0x0, 0x0, 0x0, 0x0⟩,
    ⟨0x8, 0x8, 1, 0x3FFF, 0x0, 0x0, 0x13C0⟩,
    ⟨0x10, 0x8, 1, 0x0, 0x0, 0x0, 0x0⟩,
    ⟨0x18, 0x8, 1, 0x3FF03FF, 0x0, 0x0, 0x3E80064⟩,
    ⟨0x20, 0x8, 1, 0x0, 0x0, 0x0, 0x0⟩,
    ⟨0x28, 0x8, 1, 0xFFFFFFFF, 0x0, 0x0, 0x0⟩,
    ⟨0x30, 0x8, 1, 0xFFFFFFFFFFFFFFFF, 0x0, 0x0, 0x0⟩,
    ⟨0x38, 0x8, 1, 0xFFFF, 0x0, 0x0, 0xFC⟩,
    ⟨0x40, 0x8, 1, 0xFFFFFFFFFFFF, 0x0, 0x0, 0x0⟩,
    ⟨0x48, 0x8, 1, 0xFFFFFFFF, 0x0, 0x0, 0x0⟩,
    ⟨0x80, 0x8, 16, 0xFFFFFFFF00000000, 0x0, 0x0, 0x0⟩ ]
/-- Access masks and reset values of the SEC block (R14). -/
def regRowsSec : List RegRow :=
  [ ⟨0x0, 0x8, 1, 0x0, 0x0, 0x0, 0x1⟩,
    ⟨0x8, 0x8, 1, 0x1, 0x0, 0x0, 0x0⟩,
    ⟨0x10, 0x8, 1, 0x0, 0x0, 0x0, 0x0⟩,
    ⟨0x18, 0x8, 1, 0x0, 0x0, 0x0, 0x0⟩,
    ⟨0x20, 0x8, 4, 0x0, 0x0, 0x0, 0x0⟩,
    ⟨0x40, 0x8, 1, 0x0, 0x0, 0x0, 0x0⟩,
    ⟨0x48, 0x8, 1, 0x0, 0x0, 0x0, 0x0⟩,
    ⟨0x50, 0x8, 1, 0x0, 0x0, 0x0, 0x0⟩,
    ⟨0x100, 0x8, 28, 0x0, 0x0, 0x0, 0x0⟩,
    ⟨0x200, 0x8, 12, 0x0, 0x0, 0x0, 0x0⟩ ]
/-- Access masks and reset values of the MGT block (R14). -/
def regRowsMgt : List RegRow :=
  [ ⟨0x0, 0x8, 1, 0x80, 0x0, 0x0, 0x3A⟩,
    ⟨0x8, 0x8, 1, 0xFFFFFFFF, 0x0, 0x0, 0x0⟩,
    ⟨0x10, 0x8, 1, 0xFFFF00, 0x0, 0x0, 0x0⟩,
    ⟨0x40, 0x8, 5, 0xFFFFFFFF0000, 0x0, 0x0, 0x0⟩ ]
/-- Access masks and reset values of the HIF block (R14). -/
def regRowsHif : List RegRow :=
  [ ⟨0x0, 0x20, 2, 0xFFFFFFFFFFFFFFFF, 0x0, 0x0, 0x0⟩,
    ⟨0x8, 0x20, 2, 0xFFFF001F, 0x0, 0x0, 0x4⟩,
    ⟨0x10, 0x20, 2, 0x0, 0x0, 0x0, 0x0⟩,
    ⟨0x18, 0x20, 2, 0x0, 0x0, 0x0, 0x0⟩,
    ⟨0x100, 0x20, 4, 0xFFFFFFFFFFFFFFFF, 0x0, 0x0, 0x0⟩,
    ⟨0x108, 0x20, 4, 0xFFFFFFFF, 0x0, 0x0, 0x1E6⟩,
    ⟨0x110, 0x20, 4, 0xFFFF, 0x0, 0x0, 0x0⟩,
    ⟨0x118, 0x20, 4, 0xFFFFFFFF00000000, 0x0, 0x0, 0x0⟩,
    ⟨0x200, 0x8, 1, 0xFFFFFFFFFFFFFFFF, 0x0, 0x0, 0x0⟩ ]
/-- Access masks and reset values of the NFC block (R14). -/
def regRowsNfc : List RegRow :=
  [ ⟨0x0, 0x8, 1, 0x33F1FFF, 0x0, 0x0, 0x0⟩,
    ⟨0x8, 0x8, 1, 0xFFFF0000, 0x0, 0x0, 0x0⟩,
    ⟨0x100, 0x8, 32, 0xFFFFFFFFFFFFFFFF, 0x0, 0x0, 0x0⟩ ]
/-- Access masks and reset values of the FD block, part 0 (R14). -/
def regRowsFd0 : List RegRow :=
  [ ⟨0x0, 0x8, 1, 0x0, 0x0, 0x0, 0x880⟩,
    ⟨0x100, 0x8, 16, 0x0, 0x0, 0x0, 0x0⟩,
    ⟨0x180, 0x8, 1, 0x0, 0x0, 0x0, 0x0⟩,
    ⟨0x188, 0x8, 1, 0x0, 0x0, 0x0, 0x0⟩,
    ⟨0x800, 0x8, 1, 0xFFFFFFFFFFFFFFFF, 0x0, 0x0, 0x0⟩,
    ⟨0x808, 0x8, 1, 0x0, 0x0, 0x0, 0x0⟩,
    ⟨0x810, 0x8, 1, 0xFFFFFFFFFFFFFFFF, 0x0, 0x0, 0x0⟩,
    ⟨0x1000, 0x8, 1, 0x0, 0x0, 0x0, 0x13C003FD00C000⟩,
    ⟨0x1008, 0x8, 1, 0xFFFFF, 0x0, 0x0, 0x0⟩,
    ⟨0x1010, 0x8, 1, 0x0, 0x0, 0x0, 0x17C0000000⟩,
    ⟨0x1018, 0x8, 1, 0x0, 0x0, 0x0, 0x0⟩,
    ⟨0x1020, 0x8, 1, 0xFFFFFFFFFFFFFFFF, 0x0, 0x0, 0x0⟩,
    ⟨0x1028, 0x8, 1, 0xFFFFFFFFFFFFFFFF, 0x0, 0x0, 0x0⟩,
    ⟨0x1030, 0x8, 1, 0xFFFFFFFFFFFFFFFF, 0x0, 0x0, 0x0⟩,
    ⟨0x1038, 0x8, 1, 0xFFFFFFFFFFFFFFFF, 0x0, 0x0, 0x0⟩,
    ⟨0x1040, 0x8, 1, 0xFFFFFFFFFFFFFFFF, 0x0, 0x0, 0x0⟩,
    ⟨0x1100, 0x8, 1, 0xFFFFFFFFFFFF, 0x0, 0x0, 0x0⟩,
    ⟨0x1108, 0x8, 1, 0xFFFFFFFFFFFFFFFF, 0x0, 0x0, 0x0⟩,
    ⟨0x1110, 0x8, 1, 0x0, 0x0, 0x0, 0x0⟩,
    ⟨0x1118, 0x8, 1, 0x0, 0x0, 0x0, 0x0⟩,
    ⟨0x1120, 0x8, 1, 0x0, 0x0, 0xFF0000, 0x0⟩,
    ⟨0x1180, 0x8, 1, 0xFFFFFFFFFFFF, 0x0, 0x0, 0x0⟩,
    ⟨0x1188, 0x8, 1, 0xFFFFFFFFFFFFFFFF, 0x0, 0x0, 0x0⟩,
    ⟨0x1190, 0x8, 1, 0x0, 0x0, 0x0, 0x800⟩,
    ⟨0x1200, 0x8, 1, 0xFFFFFFFFFFFFFFFF, 0x0, 0x0, 0x0⟩ ]
/-- Access masks and reset values of the FD block, part 1 (R14). -/
def regRowsFd1 : List RegRow :=
  [ ⟨0x1208, 0x8, 1, 0xFFFFFFFFFFFFFFFF, 0x0, 0x0, 0x0⟩,
    ⟨0x1210, 0x8, 1, 0xFFFF0000, 0x0, 0x0, 0x0⟩,
    ⟨0x1218, 0x8, 1, 0x0, 0x0, 0x0, 0x0⟩,
    ⟨0x1220, 0x8, 1, 0x0, 0x0, 0x0, 0x0⟩,
    ⟨0x1228, 0x8, 1, 0x0, 0x0, 0x0, 0x0⟩,
    ⟨0x1280, 0x8, 1, 0xFFFFFF01, 0x0, 0x0, 0x3C180C01⟩,
    ⟨0x1288, 0x8, 1, 0xFFFFFFFFFFFF, 0x0, 0x0, 0x0⟩,
    ⟨0x1300, 0x8, 1, 0xFF01FF7FFF7FFF, 0x0, 0x0, 0x80010010000800⟩,
    ⟨0x1308, 0x8, 1, 0x0, 0x0, 0x0, 0x0⟩,
    ⟨0x1310, 0x8, 1, 0xFFFFFFFFFFFFFFFF, 0x0, 0x0, 0x0⟩,
    ⟨0x1380, 0x8, 4, 0xFFFFFFFF, 0x0, 0xFFFF000000000000, 0x0⟩,
    ⟨0x13A0, 0x8, 4, 0x0, 0x0, 0x0, 0x10102020⟩,
    ⟨0x1800, 0x8, 1, 0xFFFFFFFFF, 0x0, 0x0, 0x600000000⟩,
    ⟨0x1808, 0x8, 1, 0xFFFFFFFF, 0x0, 0x0, 0x0⟩,
    ⟨0x1810, 0x8, 1, 0x0, 0x0, 0x0, 0x0⟩,
    ⟨0x1818, 0x8, 1, 0xFFFFFFFFFF, 0x0, 0x0, 0x0⟩,
    ⟨0x1820, 0x8, 1, 0xFFFFFFFFFFFFFFFF, 0x0, 0x0, 0x0⟩,
    ⟨0x1828, 0x8, 1, 0xFFFFFFFFFFFFFFFF, 0x0, 0x0, 0x0⟩,
    ⟨0x1830, 0x8, 1, 0xFFFFFFFFFF, 0x0, 0x0, 0x0⟩,
    ⟨0x1838, 0x8, 1, 0x0, 0x0, 0x0, 0x0⟩,
    ⟨0x1840, 0x8, 1, 0xFFFFFFFFFFFFFFFF, 0x0, 0x0, 0x0⟩,
    ⟨0x1848, 0x8, 1, 0xFFFFFFFFFFFFFFFF, 0x0, 0x0, 0x0⟩,
    ⟨0x1850, 0x8, 1, 0xFFFFFFFFFFFFFFFF, 0x0, 0x0, 0x0⟩,
    ⟨0x1858, 0x8, 1, 0xFFFFFFFFFFFFFFFF, 0x0, 0x0, 0x0⟩,
    ⟨0x1860, 0x8, 1, 0xFFFFFFFFFFFFFFFF, 0x0, 0x0, 0x0⟩ ]
/-- Access masks and reset values of the FD block, part 2 (R14). -/
def regRowsFd2 : List RegRow :=
  [ ⟨0x1868, 0x8, 1, 0x0, 0x100, 0x0, 0x0⟩,
    ⟨0x1900, 0x8, 1, 0xFFFFFFFFFFFF, 0x0, 0x0, 0x0⟩,
    ⟨0x1908, 0x8, 1, 0xFFFFFFFFFFFFFFFF, 0x0, 0x0, 0x0⟩,
    ⟨0x1910, 0x8, 1, 0x0, 0x0, 0x0, 0x0⟩,
    ⟨0x1918, 0x8, 1, 0x0, 0x0, 0x0, 0x0⟩,
    ⟨0x1920, 0x8, 1, 0x0, 0x0, 0x0, 0x0⟩,
    ⟨0x1928, 0x8, 1, 0xFF, 0x0, 0x0, 0x0⟩,
    ⟨0x1930, 0x8, 1, 0x0, 0x0, 0x0, 0x0⟩,
    ⟨0x1938, 0x8, 1, 0x0, 0x0, 0x0, 0x0⟩,
    ⟨0x1A00, 0x8, 1, 0xFFFFFFFF03, 0x0, 0x0, 0x0⟩,
    ⟨0x1A08, 0x8, 1, 0xFFFFFFFFFF, 0x0, 0x0, 0x0⟩,
    ⟨0x1A10, 0x8, 8, 0x800000000003FFFF, 0x0, 0x0, 0x0⟩,
    ⟨0x1A50, 0x8, 1, 0xFFFFFFFFFF, 0x0, 0x0, 0x0⟩,
    ⟨0x1A58, 0x8, 1, 0xFFFFFFFFFF, 0x0, 0x0, 0x0⟩,
    ⟨0x1A60, 0x8, 8, 0x800000000003FFFF, 0x0, 0x0, 0x0⟩,
    ⟨0x1AA0, 0x8, 1, 0xFFFF000000000000, 0x0, 0x0, 0x0⟩,
    ⟨0x1AA8, 0x8, 1, 0xFFFFF, 0x0, 0x0, 0xFFFF⟩,
    ⟨0x1AB0, 0x8, 1, 0xFFFFFFFF0003FFFF, 0x0, 0x0, 0x0⟩ ]
/-- Access masks and reset values of the FD block (R14). -/
def regRowsFd : List RegRow := regRowsFd0 ++ regRowsFd1 ++ regRowsFd2
/-- Access masks and reset values of the STN block, part 0 (R14). -/
def regRowsStn0 : List RegRow :=
  [ ⟨0x0, 0x8, 1, 0x1, 0x0, 0x0, 0x0⟩,
    ⟨0x8, 0x8, 1, 0xFFFF0000, 0x0, 0x0, 0x0⟩,
    ⟨0x10, 0x8, 1, 0x0, 0x0, 0x0, 0x0⟩,
    ⟨0x18, 0x8, 1, 0x0, 0x200, 0x0, 0x0⟩,
    ⟨0x20, 0x8, 1, 0x0, 0x0, 0x0, 0x0⟩,
    ⟨0x28, 0x8, 1, 0x0, 0x0, 0x0, 0x0⟩,
    ⟨0x30, 0x8, 1, 0x0, 0x0, 0x0, 0x0⟩,
    ⟨0x40, 0x8, 1, 0x0, 0x0, 0xFFFF0000, 0xFFFF0000⟩,
    ⟨0x48, 0x8, 1, 0xFFFFFFFFFFFFFFFF, 0x0, 0x0, 0x0⟩,
    ⟨0x50, 0x8, 1, 0xFFFFFFFFFFFFFFFF, 0x0, 0x0, 0x0⟩,
    ⟨0x58, 0x8, 1, 0xFFFFFFFFFFFFFFFF, 0x0, 0x0, 0x0⟩,
    ⟨0x200, 0x8, 1, 0xFFFFFFFF00000001, 0x0, 0x0, 0xFFFFFFFF00000000⟩,
    ⟨0x208, 0x8, 1, 0x0, 0x0, 0x0, 0x0⟩,
    ⟨0x210, 0x8, 1, 0xFFFFFFFFFFFFFFFF, 0x0, 0x0, 0x0⟩,
    ⟨0x218, 0x8, 1, 0xFFFFFFFFFFFFFFFF, 0x0, 0x0, 0x0⟩,
    ⟨0x220, 0x8, 1, 0xFFFFFFFFFFFFFFFF, 0x0, 0x0, 0x0⟩,
    ⟨0x228, 0x8, 1, 0xFFFFFFFFFFFFFFFF, 0x0, 0x0, 0x0⟩,
    ⟨0x230, 0x8, 1, 0xFFFFFFFFFFFFFFFF, 0x0, 0x0, 0x0⟩,
    ⟨0x300, 0x8, 1, 0xFFFFFFFFFFFFFFFF, 0x0, 0x0, 0x0⟩,
    ⟨0x308, 0x8, 1, 0xFFFFFFFFFFFFFFFF, 0x0, 0x0, 0x0⟩,
    ⟨0x310, 0x8, 1, 0xFFFFFFFFFFFFFFFF, 0x0, 0x0, 0x0⟩,
    ⟨0x318, 0x8, 1, 0xFFFFFFFFFFFFFFFF, 0x0, 0x0, 0x0⟩,
    ⟨0x320, 0x8, 1, 0xFFFFFFFFFFFFFFFF, 0x0, 0x0, 0x0⟩,
    ⟨0x328, 0x8, 1, 0xFFFFFFFFFFFFFFFF, 0x0, 0x0, 0x0⟩,
    ⟨0x330, 0x8, 1, 0x0, 0x0, 0x0, 0x0⟩ ]
/-- Access masks and reset values of the STN block, part 1 (R14). -/
def regRowsStn1 : List RegRow :=
  [ ⟨0x338, 0x8, 1, 0x0, 0x0, 0x0, 0x0⟩,
    ⟨0x340, 0x8, 1, 0x0, 0x0, 0x0, 0x0⟩,
    ⟨0x348, 0x8, 1, 0xFFFFFFFFFFFFFFFF, 0x0, 0x0, 0x0⟩,
    ⟨0x380, 0x8, 1, 0xFFFFFFFFFFFFFFFF, 0x0, 0x0, 0x0⟩,
    ⟨0x388, 0x8, 1, 0xFFFFFFFFFFFFFFFF, 0x0, 0x0, 0x0⟩,
    ⟨0x390, 0x8, 1, 0xFFFFFFFFFFFFFFFF, 0x0, 0x0, 0x0⟩,
    ⟨0x398, 0x8, 1, 0xFFFFFFFFFFFF, 0x0, 0x0, 0x0⟩,
    ⟨0x400, 0x8, 1, 0xFFFFFFFFFFFFFFFF, 0x0, 0x0, 0x0⟩,
    ⟨0x408, 0x8, 1, 0xFFFFFFFFFFFFFFFF, 0x0, 0x0, 0x0⟩,
    ⟨0x410, 0x8, 1, 0xFFFFFFFFFFFFFFFF, 0x0, 0x0, 0x0⟩,
    ⟨0x418, 0x8, 1, 0xFFFFFFFFFFFFFFFF, 0x0, 0x0, 0x0⟩,
    ⟨0x420, 0x8, 1, 0xFFFFFFFFFFFFFFFF, 0x0, 0x0, 0x0⟩,
    ⟨0x428, 0x8, 1, 0xFFFFFFFFFFFFFFFF, 0x0, 0x0, 0x0⟩,
    ⟨0x430, 0x8, 1, 0xFFFFFFFFFFFFFFFF, 0x0, 0x0, 0x0⟩,
    ⟨0x438, 0x8, 1, 0xFFFFFFFFFFFFFFFF, 0x0, 0x0, 0x0⟩,
    ⟨0x440, 0x8, 1, 0xFFFFFFFFFFFFFFFF, 0x0, 0x0, 0x0⟩,
    ⟨0x448, 0x8, 1, 0x0, 0x0, 0x0, 0x0⟩,
    ⟨0x480, 0x8, 1, 0x0, 0x0, 0x0, 0x62000180000⟩,
    ⟨0x488, 0x8, 1, 0xFFFFFFFFFFFFFFFF, 0x0, 0x0, 0x0⟩,
    ⟨0x490, 0x8, 1, 0xFFFFFFFFFFFF, 0x0, 0x0, 0x0⟩,
    ⟨0x498, 0x8, 1, 0x0, 0x8000000000000000, 0x0, 0x0⟩,
    ⟨0x500, 0x8, 1, 0xFFFFFFFFFFFFFFFF, 0x0, 0x0, 0x0⟩,
    ⟨0x508, 0x8, 1, 0xFFFFFFFFFFFFFFFF, 0x0, 0x0, 0x0⟩,
    ⟨0x510, 0x10, 8, 0xFFFFFFFFFFFFFFFF, 0x0, 0x0, 0x0⟩,
    ⟨0x518, 0x10, 8, 0xFFFFFFFFFFFFFFFF, 0x0, 0x0, 0x0⟩ ]
/-- Access masks and reset values of the STN block, part 2 (R14). -/
def regRowsStn2 : List RegRow :=
  [ ⟨0x590, 0x8, 1, 0xFFFF, 0x0, 0x0, 0x0⟩,
    ⟨0x600, 0x8, 32, 0xFFFFFFFFFFFFFFFF, 0x0, 0x0, 0x0⟩,
    ⟨0x700, 0x8, 1, 0xFFFFFFFF, 0x0, 0x0, 0x0⟩,
    ⟨0x708, 0x8, 8, 0xFFFFFFFFFFFFFFFF, 0x0, 0x0, 0x0⟩,
    ⟨0x780, 0x8, 16, 0xFFFFFFFF, 0x0, 0x0, 0x0⟩,
    ⟨0x800, 0x8, 128, 0xFFFFFFFFFFFFFFFF, 0x0, 0x0, 0x0⟩,
    ⟨0xC00, 0x8, 1, 0x0, 0x0, 0x0, 0x0⟩,
    ⟨0xC08, 0x8, 1, 0x0, 0x0, 0x0, 0x0⟩,
    ⟨0xC10, 0x8, 1, 0x0, 0x0, 0x0, 0x0⟩,
    ⟨0xC18, 0x8, 1, 0x0, 0x0, 0xFFFFFFFFFFFFFFFF, 0x8000000000000000⟩,
    ⟨0xC20, 0x8, 1, 0xFFFFFFFFFFFFFFFF, 0x0, 0x0, 0x0⟩,
    ⟨0xC28, 0x8, 1, 0xFFFFFFFFFFFFFFFF, 0x0, 0x0, 0x0⟩,
    ⟨0xC30, 0x8, 1, 0xFFFFFFFFFFFFFFFF, 0x0, 0x0, 0x0⟩,
    ⟨0xD00, 0x8, 1, 0xFFFFFFFFFFFFFFFF, 0x0, 0x0, 0x0⟩,
    ⟨0xD08, 0x8, 1, 0xFFFFFFFFFFFFFFFF, 0x0, 0x0, 0x0⟩,
    ⟨0xE00, 0x8, 1, 0xFFFFFFFFFF, 0x0, 0x0, 0x0⟩,
    ⟨0xE08, 0x8, 1, 0x0, 0x0, 0x0, 0x0⟩,
    ⟨0xF00, 0x8, 32, 0x0, 0x0, 0x0, 0x0⟩ ]
/-- Access masks and reset values of the STN block (R14). -/
def regRowsStn : List RegRow := regRowsStn0 ++ regRowsStn1 ++ regRowsStn2
/-- Access masks and reset values of the LD block (R14). -/
def regRowsLd : List RegRow :=
  [ ⟨0x0, 0x8, 1, 0xFFFF, 0x0, 0x0, 0x88B5⟩,
    ⟨0x8, 0x8, 1, 0xFFFFFFF00000, 0x0, 0x0, 0xA5B00000000⟩,
    ⟨0x10, 0x8, 1, 0xFFFFF, 0x0, 0x0, 0x5000⟩,
    ⟨0x18, 0x8, 1, 0xFFFFFF, 0x0, 0x0, 0x200032⟩,
    ⟨0x20, 0x8, 1, 0xFFFFFFFF, 0x0, 0x0, 0x7D0⟩,
    ⟨0x28, 0x8, 1, 0xFFFFFFFFFFFFFFFF, 0x0, 0x0, 0x1020404040800⟩,
    ⟨0x30, 0x8, 1, 0x1FFFFFFFF, 0x0, 0x0, 0x100000000⟩,
    ⟨0x38, 0x8, 1, 0xFFFFFFFF00000000, 0x0, 0x0, 0x0⟩,
    ⟨0x40, 0x8, 1, 0x0, 0x0, 0x0, 0x0⟩,
    ⟨0x48, 0x8, 1, 0xFFFFFFFFFFFFFFFF, 0x0, 0x0, 0x0⟩,
    ⟨0x50, 0x8, 1, 0xFFFFFFFFFFFFFFFF, 0x0, 0x0, 0x0⟩,
    ⟨0x58, 0x8, 1, 0xFFFFFFFFFFFFFFFF, 0x0, 0x0, 0x0⟩,
    ⟨0x60, 0x8, 1, 0xFFFFFFFFFFFFFFFF, 0x0, 0x0, 0x0⟩ ]
/-- Access masks and reset values of the PORT block (R14). -/
def regRowsPort : List RegRow :=
  [ ⟨0x0, 0x8, 1, 0xFF000F1F, 0x0, 0x0, 0x1000001F⟩,
    ⟨0x8, 0x8, 1, 0x0, 0x0, 0x0, 0x0⟩,
    ⟨0x10, 0x8, 1, 0xFFFFFFFFFFFFFFFF, 0x0, 0x0, 0x0⟩,
    ⟨0x18, 0x8, 1, 0xFFFFFFFFFFFFFFFF, 0x0, 0x0, 0x0⟩,
    ⟨0x20, 0x8, 8, 0xFFFFFFFFFFFFFFFF, 0x0, 0x0, 0x0⟩,
    ⟨0x60, 0x8, 1, 0xFFFFFFFFFFFFFFFF, 0x0, 0x0, 0x0⟩,
    ⟨0x68, 0x8, 1, 0xFFFFFFFFFFFFFFFF, 0x0, 0x0, 0x0⟩,
    ⟨0x70, 0x8, 1, 0x0, 0x0, 0x0, 0x0⟩,
    ⟨0x78, 0x8, 1, 0x0, 0x0, 0x0, 0x0⟩ ]
/-- Access masks and reset values of the IG block (R14). -/
def regRowsIg : List RegRow :=
  [ ⟨0x0, 0x8, 1, 0x1FFFFFFFF, 0x0, 0x0, 0x100000000⟩,
    ⟨0x8, 0x8, 1, 0xFFFFFFFFFFFFFF, 0x0, 0x0, 0x0⟩,
    ⟨0x10, 0x8, 1, 0x0, 0x0, 0x0, 0x0⟩,
    ⟨0x18, 0x8, 1, 0x1, 0x0, 0x0, 0x0⟩,
    ⟨0x20, 0x8, 1, 0xFFFFFFFF00000000, 0x0, 0x0, 0x0⟩,
    ⟨0x100, 0x40, 4, 0xFFFFFFFFFFFFFFFF, 0x0, 0x0, 0x0⟩,
    ⟨0x108, 0x40, 4, 0x0, 0x0, 0x0, 0x0⟩,
    ⟨0x110, 0x40, 4, 0x0, 0x0, 0x0, 0x0⟩,
    ⟨0x118, 0x40, 4, 0xFFFFFFFFFFFFFFFF, 0x0, 0x0, 0x0⟩,
    ⟨0x120, 0x40, 4, 0xFFFFFFFFFFFFFFFF, 0x0, 0x0, 0x0⟩ ]

end Sys2Proof.Machine
end

