-- ==== Sys2Proof/Machine/Sparse.lean ====
section
/-! DEFINITION. Maps in one canonical form: pairs with strictly rising keys, none equal to the map's default. -/

namespace Sys2Proof.Machine

/-- The value a map holds at `k`; what it does not list is the default. -/
def Sparse.get {α : Type} (d : Nat → α) : Sparse α → Nat → α
  | [], k => d k
  | (a, v) :: t, k => if a = k then v else Sparse.get d t k

/-- The map without an entry for `k`. -/
def Sparse.erase {α : Type} (l : Sparse α) (k : Nat) : Sparse α :=
  l.filter (fun e => e.1 ≠ k)

/-- The map with `k` bound to `v`, put where rising keys want it. -/
def Sparse.insert {α : Type} : Sparse α → Nat → α → Sparse α
  | [], k, v => [(k, v)]
  | (a, x) :: t, k, v =>
    if k < a then (k, v) :: (a, x) :: t
    else if a = k then (k, v) :: t
    else (a, x) :: Sparse.insert t k v

/-- The map with `k` bound to `v`; binding the default removes the entry. -/
def Sparse.set {α : Type} [DecidableEq α] (d : Nat → α) (l : Sparse α) (k : Nat) (v : α) : Sparse α :=
  if v = d k then Sparse.erase l k else Sparse.insert l k v

/-- Keys strictly rise and no entry holds the default. -/
def Sparse.wf {α : Type} [DecidableEq α] (d : Nat → α) : Sparse α → Bool
  | [] => true
  | (a, v) :: t => decide (v ≠ d a) && (match t with | [] => true | (b, _) :: _ => decide (a < b)) && Sparse.wf d t

/-- The map without the keys of `[lo, hi)`. -/
def Sparse.dropRange {α : Type} (l : Sparse α) (lo hi : Nat) : Sparse α :=
  l.filter (fun e => e.1 < lo || hi ≤ e.1)

/-- A sorted list of keys with `k` added. -/
def keyInsert : List Nat → Nat → List Nat
  | [], k => [k]
  | a :: t, k => if k < a then k :: a :: t else if a = k then a :: t else a :: keyInsert t k

/-- A list of keys without `k`. -/
def keyErase (l : List Nat) (k : Nat) : List Nat := l.filter (· ≠ k)

end Sys2Proof.Machine
end

