-- ==== Sys2Proof/Machine/Ops.lean ====
section
/-! DEFINITION. The named operations every meaning is written with: register fields, counters, stations and
their places, parcels, events and what the module sends. -/

namespace Sys2Proof.Machine

/-- The outcome of a command. -/
abbrev Out := Host.Outcome State Fault Refusal

/-! ## Registers -/

/-- The block rows and the offset in its block of a BAR0 offset (R13, R26, R286, R372). -/
def regBlock (a : Nat) : List RegRow × Nat :=
  if a < 0x100000 then
    if 0x400 ≤ a ∧ a < 0x800 then (regRowsGlbp, (a - 0x400) % 0x100) else (regRowsGlb, a)
  else if a < 0x200000 then (regRowsPwr, a - 0x100000)
  else if a < 0x300000 then (regRowsMer, a - 0x200000)
  else if a < 0x400000 then (regRowsSec, a - 0x300000)
  else if a < 0x500000 then (regRowsMgt, a - 0x400000)
  else if a < 0x600000 then
    if 0x501000 ≤ a ∧ a < 0x506000 then (regRowsHif, (a - 0x501000) % 0x1000) else ([], a)
  else if a < 0x700000 then (regRowsNfc, a - 0x600000)
  else if 0x1000000 ≤ a ∧ a < 0x2000000 then
    let o := (a - 0x1000000) % 0x100000
    if o < 0x20000 then (regRowsFd, o)
    else if o < 0xA8000 then (regRowsStn, (o - 0x20000) % 0x1000) else ([], a)
  else if 0x2000000 ≤ a ∧ a < 0x2200000 then
    let o := (a - 0x2000000) % 0x100000
    if 0x10000 ≤ o ∧ o < 0x18000 then (regRowsPort, (o - 0x10000) % 0x1000) else (regRowsLd, o)
  else if 0x2200000 ≤ a ∧ a < 0x2400000 then (regRowsIg, (a - 0x2200000) % 0x100000)
  else ([], a)

/-- Whether offset `o` is one of the registers of row `r`. -/
def RegRow.covers (r : RegRow) (o : Nat) : Bool :=
  decide (r.off ≤ o) && decide ((o - r.off) % r.stride = 0) && decide ((o - r.off) / r.stride < r.count)

/-- The row of the register tables that describes BAR0 offset `a`, if a register lies there. -/
def regRowAt (a : Nat) : Option RegRow :=
  (regBlock a).1.find? (fun r => r.covers (regBlock a).2)

/-- Where in a station block P0 lies. -/
def p0Off : Nat := 0x708

/-- Whether `a` is the P0 register of a station block. -/
def isP0 (a : Nat) : Bool :=
  decide (0x1000000 ≤ a) && decide (a < 0x2000000) && decide (0x20000 ≤ (a - 0x1000000) % 0x100000)
    && decide ((a - 0x1000000) % 0x100000 < 0xA8000)
    && decide (((a - 0x1000000) % 0x100000 - 0x20000) % 0x1000 = p0Off)

/-- FD_STN_MAPm as a module without manufacturing failures holds it: logical station n on physical station n
(R27; DESIGN CHOICE, log 1). -/
def stnMapDefault (m : Nat) : Nat :=
  (List.range 8).foldl (fun acc k => acc + (8 * m + k) * 2 ^ (8 * k)) 0

/-- The value every register holds at reset: the Reset column (R10), all ones for P0 (R193), log 1 for the
"Per module" fields. -/
def regDefault (a : Nat) : BitVec 64 :=
  if isP0 a then BitVec.allOnes 64
  else if 0x1000000 ≤ a ∧ a < 0x2000000 ∧ 0x100 ≤ (a - 0x1000000) % 0x100000 ∧ (a - 0x1000000) % 0x100000 < 0x180 then
    BitVec.ofNat 64 (stnMapDefault (((a - 0x1000000) % 0x100000 - 0x100) / 8))
  else match regRowAt a with
    | some r => BitVec.ofNat 64 r.rst
    | none => 0

/-- The 64-bit register at BAR0 offset `a`. -/
def State.reg (s : State) (a : Nat) : BitVec 64 := Sparse.get regDefault s.regs a

/-- The state with the register at `a` set. -/
def State.setReg (s : State) (a : Nat) (v : BitVec 64) : State :=
  { s with regs := Sparse.set regDefault s.regs a v }

/-- The bits of a field, in place. -/
def Fld.mask (f : Fld) : BitVec 64 := BitVec.ofNat 64 ((2 ^ f.w - 1) * 2 ^ f.lo)

/-- A field's value in its register's bits. -/
def Fld.extract (f : Fld) (v : BitVec 64) : Nat := v.toNat / 2 ^ f.lo % 2 ^ f.w

/-- A register's bits with a field replaced (a value too wide keeps its low bits). -/
def Fld.deposit (f : Fld) (v : BitVec 64) (x : Nat) : BitVec 64 :=
  (v &&& ~~~f.mask) ||| BitVec.ofNat 64 (x % 2 ^ f.w * 2 ^ f.lo)

/-- A register field's value. -/
def State.rd (s : State) (f : Fld) : Nat := f.extract (s.reg f.addr)

/-- The state with a register field set. -/
def State.wr (s : State) (f : Fld) (x : Nat) : State := s.setReg f.addr (f.deposit (s.reg f.addr) x)

/-- A one-bit field as a truth value. -/
def State.flag (s : State) (f : Fld) : Bool := decide (s.rd f ≠ 0)

/-- A counter raised by `n`, saturating at all ones (R11). -/
def State.inc (s : State) (f : Fld) (n : Nat := 1) : State := s.wr f (min (s.rd f + n) (2 ^ f.w - 1))

/-- A field returned to its Reset column. -/
def State.toReset (s : State) (f : Fld) : State := s.wr f (f.extract (regDefault f.addr))

/-! ## Stations, dies and parcels -/

/-- BAR0 offset of the block of physical station `p` of FD `fd` (R26). -/
def stnBase (fd p : Nat) : Nat := 0x1000000 + fd * 0x100000 + 0x20000 + p * 0x1000

/-- Key of physical station `p` of FD `fd` in `State.stns`. -/
def stnKey (fd p : Nat) : Nat := fd * 256 + p

/-- A logical station found in its place: FD, logical and physical number. -/
structure Loc where
  fd : Nat
  log : Nat
  phys : Nat
  deriving DecidableEq, Repr

/-- BAR0 offset of the station's register block. -/
def Loc.b (k : Loc) : Nat := stnBase k.fd k.phys

/-- Key of the station in `State.stns`. -/
def Loc.key (k : Loc) : Nat := stnKey k.fd k.phys

/-- The number software knows the station by: FD × 128 + logical number (R26). -/
def Loc.num (k : Loc) : Nat := k.fd * 128 + k.log

/-- The physical station that holds logical station `log` of FD `fd` (R27). -/
def State.physOf (s : State) (fd log : Nat) : Nat := s.rd (Reg.fdStnMapPhys fd (log / 8) (log % 8))

/-- Logical station `n` (0 to 2,047) in its place; none where its FD is retired (R27: PHYSk reads 0xFF) or the map names
no physical station. -/
def State.locate (s : State) (n : Nat) : Option Loc :=
  let p := s.physOf (n / 128 % 16) (n % 128)
  if p < 136 ∧ n < 2048 then some ⟨n / 128, n % 128, p⟩ else none

/-- The station's state beside its registers. -/
def State.stnAt (s : State) (key : Nat) : Stn := Sparse.get (fun _ => Stn.idle) s.stns key

/-- The state with one station's state replaced. -/
def State.setStnAt (s : State) (key : Nat) (x : Stn) : State :=
  { s with stns := Sparse.set (fun _ => Stn.idle) s.stns key x }

/-- The station at a place. -/
def State.stn (s : State) (k : Loc) : Stn := s.stnAt k.key

/-- The state with the station at a place changed. -/
def State.updStn (s : State) (k : Loc) (f : Stn → Stn) : State := s.setStnAt k.key (f (s.stnAt k.key))

/-- What is kept of logical station `n` outside it. -/
def State.lst (s : State) (n : Nat) : Lst := Sparse.get (fun _ => Lst.empty) s.lsts n

/-- The state with a logical station's record changed. -/
def State.updLst (s : State) (n : Nat) (f : Lst → Lst) : State :=
  { s with lsts := Sparse.set (fun _ => Lst.empty) s.lsts n (f (s.lst n)) }

/-- The parcel that mesh row `row` lies in under a SPLIT (R37): the boundaries below it. -/
def parcelOfRow (split row : Nat) : Nat :=
  (List.range row).foldl (fun p i => p + split / 2 ^ i % 2) 0

/-- The parcel of an FD: rows are FDs 4y to 4y + 3 (R37). -/
def State.parcelOf (s : State) (fd : Nat) : Nat := parcelOfRow (s.rd Reg.glbParcelCfgSplit) (fd / 4 % 4)

/-- Parcels that a SPLIT forms. -/
def parcelCount (split : Nat) : Nat := parcelOfRow split 3 + 1

/-- The FDs of a parcel under a SPLIT, ascending. -/
def parcelFdsOf (split p : Nat) : List Nat :=
  (List.range 16).filter (fun fd => parcelOfRow split (fd / 4) = p)

/-- The FDs of a parcel, ascending; a retired FD has left it (R42). -/
def State.parcelFds (s : State) (p : Nat) : List Nat :=
  (parcelFdsOf (s.rd Reg.glbParcelCfgSplit) p).filter (fun fd => !s.flag (Reg.fdStatusRetired fd))

/-- Whether the parcel exists under the current SPLIT (R41). -/
def State.parcelExists (s : State) (p : Nat) : Bool := decide (p < parcelCount (s.rd Reg.glbParcelCfgSplit))

/-- Traverse states of GLB_TRV_STATUSp.STATE (R286). -/
def trvIdle : Nat := 0
def trvLoading : Nat := 1
def trvArmed : Nat := 2
def trvRunning : Nat := 3
def trvHeld : Nat := 4

/-- Whether a traverse of the parcel is loaded: armed, running or held (R210, R320). -/
def State.trvLoaded (s : State) (p : Nat) : Bool := decide (trvArmed ≤ s.rd (Reg.glbTrvStatusState p))

/-- The logical stations of a parcel in their places. -/
def State.parcelStns (s : State) (p : Nat) : List Loc :=
  (s.parcelFds p).flatMap (fun fd => (List.range 128).filterMap (fun l => s.locate (fd * 128 + l)))

/-! ## Messages and events -/

/-- The state with a message sent. -/
def State.send (s : State) (m : OutMsg) : State := { s with outbox := s.outbox ++ [m] }

/-- A fresh free value (log 3), and the counter advanced past it. -/
def State.free (s : State) : Nat × State := (Config.freeNat s.freeCtr, { s with freeCtr := s.freeCtr + 1 })

/-- Whether bit `j` of a mask is 1. -/
def bitOf (m j : Nat) : Bool := decide (m / 2 ^ j % 2 = 1)

/-- Whether a parcel is being cleared (R567). -/
def State.clearing (s : State) (p : Nat) : Bool := bitOf (s.rd Reg.secTenantClearBusy) p

/-- The `n` low bytes of a number, least significant first (R111). -/
def leBytes : Nat → Nat → List Byte
  | 0, _ => []
  | n + 1, v => BitVec.ofNat 8 v :: leBytes n (v / 256)

/-- The number that bytes spell, least significant first. -/
def ofLeBytes : List Byte → Nat
  | [] => 0
  | b :: t => b.toNat + 256 * ofLeBytes t

/-- Bytes of host memory not yet written read as zero (DESIGN CHOICE, log 8). -/
def hostDefault (_ : Nat) : Byte := 0

/-- `n` bytes of host memory. -/
def State.hostRead (s : State) (a n : Nat) : List Byte :=
  (List.range n).map (fun i => Sparse.get hostDefault s.hostMem (a + i))

/-- Host memory with bytes written from `a` on. -/
def State.hostWrite (s : State) (a : Nat) : List Byte → State
  | [] => s
  | b :: t => State.hostWrite { s with hostMem := Sparse.set hostDefault s.hostMem a b } (a + 1) t

/-- SEVERITY of an event code (R17). -/
def evSeverity (code : Nat) : Nat := code / 2 ^ 14 % 4

/-- SOURCE of an event code (R17). -/
def evSource (code : Nat) : Nat := code / 2 ^ 8 % 64

/-- The event code of a cause of FDn, from its FD0 code (R215). -/
def fdCode (code0 fd : Nat) : Nat := code0 + fd * 0x100

/-- The queue sets an event is offered to (R534): the PF's, the named parcel's, and every set for the module-fatal
and the PWR events. -/
def evSets (code parcel : Nat) : List Nat :=
  if evSeverity code = 3 ∨ evSource code = 1 then [0, 1, 2, 3, 4]
  else if parcel < 4 then [parcel, 4] else [4]

/-- Entries of ring `r` of set `f`: LOG2_ENTRIES limited to 4–14 (R550). -/
def State.ringLog2 (s : State) (f r : Nat) : Nat := min 14 (max 4 (s.rd (Reg.hifEvqCfgLog2Entries f r)))

/-- Whether ring `r` of set `f` is full (R533). -/
def State.ringFull (s : State) (f r : Nat) : Bool :=
  decide ((s.rd (Reg.hifEvqStatTail f r) + 2 ^ 16 - s.rd (Reg.hifEvqHeadHead f r)) % 2 ^ 16 = 2 ^ (s.ringLog2 f r))

/-- The ring of set `f` that takes an event of severity `sev` (R534): the lowest-numbered enabled one whose
SEV_MASK holds it. -/
def State.ringFor (s : State) (f sev : Nat) : Option Nat :=
  (List.range 4).find? (fun r => s.flag (Reg.hifEvqCfgEnable f r) && decide (s.rd (Reg.hifEvqCfgSevMask f r) / 2 ^ sev % 2 = 1))

/-- An MSI-X signal of ring `r` of set `f`, unless one is pending (R536). -/
def State.signalRing (s : State) (f r : Nat) : State :=
  let key := f * 4 + r
  if (Sparse.get (fun _ => RingSig.ready) s.ringSig key).pending then s
  else
    { s with ringSig := Sparse.set (fun _ => RingSig.ready) s.ringSig key ⟨true, false, false⟩ }.send
      ⟨.msix, [f, s.rd (Reg.hifEvqCfgVector f r)], []⟩

/-- The 10 MHz output turned on or off with REF_OUT_EN (R501). -/
def State.refClock (s : State) (on : Bool) : State :=
  if s.flag Reg.merCtlRefOutEn = on then s else s.send ⟨.sideOut, [6, if on then 1 else 0], []⟩

/-- The 1 PPS edge of the reference output, at a meridian value that is a multiple of one second (R501). -/
def State.ppsEdge (s : State) : State :=
  if s.flag Reg.merCtlRefOutEn && decide (s.meridian.toNat % 4000000000 = 0) then s.send ⟨.sideOut, [5, 1], []⟩ else s

/-- The function that owns queue set `f` (R529): 0 the physical function, 1 + p virtual function p. -/
def State.owner (s : State) (f : Nat) : Nat := if f < 4 ∧ f < s.numVfs then f + 1 else 0

/-- The endpoint has translated an address for the owner of set `f`, if its ATS is enabled, and caches the translation, 4,096 at
most (R289, R525). -/
def State.noteAts (s : State) (f a : Nat) : State :=
  let e := (s.owner f, a / 4096)
  { s with atc := if s.atc.contains e || !Config.atsOn (s.owner f) then s.atc else (s.atc ++ [e]).drop (s.atc.length + 1 - 4096) }

/-- A record written into ring `r` of set `f` (R533): slot TAIL mod 2^LOG2_ENTRIES, PHASE 1 on the first lap, SEQ the
records written so far, then TAIL advanced and the vector signalled. `rec` holds bytes 0–2 and 8–63. -/
def State.ringWrite (s : State) (f r : Nat) (hd : List Byte) (rest : List Byte) : State :=
  let lg := s.ringLog2 f r
  let tail := s.rd (Reg.hifEvqStatTail f r)
  let key := f * 4 + r
  let seq := Sparse.get (fun _ => 0) s.ringSeq key
  let phase := 1 - tail / 2 ^ lg % 2
  let bytes := hd ++ [BitVec.ofNat 8 phase] ++ leBytes 4 seq ++ rest
  let s := s.noteAts f (s.rd (Reg.hifEvqBaseAddr f r) + tail % 2 ^ lg * 64)
  let s := s.hostWrite (s.rd (Reg.hifEvqBaseAddr f r) + tail % 2 ^ lg * 64) bytes
  let s := { s with ringSeq := Sparse.set (fun _ => 0) s.ringSeq key ((seq + 1) % 2 ^ 32) }
  (s.wr (Reg.hifEvqStatTail f r) (tail + 1)).signalRing f r

/-- EV_EVENTS_LOST's code (R551). -/
def evEventsLost : Nat := 0x0501

/-- The bytes of an event record but FLAGS and SEQ (R533): CODE and PARCEL, then the meridian time and DETAIL, each
value of the detail packed as 8 bytes in order (DESIGN CHOICE, log 9). -/
def evRecord (code parcel : Nat) (t : BitVec 64) (detail : List Nat) : List Byte × List Byte :=
  (leBytes 2 code ++ [BitVec.ofNat 8 (if parcel < 4 then parcel else 0xFF)],
   (leBytes 8 t.toNat ++ (detail.flatMap (leBytes 8)) ++ List.replicate 48 0).take 56)

/-- Whether the link of a set's function is in reset, so that its events wait (R510, R535). -/
def State.setInReset (s : State) (f : Nat) : Bool := s.hostLinkDown || s.evAwait.contains f

/-- Events held for set `f`. -/
def State.heldOf (s : State) (f : Nat) : Nat := (s.evHeld.filter (fun e => e.1 = f)).length

/-- Events held for the function that owns set `f`, all its sets together (R510). -/
def State.heldFn (s : State) (f : Nat) : Nat := (s.evHeld.filter (fun e => s.owner e.1 = s.owner f)).length

/-- A record offered to set `f` (R534, R535): into its ring; or, when that ring is full, the link is in reset or
older records wait, into the holding buffer of 256 of its function; or lost and counted in LOST of the ring the record was for. -/
def State.offer (s : State) (f sev : Nat) (hd rest : List Byte) : State :=
  match s.ringFor f sev with
  | none =>
    if s.setInReset f then
      if s.heldFn f < 256 then { s with evHeld := s.evHeld ++ [(f, hd ++ rest)] }
      else { s.inc (Reg.hifEvqStatLost f 0) with evLost := Sparse.set (fun _ => 0) s.evLost f (Sparse.get (fun _ => 0) s.evLost f + 1) }
    else s
  | some r =>
    if s.setInReset f || s.ringFull f r || decide (0 < s.heldOf f) then
      if s.heldFn f < 256 then { s with evHeld := s.evHeld ++ [(f, hd ++ rest)] }
      else { s.inc (Reg.hifEvqStatLost f r) with evLost := Sparse.set (fun _ => 0) s.evLost f (Sparse.get (fun _ => 0) s.evLost f + 1) }
    else s.ringWrite f r hd rest

/-- Held records of set `f` written while its ring has room, the number lost reported first (R535); `n` bounds the
records moved. -/
def State.drainHeld (f : Nat) : Nat → State → State
  | 0, s => s
  | n + 1, s =>
    if s.setInReset f then s
    else match s.evHeld.find? (fun e => e.1 = f) with
    | none => s
    | some e =>
      match s.ringFor f ((e.2.getD 1 0).toNat / 64) with
      | none => State.drainHeld f n { s with evHeld := s.evHeld.erase e }
      | some r =>
        if s.ringFull f r then s
        else
          let lost := Sparse.get (fun _ => 0) s.evLost f
          if 0 < lost then
            let x := evRecord evEventsLost 4 s.meridian [lost]
            State.drainHeld f n ({ s with evLost := Sparse.set (fun _ => 0) s.evLost f 0 }.ringWrite f r x.1 x.2)
          else
            State.drainHeld f n ({ s with evHeld := s.evHeld.erase e }.ringWrite f r (e.2.take 3) (e.2.drop 3))

/-- A record sent to management's event receiver, or kept for it to poll (R542). -/
def State.platformEvent (s : State) (r64 : List Byte) : State :=
  match s.pldmReceiver with
  | some (eid, true) => s.send ⟨.platformEvent, [eid], r64⟩
  | _ => { s with platQueue := s.platQueue ++ [r64] }

/-- An event raised (R17, R533 to R535, R542): its record goes to the sets it is offered to and, as a
PlatformEventMessage, to management's event receiver. `parcel` 4 or more stands for an event of the module. -/
def State.raise (s : State) (code parcel : Nat) (detail : List Nat) : State :=
  let r := evRecord code parcel s.meridian detail
  let s := (evSets code parcel).foldl (fun s f => s.offer f (evSeverity code) r.1 r.2) s
  let r64 := r.1 ++ [0] ++ List.replicate 4 0 ++ r.2
  let s := if evSeverity code = 3 then { s with fatalLog := (s.fatalLog ++ [r64]).drop ((s.fatalLog.length + 1) - 32) } else s
  s.platformEvent r64

/-- An event raised at most once under a key, until the key is freed (R76, R273, R325, R535). -/
def State.raiseOnce (s : State) (key : Nat × Nat) (code parcel : Nat) (detail : List Nat) : State :=
  if s.evOnce.contains key then s
  else { s with evOnce := s.evOnce ++ [key] }.raise code parcel detail

end Sys2Proof.Machine
end

