-- ==== Sys2Proof/Machine/Status.lean ====
section
/-! DEFINITION. A station's state as software reads it (R218), the conditions under which it issues, and the
fields of FD and station blocks that are computed from other state. -/

namespace Sys2Proof.Machine

/-- STN_STATUS.STATE codes (R216). -/
def stIdle : Nat := 0
def stRunning : Nat := 1
def stWaiting : Nat := 2
def stHalted : Nat := 3
def stFaulted : Nat := 4
def stHeld : Nat := 5
def stParked : Nat := 6

/-- Whether the station is asked to halt: its own HALT, or HALT_N filtered active (R216, R546). -/
def State.haltReq (s : State) (b : Nat) : Bool := s.flag (Reg.stnCtlHalt b) || s.flag (Reg.mgtSbStatActive 0)

/-- Whether a single step is under way (R216): its instruction has not issued, or is still in an engine. -/
def Stn.stepping (t : Stn) : Bool :=
  match t.step with
  | .none' => false
  | .issue => true
  | .busy q => t.engq.contains q

/-- Whether an FD is stopped by a trip of its own or of its stack (R321, R488). -/
def State.fdStopped (s : State) (fd : Nat) : Bool := s.fdTrip.contains fd || s.memTrip.contains fd

/-- STN_STATUS.STATE: the first of FAULTED, HELD, HALTED, PARKED, WAITING, RUNNING and IDLE that applies (R218). Stations of
a stopped FD are HELD (R322, R488). A station is halted at an instruction boundary of a traverse it runs; while it takes a
single step it is not (R216). -/
def State.stateOf (s : State) (fd phys : Nat) : Nat :=
  let t := s.stnAt (stnKey fd phys)
  if t.faulted then stFaulted
  else if t.held || (t.active && s.fdStopped fd) then stHeld
  else if t.active && t.waiting.isNone && s.haltReq (stnBase fd phys) && !t.stepping then stHalted
  else if s.flag (Reg.fdStatusParked fd) then stParked
  else if t.waiting.isSome then stWaiting
  else if t.active then stRunning
  else stIdle

/-- STATE of a station in its place. -/
def State.stateAt (s : State) (k : Loc) : Nat := s.stateOf k.fd k.phys

/-- Engine numbers: the bits of ENG_BUSY in order (R216), then the sequencer's own memory accesses. -/
def engMat : Nat := 0
def engVec : Nat := 1
def engMov : Nat := 2
def engSel : Nat := 3
def engRqd : Nat := 4
def engCol : Nat := 5
def engSeq : Nat := 6

/-- ENG_BUSY: a bit for each engine with an instruction queued; COL also while a collective of the station is
unfinished (R248). -/
def Stn.engBusy (t : Stn) (handles : Bool) : Nat :=
  (List.range 6).foldl (fun acc e =>
    acc + (if t.engq.any (fun q => q.eng = e) || (decide (e = engCol) && handles) then 2 ^ e else 0)) 0

/-- The tile `i` of a station. -/
def Stn.tile (t : Stn) (i : Nat) : Tile := Sparse.get (fun _ => Tile.zero) t.tiles i

/-- The station with tile `i` replaced. -/
def Stn.setTile (t : Stn) (i : Nat) (x : Tile) : Stn := { t with tiles := Sparse.set (fun _ => Tile.zero) t.tiles i x }

/-- A mask of the tiles that satisfy a condition. -/
def Stn.tileMask (t : Stn) (p : Tile → Bool) : Nat :=
  (List.range 4).foldl (fun acc i => acc + (if p (t.tile i) then 2 ^ i else 0)) 0

/-- The logical station that physical station `phys` of FD `fd` holds, if any (R27). -/
def State.logOf (s : State) (fd phys : Nat) : Option Nat := (List.range 128).find? (fun l => s.physOf fd l = phys)

/-- Entries in row feeder queue `j` (R80, R107). -/
def Stn.feedOcc (t : Stn) (j : Nat) : Nat := (t.feedq.getD j []).length

/-- The register at a station or FD block offset as it reads: the stored bits with the computed fields laid over
them. The feeder's lead is what PE row 0 has not met yet (R82, R107). -/
def State.stnRegRead (s : State) (fd phys o : Nat) : BitVec 64 :=
  let b := stnBase fd phys
  let v := s.reg (b + o)
  let t := s.stnAt (stnKey fd phys)
  if o = 0x008 then
    (Reg.stnStatusEngBusy b).deposit ((Reg.stnStatusState b).deposit v (s.stateOf fd phys))
      (t.engBusy (match s.logOf fd phys with
        | some l => !(s.lst (fd * 128 + l)).handles.isEmpty
        | none => false))
  else if o = 0x340 then
    let v := (Reg.maFeedStatusTileLock b).deposit v (t.tileMask (fun x => x.lockedBy.isSome))
    let v := (Reg.maFeedStatusChainPend b).deposit v (t.tileMask (fun x => decide (0 < x.expect)))
    let v := (Reg.maFeedStatusExpOcc b).deposit v t.expq.length
    let v := (Reg.maFeedStatusLead b).deposit v (t.feedOcc 0)
    let v := (Reg.maFeedStatusShadowFull b).deposit v (if t.shadowFull then 1 else 0)
    let v := (Reg.maFeedStatusHold b).deposit v (if t.holdPass then 1 else 0)
    (Reg.maFeedStatusChainBuf b).deposit v (if t.chainBuf.isSome then 1 else 0)
  else if o = 0x330 ∨ o = 0x338 then
    BitVec.ofNat 64 ((List.range 8).foldl (fun v j => v + t.feedOcc (o - 0x330 + j) * 2 ^ (8 * j)) 0)
  else if o = 0x448 then
    (List.range 4).foldl (fun v i => (Reg.stnSpStatusSkip b i).deposit v (t.tile i).skip.toNat) v
  else if o = 0x600 then 0
  else if o = p0Off then BitVec.allOnes 64
  else v

/-- The poison log of an FD. -/
def State.plog (s : State) (fd : Nat) : List PoisonEnt := Sparse.get (fun _ => []) s.poisonLog fd

/-- Tier-2 capacity available to traverses, in MiB (R292). -/
def State.t2Cap (s : State) (fd : Nat) : Nat :=
  s.rd (Reg.t2StatusInService fd) * 32768 - 768 - s.rd (Reg.fdMemT2ResvMib fd)

/-- Requests that wait at a line's home, or for it (R310 to R312). -/
def State.homeWaits (s : State) : List HomeReq :=
  s.readWait ++ s.fab.dirWait ++ s.dir.flatMap (fun d => d.2.flatMap (fun e => e.write.toList ++ e.queue))

/-- Outstanding transactions of an FD (R320): signals, of the LOCK class; all; and those of one station. -/
def State.trkLock (s : State) (fd : Nat) : Nat := (s.sigs.filter (fun x => decide (x.1 / 128 = fd))).length
def State.trkTotal (s : State) (fd : Nat) : Nat :=
  (s.remote.filter (fun r => r.fd = fd)).length + s.trkLock fd + (s.homeWaits.filter (fun r => r.die = fd)).length
    + (s.grants.filter (fun g => g.fd = fd)).length
def State.trkStn (s : State) (n : Nat) : Nat :=
  (s.remote.filter (fun r => r.stn = n)).length + (s.sigs.filter (fun x => decide (x.1 = n))).length
    + (s.homeWaits.filter (fun r => r.stn = n)).length

/-- FD_EDGE_CREDe (R318): credits of a class not held by flits the edge has not acknowledged. -/
def State.edgeCred (s : State) (fd o : Nat) (v : BitVec 64) : BitVec 64 :=
  let held := fun (c : Nat) => ((Sparse.get (fun _ => []) s.fab.edgeHeld (fd * 4 + (o - 0x13A0) / 8)).filter (fun x => x.2 = c)).length
  [0, 1, 2, 3].foldl (fun v c =>
    let f : Fld := ⟨0, 8 * c, if c < 2 then 6 else 5⟩
    f.deposit v (f.extract v - held c)) v

/-- The register at an FD-level block offset as it reads. -/
def State.fdRegRead (s : State) (fd o : Nat) : BitVec 64 :=
  let v := s.reg (0x1000000 + fd * 0x100000 + o)
  if o = 0x000 then (Reg.fdStatusParcel fd).deposit v (s.parcelOf fd)
  else if o = 0x808 then
    let n := (s.xpQueue.filter (fun e => e.1 = fd)).length
    (Reg.fdXpStatusBusy fd).deposit ((Reg.fdXpStatusQueue fd).deposit v n) (if 0 < n then 1 else 0)
  else if o = 0x1000 then (Reg.fdMemCapT2Mib fd).deposit v (s.t2Cap fd)
  else if o = 0x1018 then (Reg.scDirOcc fd).deposit v (Sparse.get (fun _ => []) s.dir fd).length
  else if o = 0x1210 then (Reg.memPoisonStatLogCount fd).deposit v (s.plog fd).length
  else if o = 0x1218 then BitVec.ofNat 64 ((s.plog fd).head?.map (·.addr) |>.getD 0)
  else if o = 0x1220 then ((s.plog fd).head?.map (·.time) |>.getD 0)
  else if o = 0x1228 then
    match (s.plog fd).head? with
    | none => 0
    | some e => BitVec.ofNat 64 (e.parcel % 4 + 4 * (e.tier % 4) + 16 * (e.found % 8) + 256 * (e.station % 128))
  else if o = 0x1308 then
    (Reg.memTrkOccRemote fd).deposit ((Reg.memTrkOccLock fd).deposit ((Reg.memTrkOccTotal fd).deposit v (s.trkTotal fd)) (s.trkLock fd))
      (s.remote.filter (fun r => r.fd = fd)).length
  else if 0x13A0 ≤ o ∧ o < 0x13C0 then s.edgeCred fd o v
  else v

/-- A register of FD `fd`'s 1 MiB block as it reads, at block offset `o`. -/
def State.fdBlockRead (s : State) (fd o : Nat) : BitVec 64 :=
  if o < 0x20000 then (if (regRowAt (0x1000000 + fd * 0x100000 + o)).isSome then s.fdRegRead fd o else 0)
  else if o < 0xA8000 then
    (if (regRowAt (0x1000000 + fd * 0x100000 + o)).isSome then s.stnRegRead fd ((o - 0x20000) / 0x1000) ((o - 0x20000) % 0x1000) else 0)
  else 0

/-- A station found by its number that can issue its next instruction: STATE is RUNNING, and it does not wait for a
single step to complete (R216). -/
def State.issuable (s : State) (n : Nat) : Option Loc :=
  match s.locate n with
  | some k =>
    if s.stateAt k = stRunning ∧ !(s.haltReq k.b && (s.stn k).stepping && decide ((s.stn k).step ≠ .issue)) then some k else none
  | none => none

end Sys2Proof.Machine
end

