-- ==== Sys2Proof/Machine/Route.lean ====
section
/-! DEFINITION. Ports and routes (R326, R341 to R343), and how messages leave the module: sequenced flits on a torus port
against credit (R337, R339, R340), frames of end-to-end contexts on an uplink (R344, R346). -/

namespace Sys2Proof.Machine

/-- The module's own number, 0 while none is assigned (R35). -/
def State.ownModule (s : State) : Nat := if s.flag Reg.glbModuleNumValid then s.rd Reg.glbModuleNumModule else 0

/-- LNK_STATUS.STATE codes (R372). -/
def lnkDown : Nat := 0
def lnkTrain : Nat := 1
def lnkHello : Nat := 2
def lnkUpSync : Nat := 3
def lnkUpUnsync : Nat := 4
def lnkMiswired : Nat := 5
def lnkDisabled : Nat := 6

/-- Whether port `k` is an uplink (R326). -/
def isUplink (k : Nat) : Bool := decide (6 ≤ k % 8)

/-- The link die whose ports serve a die (R342). -/
def ldOf (die : Nat) : Nat := if [0, 1, 4, 5, 8, 9, 12, 13, 16, 18].contains die then 0 else 1

/-- Whether a port is up. -/
def State.portUp (s : State) (k : Nat) : Bool :=
  decide (s.rd (Reg.lnkStatusState k) = lnkUpSync) || decide (s.rd (Reg.lnkStatusState k) = lnkUpUnsync)

/-- Coordinate of a module on an axis of the torus: X, Y, Z in its low bits (R31). -/
def coordOf (m axis : Nat) : Nat := m / 4 ^ axis % 4

/-- Whether a port is down (R342): not up, and not on its way back with its flits kept, in a retrain (R337) or out of L1
(R517). -/
def State.portDead (s : State) (k : Nat) : Bool :=
  !s.portUp k && !((Sparse.get (fun _ => Port.idle) s.ports k).retrain && decide (s.rd (Reg.lnkStatusState k) ≠ lnkDown))

/-- Whether a direction is broken: both its ports are down (R342). -/
def State.dirBroken (s : State) (dir : Nat) : Bool := s.portDead dir && s.portDead (dir + 8)

/-- The uplink port of a plane. -/
def uplinkPort (plane : Nat) : Nat := if plane < 2 then 6 + plane else 12 + plane

/-- The plane of an uplink port. -/
def planeOf (k : Nat) : Nat := if k < 8 then k - 6 else k - 12

/-- The port of a direction that a transfer of link die `ld` takes: its own, else the other, one that is up before one that
retrains. -/
def State.dirPort (s : State) (dir ld : Nat) : Nat :=
  let a := dir + 8 * ld
  let b := dir + 8 * (1 - ld)
  if s.portUp a then a else if s.portUp b then b else if s.portDead a then b else a

/-- The direction in which a transfer goes on: the other way round the ring where one is broken, none where both are
(R342). -/
def State.dirOr (s : State) (dir : Nat) : Option Nat :=
  if !s.dirBroken dir then some dir else if !s.dirBroken (dir ^^^ 1) then some (dir ^^^ 1) else none

/-- The port by which this module reaches another under R341 to R343 through link die `ld`, and none when no route
reaches it: in the section by dimension order, a broken direction taken the other way round; otherwise by the first
uplink that is up from the given plane on. `came` is the torus port a forwarded flit came in by: along that port's ring
it goes on as it came until it has reached its coordinate. -/
def State.routeVia (s : State) (ld plane target : Nat) (came : Option Nat) : Option Nat :=
  let own := s.ownModule
  if own / 64 = target / 64 then
    match (List.range 3).find? (fun a => decide (coordOf own a ≠ coordOf target a)) with
    | none => none
    | some a =>
      let d := (coordOf target a + 4 - coordOf own a) % 4
      let dir := match came with
        | some n => if n % 8 / 2 = a then (n % 8) ^^^ 1 else if d ≤ 2 then 2 * a else 2 * a + 1
        | none => if d ≤ 2 then 2 * a else 2 * a + 1
      (s.dirOr dir).map (fun x => s.dirPort x ld)
  else
    ((List.range 4).map (fun i => uplinkPort ((plane + i) % 4))).find? s.portUp

/-- The port by which a transfer made here leaves (R341 to R343). -/
def State.routePort (s : State) (ld plane target : Nat) : Option Nat := s.routeVia ld plane target none

/-! ## Torus ports -/

/-- A port's state beside its registers. -/
def State.port (s : State) (k : Nat) : Port := Sparse.get (fun _ => Port.idle) s.ports k

/-- The state with a port changed. -/
def State.updPort (s : State) (k : Nat) (f : Port → Port) : State :=
  { s with ports := Sparse.set (fun _ => Port.idle) s.ports k (f (s.port k)) }

/-- LNK_CREDIT of a VC (R339, R524). -/
def creditFld (k vc : Nat) : Fld := if vc < 4 then Reg.lnkCredit0Vc k vc else Reg.lnkCredit1Vc k (vc - 4)

/-- Receive buffer of a VC, in flits (R339). -/
def rxSize (vc : Nat) : Nat := [32, 256, 192, 160, 160, 128, 64, 32].getD vc 0

/-- Flits a port's receive buffer holds of a VC, in both halves. -/
def Port.rxHeld (p : Port) (vc : Nat) : Nat :=
  Sparse.get (fun _ => 0) p.rxBuf (2 * vc) + Sparse.get (fun _ => 0) p.rxBuf (2 * vc + 1)

/-- The lane after `l` among the active lanes of a mask (R328): whole flits are dealt in ascending lane order. -/
def nextLane (mask l : Nat) : Nat := ((List.range 4).map (fun i => (l + 1 + i) % 4)).find? (fun x => bitOf mask x) |>.getD 0

/-- A flit dealt to the next lane of a port and sent (R328): `rest` is what it says after the lane. -/
def State.deal (s : State) (k : Nat) (rest : List Nat) (data : List Byte) : State :=
  let l := nextLane (s.rd (Reg.lnkStatusLanes k)) (s.port k).lane
  (s.updPort k (fun p => { p with lane := l })).send ⟨.linkFlit, [k, l] ++ rest, data⟩

/-- A sequenced flit as it is dealt. -/
def State.dealFlit (s : State) (k : Nat) (x : Nat × TxFlit) : State :=
  s.deal k ([x.1, x.2.vc, x.2.kind, x.2.peer, x.2.die, x.2.parcel, x.2.idx, if x.2.poison then 1 else 0] ++ x.2.args) x.2.data

/-- Flits sent again, ahead of all other traffic, and counted (R337). -/
def State.dealAgain (s : State) (k : Nat) (xs : List (Nat × TxFlit)) : State :=
  xs.foldl (fun s x => (s.inc (Reg.lnkReplayFlits k)).dealFlit k x) s

/-- Credit returned to the sender of a flit that leaves the receive buffer of port `k`, in an IDLE flit (R336, R339):
what it acknowledges, the VC and the flits. -/
def State.returnCredit (s : State) (k vc : Nat) : State :=
  if s.portUp k then s.deal k [(s.port k).txSeq, 7, 0, ((s.port k).rxSeq + 65535) % 65536, vc, 1] [] else s

/-- A forwarded flit leaves the receive buffer it was held in, once. -/
def State.leaveRx (s : State) (f : TxFlit) : State :=
  if 16 ≤ f.src ∨ f.left then s
  else
    let i := 2 * f.vc + (if f.upper then 1 else 0)
    (s.updPort f.src (fun p =>
        { p with rxBuf := Sparse.set (fun _ => 0) p.rxBuf i (Sparse.get (fun _ => 0) p.rxBuf i - 1) })).returnCredit f.src f.vc

/-- Whether port `k` may send a flit of a VC now: it is up and awake, has credit, and holds fewer than 512 flits
unacknowledged (R337, R339). -/
def State.mayTx (s : State) (k vc : Nat) : Bool :=
  s.portUp k && !(s.port k).l1 && decide (0 < s.rd (creditFld k vc)) && decide ((s.port k).unacked.length < 512)

/-- What names the message a flit belongs to within its VC. -/
def TxFlit.msgId (f : TxFlit) : Nat := 1 + 4 * f.src + f.parcel % 4

/-- The flit sent with the next SEQ (R337, R339); its message is under way until its last flit (R335). -/
def State.txNow (s : State) (k : Nat) (f : TxFlit) : State :=
  let q := (s.port k).txSeq
  let s := (s.wr (creditFld k f.vc) (s.rd (creditFld k f.vc) - 1)).inc (Reg.lnkTxFlitsCount k)
  let s := s.updPort k (fun p => { p with
    txSeq := (q + 1) % 65536, unacked := p.unacked ++ [(q, { f with left := true })], txq := p.txq.erase f
    opened := Sparse.set (fun _ => 0) p.opened f.vc (if f.last then 0 else f.msgId) })
  (s.dealFlit k (q, f)).leaveRx f

/-- Weight of a parcel on a link die: COL_PARCEL_SHARE, or its FD count under AUTO (R368). -/
def State.shareWeight (s : State) (ld p : Nat) : Nat :=
  if s.flag (Reg.colParcelShareAuto ld) then (s.parcelFds p).length else s.rd (Reg.colParcelShareWeight ld p)

/-- WEIGHT of a VC on a link die (R340, R371). -/
def State.vcWeight (s : State) (ld vc : Nat) : Nat := s.rd ⟨(Reg.lnkVcWeightWeight0 ld).addr, 8 * vc, 8⟩

/-- One turn of a deficit round robin over the members `base` to `base + n − 1`: the member whose turn it is takes one unit
of its deficit if it is ready; else the turn passes to the next, which gains its weight. `m` bounds the turns. Callers take a
weight of 0 as 1, so that no ready member waits for ever (DESIGN CHOICE, logs 112 and 219). -/
def drr (base n : Nat) (ready : Nat → Bool) (weight : Nat → Nat) : Nat → Nat → Sparse Nat → Option (Nat × Sparse Nat)
  | 0, _, _ => none
  | m + 1, t, d =>
    let c := Sparse.get (fun _ => 0) d t
    if ready t && decide (0 < c) then some (t, Sparse.set (fun _ => 0) d t (c - 1))
    else
      let d := if ready t then d else Sparse.set (fun _ => 0) d t 0
      let t' := if t + 1 < base + n then t + 1 else base
      drr base n ready weight m t' (Sparse.set (fun _ => 0) d t' (Sparse.get (fun _ => 0) d t' + (if ready t' then weight t' else 0)))

/-- Whether a flit may leave by port `k` as the port is: READY messages, and those of collectives with LOCKSTEP, wait while it
is UP_UNSYNC (R365). -/
def State.syncOk (s : State) (k : Nat) (f : TxFlit) : Bool :=
  !(decide (s.rd (Reg.lnkStatusState k) = lnkUpUnsync) && (decide (f.kind = 5) || f.lockstep))

/-- The next flit of message `o` among those that wait: if the port it came in by has gone down, the rest of it comes by the
other port of that direction (R335, R337). -/
def State.restOf (s : State) (q : List TxFlit) (o : Nat) : Option TxFlit :=
  match q.find? (fun f => f.msgId = o) with
  | some f => some f
  | none =>
    let src := (o - 1) / 4
    if src < 16 ∧ s.portDead src then
      q.find? (fun f => decide (f.src = (src + 8) % 16 ∧ f.parcel % 4 = (o - 1) % 4 ∧ f.idx ≠ 0))
    else none

/-- The flit of a VC that goes next at port `k`, with the deficits and the turns after it: the next of the message under way;
else the first flit of the parcel whose turn it is (R335, R365, R368). -/
def State.nextOf (s : State) (k vc : Nat) : Option (TxFlit × Sparse Nat × Sparse Nat) :=
  let p := s.port k
  let q := p.txq.filter (fun f => decide (f.vc = vc) && s.syncOk k f)
  let o := Sparse.get (fun _ => 0) p.opened vc
  if o ≠ 0 then (s.restOf q o).map (fun f => (f, p.deficit, p.turns))
  else
    let base := 8 + 4 * vc
    match drr base 4 (fun i => q.any (fun f => f.parcel % 4 = i - base)) (fun i => max 1 (s.shareWeight (k / 8) (i - base))) 9
        (base + Sparse.get (fun _ => 0) p.turns vc) p.deficit with
    | some x => (q.find? (fun f => f.parcel % 4 = x.1 - base)).map (fun f => (f, x.2, Sparse.set (fun _ => 0) p.turns vc (x.1 - base)))
    | none => none

/-- Whether a VC has a flit that may go now. -/
def State.vcReady (s : State) (k vc : Nat) : Bool := s.mayTx k vc && (s.nextOf k vc).isSome

/-- The VC that sends the next flit of port `k`, with the deficits after it: VC 0, then VC 7, then VCs 1 to 6 by deficit
round robin with the weights of LNK_VC_WEIGHT (R340). -/
def State.nextVc (s : State) (k : Nat) : Option (Nat × Sparse Nat) :=
  let p := s.port k
  if s.vcReady k 0 then some (0, p.deficit)
  else if s.vcReady k 7 then some (7, p.deficit)
  else drr 1 6 (s.vcReady k) (fun v => max 1 (s.vcWeight (k / 8) v)) 13 p.turn p.deficit

/-- One flit sent, where one may go. -/
def State.txOne (s : State) (k : Nat) : State :=
  match s.nextVc k with
  | none => s
  | some (v, d) =>
    let s := s.updPort k (fun p => { p with deficit := d, turn := if v = 0 ∨ v = 7 then p.turn else v })
    match s.nextOf k v with
    | none => s
    | some (f, d, ts) => (s.updPort k (fun p => { p with deficit := d, turns := ts })).txNow k f

/-- The flits that wait at a port, sent as far as they may go (R339, R340). -/
def State.flushPort (s : State) (k : Nat) : State := (List.range (s.port k).txq.length).foldl (fun s _ => s.txOne k) s

/-- The flits of a message: `n` of them, the first with the message's contents. -/
def msgFlits (m : TxFlit) (n : Nat) : List TxFlit :=
  { m with last := decide (n ≤ 1) } :: (List.range (n - 1)).map (fun i =>
    { m with idx := i + 1, last := decide (i + 2 = n), args := [], data := [] })

/-- Flits handed to torus port `k`, which sends what it may. -/
def State.txMsg (s : State) (k : Nat) (fs : List TxFlit) : State := (s.updPort k (fun p => { p with txq := p.txq ++ fs })).flushPort k

/-! ## Uplinks -/

/-- Contexts of a link die. -/
def State.ctxCount (s : State) (ld : Nat) : Nat := (s.ctxs.filter (fun c => c.plane / 2 = ld)).length

/-- LNK_E2E_STAT.CONTEXTS (R371). -/
def State.showCtxs (s : State) : State := [0, 1].foldl (fun s d => s.wr (Reg.lnkE2eStatContexts d) (s.ctxCount d)) s

/-- The context of a peer, plane and VC, if open (R346). -/
def State.ctx (s : State) (plane peer vc : Nat) : Option Ctx :=
  s.ctxs.find? (fun c => decide (c.plane = plane ∧ c.peer = peer ∧ c.vc = vc))

/-- A context replaced. -/
def State.setCtx (s : State) (c : Ctx) : State :=
  { s with ctxs := s.ctxs.map (fun x => if x.plane = c.plane ∧ x.peer = c.peer ∧ x.vc = c.vc then c else x) }

/-- A context opened (R346); none when all 2,048 of the link die are in use. -/
def State.openCtx (s : State) (plane peer vc : Nat) : State × Option Ctx :=
  match s.ctx plane peer vc with
  | some c => (s, some c)
  | none =>
    if s.ctxCount (plane / 2) < 2048 then
      let c := Ctx.fresh plane peer vc
      ({ s with ctxs := s.ctxs ++ [c] }.showCtxs, some c)
    else (s, none)

/-- A frame sent or sent again: what each of its flits says, in order. -/
def State.putFrame (s : State) (c : Ctx) (x : Nat × List TxFlit) : State :=
  s.send ⟨.frame, [c.plane, c.peer, c.vc, x.1, x.2.length]
    ++ x.2.flatMap (fun f => [f.kind, f.die, f.parcel, f.idx, if f.poison then 1 else 0] ++ f.args), x.2.flatMap (·.data)⟩

/-- Whether a plane's uplink sends frames of a VC now: it is up and the VC is not paused (R347). -/
def State.planeSends (s : State) (plane vc : Nat) : Bool :=
  s.portUp (uplinkPort plane) && !(s.port (uplinkPort plane)).paused.getLsbD vc

/-- Flits of parcel `i` that a context may send now, in order: of the message under way alone while one is (R335, R365). -/
def State.ctxFlits (s : State) (c : Ctx) (i : Nat) : List TxFlit :=
  if c.opened ≠ 0 ∧ c.opened ≠ 1 + i then []
  else c.wait.filter (fun f => decide (f.parcel % 4 = i) && s.syncOk (uplinkPort c.plane) f)

/-- Contexts of a plane's VC that may send: the window open, the uplink up and the VC not paused (R346, R347). -/
def State.ctxsOpen (s : State) (plane vc : Nat) : List Ctx :=
  if !s.planeSends plane vc then []
  else (s.ctxs.filterMap (fun c => s.ctx plane c.peer vc)).filter (fun c => decide (c.unacked.length < s.rd (Reg.lnkE2eCfgWindow (plane / 2))))

/-- Flits of the largest frame (R344). -/
def State.frameMax (s : State) (plane : Nat) : Nat := max 1 (min 8 (s.rd (Reg.lnkUplinkCfgFlits (plane / 2))))

/-- The context of a plane's VC that sends the next frame, its flits, and the deficits and turns after it: that of the parcel
whose turn it is (R340, R368), each flit of the frame taking one of its deficit (log 112). -/
def State.nextCtx (s : State) (plane vc : Nat) : Option (Ctx × List TxFlit × Sparse Nat × Sparse Nat) :=
  let p := s.port (uplinkPort plane)
  let cs := s.ctxsOpen plane vc
  let base := 8 + 4 * vc
  match drr base 4 (fun i => cs.any (fun c => !(s.ctxFlits c (i - base)).isEmpty)) (fun i => max 1 (s.shareWeight (plane / 2) (i - base))) 9
      (base + Sparse.get (fun _ => 0) p.turns vc) p.deficit with
  | none => none
  | some x =>
    (cs.find? (fun c => !(s.ctxFlits c (x.1 - base)).isEmpty)).map (fun c =>
      let fs := (s.ctxFlits c (x.1 - base)).take (s.frameMax plane)
      (c, fs, Sparse.set (fun _ => 0) x.2 x.1 (Sparse.get (fun _ => 0) x.2 x.1 - (fs.length - 1)),
        Sparse.set (fun _ => 0) p.turns vc (x.1 - base)))

/-- The VC that sends the next frame of a plane's uplink, with the deficits after it: VC 0, then VC 7, then VCs 1 to 6 by deficit
round robin (R340, R349). -/
def State.nextPlaneVc (s : State) (plane : Nat) : Option (Nat × Sparse Nat) :=
  let p := s.port (uplinkPort plane)
  let ready := fun (v : Nat) => (s.nextCtx plane v).isSome
  if ready 0 then some (0, p.deficit)
  else if ready 7 then some (7, p.deficit)
  else drr 1 6 ready (fun v => max 1 (s.vcWeight (plane / 2) v)) 13 p.turn p.deficit

/-- A context's next frame sent (R344, R346). -/
def State.frameNow (s : State) (c : Ctx) (fs : List TxFlit) : State :=
  let x := (c.txSeq, fs)
  let s := s.setCtx { c with
    txSeq := (c.txSeq + 1) % 2 ^ 32, wait := fs.foldl List.erase c.wait, unacked := c.unacked ++ [x]
    opened := match fs.getLast? with | some f => (if f.last then 0 else 1 + f.parcel % 4) | none => c.opened }
  (s.putFrame c x).inc (Reg.lnkTxFlitsCount (uplinkPort c.plane)) fs.length

/-- Up to `n` frames of a plane's contexts sent, in the order of R340 and R368. -/
def State.sendFrames (plane : Nat) : Nat → State → State
  | 0, s => s
  | n + 1, s =>
    match s.nextPlaneVc plane with
    | none => s
    | some (v, d) =>
      let k := uplinkPort plane
      let s := s.updPort k (fun p => { p with deficit := d, turn := if v = 0 ∨ v = 7 then p.turn else v })
      match s.nextCtx plane v with
      | none => s
      | some (c, fs, d, ts) =>
        State.sendFrames plane n ((s.updPort k (fun p => { p with deficit := d, turns := ts })).frameNow c fs)

/-- Flits that wait in a plane's contexts. -/
def State.planeWaits (s : State) (plane : Nat) : Nat := ((s.ctxs.filter (fun c => c.plane = plane)).map (·.wait.length)).sum

/-- The waiting flits of a plane sent as far as they may go. -/
def State.flushUplink (s : State) (plane : Nat) : State := State.sendFrames plane (s.planeWaits plane) s

/-- Flits handed to an uplink for a peer (R343, R346). A transfer to a new peer waits while no context is free; `wait` counts
the wait. -/
def State.txFrame (s : State) (plane peer vc : Nat) (fs : List TxFlit) (wait : Bool) : State :=
  match s.openCtx plane peer vc with
  | (s, none) =>
    { (if wait then s.inc (Reg.lnkE2eStatWait (plane / 2)) else s) with ctxWait := s.ctxWait ++ fs.map (fun f => (plane, f)) }
  | (s, some c) => (s.setCtx { c with wait := c.wait ++ fs }).flushUplink plane

/-- The transfers that wait for a context offered again; one that still finds none waits on, uncounted. -/
def State.offerCtxs (s : State) : State :=
  s.ctxWait.foldl (fun s x => s.txFrame x.1 x.2.peer x.2.vc [x.2] false) { s with ctxWait := [] }

/-- The flits of one message sent on a port. -/
def State.sendFlits (s : State) (k : Nat) (fs : List TxFlit) : State :=
  match fs with
  | [] => s
  | f :: _ => if isUplink k then s.txFrame (planeOf k) f.peer f.vc fs true else s.txMsg k fs

/-- A message of `n` flits sent on a port. -/
def State.sendPort (s : State) (k : Nat) (m : TxFlit) (n : Nat) : State := s.sendFlits k (msgFlits m n)

/-- Flits sent to the module of the first by the routes of R341 to R343; REQ and RSP traffic between sections uses the
plane of R343. With no route they are held (R364). -/
def State.routeFlits (s : State) (fs : List TxFlit) : State :=
  match fs with
  | [] => s
  | f :: _ =>
    match s.routeVia (ldOf f.die) ((s.ownModule + f.peer) % 4) f.peer (if f.src < 16 then some f.src else none) with
    | some k => s.sendFlits k fs
    | none => { s with fab := { s.fab with unrouted := s.fab.unrouted ++ fs } }

/-- EV_COLL_PEER_LOST for a peer that other traffic than a collective's waits on: 0xFFFF stands for the plan (R364, R373). -/
def State.peerLost (s : State) (die parcel peer : Nat) : State :=
  s.raise (0xA046 + 0x100 * ldOf die) parcel [s.meridian.toNat, 0xFFFF, peer]

/-- A message of `n` flits sent to another module. The first that finds no route finds the peer lost (R364). -/
def State.sendModule (s : State) (m : TxFlit) (n : Nat) : State :=
  let s := if (s.routePort (ldOf m.die) ((s.ownModule + m.peer) % 4) m.peer).isNone ∧ m.peer ≠ s.ownModule
        ∧ !s.fab.unrouted.any (fun f => f.peer = m.peer) then s.peerLost m.die m.parcel m.peer
    else s
  s.routeFlits (msgFlits m n)

/-- The flits no route reached, offered again: one that still has none stays. -/
def State.reroute (s : State) : State :=
  s.fab.unrouted.foldl (fun s f => s.routeFlits [f]) { s with fab := { s.fab with unrouted := [] } }

/-- Flits of a message of `b` data bytes: a header and 240 bytes in each of the rest (R335, R362). -/
def flitsFor (b : Nat) : Nat := 1 + (b + 239) / 240

end Sys2Proof.Machine
end

