-- ==== Sys2Proof/Machine/Mem.lean ====
section
/-! DEFINITION. Survey addresses, the checks an access passes, and the bytes behind them: tier-1, tier-2, shared-cache
scratch, local stores, the atomic window, register mirrors, the host aperture and other modules (spec/10, R30 to R33,
R288 to R299, R314 to R316). -/

namespace Sys2Proof.Machine

/-- Fault causes (R215). -/
def fcIllegalOp : Nat := 0x01
def fcPcInvalid : Nat := 0x02
def fcDataSteer : Nat := 0x03
def fcFmtInvalid : Nat := 0x04
def fcLayoutInvalid : Nat := 0x05
def fcAddrInvalid : Nat := 0x06
def fcAccessDenied : Nat := 0x07
def fcCopyOverlap : Nat := 0x08
def fcCopyTooLarge : Nat := 0x09
def fcChainUnexpected : Nat := 0x0A
def fcShapeOver : Nat := 0x0B
def fcPoisonConsumed : Nat := 0x0C
def fcBarrierOpen : Nat := 0x0D
def fcTrap : Nat := 0x0E
def fcCollInvalid : Nat := 0x0F

/-- A fault's cause and STN_FAULT_INFO. -/
abbrev Flt := Nat × Nat

/-! ## Addresses -/

/-- MODULE, DIE and OFFSET of a survey address (R30). -/
def addrModule (a : Nat) : Nat := a / 2 ^ 46 % 2 ^ 18
def addrDie (a : Nat) : Nat := a / 2 ^ 41 % 2 ^ 5
def addrOff (a : Nat) : Nat := a % 2 ^ 41

/-- The key of a byte of the module's own dies. -/
def dieKey (die off : Nat) : Nat := die * 2 ^ 41 + off

/-- OFFSET bases of an FD window (R288). -/
def t2Base : Nat := 0x10000000000
def scBase : Nat := 0x14000000000
def atomBase : Nat := 0x15000000000
def lsBase : Nat := 0x16000000000
def mirrorBase : Nat := 0x17000000000

/-- LS_SIZE.BYTES (R170). -/
def lsBytes : Nat := 0x180000

/-- The key of byte `b` of the local store of logical station `log` of FD `fd` (R288). -/
def lsKey (fd log b : Nat) : Nat := dieKey fd (lsBase + log * 0x200000 + b)

/-- The key of the byte a survey address names: its die and offset in this module, or beyond 2^64 for another's. -/
def State.keyOf (s : State) (a : Nat) : Nat := if addrModule a = s.ownModule then a % 2 ^ 46 else 2 ^ 64 + a % 2 ^ 64

/-- Whether a key names a byte of another module. -/
def keyRemote (k : Nat) : Bool := decide (2 ^ 64 ≤ k)

/-- The survey address of a key. -/
def State.addrOf (s : State) (k : Nat) : Nat := if keyRemote k then k - 2 ^ 64 else s.ownModule * 2 ^ 46 + k

/-- What lies at an offset of a die window (R288, R289). -/
inductive Region
  | t1
  | t2
  | sc (b : Nat)
  | atomic (op : Nat) (b : Nat)
  | ls (log : Nat) (b : Nat)
  | mirror (o : Nat)
  | aperture
  | hole
  deriving DecidableEq, Repr

/-- SCRATCH of an FD in bytes (R307). -/
def State.scratch (s : State) (fd : Nat) : Nat := s.rd (Reg.scPartScratchKib fd) * 1024

/-- First tier-2 byte of an FD's redirect reserve: the top 768 MiB of the range in service (R288, R294). -/
def State.t2Top (s : State) (fd : Nat) : Nat := s.rd (Reg.t2StatusInService fd) * 0x800000000 - 0x30000000

/-- Decoding of an offset in a die window of this module; sizes that depend on registers are checked by `spanCheck`. -/
def regionOf (die off : Nat) : Region :=
  if die < 16 then
    if off < 0xC00000000 then .t1
    else if off < t2Base then .hole
    else if off < scBase then .t2
    else if off < atomBase then .sc (off - scBase)
    else if off < lsBase then .atomic ((off - atomBase) / 2 ^ 32) ((off - atomBase) % 2 ^ 32)
    else if off < mirrorBase then
      (if (off - lsBase) / 0x200000 < 128 then .ls ((off - lsBase) / 0x200000) ((off - lsBase) % 0x200000) else .hole)
    else if off < mirrorBase + 0x100000 then .mirror (off - mirrorBase)
    else .hole
  else if die < 20 then
    if mirrorBase ≤ off ∧ off < mirrorBase + 0x100000 then .mirror (off - mirrorBase)
    else if die = 18 ∧ off < 0x10000000000 then .aperture
    else .hole
  else .hole

/-- Element bytes of an atomic operation (R314); 0 for a reserved code. -/
def atomicSize (op : Nat) : Nat :=
  if op = 1 then 4 else if op = 9 then 32 else if op ≤ 0xA then 8 else 0

/-- How an access uses the bytes it names. -/
inductive Use
  | read
  | sld     -- the 8-byte SLD that INC_FETCH serves
  | write
  deriving DecidableEq, Repr

/-- Whether the atomic window refuses the access (R315). -/
def atomicBad (op b n : Nat) (u : Use) : Bool :=
  match u with
  | .read => decide (0xA ≤ op)
  | .sld => decide (0xA < op) || (decide (op = 0xA) && !(decide (n = 8) && decide (b % 8 = 0)))
  | .write => decide (0xA ≤ op) || decide (b % atomicSize op ≠ 0) || decide (n % atomicSize op ≠ 0)

/-- An address error of a span that starts at `off` of `die` (R33, R290 check 1). `known` says that the sizes of the
module the target lies in are known: the module's own. -/
def State.addrBad (s : State) (die off n : Nat) (u : Use) (known : Bool) : Bool :=
  match regionOf die off with
  | .hole => true
  | .t1 => decide (0xC00000000 < off + n)
  | .t2 => decide ((if known then t2Base + s.t2Top die else t2Base + 0x4000000000 - 0x30000000) < off + n)
  | .sc b => decide ((if known then s.scratch die else 79 * 2 ^ 20) < b + n)
  | .atomic op b => atomicBad op b n u || decide ((if known then s.scratch die else 79 * 2 ^ 20) < b + n)
  | .ls _ b => decide ((if known then lsBytes else 0x200000) < b + n)
  | .mirror o => decide (0x100000 < o + n)
  | .aperture => decide (0x10000000000 < off + n)

/-- Whether an FD's memory still answers: it is not retired, or retired and still reachable (R453). -/
def State.fdAnswers (s : State) (fd : Nat) : Bool := !s.fdUnreach.contains fd

/-- Checks 1 to 3 of R290 on one contiguous span of survey addresses: the fault of a station of parcel `who`, or of
the PF (`none`), to which every die of the module is open and every other module closed (R528). -/
def State.spanCheck (s : State) (who : Option Nat) (u : Use) (a n : Nat) : Option Flt :=
  let die := addrDie a
  let off := addrOff a
  let m := addrModule a
  if n = 0 then none
  else if m = s.ownModule then
    if s.addrBad die off n u true then some (fcAddrInvalid, a)
    else
      let denied : Bool := match regionOf die off, who with
        | .mirror _, some p => u = .write || decide (16 ≤ die) || decide (s.parcelOf die ≠ p)
        | .mirror _, none => true
        | .aperture, _ => false
        | _, some p => decide (16 ≤ die) || decide (s.parcelOf die ≠ p) || !s.fdAnswers die
        | _, none => !s.fdAnswers die
      if denied then some (fcAccessDenied, a) else none
  else
    if s.addrBad die off n u false then some (fcAddrInvalid, a)
    else match who with
      | none => some (fcAccessDenied, a)
      | some p =>
        if !s.flag Reg.glbModuleNumValid ∨ m < s.rd (Reg.glbMemReachFirst p) ∨ s.rd (Reg.glbMemReachLast p) < m
        then some (fcAccessDenied, a) else none

/-- Bytes of memory that nothing has written read as zero: start-up zeroes every tier (R514, R518). -/
def memDefault (_ : Nat) : Byte := 0

/-- A register mirror's byte. -/
def State.mirrorByte (s : State) (die o : Nat) : Byte :=
  let v := if die < 16 then s.fdBlockRead die (o / 8 * 8)
    else s.reg ((if die = 16 then 0x2000000 else if die = 17 then 0x2100000 else if die = 18 then 0x2200000 else 0x2300000) + o / 8 * 8)
  BitVec.ofNat 8 (v.toNat / 2 ^ (8 * (o % 8)))

/-- The pseudo-channel of a tier-1 offset (R293). -/
def t1Pc (off : Nat) : Nat :=
  let g := off / 256
  ((g % 64) ^^^ (g / 2 ^ 6 % 64) ^^^ (g / 2 ^ 12 % 64) ^^^ (g / 2 ^ 18 % 64) ^^^ (g / 2 ^ 24 % 16))

/-- The key under which a byte is kept: a granule of the redirected pseudo-channel lies in the redirect reserve, at its row
(R293, R301). -/
def State.homeKey (s : State) (k : Nat) : Nat :=
  let fd := k / 2 ^ 41
  let off := k % 2 ^ 41
  if fd < 16 ∧ off < 0xC00000000 then
    if s.flag (Reg.t1RedirectUsed fd) ∧ s.rd (Reg.t1RedirectPc fd) = t1Pc off then
      dieKey fd (t2Base + s.t2Top fd + off / 16384 * 256 + off % 256)
    else k
  else k

/-- What a byte of undefined contents holds, free: scratch when its traverse started (R307), tier-1 since a trip (R322), tier-1
and tier-2 since the module went down (R478; log 4); zero elsewhere. -/
def State.scrMask (s : State) (k : Nat) : Byte :=
  if s.scrGen.isEmpty then 0
  else
    let fd := k / 2 ^ 41
    match regionOf fd (k % 2 ^ 41) with
    | .sc b => (let g := Sparse.get (fun _ => 0) s.scrGen fd; if g = 0 then 0 else Config.scratchByte g b)
    | .t1 => (let g := Sparse.get (fun _ => 0) s.scrGen (16 + fd); if g = 0 then 0 else Config.scratchByte g (k % 2 ^ 41))
    | .t2 => (let g := Sparse.get (fun _ => 0) s.scrGen (32 + fd); if g = 0 then 0 else Config.scratchByte g (k % 2 ^ 41))
    | _ => 0

/-- A byte of the module's own memories. -/
def State.peek (s : State) (k : Nat) : Byte := Sparse.get memDefault s.mem (s.homeKey k) ^^^ s.scrMask (s.homeKey k)

/-- The byte a key names. The atomic window shows the scratch byte behind it (R315). -/
def State.byteAt (s : State) (k : Nat) : Byte :=
  if keyRemote k then BitVec.ofNat 8 (Sparse.get (fun _ => 0) s.remoteBuf k - 1)
  else match regionOf (k / 2 ^ 41) (k % 2 ^ 41) with
    | .hole => 0
    | .mirror o => s.mirrorByte (k / 2 ^ 41) o
    | .aperture => Sparse.get hostDefault s.hostMem (k % 2 ^ 41)
    | .atomic _ b => s.peek (dieKey (k / 2 ^ 41) (scBase + b))
    | _ => s.peek k

/-- `n` bytes from a key on. -/
def State.bytesAt (s : State) (k n : Nat) : List Byte := (List.range n).map (fun i => s.byteAt (k + i))

/-- `n` bytes from a key on as a little-endian number. -/
def State.natAt (s : State) (k n : Nat) : Nat := ofLeBytes (s.bytesAt k n)

/-- The key whose codeword decides whether a key's byte is poisoned. -/
def poisonKey (k : Nat) : Nat :=
  match regionOf (k / 2 ^ 41) (k % 2 ^ 41) with
  | .atomic _ b => dieKey (k / 2 ^ 41) (scBase + b)
  | _ => k

/-- Members of a mask, ascending. -/
def maskBits (m w : Nat) : List Nat := (List.range w).filter (fun i => m / 2 ^ i % 2 = 1)

/-- The sub-channel of a tier-2 offset among those in service at the last re-form (R294). -/
def State.t2Sub (s : State) (fd off : Nat) : Nat :=
  let inSvc := maskBits (Sparse.get (fun _ => 0xFF) s.t2Set fd) 8
  inSvc.getD ((off - t2Base) / 256 % inSvc.length) 0

/-- Whether codeword `c`, where it is kept, lies in a channel that was lost with its data, or in a redirect reserve that was
put to use and not written since (R301 to R303). -/
def State.cwLost (s : State) (c : Nat) : Bool :=
  if s.lostChan.isEmpty then false
  else
    let fd := c * 32 / 2 ^ 41
    let off := c * 32 % 2 ^ 41
    match regionOf fd off with
    | .t1 => s.lostChan.contains (fd, 0, t1Pc off)
    | .t2 => s.lostChan.contains (fd, 1, s.t2Sub fd off) || (s.lostChan.contains (fd, 2, 0) && decide (t2Base + s.t2Top fd ≤ off))
    | _ => false

/-- The codeword in which codeword `c` is kept. -/
def State.homeCw (s : State) (c : Nat) : Nat := s.homeKey (c * 32) / 32

/-- Whether codeword `c` is poisoned (R296). -/
def State.cwPoison (s : State) (c : Nat) : Bool := s.poison.contains (s.homeCw c) != s.cwLost (s.homeCw c)

/-- Codeword `c` made poisoned, or free of poison. -/
def State.setCwPoison (s : State) (c : Nat) (v : Bool) : State :=
  let h := s.homeCw c
  { s with poison := if v = s.cwLost h then keyErase s.poison h else keyInsert s.poison h }

/-- Every codeword of a channel, or of the reserve, poisoned: those that differed from that no longer do. -/
def State.loseAs (s : State) (c : Nat × Nat × Nat) : State :=
  { s with
    poison := s.poison.filter (fun cw => !({ s with lostChan := [c] } : State).cwLost cw)
    lostChan := if s.lostChan.contains c then s.lostChan else s.lostChan ++ [c] }

/-- The first poisoned codeword among the `n` bytes from a key on, as its first byte's key; a read from the host
aperture while the link is down is poisoned whole (R510). -/
def State.poisonAt (s : State) (k n : Nat) : Option Nat :=
  if keyRemote k then ((List.range n).find? (fun i => decide (256 < Sparse.get (fun _ => 0) s.remoteBuf (k + i)))).map
      (fun i => (k + i) / 32 * 32)
  else if n = 0 then none
  else if regionOf (k / 2 ^ 41) (k % 2 ^ 41) = .aperture then (if s.hostLinkDown then some (k / 32 * 32) else none)
  else
    let lo := poisonKey k / 32
    let hi := (poisonKey k + n - 1) / 32
    if s.lostChan.isEmpty && (decide (0xC00000000 ≤ k % 2 ^ 41) || !s.flag (Reg.t1RedirectUsed (k / 2 ^ 41)))
        then (s.poison.find? (fun c => decide (lo ≤ c) && decide (c ≤ hi))).map (· * 32)
    else ((List.range (hi - lo + 1)).find? (fun i => s.cwPoison (lo + i))).map (fun i => (lo + i) * 32)

/-! ## The poison log -/

/-- Tier code of a key (R323): 0 tier-1, 1 tier-2, 2 shared cache, 3 local store. -/
def tierOf (k : Nat) : Nat :=
  match regionOf (k / 2 ^ 41) (k % 2 ^ 41) with
  | .t1 => 0
  | .t2 => 1
  | .ls _ _ => 3
  | _ => 2

/-- The logical station whose local store holds a key; 0 for other keys (R323). -/
def lsNumber (k : Nat) : Nat :=
  match regionOf (k / 2 ^ 41) (k % 2 ^ 41) with
  | .ls l _ => l
  | _ => 0

/-- FOUND codes (R323). -/
def foundScrub : Nat := 0
def foundRead : Nat := 1
def foundPartial : Nat := 2
def foundProp : Nat := 3
def foundRetire : Nat := 4

/-- EV_POISON_LOG_OVF (R325). -/
def evPoisonLogOvf : Nat := 0x1068

/-- An entry appended to the FD's poison log (R296), or lost and counted when it is full (R306). -/
def State.logPoison (s : State) (k found : Nat) : State :=
  let fd := k / 2 ^ 41
  let log := s.plog fd
  if log.length < 16 then
    let log' := log ++ [⟨s.addrOf (k / 32 * 32), s.meridian, s.parcelOf fd, tierOf k, found, lsNumber k⟩]
    { s with poisonLog := Sparse.set (fun _ => []) s.poisonLog fd log' }
  else
    let first := decide (s.rd (Reg.memPoisonStatOvf fd) = 0)
    let s := s.inc (Reg.memPoisonStatOvf fd)
    if first then s.raise (fdCode evPoisonLogOvf fd) (s.parcelOf fd) [s.addrOf (k / 32 * 32)] else s

/-- The codeword of a key poisoned and logged (R296). -/
def State.poisonCw (s : State) (k found : Nat) : State :=
  (s.setCwPoison (k / 32) true).logPoison k found

/-! ## Writes -/

/-- Whether writes to a key are discarded: its channel is retired and not redirected (R302, R303), or its stack is stopped by
a trip, over which it keeps nothing (R321, R322). -/
def State.chanDead (s : State) (k : Nat) : Bool :=
  let h := s.homeKey k
  let fd := h / 2 ^ 41
  let off := h % 2 ^ 41
  match regionOf fd off with
  | .t1 => s.memTrip.contains fd || decide (s.rd (Reg.t1PcRetiredMask fd) / 2 ^ t1Pc off % 2 = 1)
  | .t2 => decide (s.rd (Reg.t2StatusRetired fd) / 2 ^ s.t2Sub fd off % 2 = 1)
  | _ => false

/-! ## The mesh (R21 to R24) -/

/-- The numbers from `a` to `b`, both included, in that order. -/
def between (a b : Nat) : List Nat :=
  if a ≤ b then (List.range (b - a + 1)).map (a + ·) else (List.range (a - b + 1)).map (a - ·)

/-- The FDs a transfer between two FDs crosses: along the row of the first, then along the column of the second (R21). -/
def fdPath (a b : Nat) : List Nat :=
  (between (a % 4) (b % 4)).map (a / 4 * 4 + ·) ++ ((between (a / 4) (b / 4)).drop 1).map (fun y => y * 4 + b % 4)

/-- The FD attached to edge die `e` nearest FD `fd` (R22): LD0 lies west, LD1 east, IG0 north and IG1 south of the mesh. -/
def meshGate (e fd : Nat) : Nat :=
  if e = 16 then fd / 4 * 4 else if e = 17 then fd / 4 * 4 + 3 else if e = 18 then fd % 4 else 12 + fd % 4

/-- The FDs that a transfer from die `a` to die `b` crosses, for an address with OFFSET `off` (R21 to R23): an edge die's
transfers enter or leave at its nearest attached FD; between IGs along the column, between LDs along the row of
OFFSET[13:12]; between an LD and an IG at the corner they share. -/
def meshPath (a b off : Nat) : List Nat :=
  if a < 16 then fdPath a (if b < 16 then b else meshGate b a)
  else if b < 16 then fdPath (meshGate a b) b
  else
    let l := off / 2 ^ 12 % 4
    if a = b then []
    else if 18 ≤ a ∧ 18 ≤ b then fdPath (meshGate a l) (meshGate b l)
    else if a < 18 ∧ b < 18 then fdPath (meshGate a (4 * l)) (meshGate b (4 * l))
    else [meshGate (max a b) (meshGate (min a b) 0 % 4)]

/-- A transfer over the mesh: the routers of the FDs it passes, neither its source nor its target, count it (R24).
The spec gives the counter no unit and no width: one per transfer of any size, unbounded (log 245, DESIGN CHOICE). -/
def State.passMesh (s : State) (a b off : Nat) : State :=
  ((meshPath a b off).filter (fun n => decide (n ≠ a ∧ n ≠ b))).foldl (fun s n =>
    { s with fab := { s.fab with forwards := Sparse.set (fun _ => 0) s.fab.forwards n (Sparse.get (fun _ => 0) s.fab.forwards n + 1) } }) s

/-- A request over the mesh and its answer back. -/
def State.meshTrip (s : State) (a b off : Nat) : State := (s.passMesh a b off).passMesh b a off

/-- A message between dies of the module, over the mesh: its source and target, then what it says. -/
def State.meshSend (s : State) (a b off : Nat) (rest : List Nat) (data : List Byte) : State :=
  (s.passMesh a b off).send ⟨.meshMessage, [a, b] ++ rest, data⟩

/-- The link die by which a transfer with die `die` of module `m` leaves or comes in: that of the port it takes (R342, R343),
or, while no route reaches the module, the one that serves the die. -/
def State.edgeLd (s : State) (m die : Nat) : Nat :=
  match s.routeVia (ldOf die) ((s.ownModule + m) % 4) m none with
  | some k => k / 8
  | none => ldOf die

/-- A message of `n` flits sent to another module by a die of this one, over the mesh to its link die (R22, R23). -/
def State.sendFrom (s : State) (src off : Nat) (m : TxFlit) (n : Nat) : State :=
  (s.passMesh src (16 + s.edgeLd m.peer m.die) off).sendModule m n

/-! ## Lines and slices (R307 to R309) -/

/-- The slice of a cached line: of window offset A in die D, A[10:7] xor A[14:11] xor A[18:15] xor A[22:19] xor D[3:0]
(R308). `line` is its key divided by 128. -/
def lineSlice (line : Nat) : Nat :=
  let a := line * 128 % 2 ^ 41
  (a / 2 ^ 7 % 16) ^^^ (a / 2 ^ 11 % 16) ^^^ (a / 2 ^ 15 % 16) ^^^ (a / 2 ^ 19 % 16) ^^^ (line * 128 / 2 ^ 41 % 16)

/-- The slice of scratch byte `o` (R307). -/
def scratchSlice (o : Nat) : Nat := o / 2 ^ 7 % 16

/-- Bytes of scratch taken from each slice (R307). -/
def State.sliceScratch (s : State) (fd : Nat) : Nat := s.scratch fd / 16

/-- Whether a key lies in a memory of an FD whose lines other FDs may hold (R309): tier-1 or tier-2. -/
def cacheable (k : Nat) : Bool :=
  decide (k / 2 ^ 41 < 16) && (match regionOf (k / 2 ^ 41) (k % 2 ^ 41) with | .t1 | .t2 => true | _ => false)

/-- The directory entries of a home FD, in order of last grant. -/
def State.dirOf (s : State) (fd : Nat) : List DirEnt := Sparse.get (fun _ => []) s.dir fd

/-- The directory of a home FD replaced. -/
def State.setDir (s : State) (fd : Nat) (es : List DirEnt) : State := { s with dir := Sparse.set (fun _ => []) s.dir fd es }

/-- The directory entry of a line. -/
def State.dirEnt (s : State) (line : Nat) : Option DirEnt := (s.dirOf (line * 128 / 2 ^ 41)).find? (fun e => e.line = line)

/-- The directory entry of a line changed. -/
def State.updEnt (s : State) (line : Nat) (f : DirEnt → DirEnt) : State :=
  s.setDir (line * 128 / 2 ^ 41) ((s.dirOf (line * 128 / 2 ^ 41)).map (fun x => if x.line = line then f x else x))

/-- Reads of a line by an FD that wait at its home, marked use once. -/
def onceMark (fd line : Nat) (q : List HomeReq) : List HomeReq :=
  q.map (fun r => if r.die = fd ∧ r.key / 128 = line ∧ !r.isWrite then { r with once := true } else r)

/-- What a snoop does at a sharer (R313): a copy is dropped; a line that is absent, evict-pending or still awaiting its
grant is answered "not present", and the awaited read, on its way or waiting at the home, is marked use once. -/
def State.snoopAt (s : State) (fd line : Nat) : State :=
  let held := s.copies.any (fun c => decide (c.fd = fd ∧ c.line = line) && !c.evicting)
  let s := { s with
    copies := (s.copies.filter (fun (c : Copy) => !(decide (c.fd = fd ∧ c.line = line) && !c.evicting))).map (fun (c : Copy) =>
      if c.fd = fd ∧ c.line = line then { c with bytes := [] } else c)
    grants := s.grants.map (fun (g : Grant) => if g.fd = fd ∧ g.line = line then { g with once := true } else g)
    fab := { s.fab with dirWait := onceMark fd line s.fab.dirWait } }
  let s := s.updEnt line (fun e => { e with queue := onceMark fd line e.queue })
  if held then s else s.inc (Reg.scSnoopNpCount fd)

/-- Bytes put into memory as they stand. -/
def State.poke (s : State) (k : Nat) : List Byte → State
  | [] => s
  | b :: t =>
    State.poke { s with mem := Sparse.set memDefault s.mem (s.homeKey k) (b ^^^ s.scrMask (s.homeKey k)) } (k + 1) t

/-- The bytes of one write that fall into codeword `c` applied (R299): a whole codeword replaces it and clears its
poison; a partial write to a poisoned one is not kept and is counted; writes to a dead channel are discarded. -/
def State.writeCw (s : State) (k : Nat) (bs : List Byte) (c : Nat) : State :=
  let lo := max k (c * 32)
  let hi := min (k + bs.length) (c * 32 + 32)
  let fd := k / 2 ^ 41
  if s.chanDead (c * 32) then s
  else if hi - lo = 32 then
    (s.setCwPoison c false).poke lo ((bs.drop (lo - k)).take 32)
  else if s.cwPoison c then s.inc (Reg.memPartialPoisonCount fd)
  else s.poke lo ((bs.drop (lo - k)).take (hi - lo))

/-- A contiguous write applied codeword by codeword (R299). -/
def State.writeRaw (s : State) (k : Nat) (bs : List Byte) : State :=
  if bs = [] then s
  else (List.range ((k + bs.length - 1) / 32 - k / 32 + 1)).foldl (fun s i => s.writeCw k bs (k / 32 + i)) s

/-- Destination codewords that received poisoned data, written poisoned (R298); a dead channel takes nothing. -/
def State.poisonDest (s : State) (cws : List Nat) : State :=
  cws.foldl (fun s c =>
    if c * 32 < 16 * 2 ^ 41 ∧ !s.chanDead (c * 32) then
      (s.inc (Reg.memPoisonPropCount (c * 32 / 2 ^ 41))).poisonCw (c * 32) foundProp
    else s) s

/-- The codewords that `n` bytes from a key on touch. -/
def cwsOfRun (k n : Nat) : List Nat := if n = 0 then [] else (List.range ((k + n - 1) / 32 - k / 32 + 1)).map (k / 32 + ·)

/-- A contiguous write as memory takes it: data, or data that came poisoned (R298, R299). -/
def State.putBytes (s : State) (k : Nat) (bs : List Byte) (poison : Bool) : State :=
  if poison then s.poisonDest (cwsOfRun k bs.length) else s.writeRaw k bs

/-! ## The directory (R310 to R313) -/

/-- A read-shared grant of a line to the FD that asked: its sharer bit, the current epoch, and the data as the home holds it
(R310). -/
def State.grantTo (s : State) (r : HomeReq) : State :=
  let line := r.key / 128
  let home := line * 128 / 2 ^ 41
  let old : DirEnt := (s.dirEnt line).getD ⟨line, 0, 0, false, 0, none, false, []⟩
  let s := s.setDir home ((s.dirOf home).filter (fun e => e.line ≠ line) ++ [{ old with sharers := old.sharers ||| (1 <<< r.die) }])
  { s with grants := s.grants ++ [⟨r.die, line, old.epoch, r.once, (List.range 128).map (fun i => s.peek (line * 128 + i))⟩] }

/-- Steps 1 to 3 of R311: the line locked, the epoch raised, a snoop with it on its way to every sharer. `w` is the write
that waits; none is a back-invalidation. -/
def State.lockLine (s : State) (e : DirEnt) (w : Option HomeReq) : State :=
  let ep := e.epoch + 1
  let s := s.updEnt e.line (fun x => { x with epoch := ep, locked := true, awaiting := x.sharers, write := w, backInv := w.isNone })
  let s := (maskBits e.sharers.toNat 16).foldl (fun s n => s.passMesh (e.line * 128 / 2 ^ 41) n (e.line * 128 % 2 ^ 41)) s
  { s with snoops := s.snoops ++ (maskBits e.sharers.toNat 16).map (fun n => (e.line, n, ep.toNat)) }

/-- A request that waits for a line's lock, in arrival order (R311). -/
def State.waitLine (s : State) (r : HomeReq) : State := s.updEnt (r.key / 128) (fun x => { x with queue := x.queue ++ [r] })

/-- A read that waits for a directory entry (R310). -/
def State.waitDir (s : State) (r : HomeReq) : State := { s with fab := { s.fab with dirWait := s.fab.dirWait ++ [r] } }

/-- A read of a line from another FD at its home (R309, R310): granted read-shared; it waits for a locked line; a full
directory first frees the entry granted least recently, or waits while every entry is locked. -/
def State.homeRead (s : State) (r : HomeReq) : State :=
  let home := r.key / 2 ^ 41
  match s.dirEnt (r.key / 128) with
  | some e => if e.locked then s.waitLine r else s.grantTo r
  | none =>
    if (s.dirOf home).length < 65536 then s.grantTo r
    else match (s.dirOf home).find? (fun e => !e.locked) with
      | some e =>
        let s := s.inc (Reg.scBackinvCount home)
        if e.sharers = 0 then (s.setDir home ((s.dirOf home).filter (fun x => x.line ≠ e.line))).grantTo r
        else (s.lockLine e none).waitDir r
      | none => s.waitDir r

/-- The completion of a write that waited, returned to the die that asked (R311 step 5); the routers it passes counted it
with the request. -/
def State.complete (s : State) (r : HomeReq) : State :=
  s.send ⟨.meshMessage, [r.key / 2 ^ 41, r.die, 0, r.key / 128], []⟩

/-- A write to bytes of one line at its home (R311): it waits for a locked line; applied at once when no FD shares the line,
else once every sharer has answered. `late` says that it has waited, so that its completion is a message. -/
def State.homeWrite (s : State) (r : HomeReq) (late : Bool) : State :=
  let now := fun (s : State) => (let s := s.putBytes r.key r.data r.poison; if late then s.complete r else s)
  match s.dirEnt (r.key / 128) with
  | some e => if e.locked then s.waitLine r else if e.sharers = 0 then now s else s.lockLine e (some r)
  | none => now s

/-- A request at its home. -/
def State.homeRequest (s : State) (r : HomeReq) (late : Bool) : State := if r.isWrite then s.homeWrite r late else s.homeRead r

/-- Whether an FD is evict-pending for a line (R312). -/
def State.evictPending (s : State) (fd line : Nat) : Bool := s.copies.any (fun c => decide (c.fd = fd ∧ c.line = line) && c.evicting)

/-- A request of a die for a line: it waits at the die while that is evict-pending for the line (R312). -/
def State.request (s : State) (r : HomeReq) : State :=
  if s.evictPending r.die (r.key / 128) then { s with readWait := s.readWait ++ [r] } else s.homeRequest r false

/-- The oldest read that waits for an entry of a home's directory offered to it again, once more of them wait than entries
are being freed (R310). -/
def State.retryDir (s : State) (home : Nat) : State :=
  let w := s.fab.dirWait.filter (fun r => r.key / 2 ^ 41 = home)
  match w.head? with
  | none => s
  | some r =>
    if w.length ≤ ((s.dirOf home).filter (·.backInv)).length then s
    else { s with fab := { s.fab with dirWait := s.fab.dirWait.erase r } }.homeRead r

/-- Step 5 of R311: the sharer vector cleared, the write applied, the line unlocked and the completion returned; then the
requests that waited are served in arrival order. An entry freed by back-invalidation is removed, and reads that waited
for an entry follow (R310). -/
def State.unlockLine (s : State) (e : DirEnt) : State :=
  let home := e.line * 128 / 2 ^ 41
  let s := if e.backInv then s.setDir home ((s.dirOf home).filter (fun x => x.line ≠ e.line))
    else s.updEnt e.line (fun x => { x with sharers := 0, locked := false, awaiting := 0, write := none, queue := [] })
  let s := match e.write with
    | some w => (s.putBytes w.key w.data w.poison).complete w
    | none => s
  let s := (List.range s.fab.dirWait.length).foldl (fun s _ => s.retryDir home) s
  e.queue.foldl (fun s r => s.homeRequest r true) s

/-- The snoops of a locked line and their answers carried out, and the line unlocked, until it stays so; `n` bounds the
writes that wait there. -/
def State.drainLine (line : Nat) : Nat → State → State
  | 0, s => s
  | n + 1, s =>
    match s.dirEnt line with
    | none => s
    | some e =>
      if !e.locked then s
      else
        let s := (s.snoops.filter (fun x => x.1 = line)).foldl (fun s x => s.snoopAt x.2.1 line) s
        let s := { s with snoops := s.snoops.filter (fun x => x.1 ≠ line), snoopAns := s.snoopAns.filter (fun x => x.1 ≠ line) }
        State.drainLine line n (s.unlockLine ((s.dirEnt line).getD e))

/-- A line about to be written by an engine of the module, whose accesses are one step here: the writes that wait there
complete first, then the steps of R311 are taken for this one (log 35). -/
def State.dirTouch (s : State) (k : Nat) : State :=
  let line := k / 128
  match s.dirEnt line with
  | none => s
  | some e =>
    let s := State.drainLine line (e.queue.length + 1) s
    match s.dirEnt line with
    | none => s
    | some e => if e.sharers = 0 then s
        else State.drainLine line 1 (s.lockLine e (some ⟨line * 128 / 2 ^ 41, 0xFFFF, line * 128, true, [], false, false⟩))

/-- The lines of `n` bytes about to be written by an engine of the module. -/
def State.touchRun (s : State) (k n : Nat) : State :=
  if n = 0 then s else (List.range ((k + n - 1) / 128 - k / 128 + 1)).foldl (fun s i => s.dirTouch ((k / 128 + i) * 128)) s

/-- One contiguous write by an engine to a memory of the module's own FDs: data, or data that came poisoned (R298, R299,
R311). -/
def State.writeMemP (s : State) (k : Nat) (bs : List Byte) (poison : Bool) : State := (s.touchRun k bs.length).putBytes k bs poison

/-- One contiguous write of sound data by an engine to a memory of the module's own FDs (R299, R311). -/
def State.writeMem (s : State) (k : Nat) (bs : List Byte) : State := s.writeMemP k bs false

/-- Whether a die is evict-pending for a line of a run (R312). -/
def State.runPending (s : State) (die k n : Nat) : Bool :=
  s.copies.any (fun c => decide (c.fd = die ∧ k / 128 ≤ c.line ∧ c.line ≤ (k + n - 1) / 128) && c.evicting)

/-- One contiguous write to a memory of the module's own FDs, line by line, by a die's requester that does not wait for it
(R311, R312, R317). -/
def State.writeLines (s : State) (die stn k : Nat) (bs : List Byte) (poison : Bool) : State :=
  if bs = [] then s
  else if !cacheable k then s.putBytes k bs poison
  else
    (List.range ((k + bs.length - 1) / 128 - k / 128 + 1)).foldl (fun s i =>
      let lo := max k ((k / 128 + i) * 128)
      let hi := min (k + bs.length) ((k / 128 + i + 1) * 128)
      s.request ⟨die, stn, lo, true, (bs.drop (lo - k)).take (hi - lo), poison, false⟩) s

/-- One element of an atomic operation (R314). -/
def atomicFn (op old v : Nat) : Nat :=
  if op = 0 then (old + v) % 2 ^ 64
  else if op = 1 then (old + v) % 2 ^ 32
  else if op = 2 then (if toSigned64 v < toSigned64 old then v else old)
  else if op = 3 then (if toSigned64 old < toSigned64 v then v else old)
  else if op = 4 then min old v
  else if op = 5 then max old v
  else if op = 6 then old &&& v
  else if op = 7 then old ||| v
  else if op = 8 then old ^^^ v
  else if op = 9 then
    (old % 2 ^ 192 + v % 2 ^ 192) % 2 ^ 192 + ((old / 2 ^ 192 % 4) ||| (v / 2 ^ 192 % 4)) * 2 ^ 192
  else old
where
  /-- A 64-bit number read as signed. -/
  toSigned64 (v : Nat) : Int := if v < 2 ^ 63 then v else (v : Int) - 2 ^ 64

/-- Who writes: a logical station, with the PC and leg of its instruction; the host or management; an engine of a die. -/
inductive Writer
  | station (n pc leg : Nat)
  | host
  | engine (die : Nat)
  deriving DecidableEq, Repr

/-- The die a write comes from; the host's come through IG0. -/
def Writer.die (w : Writer) : Nat :=
  match w with
  | .station n _ _ => n / 128
  | .host => 18
  | .engine d => d

/-- The station a write comes from, 0xFFFF for none. -/
def Writer.stn (w : Writer) : Nat :=
  match w with
  | .station n _ _ => n
  | _ => 0xFFFF

/-- The PC and leg of the instruction that writes. -/
def Writer.at (w : Writer) : Nat × Nat :=
  match w with
  | .station _ pc leg => (pc, leg)
  | _ => (0, 0)

/-- Atomic elements of one write, in order (R315, R316): the poisoned target of a station's operation is reported. -/
def State.atomicRun (w : Writer) (fd op : Nat) : Nat → Nat → List Byte → State × Option Nat → State × Option Nat
  | 0, _, _, r => r
  | n + 1, b, bs, (s, pz) =>
    let e := atomicSize op
    let k := dieKey fd (scBase + b)
    let r : State × Option Nat :=
      match s.poisonAt k e with
      | some c =>
        match w with
        | .station _ _ _ => (s, pz.or (some c))
        | _ => (s.inc (Reg.memPartialPoisonCount fd), pz)
      | none =>
        ((s.poke k (leBytes e (atomicFn op (s.natAt k e) (ofLeBytes (bs.take e))))).inc (Reg.scAtomicOpsCount fd), pz)
    State.atomicRun w fd op n (b + e) (bs.drop e) r

/-- Effects counted at a PC, and one more. -/
def atPc (c : Sparse Nat) (pc : Nat) : Nat := Sparse.get (fun _ => 0) c pc
def bumpPc (c : Sparse Nat) (pc : Nat) : Sparse Nat := Sparse.set (fun _ => 0) c pc (atPc c pc + 1)

/-- Whether the next effect of the instruction at `pc`, at a logical station's port, is one already released (R447). Ordinals
are counted by instruction: its engine takes its executions in issue order (R205), whatever other engines do (log 271). -/
def State.portRepeats (s : State) (n pc : Nat) : Bool :=
  (s.lst n).repeating && decide (atPc (s.lst n).repCount pc < atPc (s.lst n).relCount pc)

/-- An effect of the instruction at `pc` at a logical station's port (R442, R445, R447): released and counted, or, while the
station repeats legs, discarded when its ordinal is one already released. -/
def State.portEffect (s : State) (n pc : Nat) : Bool × State :=
  let go := !s.portRepeats n pc
  (go, s.updLst n (fun l => { l with
    repCount := if l.repeating then bumpPc l.repCount pc else l.repCount
    relCount := if go then bumpPc l.relCount pc else l.relCount }))

/-- The bit of FD_RSTK_UNREP for a logical station set (R445). -/
def State.setUnrep (s : State) (fd log : Nat) (v : Nat) : State :=
  if log < 64 then s.wr ⟨(Reg.fdRstkUnrep0Mask fd).addr, log, 1⟩ v else s.wr ⟨(Reg.fdRstkUnrep1Mask fd).addr, log - 64, 1⟩ v

/-- Whether a logical station is unrepeatable (R445). -/
def State.unrep (s : State) (fd log : Nat) : Bool :=
  if log < 64 then s.flag ⟨(Reg.fdRstkUnrep0Mask fd).addr, log, 1⟩ else s.flag ⟨(Reg.fdRstkUnrep1Mask fd).addr, log - 64, 1⟩

/-- Whether a logical station has no inbound log: INLOG_KIB is 0 or its area lies outside SCRATCH (R445). -/
def State.noInlog (s : State) (fd log : Nat) : Bool :=
  let size := s.rd (Reg.fdRstkCfgInlogKib fd) * 1024
  decide (size = 0) || decide (s.scratch fd < s.rd (Reg.fdRstkCfgInlogOff fd) + log * size + size)

/-- A request to another module recorded and sent, over the mesh to the link die of the port it takes (R22, R291, R320,
R342, R343). -/
def State.sendRemote (s : State) (r : RemoteReq) : State :=
  { s with remote := s.remote ++ [r] }.sendFrom r.fd (addrOff r.addr)
    (TxFlit.msg 3 2 (addrModule r.addr) (addrDie r.addr) r.parcel
      [if r.isWrite then 1 else 0, r.addr, r.len, s.rd (Reg.glbMemDomainDomain r.parcel), if r.sld then 1 else 0,
       if r.stn < 2048 then 1 else 0, if r.poison then 1 else 0] r.data) (flitsFor r.data.length)

/-- Whether the FD's and the station's limits admit one more transaction that is not of the LOCK class (R320): LOCK_RESV of
the 16,384 entries stay for that class. Requests of no FD have no limit. -/
def State.trkRoom (s : State) (fd stn : Nat) : Bool :=
  decide (16 ≤ fd) ||
    (decide (s.trkTotal fd < 16384) && decide (s.trkTotal fd - s.trkLock fd + s.rd (Reg.memTrkCfgLockResv fd) < 16384)
      && (decide (2048 ≤ stn) || decide (s.trkStn stn < s.rd (Reg.memTrkCfgStnMax fd))))

/-- Whether those limits, and those on requests to other modules, admit one more to a module (R320, R349). -/
def State.remoteRoom (s : State) (fd stn m : Nat) : Bool :=
  let mine := s.remote.filter (fun r => r.fd = fd)
  s.trkRoom fd stn && (decide (16 ≤ fd) ||
    (decide (mine.length < s.rd (Reg.memTrkCfgRemoteMax fd))
      && decide ((mine.filter (fun r => addrModule r.addr = m)).length < s.rd (Reg.memTrkCfgRemotePerDest fd))))

/-- A write to another module: sent, or, while a limit is reached or an earlier one of its requester waits, stalled and
counted (R320). -/
def State.writeRemote (s : State) (r : RemoteReq) : State :=
  if s.remoteRoom r.fd r.stn (addrModule r.addr) ∧ !s.fab.stalled.any (fun x => decide (x.stn = r.stn ∧ x.fd = r.fd)) then s.sendRemote r
  else
    let s := { s with fab := { s.fab with stalled := s.fab.stalled ++ [r] } }
    if r.fd < 16 then s.inc (Reg.memTrkStallCount r.fd) else s

/-- A request to another module ended, and the writes that its entry lets go sent (R320). -/
def State.endRemote (s : State) (r : RemoteReq) : State :=
  let s := { s with remote := s.remote.erase r }
  s.fab.stalled.foldl (fun s x =>
    if s.remoteRoom x.fd x.stn (addrModule x.addr)
        ∧ (s.fab.stalled.takeWhile (fun y => decide (y ≠ x))).all (fun y => decide (y.stn ≠ x.stn ∨ y.fd ≠ x.fd)) then
      { s with fab := { s.fab with stalled := s.fab.stalled.erase x } }.sendRemote x
    else s) s

/-- The queue set of a parcel has translated the host addresses of `n` bytes (R289, R525). -/
def State.noteAperture (s : State) (parcel a n : Nat) : State :=
  (List.range ((a + n - 1) / 4096 - a / 4096 + 1)).foldl (fun s i => s.noteAts parcel ((a / 4096 + i) * 4096)) s

/-- Bytes of no given value (log 3), and the counter past them. -/
def State.freeBytes (s : State) (n : Nat) : List Byte × State :=
  ((List.range n).map (Config.scratchByte (s.freeCtr + 1)), { s with freeCtr := s.freeCtr + 1 })

/-- A write into the host aperture (R289, R510): dropped and counted while the link is down. Poisoned data leaves there bytes
of no given value (R298; log 224). -/
def State.writeAperture (s : State) (parcel a : Nat) (bs : List Byte) (poison : Bool) : State :=
  if s.hostLinkDown then s.inc Reg.glbResetCauseApertureDrop
  else
    let s := s.noteAperture parcel a bs.length
    if poison then (let r := s.freeBytes bs.length; r.2.hostWrite a r.1) else s.hostWrite a bs

/-- LA192 as it is stored (R58). -/
def LA.encode (x : LA) : Nat := x.l.toNat + (if x.n then 2 ^ 192 else 0) + (if x.c then 2 ^ 193 else 0)

/-- Byte `i` of a little-endian number. -/
def byteOf (v i : Nat) : Byte := BitVec.ofNat 8 (v / 2 ^ (8 * i))

/-- Byte `o` of a chain transfer (R100). -/
def chainByte (x : ChainXfer) (o : Nat) : Byte :=
  if 64 ≤ o then byteOf (Sparse.get (fun _ => LA.zero) x.el ((o - 64) / 32)).encode (o % 32)
  else if o < 2 then byteOf x.src o
  else if o = 2 then byteOf x.srcTile 0
  else if o = 3 then byteOf x.destTile 0
  else if o < 6 then byteOf x.dest (o - 4)
  else if o < 8 then byteOf x.chainId.toNat (o - 6)
  else if o < 12 then byteOf (min x.terms (2 ^ 32 - 1)) (o - 8)
  else if o = 12 then (if x.tl then 1 else 0)
  else 0

/-- Data of an entry of the inbound log: the bytes written, or a chain transfer (R100). -/
def Inbound.data (e : Inbound) : List Byte :=
  match e with
  | .write _ bs _ => bs
  | .chain x => (List.range 32832).map (chainByte x)
  | .signal _ _ => []

/-- The bytes of an entry put into its place in scratch (R445): a header of 64 bytes, the data, and padding to 64 bytes. The spec
gives the header and the padding no content, and they are free (log 70). -/
def State.putLog (s : State) (key need : Nat) (e : Inbound) : State :=
  let r := s.freeBytes need
  let bs := e.data
  let s := r.2.putBytes key (r.1.take 64 ++ bs ++ r.1.drop (64 + bs.length)) false
  match e with
  | .write _ _ true => s.poisonDest (cwsOfRun (key + 64) bs.length)
  | _ => s

/-- An entry of a logical station's inbound log (R445): a 64-byte header and its data padded to 64 bytes. An entry that
does not fit its area, or a log outside SCRATCH or of size 0, makes the station unrepeatable. -/
def State.logInbound (s : State) (fd log : Nat) (e : Inbound) : State :=
  let n := fd * 128 + log
  let size := s.rd (Reg.fdRstkCfgInlogKib fd) * 1024
  let need := 64 + (e.data.length + 63) / 64 * 64
  let l := s.lst n
  if s.noInlog fd log ∨ size < l.inBytes + need then s.setUnrep fd log 1
  else
    (s.putLog (dieKey fd (scBase + s.rd (Reg.fdRstkCfgInlogOff fd) + log * size + l.inBytes)) need e).updLst n
      (fun l => { l with inlog := l.inlog ++ [e], inBytes := l.inBytes + need })

/-- A write to a logical station's local store (R179, R445): discarded while its parcel is cleared; recorded in the inbound
log of an active station that is not its writer, and of its own write the codewords (R443). -/
def State.writeStore (s : State) (w : Writer) (die log b : Nat) (bs : List Byte) (poison : Bool) : State :=
  if s.clearing (s.parcelOf die) then s
  else
    let own : Bool := match w with | .station n _ _ => decide (n = die * 128 + log) | _ => false
    let live : Bool := match s.locate (die * 128 + log) with | some q => (s.stn q).active | none => false
    let s := if !live then s
      else if own then
        s.updLst (die * 128 + log) (fun l => { l with wrote := (cwsOfRun (lsKey die log b) bs.length).foldl keyInsert l.wrote })
      else s.logInbound die log (.write b bs poison)
    s.putBytes (lsKey die log b) bs poison

/-- A write into the atomic window (R315, R298): the operation on each element, once at a station's port (R442); poisoned
data poisons the codewords instead. -/
def State.writeAtomic (s : State) (w : Writer) (die op b : Nat) (bs : List Byte) (poison : Bool) : State × Option Nat :=
  let go (s : State) : State × Option Nat :=
    if poison then (s.poisonDest (cwsOfRun (dieKey die (scBase + b)) bs.length), none)
    else State.atomicRun w die op (bs.length / atomicSize op) b bs (s, none)
  match w with
  | .station n pc _ => let r := s.portEffect n pc; if r.1 then go r.2 else (r.2, none)
  | _ => go s

/-- A write to another module, a station's into its atomic window once at the station's port (R447). -/
def State.writeAway (s : State) (w : Writer) (r : RemoteReq) : State :=
  match w, regionOf (addrDie r.addr) (addrOff r.addr) with
  | .station n pc _, .atomic _ _ => (let p := s.portEffect n pc; if p.1 then p.2.writeRemote r else p.2)
  | _, _ => s.writeRemote r

/-- One contiguous write wherever it goes (R288, R289, R298, R315, R510): the state after it, and the poisoned target of a
station's atomic operation. -/
def State.writeRun (s : State) (w : Writer) (parcel : Nat) (k : Nat) (bs : List Byte) (poison : Bool) : State × Option Nat :=
  if keyRemote k then
    (s.writeAway w ⟨w.die, w.stn, w.at.1, w.at.2, parcel, k - 2 ^ 64, bs.length, false, true, bs, poison⟩, none)
  else
    let die := k / 2 ^ 41
    let s := s.meshTrip w.die die (k % 2 ^ 41)
    match regionOf die (k % 2 ^ 41) with
    | .aperture => (s.writeAperture parcel (k % 2 ^ 41) bs poison, none)
    | .atomic op b => s.writeAtomic w die op b bs poison
    | .ls log b => (s.writeStore w die log b bs poison, none)
    | .mirror _ => (s, none)
    | .hole => (s, none)
    | _ =>
      match w with
      | .engine d => (if s.runPending d k bs.length then s.writeLines d 0xFFFF k bs poison else s.writeMemP k bs poison, none)
      | _ => (s.writeLines w.die w.stn k bs poison, none)

/-- A write set grouped into contiguous runs, in order. -/
def runsOf : List (Nat × Byte) → List (Nat × List Byte)
  | [] => []
  | (a, b) :: t =>
    match runsOf t with
    | (a', bs) :: r => if a' = a + 1 then (a, b :: bs) :: r else (a, [b]) :: (a', bs) :: r
    | [] => [(a, [b])]

/-- A set of byte writes of one access applied run by run; bytes of the codewords `bad` go poisoned (R298). -/
def State.storeP (s : State) (w : Writer) (parcel : Nat) (ws : List (Nat × Byte)) (bad : List Nat) : State × Option Nat :=
  let put := fun (poison : Bool) (r : State × Option Nat) (x : Nat × List Byte) =>
    (let q := r.1.writeRun w parcel x.1 x.2 poison; (q.1, r.2.or q.2))
  if bad.isEmpty then (runsOf ws).foldl (put false) (s, none)
  else
    (runsOf (ws.filter (fun x => bad.contains (x.1 / 32)))).foldl (put true)
      ((runsOf (ws.filter (fun x => !bad.contains (x.1 / 32)))).foldl (put false) (s, none))

/-- A set of byte writes of sound data. -/
def State.store (s : State) (w : Writer) (parcel : Nat) (ws : List (Nat × Byte)) : State × Option Nat := s.storeP w parcel ws []

/-- The state after a run is written, and after a set of writes is stored. -/
def State.wroteRun (s : State) (w : Writer) (parcel k : Nat) (bs : List Byte) (poison : Bool) : State := (s.writeRun w parcel k bs poison).1
def State.storeAll (s : State) (w : Writer) (parcel : Nat) (ws : List (Nat × Byte)) : State := (s.store w parcel ws).1

/-- Consecutive bytes from a key on as a write set. -/
def spread (k : Nat) : List Byte → List (Nat × Byte)
  | [] => []
  | b :: t => (k, b) :: spread (k + 1) t

/-- Whether a span of the module's own keys touches a loaded image of any parcel (R210). -/
def State.inImage (s : State) (k n : Nat) : Bool :=
  (List.range 4).any (fun p =>
    s.trvLoaded p &&
      (let b := s.rd (Reg.glbTrvBaseBase p) % 2 ^ 46
       let len := s.natAt (b + 8) 8
       decide (k < b + len) && decide (b < k + n)))

/-- What reading a span does besides: it crosses the mesh; a read from the host aperture is translated, or counted while the
link is down (R24, R289, R510). -/
def State.noteRead (s : State) (die parcel k n : Nat) : State :=
  if n = 0 ∨ keyRemote k then s
  else
    let s := s.meshTrip die (k / 2 ^ 41) (k % 2 ^ 41)
    if regionOf (k / 2 ^ 41) (k % 2 ^ 41) = .aperture then
      if s.hostLinkDown then s.inc Reg.glbResetCauseApertureDrop else s.noteAperture parcel (k % 2 ^ 41) n
    else s

/-- Whether the bytes of another module that a read needs have all arrived. -/
def State.remoteHere (s : State) (needs : List (Nat × Nat)) : Bool :=
  needs.all (fun x => !keyRemote x.1 || (List.range x.2).all (fun i => decide (Sparse.get (fun _ => 0) s.remoteBuf (x.1 + i) ≠ 0)))

/-- Whether the module's own lines that a read by a die needs may be read now (R311, R312, R322): none is locked at its home,
none is evict-pending at the die, and no stack is stopped. -/
def State.linesFree (s : State) (die : Nat) (needs : List (Nat × Nat)) : Bool :=
  let meets := fun (line : Nat) => needs.any (fun x => decide (x.1 < line * 128 + 128) && decide (line * 128 < x.1 + x.2))
  s.dir.all (fun d => d.2.all (fun e => !e.locked || !meets e.line))
    && s.copies.all (fun c => !(decide (c.fd = die) && c.evicting && meets c.line))
    && (s.memTrip.isEmpty
        || needs.all (fun x => keyRemote x.1 || !(s.memTrip.contains (x.1 / 2 ^ 41) && decide (x.1 % 2 ^ 41 < 0xC00000000))))

/-- Requests sent for the needed spans of other modules that have neither arrived nor been asked for; one that finds
a tracker limit waits and is counted (R320). -/
def State.askRemote (s : State) (fd stn pc leg parcel : Nat) (needs : List (Nat × Nat)) : State :=
  needs.foldl (fun s x =>
    let a := x.1 - 2 ^ 64
    if !keyRemote x.1 || s.remoteHere [x] || s.remote.any (fun r => r.stn = stn && decide (r.addr = a) && !r.isWrite) then s
    else if s.remoteRoom fd stn (addrModule a) then
      s.sendRemote ⟨fd, stn, pc, leg, parcel, a, x.2, (match regionOf (addrDie a) (addrOff a) with | .atomic 10 _ => true | _ => false),
        false, [], false⟩
    else if fd < 16 then s.inc (Reg.memTrkStallCount fd) else s) s

end Sys2Proof.Machine
end

