-- ==== Sys2Proof/Machine/Flags.lean ====
section
/-! DEFINITION. Scalar, predicate and vector registers with their DATA flags (R192 to R194), the flags and counters of
station arithmetic (R55, R60, R62, R74 to R77), and what taking a station fault does (R212 to R215). -/

namespace Sys2Proof.Machine

/-! ## Scalar registers and DATA flags -/

/-- S[i] of the station whose block starts at `b`; S0 reads zero (R193). -/
def State.sreg (s : State) (b i : Nat) : Nat := if i = 0 then 0 else s.rd (Reg.stnS b i)

/-- The DATA flag of S[i]; S0's reads clear (R193). -/
def State.sdata (s : State) (b i : Nat) : Bool :=
  if i = 0 then false else decide (s.rd (Reg.stnSdataData b) / 2 ^ i % 2 = 1)

/-- The DATA mask with bit `i` set to `v`. -/
def dataBit (m i : Nat) (v : Bool) : Nat := m / 2 ^ (i + 1) * 2 ^ (i + 1) + (if v then 2 ^ i else 0) + m % 2 ^ i

/-- S[i] and its DATA flag written; a write to S0 is discarded (R193). -/
def State.setS (s : State) (b i v : Nat) (data : Bool) : State :=
  if i = 0 then s
  else (s.wr (Reg.stnS b i) v).wr (Reg.stnSdataData b) (dataBit (s.rd (Reg.stnSdataData b)) i data)

/-- P[i]; P0 reads all ones (R193). -/
def State.pred (s : State) (b i : Nat) : Nat := if i = 0 then 2 ^ 64 - 1 else s.rd (Reg.stnP b i)

/-- P[i] written; a write to P0 is discarded (R193). -/
def State.setP (s : State) (b i v : Nat) : State := if i = 0 then s else s.wr (Reg.stnP b i) v

/-- Lane `j` of V[i]. -/
def Stn.lane (t : Stn) (i j : Nat) : Nat := (Sparse.get (fun _ => (0 : BitVec 32)) t.vregs (i * 64 + j)).toNat

/-- Lane `j` of V[i] written. -/
def Stn.setLane (t : Stn) (i j v : Nat) : Stn :=
  { t with vregs := Sparse.set (fun _ => (0 : BitVec 32)) t.vregs (i * 64 + j) (BitVec.ofNat 32 v) }

/-- The 64 lanes of V[i]. -/
def Stn.lanes (t : Stn) (i : Nat) : List Nat := (List.range 64).map (t.lane i)

/-- Lanes of V[i] written where a value is given; the other lanes keep theirs (R209). -/
def Stn.setLanes (t : Stn) (i : Nat) (vs : List (Option Nat)) : Stn :=
  vs.zipIdx.foldl (fun t p => match p.1 with | some v => t.setLane i p.2 v | none => t) t

/-! ## Arithmetic flags, counters and events -/

/-- The parcel and logical station an event of a station names. -/
def State.stnEvent (s : State) (k : Loc) (code0 : Nat) (detail : List Nat) : State :=
  s.raise (fdCode code0 k.fd) (s.parcelOf k.fd) (k.num :: detail)

/-- Non-finite matrix inputs counted (R55, R74), and EV_NONFINITE_INPUT at their first occurrence in the leg (R76). -/
def State.countNonfinite (s : State) (k : Loc) (n : Nat) : State :=
  if n = 0 then s
  else
    let s := s.inc (Reg.stnArithNonfinNonfin k.b) n
    if (s.stn k).evNonfin then s
    else (s.updStn k (fun t => { t with evNonfin := true })).stnEvent k 0x1022 [s.meridian.toNat]

/-- Conversions of NaN to destinations without NaN counted (R65, R74); they raise no event. -/
def State.countNan (s : State) (k : Loc) (n : Nat) : State := if n = 0 then s else s.inc (Reg.stnArithNonfinNonfin k.b) n

/-- Clamped terms counted (R60), and EV_LA_CLAMP at their first occurrence in the leg (R76). -/
def State.countClamp (s : State) (k : Loc) (n : Nat) : State :=
  if n = 0 then s
  else
    let s := s.inc (Reg.stnLaClampClamp k.b) n
    if (s.stn k).evClamp then s
    else (s.updStn k (fun t => { t with evClamp := true })).stnEvent k 0x1021 [s.meridian.toNat]

/-- EV_LA_TERM_LIMIT, at most once a leg (R62, R76). -/
def State.termLimit (s : State) (k : Loc) : State :=
  if (s.stn k).evTermLim then s
  else (s.updStn k (fun t => { t with evTermLim := true })).stnEvent k 0x1023 [s.meridian.toNat]

/-- Dropped plat slots counted by category (R141 to R143), and EV_PLAT_META_DROP at most once a leg. -/
def State.countDrops (s : State) (k : Loc) (range dup order bound : Nat) : State :=
  if range + dup + order + bound = 0 then s
  else
    let s := (((s.inc (Reg.stnSpRangeCount k.b) range).inc (Reg.stnSpDupCount k.b) dup).inc
      (Reg.stnSpOrderCount k.b) order).inc (Reg.stnSpBoundCount k.b) bound
    if (s.stn k).evMeta then s
    else (s.updStn k (fun t => { t with evMeta := true })).stnEvent k 0x1030 [s.meridian.toNat]

/-- The limit of R60: |t| reaches 2^175. -/
def clampMag : Nat := 2 ^ 175

/-- A term P × 2^k promoted to units of 2^−112, and whether it was clamped (R59, R60). -/
def promote (p k : Int) : Int × Bool :=
  let mag := p.natAbs
  let mag := if -112 ≤ k then mag * 2 ^ (k + 112).toNat else mag / 2 ^ (-112 - k).toNat
  let c := decide (clampMag ≤ mag)
  let mag := if c then clampMag - 1 else mag
  (if p < 0 then -(mag : Int) else mag, c)

/-- A promoted term added to an element (R60, R61). -/
def LA.addTerm (x : LA) (t : Int) (c n : Bool) : LA := ⟨x.l + BitVec.ofInt 192 t, x.n || n, x.c || c⟩

/-- Two elements added (R61, R99). -/
def LA.add (x y : LA) : LA := ⟨x.l + y.l, x.n || y.n, x.c || y.c⟩

/-- A stored LA192 read; bits [255:194] are ignored. -/
def LA.decode (v : Nat) : LA := ⟨BitVec.ofNat 192 v, bitOf v 192, bitOf v 193⟩

/-- Element (m, n) of a tile. -/
def Tile.at (t : Tile) (m n : Nat) : LA := Sparse.get (fun _ => LA.zero) t.el (64 * m + n)

/-- Element (m, n) of a tile replaced. -/
def Tile.put (t : Tile) (m n : Nat) (x : LA) : Tile :=
  { t with el := Sparse.set (fun _ => LA.zero) t.el (64 * m + n) x }

/-- Terms added to a tile's count, which saturates; TL is set when the count passes 65,536 (R62, R100). -/
def Tile.addTerms (t : Tile) (n : Nat) : Tile :=
  let c := min (t.terms + n) (2 ^ 32 - 1)
  { t with terms := c, tl := t.tl || decide (65536 < c) }

/-- A tile cleared (R230): elements, term count, TL and skip mask; its chain expectation stays, and a clear opens
it (R101). -/
def Tile.clear (t : Tile) : Tile := { t with el := [], terms := 0, tl := false, skip := 0, opened := true }

/-- Whether adding `n` terms raises EV_LA_TERM_LIMIT (R62): the count passes 65,536, TL set already or not, or stands
above it while TL is clear, as a TLD may leave it (R229), and sets TL. -/
def Tile.passesLimit (t : Tile) (n : Nat) : Bool := (decide (t.terms ≤ 65536) || !t.tl) && decide (65536 < t.terms + n)

/-- A tile of a station replaced, with EV_LA_TERM_LIMIT when its count passed 65,536 or a TL of 1 was ORed in (R62). -/
def State.putTile (s : State) (k : Loc) (i : Nat) (t : Tile) (limit : Bool) : State :=
  let s := s.updStn k (fun x => x.setTile i t)
  if limit then s.termLimit k else s

/-! ## Faults -/

/-- Base of the fault events of FD0: cause c is 0x9040 + c (R215). -/
def evFault0 : Nat := 0x9040

/-- The other stations of the traverse stopped (R214): a station in a class W instruction is HELD at once and
abandons it; one that runs is HELD before its next LEG. -/
def State.holdOthers (s : State) (k : Loc) : State :=
  (s.parcelStns (s.parcelOf k.fd)).foldl (fun s q =>
    if q.key = k.key then s
    else
      s.updStn q (fun t =>
        if !t.active || t.faulted || t.held then t
        else if t.waiting.isSome then { t with waiting := none, held := true }
        else { t with holdReq := true })) s

/-- A station faults (R212 to R215): FAULTED; the first fault is recorded with its word, PC and time, later ones add
to MORE; its event is raised; the traverse's other stations are held and GLB_TRV_STATUS shows it. -/
def State.stnFault (s : State) (k : Loc) (late : Bool) (cause info : Nat) (word : BitVec 64) (pc : Nat) : State :=
  let b := k.b
  let fresh := !s.flag (Reg.stnFaultValid b)
  let again := (s.stn k).faulted
  let s : State :=
    if fresh then
      let s := (((((s.wr (Reg.stnFaultCause b) cause).wr (Reg.stnFaultLate b) (if late then 1 else 0)).wr
        (Reg.stnFaultValid b) 1).wr (Reg.stnFaultPc b) pc).wr (Reg.stnFaultInfoInfo b) info).wr
        (Reg.stnFaultWordWord b) word.toNat
      s.wr (Reg.stnFaultTimeMeridian b) s.meridian.toNat
    else s.inc (Reg.stnFaultMore b)
  let s : State :=
    if fresh || !again then
      s.stnEvent k (evFault0 + cause) [(s.reg (b + 0x18)).toNat, s.rd (Reg.stnFaultInfoInfo b),
        s.rd (Reg.stnFaultWordWord b), s.rd (Reg.stnFaultTimeMeridian b)]
    else s
  let s := s.updStn k (fun t => { t with faulted := true, waiting := none, held := false, holdReq := false })
  let s := s.holdOthers k
  let p := s.parcelOf k.fd
  if s.rd (Reg.glbTrvStatusState p) = trvRunning then s.wr (Reg.glbTrvStatusState p) trvHeld else s

/-- The PC moved to `pc` (R192: 32 bits). -/
def State.setPc (s : State) (k : Loc) (pc : Nat) : State := s.wr (Reg.stnPcPc k.b) pc

/-- The station's PC. -/
def State.pcOf (s : State) (k : Loc) : Nat := s.rd (Reg.stnPcPc k.b)

/-- The station's leg number. -/
def State.legOf (s : State) (k : Loc) : Nat := s.rd (Reg.stnPcLeg k.b)

/-- PC advanced by one word (R195). -/
def State.advance (s : State) (k : Loc) : State := s.setPc k (s.pcOf k + 1)

end Sys2Proof.Machine
end

