-- ==== Sys2Proof/Machine/Numbers.lean ====
section
/-! DEFINITION. Number formats, exact values and the one rounding every conversion makes (spec/02, R45 to R72). -/

namespace Sys2Proof.Machine

/-- An exact value: NaN, an infinity, or ±m · 2^e. -/
inductive FVal
  | nan
  | inf (neg : Bool)
  | fin (neg : Bool) (m : Nat) (e : Int)
  deriving DecidableEq, Repr

/-- A floating-point format (R45): exponent bits, fraction bits, bias, whether it has Inf, whether it has NaN. -/
structure FpFmt where
  ebits : Nat
  mbits : Nat
  bias : Nat
  hasInf : Bool
  hasNan : Bool
  deriving DecidableEq, Repr

/-- Format codes (R45). -/
def fInt8 : Nat := 0x00
def fUint8 : Nat := 0x01
def fInt4 : Nat := 0x02
def fFp4 : Nat := 0x03
def fE2m3 : Nat := 0x04
def fE3m2 : Nat := 0x05
def fE4m3 : Nat := 0x06
def fE5m2 : Nat := 0x07
def fBf16 : Nat := 0x08
def fFp16 : Nat := 0x09
def fFp32 : Nat := 0x0A
def fW48 : Nat := 0x0B
def fN32 : Nat := 0x0C
def fLa192 : Nat := 0x0D
def fE8m0 : Nat := 0x0E

/-- The floating-point layout of a format code; none for integers, LA192, E8M0 and reserved codes. -/
def fpFmt (f : Nat) : Option FpFmt :=
  if f = fFp4 then some ⟨2, 1, 1, false, false⟩
  else if f = fE2m3 then some ⟨2, 3, 1, false, false⟩
  else if f = fE3m2 then some ⟨3, 2, 3, false, false⟩
  else if f = fE4m3 then some ⟨4, 3, 7, false, true⟩
  else if f = fE5m2 then some ⟨5, 2, 15, true, true⟩
  else if f = fBf16 then some ⟨8, 7, 127, true, true⟩
  else if f = fFp16 then some ⟨5, 10, 15, true, true⟩
  else if f = fFp32 ∨ f = fN32 then some ⟨8, 23, 127, true, true⟩
  else if f = fW48 then some ⟨10, 37, 511, true, true⟩
  else none

/-- Bits of one element of a format (R45); LA192 is stored in 256. -/
def fmtBits (f : Nat) : Nat :=
  if f = fInt8 ∨ f = fUint8 ∨ f = fE4m3 ∨ f = fE5m2 ∨ f = fE8m0 then 8
  else if f = fInt4 ∨ f = fFp4 then 4
  else if f = fE2m3 ∨ f = fE3m2 then 6
  else if f = fBf16 ∨ f = fFp16 then 16
  else if f = fFp32 ∨ f = fN32 then 32
  else if f = fW48 then 48
  else 256

/-- Whether a format code is assigned (R45). -/
def fmtValid (f : Nat) : Bool := decide (f ≤ fE8m0)

/-- Destinations for which FLOOR and CEIL are available (R69): INT8, INT4, FP4, FP6, FP8. -/
def fmtScalable (f : Nat) : Bool := [fInt8, fInt4, fFp4, fE2m3, fE3m2, fE4m3, fE5m2].contains f

/-- The limb formats (R51, R52). -/
def fmtLimb (f : Nat) : Bool := [fE3m2, fE4m3, fE5m2, fBf16].contains f

/-- The grid formats (R51). -/
def fmtGrid (f : Nat) : Bool := [fInt8, fUint8, fInt4, fFp4, fE2m3].contains f

/-- A two's-complement reading of the low `w` bits. -/
def toSigned (w v : Nat) : Int := if v % 2 ^ w < 2 ^ (w - 1) then (v % 2 ^ w : Nat) else (v % 2 ^ w : Nat) - (2 ^ w : Nat)

/-- An integer as an exact value; zero is +0. -/
def FVal.ofInt (i : Int) : FVal := .fin (decide (i < 0)) i.natAbs 0

/-- The value of an encoding of a floating-point format (R46). -/
def decodeFp (s : FpFmt) (raw : Nat) : FVal :=
  let m := raw % 2 ^ s.mbits
  let e := raw / 2 ^ s.mbits % 2 ^ s.ebits
  let neg := decide (raw / 2 ^ (s.mbits + s.ebits) % 2 = 1)
  let top := 2 ^ s.ebits - 1
  if s.hasInf ∧ e = top then (if m = 0 then .inf neg else .nan)
  else if s.hasNan ∧ !s.hasInf ∧ e = top ∧ m = 2 ^ s.mbits - 1 then .nan
  else if e = 0 then .fin neg m (1 - (s.bias : Int) - s.mbits)
  else .fin neg (2 ^ s.mbits + m) ((e : Int) - s.bias - s.mbits)

/-- The value of an encoding (R45 to R47, R49); `zp` is a UINT8 tensor's zero point. LA192 gives L · 2^−112, or NaN
with the N flag. -/
def decodeVal (f zp raw : Nat) : FVal :=
  if f = fInt8 then .ofInt (toSigned 8 raw)
  else if f = fUint8 then .ofInt ((raw % 256 : Nat) - (zp : Int))
  else if f = fInt4 then .ofInt (toSigned 4 raw)
  else if f = fE8m0 then (if raw % 256 = 255 then .nan else .fin false 1 ((raw % 256 : Nat) - 127))
  else if f = fLa192 then
    if raw / 2 ^ 192 % 2 = 1 then .nan
    else
      let l := toSigned 192 raw
      .fin (decide (l < 0)) l.natAbs (-112)
  else match fpFmt f with
    | some s => decodeFp s raw
    | none => .nan

/-- The exact value times 2^k. -/
def FVal.scale (x : FVal) (k : Int) : FVal :=
  match x with
  | .fin n m e => .fin n m (e + k)
  | v => v

/-- The exact value with its sign changed. -/
def FVal.neg : FVal → FVal
  | .nan => .nan
  | .inf n => .inf (!n)
  | .fin n m e => .fin (!n) m e

/-- Whether a value is NaN or infinite. -/
def FVal.nonfinite : FVal → Bool
  | .fin _ _ _ => false
  | _ => true

/-- Whether a value is NaN. -/
def FVal.isNan : FVal → Bool
  | .nan => true
  | _ => false

/-- The exact sum; NaN for Inf plus Inf of opposite signs; an exact zero is +0 but for −0 plus −0 (R66, R238). -/
def FVal.add : FVal → FVal → FVal
  | .nan, _ => .nan
  | _, .nan => .nan
  | .inf a, .inf b => if a = b then .inf a else .nan
  | .inf a, .fin _ _ _ => .inf a
  | .fin _ _ _, .inf b => .inf b
  | .fin n m e, .fin n' m' e' =>
    let b := min e e'
    let x : Int := (if n then -1 else 1) * ((m * 2 ^ (e - b).toNat : Nat) : Int)
    let y : Int := (if n' then -1 else 1) * ((m' * 2 ^ (e' - b).toNat : Nat) : Int)
    let z := x + y
    if z = 0 then .fin (decide (m = 0 ∧ m' = 0) && n && n') 0 0
    else .fin (decide (z < 0)) z.natAbs b

/-- The exact product; NaN for Inf times zero (R238). -/
def FVal.mul : FVal → FVal → FVal
  | .nan, _ => .nan
  | _, .nan => .nan
  | .inf a, .inf b => .inf (a != b)
  | .inf a, .fin n m _ => if m = 0 then .nan else .inf (a != n)
  | .fin n m _, .inf b => if m = 0 then .nan else .inf (n != b)
  | .fin n m e, .fin n' m' e' => .fin (n != n') (m * m') (e + e')

/-- Order of two values that are not NaN: Inf beyond every finite value, the zeros equal. -/
def FVal.lt : FVal → FVal → Bool
  | .nan, _ => false
  | _, .nan => false
  | .inf a, .inf b => a && !b
  | .inf a, .fin _ _ _ => a
  | .fin _ _ _, .inf b => !b
  | .fin n m e, .fin n' m' e' =>
    let b := min e e'
    decide ((if n then -1 else 1) * ((m * 2 ^ (e - b).toNat : Nat) : Int)
      < (if n' then -1 else 1) * ((m' * 2 ^ (e' - b).toNat : Nat) : Int))

/-- Equality of values that are not NaN; the zeros are equal. -/
def FVal.eqv (x y : FVal) : Bool := !x.isNan && !y.isNan && !x.lt y && !y.lt x

/-- floor(log2 n); 0 for 0. -/
def ilog2 (n : Nat) : Nat := Nat.log2 n

/-- Rounding modes (R63). -/
def rndRne : Nat := 0
def rndRtz : Nat := 1
def rndSr : Nat := 2

/-- The magnitude m · 2^e as a whole number of units 2^lsb, rounded (R63, R64); `u` is the 16-bit SR word. -/
def roundUnits (m : Nat) (e lsb : Int) (mode u : Nat) : Nat :=
  if lsb ≤ e then m * 2 ^ (e - lsb).toNat
  else
    let sh := (lsb - e).toNat
    let q := m / 2 ^ sh
    let rem := m % 2 ^ sh
    if mode = rndRne then
      (if 2 ^ sh < 2 * rem ∨ (2 * rem = 2 ^ sh ∧ q % 2 = 1) then q + 1 else q)
    else if mode = rndSr then (if 65536 ≤ rem * 65536 / 2 ^ sh + u then q + 1 else q)
    else q

/-- What a conversion gives: the encoding, whether the element saturates (R72), whether it counts as a NaN that
met a destination without NaN (R65), and for the error of R71 whether the result is finite, its significand and the
weight exponent of its least significant bit. -/
structure Cvt where
  raw : Nat
  sat : Bool
  nanNo : Bool
  fin : Bool
  y : Int
  lsb : Int
  deriving DecidableEq, Repr

/-- The canonical NaN of a floating-point format (R65). -/
def canonNan (s : FpFmt) : Nat :=
  if s.hasInf then (2 ^ s.ebits - 1) * 2 ^ s.mbits + (if s.ebits = 5 ∧ s.mbits = 2 then 3 else 2 ^ (s.mbits - 1))
  else 2 ^ (s.ebits + s.mbits) - 1

/-- The largest finite encoding's significand and exponent: E4M3 loses its top one to NaN. -/
def maxFin (s : FpFmt) : Nat × Int :=
  if s.hasInf then (2 ^ (s.mbits + 1) - 1, (2 ^ s.ebits - 2 : Nat) - (s.bias : Int))
  else if s.hasNan then (2 ^ (s.mbits + 1) - 2, (2 ^ s.ebits - 1 : Nat) - (s.bias : Int))
  else (2 ^ (s.mbits + 1) - 1, (2 ^ s.ebits - 1 : Nat) - (s.bias : Int))

/-- The encoding of ±q · 2^(xe − mbits). -/
def packFp (s : FpFmt) (neg : Bool) (q : Nat) (xe : Int) : Nat :=
  (if neg then 2 ^ (s.ebits + s.mbits) else 0)
    + (if q < 2 ^ s.mbits then q else (xe + s.bias).toNat * 2 ^ s.mbits + (q - 2 ^ s.mbits))

/-- The largest finite value with a sign, as a conversion's result. -/
def satFp (s : FpFmt) (neg : Bool) : Cvt :=
  let mx := maxFin s
  ⟨packFp s neg mx.1 mx.2, true, false, true, (if neg then -1 else 1) * (mx.1 : Int), mx.2 - s.mbits⟩

/-- An infinity as a conversion's result. -/
def infFp (s : FpFmt) (neg : Bool) (sat : Bool) : Cvt :=
  ⟨(if neg then 2 ^ (s.ebits + s.mbits) else 0) + (2 ^ s.ebits - 1) * 2 ^ s.mbits, sat, false, false, 0, 0⟩

/-- Conversion to a floating-point format by one rounding (R63 to R65). -/
def cvtFp (s : FpFmt) (x : FVal) (mode u : Nat) (sat : Bool) : Cvt :=
  match x with
  | .nan =>
    if s.hasNan then ⟨canonNan s, false, false, false, 0, 0⟩ else ⟨0, false, true, false, 0, 0⟩
  | .inf n => if s.hasInf && !sat then infFp s n false else satFp s n
  | .fin n m e =>
    let emin : Int := 1 - (s.bias : Int)
    if m = 0 then ⟨packFp s n 0 emin, false, false, true, 0, emin - s.mbits⟩
    else
      let lead : Int := (ilog2 m : Int) + e
      let xe0 := max lead emin
      let q0 := roundUnits m e (xe0 - s.mbits) mode u
      let carry := decide (q0 = 2 ^ (s.mbits + 1))
      let q := if carry then q0 / 2 else q0
      let xe := if carry then xe0 + 1 else xe0
      let mx := maxFin s
      if mx.2 < xe ∨ (xe = mx.2 ∧ mx.1 < q) then (if s.hasInf && !sat then infFp s n true else satFp s n)
      else ⟨packFp s n q xe, false, false, true, (if n then -1 else 1) * (q : Int), xe - s.mbits⟩

/-- Conversion to an integer of magnitude at most `bound`, symmetric (R65), as a signed integer. -/
def cvtInt (bound : Nat) (w : Nat) (x : FVal) (mode u : Nat) : Cvt :=
  match x with
  | .nan => ⟨0, false, true, false, 0, 0⟩
  | .inf n =>
    let v : Int := if n then -(bound : Int) else bound
    ⟨(v % (2 ^ w : Nat)).toNat, true, false, true, v, 0⟩
  | .fin n m e =>
    let q := roundUnits m e 0 mode u
    let r := min q bound
    let v : Int := if n then -(r : Int) else r
    ⟨(v % (2 ^ w : Nat)).toNat, decide (bound < q), false, true, v, 0⟩

/-- Conversion to UINT8: the rounded value plus the zero point, limited to 0 to 255 (R65, R69). -/
def cvtUint8 (zp : Nat) (x : FVal) (mode u : Nat) : Cvt :=
  match x with
  | .nan => ⟨zp, false, true, false, 0, 0⟩
  | .inf n => if n then ⟨0, true, false, true, -(zp : Int), 0⟩ else ⟨255, true, false, true, 255 - (zp : Int), 0⟩
  | .fin n m e =>
    let q := roundUnits m e 0 mode u
    let v : Int := (if n then -(q : Int) else q) + zp
    let r := max 0 (min 255 v)
    ⟨r.toNat, decide (v ≠ r), false, true, r - zp, 0⟩

/-- Conversion of an exact value to any destination format of R45 from 0x00 to 0x0C. -/
def convert (f zp : Nat) (x : FVal) (mode u : Nat) (sat : Bool) : Cvt :=
  if f = fInt8 then cvtInt 127 8 x mode u
  else if f = fInt4 then cvtInt 7 4 x mode u
  else if f = fUint8 then cvtUint8 zp x mode u
  else match fpFmt f with
    | some s => cvtFp s x mode u sat
    | none => ⟨0, false, true, false, 0, 0⟩

/-- The FP32 layout. -/
def fp32 : FpFmt := ⟨8, 23, 127, true, true⟩

/-- The value of an FP32 encoding. -/
def f32Val (raw : Nat) : FVal := decodeFp fp32 (raw % 2 ^ 32)

/-- An exact value rounded to FP32 under RNE (R238). -/
def f32Of (x : FVal) : Nat := (cvtFp fp32 x rndRne 0 false).raw

/-- FP32 sum, difference, product and fused multiply–add, one rounding each (R238). -/
def f32Add (a b : Nat) : Nat := f32Of ((f32Val a).add (f32Val b))
def f32Sub (a b : Nat) : Nat := f32Of ((f32Val a).add (f32Val b).neg)
def f32Mul (a b : Nat) : Nat := f32Of ((f32Val a).mul (f32Val b))
def f32Fma (a b c : Nat) : Nat := f32Of (((f32Val a).mul (f32Val b)).add (f32Val c))

/-- The canonical FP32 NaN (R65, R238). -/
def f32Nan : Nat := 0x7FC00000

/-- A total order of FP32 values that are not NaN in which −0 lies below +0 (R238). -/
def f32Key (a : Nat) : Int := if a % 2 ^ 32 < 2 ^ 31 then (a % 2 ^ 32 : Nat) else 2 ^ 31 - 1 - (a % 2 ^ 32 : Nat)

/-- FP32 minimum and maximum (R238): the other operand when one is NaN, the canonical NaN when both are. -/
def f32MinMax (wantMax : Bool) (a b : Nat) : Nat :=
  match (f32Val a).isNan, (f32Val b).isNan with
  | true, true => f32Nan
  | true, false => b
  | false, true => a
  | false, false =>
    if wantMax then (if f32Key a < f32Key b then b else a) else (if f32Key b < f32Key a then b else a)

/-- The sum of two values of one wire format, rounded once (R66). -/
def wireAdd (f : Nat) (a b : Nat) : Nat :=
  (convert f 0 ((decodeVal f 0 a).add (decodeVal f 0 b)) rndRne 0 false).raw

end Sys2Proof.Machine
end

