-- ==== Sys2Proof/Machine/Operands.lean ====
section
/-! DEFINITION. Tensor descriptors (R198), the checks of a use (R108 to R115, R172, R200, R281, R282), and how elements
lie in memory and are read and written (R109 to R116). -/

namespace Sys2Proof.Machine

/-- A tensor descriptor as an instruction uses it: the register it stands in, and its fields (R198). Lists hold axes
0 to 4; `stride` of axis 0 is zero. -/
structure Desc where
  num : Nat
  base : Nat
  ext : List Nat
  stride : List Int
  padb : List Nat
  pada : List Nat
  layout : Nat
  fmt : Nat
  pad : Nat
  padConst : Nat
  zeroPoint : Nat
  zpEn : Bool
  group : Nat
  scaled : Bool
  scaleDesc : Nat
  redAxis : Nat
  survey : Bool
  deriving DecidableEq, Repr

/-- Layout codes (R108). -/
def layDense : Nat := 0
def layTile16 : Nat := 1
def layTile1664 : Nat := 2
def layScale : Nat := 3
def layPlat : Nat := 4
def layBitmap : Nat := 5

/-- The 512 bits of D[j] of the station whose block starts at `b`. -/
def State.dbits (s : State) (b j : Nat) : Nat :=
  (List.range 8).foldl (fun acc w => acc + s.rd (Reg.stnD b j w) * 2 ^ (64 * w)) 0

/-- D[j] replaced; bits [511:496] stay zero (R198). -/
def State.setDbits (s : State) (b j v : Nat) : State :=
  (List.range 8).foldl (fun s w => s.wr (Reg.stnD b j w) (v % 2 ^ 496 / 2 ^ (64 * w))) s

/-- Low bit and width of the field a selector names (R198); none for selector 31. -/
def dField (sel : Nat) : Option (Nat × Nat) :=
  if sel = 0 then some (0, 64)
  else if sel ≤ 5 then some (64 + 24 * (sel - 1), 24)
  else if sel ≤ 9 then some (184 + 42 * (sel - 6), 42)
  else if sel ≤ 14 then some (352 + 16 * (sel - 10), 8)
  else if sel ≤ 19 then some (352 + 16 * (sel - 15) + 8, 8)
  else if sel = 20 then some (432, 4)
  else if sel = 21 then some (436, 5)
  else if sel = 22 then some (441, 3)
  else if sel = 23 then some (444, 32)
  else if sel = 24 then some (476, 8)
  else if sel = 25 then some (484, 1)
  else if sel = 26 then some (485, 2)
  else if sel = 27 then some (487, 1)
  else if sel = 28 then some (488, 4)
  else if sel = 29 then some (492, 3)
  else if sel = 30 then some (495, 1)
  else none

/-- Whether a selector names a signed field: STRIDE1 to STRIDE4 (R199). -/
def dSigned (sel : Nat) : Bool := decide (6 ≤ sel) && decide (sel ≤ 9)

/-- `w` bits of a number from bit `lo`. -/
def bitsAt (v lo w : Nat) : Nat := v / 2 ^ lo % 2 ^ w

/-- The number with `w` bits from bit `lo` replaced. -/
def withBits (v lo w x : Nat) : Nat := v / 2 ^ (lo + w) * 2 ^ (lo + w) + x % 2 ^ w * 2 ^ lo + v % 2 ^ lo

/-- The descriptor that 512 bits spell. -/
def descOf (num v : Nat) : Desc :=
  let f := fun sel => match dField sel with | some (lo, w) => bitsAt v lo w | none => 0
  { num := num, base := f 0, ext := [f 1, f 2, f 3, f 4, f 5],
    stride := [0, toSigned 42 (f 6), toSigned 42 (f 7), toSigned 42 (f 8), toSigned 42 (f 9)],
    padb := [f 10, f 11, f 12, f 13, f 14], pada := [f 15, f 16, f 17, f 18, f 19],
    layout := f 20, fmt := f 21, pad := f 22, padConst := f 23, zeroPoint := f 24, zpEn := decide (f 25 = 1),
    group := f 26, scaled := decide (f 27 = 1), scaleDesc := f 28, redAxis := f 29, survey := decide (f 30 = 1) }

/-- D[j] of a station. -/
def State.desc (s : State) (b j : Nat) : Desc := descOf j (s.dbits b j)

/-- Extent, pads and padded extent of an axis. -/
def Desc.e (d : Desc) (a : Nat) : Nat := d.ext.getD a 1
def Desc.pb (d : Desc) (a : Nat) : Nat := d.padb.getD a 0
def Desc.pa (d : Desc) (a : Nat) : Nat := d.pada.getD a 0
def Desc.pe (d : Desc) (a : Nat) : Nat := d.pb a + d.e a + d.pa a

/-- The stride of an axis in bytes. -/
def Desc.st (d : Desc) (a : Nat) : Int := d.stride.getD a 0

/-- The group size of GROUP (R198): 32, 64 or 128. -/
def Desc.g (d : Desc) : Nat := 32 * 2 ^ d.group

/-- Elements of the tensor within its extents. -/
def Desc.count (d : Desc) : Nat := d.ext.foldl (· * ·) 1

/-- Whether an axis has a pad. -/
def Desc.padded (d : Desc) : Bool := d.padb.any (· ≠ 0) || d.pada.any (· ≠ 0)

/-- Padded extents of the five axes. -/
def Desc.pexts (d : Desc) : List Nat := [d.pe 0, d.pe 1, d.pe 2, d.pe 3, d.pe 4]

/-- A value tensor's zero point as it applies: 0 unless declared (R49). -/
def Desc.zp (d : Desc) : Nat := if d.zpEn then d.zeroPoint else 0

/-! ## Containers and placement (R109 to R112) -/

/-- Bytes of a container and elements in it (R110). -/
def contBytes (f : Nat) : Nat :=
  if f = fInt4 ∨ f = fFp4 then 1
  else if f = fE2m3 ∨ f = fE3m2 then 3
  else fmtBits f / 8
def contElems (f : Nat) : Nat :=
  if f = fInt4 ∨ f = fFp4 then 2
  else if f = fE2m3 ∨ f = fE3m2 then 4
  else 1

/-- Alignment of a base (R110). -/
def fmtAlign (f : Nat) : Nat :=
  if f = fW48 then 2
  else if f = fE2m3 ∨ f = fE3m2 then 1
  else contBytes f

/-- Whole containers that hold `n` elements, in bytes. -/
def packedBytes (f n : Nat) : Nat := (n + contElems f - 1) / contElems f * contBytes f

/-- Columns of a tile layout; 0 for the row layouts. -/
def tileCols (layout : Nat) : Nat := if layout = layTile16 then 16 else if layout = layTile1664 then 64 else 0

/-- All coordinates of five extents, axis 0 fastest. -/
def coordsOf : List Nat → List (List Nat)
  | [] => [[]]
  | e :: t => (coordsOf t).flatMap (fun r => (List.range e).map (fun c => c :: r))

/-- Offset from the base of the row or tile that holds an element, and the element's index in it (R108, R109). -/
def Desc.place (d : Desc) (c : List Nat) : Int × Nat :=
  let hi : Int := (c.getD 2 0 : Int) * d.st 2 + (c.getD 3 0 : Int) * d.st 3 + (c.getD 4 0 : Int) * d.st 4
  let c0 := c.getD 0 0
  let c1 := c.getD 1 0
  let cols := tileCols d.layout
  if cols = 0 then (hi + (c1 : Int) * d.st 1, c0)
  else (hi + (c1 / 16 : Nat) * d.st 1 + (c0 / cols * packedBytes d.fmt (16 * cols) : Nat), c1 % 16 * cols + c0 % cols)

/-- Offset from the base of an element's container, and its bit within it. -/
def Desc.container (d : Desc) (c : List Nat) : Int × Nat :=
  let p := d.place c
  (p.1 + (p.2 / contElems d.fmt * contBytes d.fmt : Nat), p.2 % contElems d.fmt * fmtBits d.fmt)

/-- The contiguous runs of a tensor that an access touches, as offsets from the base and byte lengths: one per row;
for a tiled layout one per tile row with elements in it, or the whole tile when `whole`. -/
def Desc.runs (d : Desc) (whole : Bool) : List (Int × Nat) :=
  if d.count = 0 then []
  else
    let cols := tileCols d.layout
    let outer := coordsOf [d.e 2, d.e 3, d.e 4]
    let hi := fun (r : List Nat) =>
      ((r.getD 0 0 : Int) * d.st 2 + (r.getD 1 0 : Int) * d.st 3 + (r.getD 2 0 : Int) * d.st 4 : Int)
    if cols = 0 then
      outer.flatMap (fun r => (List.range (d.e 1)).map (fun (c1 : Nat) => (hi r + (c1 : Int) * d.st 1, packedBytes d.fmt (d.e 0))))
    else
      outer.flatMap (fun r => (List.range ((d.e 1 + 15) / 16)).flatMap (fun (t1 : Nat) =>
        (List.range ((d.e 0 + cols - 1) / cols)).flatMap (fun (t0 : Nat) =>
          let off : Int := hi r + (t1 : Int) * d.st 1 + (t0 * packedBytes d.fmt (16 * cols) : Nat)
          if whole then [(off, packedBytes d.fmt (16 * cols))]
          else
            let w := min cols (d.e 0 - t0 * cols)
            (List.range (min 16 (d.e 1 - t1 * 16))).map (fun j =>
              (off + (packedBytes d.fmt (j * cols) : Nat), packedBytes d.fmt w)))))

/-- Size of a bitmap of E1 rows × E0 columns (R139). -/
def bitmapBytes (e0 e1 : Nat) : Nat := (((e1 + 15) / 16 * ((e0 + 15) / 16) + 7) / 8 + 7) / 8 * 8

/-- Bounds of a list of runs: lowest byte and one past the highest. -/
def runBounds (rs : List (Int × Nat)) : Option (Int × Int) :=
  rs.foldl (fun acc r =>
    if r.2 = 0 then acc
    else match acc with
    | none => some (r.1, r.1 + r.2)
    | some (lo, hi) => some (min lo r.1, max hi (r.1 + r.2))) none

/-! ## Checks -/

/-- What an instruction's operands are checked and read in: the station, its parcel, the leg and PC the instruction was
issued at, its word, and whether an engine now executes it from its queue. -/
structure Env where
  loc : Loc
  parcel : Nat
  leg : Nat
  pc : Nat
  word : BitVec 64
  queued : Bool
  deriving DecidableEq, Repr

/-- Own-die key of the image of a parcel (R286). -/
def State.imgKey (s : State) (p : Nat) : Nat := s.rd (Reg.glbTrvBaseBase p) % 2 ^ 46

/-- An `n`-byte field of the image's header or tables. -/
def State.img (s : State) (p off n : Nat) : Nat := s.natAt (s.imgKey p + off) n

/-- Offset of the station's entry in the image's station table (R259). -/
def State.stnEntry (s : State) (p n : Nat) : Nat := s.img p 20 4 + 16 * n

/-- PROG_OFF, PROG_WORDS, LEG_OFF and LEG_COUNT of a logical station (R259). -/
def State.progOff (s : State) (p n : Nat) : Nat := s.img p (s.stnEntry p n) 4
def State.progWords (s : State) (p n : Nat) : Nat := s.img p (s.stnEntry p n + 4) 4
def State.legOff (s : State) (p n : Nat) : Nat := s.img p (s.stnEntry p n + 8) 4
def State.legCount (s : State) (p n : Nat) : Nat := s.img p (s.stnEntry p n + 12) 2

/-- LENGTH, SLACK, BOUND_SET and CLAMP of leg `i` of a logical station (R260). -/
def State.legLength (s : State) (p n i : Nat) : Nat := s.img p (s.legOff p n + 16 * i) 4
def State.legSlack (s : State) (p n i : Nat) : Nat := s.img p (s.legOff p n + 16 * i + 4) 4
def State.legBound (s : State) (p n i : Nat) : Nat := s.img p (s.legOff p n + 16 * i + 8) 2
def State.legClamp (s : State) (p n i : Nat) : Bool := bitOf (s.img p (s.legOff p n + 16 * i + 10) 1) 0

/-- The bound of extent `a` of D[x] in the leg (R261, R281); none when the extent is unbounded. -/
def State.boundOf (s : State) (v : Env) (x a : Nat) : Option Nat :=
  if !s.trvLoaded v.parcel then none
  else
    let set := s.legBound v.parcel v.loc.num v.leg
    if set = 0xFFFF then none
    else
      let w := s.img v.parcel (s.img v.parcel 24 4 + 320 * set + 20 * x + 4 * a) 4
      if w = 0xFFFFFFFF then none else some w

/-- A descriptor under the leg's bound set (R281, R282): the fault of an extent above its bound, or the descriptor
with bounded extents and the sum of the excesses. -/
def State.bound (s : State) (v : Env) (d : Desc) : Except Flt (Desc × Nat) :=
  let clamp := s.legClamp v.parcel v.loc.num v.leg
  (List.range 5).foldl (fun acc a =>
    match acc with
    | .error f => .error f
    | .ok (d, x) =>
      match s.boundOf v d.num a with
      | none => .ok (d, x)
      | some w =>
        if d.e a ≤ w then .ok (d, x)
        else if clamp then .ok ({ d with ext := d.ext.set a w }, x + (d.e a - w))
        else .error (fcShapeOver, a + (d.e a - w) % 2 ^ 32 * 2 ^ 32)) (.ok (d, 0))

/-- The checks a descriptor's own fields must pass (R45, R108 to R110, R114, R115, R200); `dest` marks destinations
and scale tensors, whose pads must be zero. An operand of layout SCALE whose format is not E8M0 takes FMT_INVALID, which
R108 does not name (DESIGN CHOICE, log 211); SCALED is accepted on every format, the list under R48 being no check
(DESIGN CHOICE, log 212). R109's bound on stride 1 is taken of the extents in use (R282). -/
def Desc.check (d : Desc) (dest : Bool) : Option Flt :=
  let li : Option Flt := some (fcLayoutInvalid, d.num)
  if !fmtValid d.fmt then some (fcFmtInvalid, d.num)
  else if 5 < d.layout then li
  else if 4 < d.redAxis ∨ d.group = 3 then li
  else if 4 < d.pad then li
  else if dest ∧ d.padded then li
  else if d.layout = layScale ∧ d.fmt ≠ fE8m0 then some (fcFmtInvalid, d.num)
  else if d.zpEn ∧ d.fmt ≠ fUint8 then some (fcFmtInvalid, d.num)
  else if d.base % fmtAlign d.fmt ≠ 0 then li
  else if (List.range 4).any (fun i => decide (d.st (i + 1) % (contBytes d.fmt : Int) ≠ 0)) then li
  else if d.layout = layPlat then (if d.base % 64 ≠ 0 ∨ d.padded then li else none)
  else if d.layout = layBitmap then (if d.padded then li else none)
  else if tileCols d.layout ≠ 0 ∧
      d.st 1 < ((d.e 0 + tileCols d.layout - 1) / tileCols d.layout * packedBytes d.fmt (16 * tileCols d.layout) : Nat) then li
  else none

/-- The extents R113 derives for the scale tensor of a value tensor. -/
def Desc.scaleExts (d : Desc) : List Nat := d.ext.set d.redAxis ((d.e d.redAxis + d.g - 1) / d.g)

/-- Byte runs of a descriptor's memory: a bitmap's bytes, or the tensor's runs. A plat's are those of its header and
sections and are checked with them. -/
def Desc.memRuns (d : Desc) (whole : Bool) : List (Int × Nat) :=
  if d.layout = layBitmap then (if bitmapBytes (d.e 0) (d.e 1) = 0 then [] else [(0, bitmapBytes (d.e 0) (d.e 1))])
  else if d.layout = layPlat then []
  else d.runs whole

/-- The checks of an access to byte runs from a base: R172 for the issuing station's own local store, R290 and R210
for survey addresses. -/
def State.runCheck (s : State) (v : Env) (u : Use) (survey : Bool) (base : Nat) (rs : List (Int × Nat)) : Option Flt :=
  rs.findSome? (fun r =>
    let a : Int := base + r.1
    if r.2 = 0 then none
    else if survey then
      match s.spanCheck (some v.parcel) u (a % (2 ^ 64 : Nat)).toNat r.2 with
      | some f => some f
      | none =>
        if u = .write ∧ s.inImage (s.keyOf (a % (2 ^ 64 : Nat)).toNat) r.2 then some (fcAccessDenied, (a % (2 ^ 64 : Nat)).toNat)
        else none
    else if a < 0 ∨ (lsBytes : Int) < a + r.2 then some (fcAddrInvalid, (a % (2 ^ 64 : Nat)).toNat)
    else none)

/-- A descriptor checked, its extents under the leg's bounds (R200, R282): under CLAMP an extent above its bound counts as
the bound in every check; a fault of the fields comes before one of the bounds. -/
def State.checkBound (s : State) (v : Env) (d : Desc) (dest : Bool) : Except Flt (Desc × Nat) :=
  match s.bound v d with
  | .ok (b, x) => match b.check dest with
    | some f => .error f
    | none => .ok (b, x)
  | .error f => .error ((d.check dest).getD f)

/-- A use of D[j] (R200): its fields checked, its extents bounded, its memory checked, and the same for the scale
tensor it names. Answers the descriptor in use, its scale tensor and the extents ignored under CLAMP. Where the scale
descriptor breaks its relation to the value tensor, the fault names the value tensor's register (log 254, DESIGN
CHOICE). The scales of a destination are read when `given` (R228, R237). -/
def State.useDesc (s : State) (v : Env) (u : Use) (j : Nat) (given : Bool := false) : Except Flt (Desc × Option Desc × Nat) :=
  let d := s.desc v.loc.b j
  let dest := decide (u = .write)
  match s.checkBound v d dest with
    | .error f => .error f
    | .ok (d, x) =>
      let whole := dest && decide (tileCols d.layout ≠ 0) && d.survey
      match s.runCheck v u d.survey d.base (d.memRuns whole) with
      | some f => .error f
      | none =>
        if !d.scaled then .ok (d, none, x)
        else
          let c := s.desc v.loc.b d.scaleDesc
          if d.scaleDesc = j ∨ c.layout ≠ layScale ∨ c.fmt ≠ fE8m0 ∨ c.scaled then .error (fcLayoutInvalid, j)
          else match s.checkBound v c true with
            | .error f => .error f
            | .ok (c, y) =>
              if c.ext ≠ d.scaleExts then .error (fcLayoutInvalid, j)
              else match s.runCheck v (if given then .read else u) c.survey c.base (c.memRuns false) with
              | some f => .error f
              | none => .ok (d, some c, x + y)

/-! ## Reading elements -/

/-- The key of byte `off` from a descriptor's base. -/
def State.dkey (s : State) (k : Loc) (d : Desc) (off : Int) : Nat :=
  let a : Nat := ((d.base + off) % (2 ^ 64 : Nat)).toNat
  if d.survey then s.keyOf a else lsKey k.fd k.log a

/-- The encoding stored at coordinates within the extents. -/
def State.stored (s : State) (k : Loc) (d : Desc) (c : List Nat) : Nat :=
  let q := d.container c
  bitsAt (s.natAt (s.dkey k d q.1) (contBytes d.fmt)) q.2 (fmtBits d.fmt)

/-- Negative infinity or the lowest value, and positive infinity or the largest, of a format (R115). -/
def padExtreme (f : Nat) (neg : Bool) : Nat :=
  if f = fInt8 then (if neg then 0x80 else 0x7F)
  else if f = fInt4 then (if neg then 0x8 else 0x7)
  else if f = fUint8 then (if neg then 0 else 255)
  else if f = fE8m0 then (if neg then 0 else 0xFE)
  else if f = fLa192 then (if neg then 2 ^ 191 else 2 ^ 191 - 1)
  else match fpFmt f with
    | some p => if p.hasInf then (infFp p neg false).raw else (satFp p neg).raw
    | none => 0

/-- The encoding a pad coordinate reads as (R115). E8M0 has no zero (R47): its ZERO pad, and R112's tile fill, is encoding
0x00, 2^-127 (log 249, DESIGN CHOICE). -/
def Desc.padRaw (d : Desc) : Nat :=
  if d.pad = 0 then 0
  else if d.pad = 1 then d.zp
  else if d.pad = 2 then padExtreme d.fmt true
  else if d.pad = 3 then padExtreme d.fmt false
  else d.padConst % 2 ^ min 256 (fmtBits d.fmt)

/-- Coordinates within the extents, from padded positions (R114); none in the pad region. -/
def Desc.inside (d : Desc) (c : List Int) : Option (List Nat) :=
  if (List.range 5).all (fun a => decide (0 ≤ c.getD a 0) && decide (c.getD a 0 < (d.e a : Int))) then
    some ((List.range 5).map (fun a => (c.getD a 0).toNat))
  else none

/-- The encoding at a coordinate, pad region included. -/
def State.rawAt (s : State) (k : Loc) (d : Desc) (c : List Int) : Nat :=
  match d.inside c with
  | some n => s.stored k d n
  | none => d.padRaw

/-- The group of a coordinate holds stored elements (R116): the coordinate lies within the extents on every other
axis, and its group meets the extent of the reduction axis. -/
def Desc.groupStored (d : Desc) (c : List Int) : Bool :=
  (List.range 5).all (fun a =>
    if a = d.redAxis then
      decide (0 ≤ c.getD a 0) && decide (c.getD a 0 / (d.g : Int) * (d.g : Int) < (d.e a : Int))
    else decide (0 ≤ c.getD a 0) && decide (c.getD a 0 < (d.e a : Int)))

/-- Scale coordinates of a coordinate whose group holds stored elements (R113). -/
def Desc.scaleCoord (d : Desc) (c : List Int) : List Nat :=
  (List.range 5).map (fun a => if a = d.redAxis then (c.getD a 0 / (d.g : Int)).toNat else (c.getD a 0).toNat)

/-- The E8M0 scale of the element at a coordinate: 0x7F without a scale tensor or for a group of padding (R48, R116). -/
def State.scaleAt (s : State) (k : Loc) (d : Desc) (sc : Option Desc) (c : List Int) : Nat :=
  match sc with
  | none => 0x7F
  | some t => if d.groupStored c then s.stored k t (d.scaleCoord c) else 0x7F

/-- The value at a coordinate, its scale applied (R46 to R49). -/
def State.valueAt (s : State) (k : Loc) (d : Desc) (sc : Option Desc) (c : List Int) : FVal :=
  let x := decodeVal d.fmt d.zp (s.rawAt k d c)
  let e := s.scaleAt k d sc c
  if e = 0xFF then .nan else x.scale ((e : Int) - 127)

/-- The containers a coordinate's read touches, as keys and lengths: its own and its scale's. -/
def State.touched (s : State) (k : Loc) (d : Desc) (sc : Option Desc) (c : List Int) : List (Nat × Nat) :=
  (match d.inside c with
    | some n => [(s.dkey k d (d.container n).1, contBytes d.fmt)]
    | none => [])
  ++ (match sc with
    | some t => if d.groupStored c then [(s.dkey k t (t.container (d.scaleCoord c)).1, 1)] else []
    | none => [])

/-- The first poisoned codeword among spans, as a survey address (R297). -/
def State.poisoned (s : State) (spans : List (Nat × Nat)) : Option Nat :=
  (spans.findSome? (fun x => s.poisonAt x.1 x.2)).map s.addrOf

/-- The keys and lengths of a tensor's runs and of its scale tensor's: what a whole read needs. -/
def State.spansOf (s : State) (k : Loc) (d : Desc) (sc : Option Desc) : List (Nat × Nat) :=
  (d.memRuns false).map (fun r => (s.dkey k d r.1, r.2))
  ++ (match sc with | some t => (t.memRuns false).map (fun r => (s.dkey k t r.1, r.2)) | none => [])

/-! ## Writing elements -/

/-- One container: its bytes from element values, the rest of its bits kept from `old`, or zero beyond the extents. -/
def packOne (f old : Nat) (vals : List (Option (Option Nat))) : List Byte :=
  let w := fmtBits f
  let v := vals.zipIdx.foldl (fun acc x =>
    match x.1 with
    | some (some r) => acc + r % 2 ^ w * 2 ^ (w * x.2)
    | some none => acc + bitsAt old (w * x.2) w * 2 ^ (w * x.2)
    | none => acc) 0
  leBytes (contBytes f) v

/-- The byte writes of a tensor store (R111, R112): `val c` is the encoding written at a coordinate, none where the
element keeps its bits; a container with nothing to write is left, but for the positions of a tile beyond the
extents, which a store of the whole tensor (`fill`) writes as zero. Bytes beyond the local store are not written. -/
def State.packTensor (s : State) (k : Loc) (d : Desc) (fill : Bool) (val : List Nat → Option Nat) : List (Nat × Byte) :=
  let ec := contElems d.fmt
  let cb := contBytes d.fmt
  let cols := tileCols d.layout
  let one := fun (off : Int) (cs : List (Option (List Nat))) =>
    let vals := cs.map (fun c => c.map val)
    if vals.any (fun x => match x with | some (some _) => true | _ => false) || (fill && cs.all Option.isNone) then
      let key := s.dkey k d off
      let w := spread key (packOne d.fmt (s.natAt key cb) vals)
      if d.survey || decide (0 ≤ (d.base : Int) + off ∧ (d.base : Int) + off + cb ≤ lsBytes) then w else []
    else []
  if d.count = 0 then []
  else
    (coordsOf [d.e 2, d.e 3, d.e 4]).flatMap (fun r =>
      let hi : Int := (r.getD 0 0 : Int) * d.st 2 + (r.getD 1 0 : Int) * d.st 3 + (r.getD 2 0 : Int) * d.st 4
      if cols = 0 then
        (List.range (d.e 1)).flatMap (fun (c1 : Nat) =>
          (List.range ((d.e 0 + ec - 1) / ec)).flatMap (fun (i : Nat) =>
            one (hi + (c1 : Int) * d.st 1 + (i * cb : Nat))
              ((List.range ec).map (fun j => if i * ec + j < d.e 0 then some ((i * ec + j) :: c1 :: r) else none))))
      else
        (List.range ((d.e 1 + 15) / 16)).flatMap (fun (t1 : Nat) =>
          (List.range ((d.e 0 + cols - 1) / cols)).flatMap (fun (t0 : Nat) =>
            (List.range (16 * cols / ec)).flatMap (fun (i : Nat) =>
              one (hi + (t1 : Int) * d.st 1 + (t0 * packedBytes d.fmt (16 * cols) + i * cb : Nat))
                ((List.range ec).map (fun j =>
                  let q := i * ec + j
                  let c0 := t0 * cols + q % cols
                  let c1 := t1 * 16 + q / cols
                  if c0 < d.e 0 ∧ c1 < d.e 1 then some (c0 :: c1 :: r) else none))))))

/-- The codewords that the containers of some elements of a destination lie in. -/
def State.cwsOf (s : State) (k : Loc) (d : Desc) (cs : List (List Nat)) : List Nat :=
  (cs.flatMap (fun c =>
    let key := s.dkey k d (d.container c).1
    [key / 32, (key + contBytes d.fmt - 1) / 32])).eraseDups

/-- Linear index of a coordinate over unpadded extents (R182). -/
def Desc.linear (d : Desc) (c : List Nat) : Nat :=
  c.getD 0 0 + d.e 0 * (c.getD 1 0 + d.e 1 * (c.getD 2 0 + d.e 2 * (c.getD 3 0 + d.e 3 * c.getD 4 0)))

/-! ## Footprints (R125) -/

/-- A footprint: the memory it lies in (a local store or a die window), its first byte and one past its last. -/
structure Foot where
  mem : Nat
  lo : Int
  hi : Int
  deriving DecidableEq, Repr

/-- Whether two footprints intersect. -/
def Foot.meets (a b : Foot) : Bool := decide (a.mem = b.mem) && decide (a.lo < b.hi) && decide (b.lo < a.hi)

/-- The footprint of bounds from a base: the issuing station's local store, or the window of the address's die, where a
window address in a local store names that store. -/
def State.footOf (s : State) (k : Loc) (survey : Bool) (base : Nat) (bd : Option (Int × Int)) : Option Foot :=
  match bd with
  | none => none
  | some (lo, hi) =>
    if !survey then
      some ⟨s.ownModule * 32 + k.fd, (lsBase + k.log * 0x200000 + base : Nat) + lo, (lsBase + k.log * 0x200000 + base : Nat) + hi⟩
    else some ⟨addrModule base * 32 + addrDie base, (addrOff base : Int) + lo, (addrOff base : Int) + hi⟩

/-- The footprint of a tensor's containers. -/
def State.foot (s : State) (k : Loc) (d : Desc) : Option Foot := s.footOf k d.survey d.base (runBounds (d.memRuns false))

/-- The footprints of a tensor and its scale tensor. -/
def State.feet (s : State) (k : Loc) (d : Desc) (sc : Option Desc) : List Foot :=
  (s.foot k d).toList ++ (match sc with | some t => (s.foot k t).toList | none => [])

/-- Whether footprints of two sets intersect. -/
def feetMeet (a b : List Foot) : Bool := a.any (fun x => b.any (fun y => x.meets y))

end Sys2Proof.Machine
end

