-- ==== Sys2Proof/Machine/Plat.lean ====
section
/-! DEFINITION. Plats and tile bitmaps: header, sections, the acceptance rule every reader applies, digests
(R133 to R143, R157, R166). -/

namespace Sys2Proof.Machine

/-- A plat header as its 64 bytes read (R133). -/
structure PlatHdr where
  k : Nat
  rows : Nat
  fmtByte : Nat
  modeByte : Nat
  keep : Nat
  groupByte : Nat
  slots : Nat
  valOff : Nat
  codeOff : Nat
  countOff : Nat
  rowoffOff : Nat
  scaleOff : Nat
  bitmapOff : Nat
  digest : Nat
  rsv : Nat
  deriving DecidableEq, Repr

/-- The header that 512 bits spell. -/
def platHdrOf (v : Nat) : PlatHdr :=
  let f := fun (b n : Nat) => bitsAt v (8 * b) (8 * n)
  { k := f 0 4, rows := f 4 4, fmtByte := f 8 1, modeByte := f 9 1, keep := f 10 1, groupByte := f 11 1, slots := f 12 4,
    valOff := f 16 4, codeOff := f 20 4, countOff := f 24 4, rowoffOff := f 28 4, scaleOff := f 32 4, bitmapOff := f 36 4,
    digest := f 40 8, rsv := f 48 16 }

/-- The header a PLAT descriptor addresses. -/
def State.platHdr (s : State) (k : Loc) (d : Desc) : PlatHdr := platHdrOf (s.natAt (s.dkey k d 0) 64)

/-- Value format, group length G, mode flags, scale group SG, groups per row. -/
def PlatHdr.fmt (h : PlatHdr) : Nat := h.fmtByte % 32
def PlatHdr.g (h : PlatHdr) : Nat := 4 * 2 ^ (h.modeByte % 4)
def PlatHdr.variableMode (h : PlatHdr) : Bool := bitOf h.modeByte 2
def PlatHdr.sg (h : PlatHdr) : Nat := 32 * 2 ^ (h.groupByte % 4)
def PlatHdr.scaled (h : PlatHdr) : Bool := bitOf h.groupByte 2
def PlatHdr.hasBitmap (h : PlatHdr) : Bool := bitOf h.groupByte 3
def PlatHdr.ng (h : PlatHdr) : Nat := h.k / h.g

/-- Bytes of a row of values and of codes in fixed mode (R136). -/
def PlatHdr.vrow (h : PlatHdr) : Nat := packedBytes h.fmt (h.ng * h.keep)
def PlatHdr.crow (h : PlatHdr) : Nat := (h.ng * h.keep + 1) / 2

/-- Entries of a scale row (R138). -/
def PlatHdr.scols (h : PlatHdr) : Nat := (h.k + h.sg - 1) / h.sg

/-- The sections: existence, offset and size, in the order value, code, count, row offset, scale, bitmap; values of a reserved
format have no size (R135). -/
def PlatHdr.sections (h : PlatHdr) : List (Bool × Nat × Nat) :=
  [(true, h.valOff, if !fmtValid h.fmt then 0 else if h.variableMode then packedBytes h.fmt h.slots else h.rows * h.vrow),
   (true, h.codeOff, if h.variableMode then (h.slots + 1) / 2 else h.rows * h.crow),
   (h.variableMode, h.countOff, h.rows * h.ng),
   (h.variableMode, h.rowoffOff, 4 * h.rows),
   (h.scaled, h.scaleOff, h.rows * h.scols),
   (h.hasBitmap, h.bitmapOff, bitmapBytes h.k h.rows)]

/-- A structural fault of a header (R134). -/
def PlatHdr.bad (h : PlatHdr) : Bool :=
  decide (h.modeByte % 4 = 3) || decide (8 ≤ h.modeByte) || decide (32 ≤ h.fmtByte) || decide (16 ≤ h.groupByte)
    || decide (h.groupByte % 4 = 3) || decide (h.rsv ≠ 0)
    || decide (h.k % h.g ≠ 0)
    || (if h.variableMode then decide (h.keep ≠ 0) else decide (h.keep = 0) || decide (h.g < h.keep) || decide (h.slots ≠ 0))
    || h.sections.any (fun x => if x.1 then decide (x.2.1 % 64 ≠ 0) || decide (x.2.1 = 0) else decide (x.2.1 ≠ 0))
    || (let live := (h.sections.filter (fun x => x.1 && decide (x.2.2 ≠ 0)))
        live.any (fun x => decide (x.2.1 < 64))
          || live.zipIdx.any (fun x => live.zipIdx.any (fun y =>
              decide (x.2 < y.2) && decide (x.1.2.1 < y.1.2.1 + y.1.2.2) && decide (y.1.2.1 < x.1.2.1 + x.1.2.2))))

/-- Formats a plat may hold (R135). -/
def PlatHdr.fmtOk (h : PlatHdr) : Bool :=
  [fInt8, fInt4, fFp4, fE2m3, fE3m2, fE4m3, fE5m2, fBf16, fFp16, fFp32].contains h.fmt

/-- Bytes from the header to the end of the last section (R157). -/
def PlatHdr.size (h : PlatHdr) : Nat := h.sections.foldl (fun m x => if x.1 then max m (x.2.1 + x.2.2) else m) 64

/-- Offset of a value's container from the header and its bit in it: `i` counts slots of the row in fixed mode, of
the plat in variable mode. -/
def PlatHdr.valPos (h : PlatHdr) (r i : Nat) : Nat × Nat :=
  ((if h.variableMode then h.valOff else h.valOff + r * h.vrow) + i / contElems h.fmt * contBytes h.fmt,
   i % contElems h.fmt * fmtBits h.fmt)

/-- Offset of a code's byte and its bit in it. -/
def PlatHdr.codePos (h : PlatHdr) (r i : Nat) : Nat × Nat :=
  ((if h.variableMode then h.codeOff else h.codeOff + r * h.crow) + i / 2, i % 2 * 4)


/-- The footprint of a plat (R157). -/
def State.platFoot (s : State) (k : Loc) (d : Desc) : Option Foot :=
  s.footOf k d.survey d.base (some (0, ((s.platHdr k d).size : Int)))

/-- Offsets from a PLAT descriptor's base of the plats that its axes 2 to 4 step over. -/
def Desc.platOffs (d : Desc) : List Int :=
  (coordsOf [d.e 2, d.e 3, d.e 4]).map (fun r =>
    (r.getD 0 0 : Int) * d.st 2 + (r.getD 1 0 : Int) * d.st 3 + (r.getD 2 0 : Int) * d.st 4)

/-- Those plats as descriptors of one plat each. -/
def Desc.plats (d : Desc) : List Desc :=
  d.platOffs.map (fun (off : Int) => { d with base := ((d.base + off) % (2 ^ 64 : Nat)).toNat })

/-- Sizes of the plats a PLAT source addresses, from their headers (R157). -/
def State.platSizes (s : State) (k : Loc) (d : Desc) : List Nat := d.plats.map (fun p => (s.platHdr k p).size)

/-- The footprint of the plats a descriptor addresses, of given sizes (R125, R157). -/
def State.platFeet (s : State) (k : Loc) (d : Desc) (sizes : List Nat) : List Foot :=
  (s.footOf k d.survey d.base (runBounds (d.platOffs.zip sizes))).toList

/-- The checks of an instruction that reads or writes a plat (R134, R135, R172, R290), after its descriptor's own:
the header's 64 bytes, its structure, its format, then its sections' bytes. -/
def State.platCheck (s : State) (v : Env) (u : Use) (d : Desc) : Option Flt :=
  match s.runCheck v u d.survey d.base [(0, 64)] with
  | some f => some f
  | none =>
    let h := s.platHdr v.loc d
    if h.bad then some (fcLayoutInvalid, d.num)
    else if !h.fmtOk then some (fcFmtInvalid, d.num)
    else s.runCheck v u d.survey d.base
      ((h.sections.filter (fun x => x.1 && decide (x.2.2 ≠ 0))).map (fun x => ((x.2.1 : Int), x.2.2)))

/-- One group as a reader takes it (R141, R142): its accepted slots as (position, slot index) in ascending position,
and the slots dropped in each category. -/
structure PlatGrp where
  acc : List (Nat × Nat)
  range : Nat
  dup : Nat
  order : Nat
  bound : Nat
  deriving DecidableEq, Repr

/-- Slots of a group examined in order (R141): the codes accepted so far in descending order. -/
def acceptSlots (g : Nat) : List (Nat × Nat) → PlatGrp → PlatGrp
  | [], r => { r with acc := r.acc.reverse }
  | (c, i) :: t, r =>
    if g ≤ c then acceptSlots g t { r with range := r.range + 1 }
    else match r.acc with
      | [] => acceptSlots g t { r with acc := [(c, i)] }
      | (p, j) :: a =>
        if p < c then acceptSlots g t { r with acc := (c, i) :: (p, j) :: a }
        else if r.acc.any (fun x => x.1 = c) then acceptSlots g t { r with dup := r.dup + 1 }
        else acceptSlots g t { r with order := r.order + 1 }

/-- A slot's code. -/
def State.platCode (s : State) (k : Loc) (d : Desc) (h : PlatHdr) (r i : Nat) : Nat :=
  let p := h.codePos r i
  bitsAt (s.natAt (s.dkey k d p.1) 1) p.2 4

/-- A slot's value encoding. -/
def State.platVal (s : State) (k : Loc) (d : Desc) (h : PlatHdr) (r i : Nat) : Nat :=
  let p := h.valPos r i
  bitsAt (s.natAt (s.dkey k d p.1) (contBytes h.fmt)) p.2 (fmtBits h.fmt)

/-- A group's count field in variable mode; bits [7:5] are ignored (R137). -/
def State.platCount (s : State) (k : Loc) (d : Desc) (h : PlatHdr) (r g : Nat) : Nat :=
  s.natAt (s.dkey k d (h.countOff + r * h.ng + g : Nat)) 1 % 32

/-- The slot index at which a row begins in variable mode (R137). -/
def State.platRowOff (s : State) (k : Loc) (d : Desc) (h : PlatHdr) (r : Nat) : Nat :=
  s.natAt (s.dkey k d (h.rowoffOff + 4 * r : Nat)) 4

/-- Group `g` of row `r`, whose first slot is `start` in variable mode. -/
def State.platGrp (s : State) (k : Loc) (d : Desc) (h : PlatHdr) (r g start : Nat) : PlatGrp :=
  if h.variableMode then
    let n := s.platCount k d h r g
    let idx := (List.range (min n h.g)).map (start + ·)
    let live := idx.filter (· < h.slots)
    acceptSlots h.g (live.map (fun i => (s.platCode k d h r i, i))) ⟨[], 0, 0, 0, n - live.length⟩
  else
    acceptSlots h.g ((List.range h.keep).map (fun j => (s.platCode k d h r (g * h.keep + j), g * h.keep + j))) ⟨[], 0, 0, 0, 0⟩

/-- The groups of row `r` in order. -/
def State.platRow (s : State) (k : Loc) (d : Desc) (h : PlatHdr) (r : Nat) : List PlatGrp :=
  ((List.range h.ng).foldl (fun (acc : List PlatGrp × Nat) g =>
    (acc.1 ++ [s.platGrp k d h r g acc.2], if h.variableMode then acc.2 + s.platCount k d h r g else 0))
    ([], if h.variableMode then s.platRowOff k d h r else 0)).1

/-- The slots of each group of row `r`, accepted or not. -/
def State.platRowSlots (s : State) (k : Loc) (d : Desc) (h : PlatHdr) (r : Nat) : List (List Nat) :=
  ((List.range h.ng).foldl (fun (acc : List (List Nat) × Nat) g =>
    if h.variableMode then
      let n := s.platCount k d h r g
      (acc.1 ++ [((List.range (min n h.g)).map (acc.2 + ·)).filter (· < h.slots)], acc.2 + n)
    else (acc.1 ++ [(List.range h.keep).map (g * h.keep + ·)], 0))
    ([], if h.variableMode then s.platRowOff k d h r else 0)).1

/-- Accepted slots of row `r` as (dense position, slot index). -/
def State.platSlots (s : State) (k : Loc) (d : Desc) (h : PlatHdr) (r : Nat) : List (Nat × Nat) :=
  (s.platRow k d h r).zipIdx.flatMap (fun x => x.1.acc.map (fun a => (x.2 * h.g + a.1, a.2)))

/-- The plat groups, first and one past the last, that a run of dense positions meets. -/
def PlatHdr.groups (h : PlatHdr) (x : Nat × Nat) : Nat × Nat := (x.1 / h.g, (x.1 + x.2 + h.g - 1) / h.g)

/-- The byte spans of row `r` that a reader of some runs of dense positions, given by start and length, touches: in
variable mode the row offset and the counts up to the last group, then the codes of the slots it examines, their values
when it reads values, and the scales when it reads scales (R136 to R138, R141, R142). -/
def State.platSpans (s : State) (k : Loc) (d : Desc) (h : PlatHdr) (vals scales : Bool) (runs : List (Nat × Nat)) (r : Nat) :
    List (Nat × Nat) :=
  let sp := fun (o n : Nat) => (s.dkey k d o, n)
  let slots := fun (lo hi : Nat) =>
    if lo < hi then
      sp (h.codePos r lo).1 ((h.codePos r (hi - 1)).1 + 1 - (h.codePos r lo).1)
        :: (if vals then [sp (h.valPos r lo).1 ((h.valPos r (hi - 1)).1 + contBytes h.fmt - (h.valPos r lo).1)] else [])
    else []
  let gs := (runs.filter (fun x => decide (0 < x.2))).map h.groups
  (if h.variableMode then
    let last := gs.foldl (fun m x => max m x.2) 0
    let start := fun (g : Nat) => (List.range g).foldl (fun a i => a + s.platCount k d h r i) (s.platRowOff k d h r)
    [sp (h.rowoffOff + 4 * r) 4, sp (h.countOff + r * h.ng) last]
      ++ gs.flatMap (fun x => (List.range (x.2 - x.1)).flatMap (fun i =>
          let b := start (x.1 + i)
          slots (min b h.slots) (min (b + min (s.platCount k d h r (x.1 + i)) h.g) h.slots)))
  else gs.flatMap (fun x => slots (x.1 * h.keep) (x.2 * h.keep)))
  ++ (if h.scaled && scales then
      (runs.filter (fun x => decide (0 < x.2))).map (fun x =>
        sp (h.scaleOff + r * h.scols + x.1 / h.sg) ((x.1 + x.2 - 1) / h.sg - x.1 / h.sg + 1))
    else [])

/-- The bytes of a bitmap of E0 columns, `off` bytes from a base, that hold the bits of tile rows i0 to i1 − 1 from tile
column j0 to j1 − 1 (R139). -/
def State.bitmapSpans (s : State) (k : Loc) (d : Desc) (off e0 i0 i1 j0 j1 : Nat) : List (Nat × Nat) :=
  if j0 < j1 then
    (List.range (i1 - i0)).map (fun i =>
      let b := (i0 + i) * ((e0 + 15) / 16)
      (s.dkey k d (off + (b + j0) / 8 : Nat), (b + j1 - 1) / 8 - (b + j0) / 8 + 1))
  else []

/-- The bytes of a plat's own bitmap that mark the tiles a range of rows and positions meets (R139, R148). -/
def State.platMarks (s : State) (k : Loc) (d : Desc) (h : PlatHdr) (r0 rn p0 pn : Nat) : List (Nat × Nat) :=
  if h.hasBitmap && decide (0 < rn) && decide (0 < pn) then
    s.bitmapSpans k d h.bitmapOff h.k (r0 / 16) ((r0 + rn - 1) / 16 + 1) (p0 / 16) ((p0 + pn - 1) / 16 + 1)
  else []

/-- The spans of a whole plat's header, mask, and, where they are read, values, scales and bitmap. -/
def State.platAll (s : State) (k : Loc) (d : Desc) (h : PlatHdr) (vals scales marks : Bool) : List (Nat × Nat) :=
  (s.dkey k d 0, 64) :: (List.range h.rows).flatMap (s.platSpans k d h vals scales [(0, h.k)])
    ++ (if marks then s.platMarks k d h 0 h.rows 0 h.k else [])

/-- The scale of dense position `p` of row `r` (R138). -/
def State.platScale (s : State) (k : Loc) (d : Desc) (h : PlatHdr) (r p : Nat) : Nat :=
  if h.scaled then s.natAt (s.dkey k d (h.scaleOff + r * h.scols + p / h.sg : Nat)) 1 else 0x7F

/-- Bit (i, j) of a bitmap of E0 columns that starts `off` bytes from a base (R139). -/
def State.bitmapBit (s : State) (k : Loc) (d : Desc) (off e0 i j : Nat) : Bool :=
  let b := i * ((e0 + 15) / 16) + j
  bitOf (s.natAt (s.dkey k d (off + b / 8 : Nat)) 1) (b % 8)

/-- Whether the tile bitmap of a plat marks a tile as empty (R139, R140). -/
def State.platEmpty (s : State) (k : Loc) (d : Desc) (h : PlatHdr) (i j : Nat) : Bool :=
  h.hasBitmap && s.bitmapBit k d h.bitmapOff h.k i j

/-- The encoding a reader of values takes from slot `i` of row `r`, which holds dense position `p`: zero in a tile marked
empty, which is treated as empty whatever it holds (R140; DEDUCED, log 205). -/
def State.platRead (s : State) (k : Loc) (d : Desc) (h : PlatHdr) (r p i : Nat) : Nat :=
  if s.platEmpty k d h (r / 16) (p / 16) then 0 else s.platVal k d h r i

/-- Dropped slots of some rows by category. -/
def dropTotals (gs : List PlatGrp) : Nat × Nat × Nat × Nat :=
  gs.foldl (fun a g => (a.1 + g.range, a.2.1 + g.dup, a.2.2.1 + g.order, a.2.2.2 + g.bound)) (0, 0, 0, 0)

/-- Dropped slots counted once (R143). -/
def State.platDrops (s : State) (k : Loc) (gs : List PlatGrp) : State :=
  let t := dropTotals gs
  s.countDrops k t.1 t.2.1 t.2.2.1 t.2.2.2

/-- The digest term of an accepted slot (R166). -/
def digestTerm (row p : Nat) : Nat :=
  let x := row % 2 ^ 32 * 2 ^ 32 + p % 2 ^ 32
  let z := (x + 0x9E3779B97F4A7C15) % 2 ^ 64
  let z := ((z ^^^ (z / 2 ^ 30)) * 0xBF58476D1CE4E5B9) % 2 ^ 64
  let z := ((z ^^^ (z / 2 ^ 27)) * 0x94D049BB133111EB) % 2 ^ 64
  z ^^^ (z / 2 ^ 31)

/-- The digest of accepted positions (R166). -/
def digestOf (ps : List (Nat × Nat)) : Nat := ps.foldl (fun a x => (a + digestTerm x.1 x.2) % 2 ^ 64) 0

end Sys2Proof.Machine
end

