-- ==== Sys2Proof/Machine/Issue.lean ====
section
/-! DEFINITION. Instruction words (R201 to R204), the timing classes and hazards of issue (R205, R206), and how an
instruction that is checked, queued, executed or faulted changes a station. -/

namespace Sys2Proof

/-- Whether every field of a CTRL word the instruction does not use is zero (R203). -/
def CtrlF.okFor (f : CtrlF) (sa fl imm off : Bool) : Bool :=
  (sa || f.sa = 0) && (fl || f.f = 0) && f.rsv = 0 && (imm || f.imm16 = 0) && (off || f.off32 = 0)

/-- The same for a SCALAR word. -/
def ScalF.okFor (f : ScalF) (sd sa sb fn imm : Bool) : Bool :=
  (sd || f.sd = 0) && (sa || f.sa = 0) && (sb || f.sb = 0) && (fn || f.fn = 0) && f.rsv = 0 && (imm || f.imm32 = 0)

/-- The same for a SYNC word. -/
def SyncF.okFor (f : SyncF) (sa gr imm : Bool) : Bool :=
  (sa || f.sa = 0) && f.rsv = 0 && (gr || f.group = 0) && (imm || f.imm32 = 0)

/-- The same for a TENSOR word: `used` adds up the bits of the fields used, `mode` has a 1 for each MODE bit used. -/
def TensF.okFor (f : TensF) (used mode : Nat) : Bool :=
  (Machine.bitOf used 0 || f.dd = 0) && (Machine.bitOf used 1 || f.da = 0) && (Machine.bitOf used 2 || f.db = 0)
      && (Machine.bitOf used 3 || f.dc = 0)
    && (Machine.bitOf used 4 || f.pm = 0) && (Machine.bitOf used 5 || f.ts = 0) && (Machine.bitOf used 6 || f.slot = 0)
        && (Machine.bitOf used 7 || f.sx = 0)
    && decide (f.mode.toNat &&& (2 ^ 27 - 1 - mode) = 0)

/-- `w` bits of MODE from bit `lo`. -/
def TensF.m (f : TensF) (lo w : Nat) : Nat := Machine.bitsAt f.mode.toNat lo w

end Sys2Proof

namespace Sys2Proof.Machine

/-- Fields of a TENSOR word by bit: DD, DA, DB, DC, PM, TS, SLOT, SX. -/
def uDD : Nat := 1
def uDA : Nat := 2
def uDB : Nat := 4
def uDC : Nat := 8
def uPM : Nat := 16
def uTS : Nat := 32
def uSLOT : Nat := 64
def uSX : Nat := 128

/-! ## Words -/

/-- The 64-bit words of the four formats (R202). -/
def ctrlWord (op : Nat) (f : CtrlF) : BitVec 64 :=
  BitVec.ofNat 64 (op * 2 ^ 56 + f.sa.toNat * 2 ^ 51 + f.f.toNat * 2 ^ 50 + f.rsv.toNat * 2 ^ 48 + f.imm16.toNat * 2 ^ 32
    + f.off32.toNat)
def scalWord (op : Nat) (f : ScalF) : BitVec 64 :=
  BitVec.ofNat 64 (op * 2 ^ 56 + f.sd.toNat * 2 ^ 51 + f.sa.toNat * 2 ^ 46 + f.sb.toNat * 2 ^ 41 + f.fn.toNat * 2 ^ 36
    + f.rsv.toNat * 2 ^ 32 + f.imm32.toNat)
def tensWord (op : Nat) (f : TensF) : BitVec 64 :=
  BitVec.ofNat 64 (op * 2 ^ 56 + f.dd.toNat * 2 ^ 52 + f.da.toNat * 2 ^ 48 + f.db.toNat * 2 ^ 44 + f.dc.toNat * 2 ^ 40
    + f.pm.toNat * 2 ^ 37 + f.ts.toNat * 2 ^ 35 + f.slot.toNat * 2 ^ 32 + f.sx.toNat * 2 ^ 27 + f.mode.toNat)
def syncWord (op : Nat) (f : SyncF) : BitVec 64 :=
  BitVec.ofNat 64 (op * 2 ^ 56 + f.sa.toNat * 2 ^ 51 + f.rsv.toNat * 2 ^ 48 + f.group.toNat * 2 ^ 32 + f.imm32.toNat)

/-- The fields of a word under each format. -/
def ctrlOf (w : BitVec 64) : CtrlF :=
  ⟨w.extractLsb' 51 5, w.extractLsb' 50 1, w.extractLsb' 48 2, w.extractLsb' 32 16, w.extractLsb' 0 32⟩
def scalOf (w : BitVec 64) : ScalF :=
  ⟨w.extractLsb' 51 5, w.extractLsb' 46 5, w.extractLsb' 41 5, w.extractLsb' 36 5, w.extractLsb' 32 4, w.extractLsb' 0 32⟩
def tensOf (w : BitVec 64) : TensF :=
  ⟨w.extractLsb' 52 4, w.extractLsb' 48 4, w.extractLsb' 44 4, w.extractLsb' 40 4, w.extractLsb' 37 3, w.extractLsb' 35 2,
   w.extractLsb' 32 3, w.extractLsb' 27 5, w.extractLsb' 0 27⟩
def syncOf (w : BitVec 64) : SyncF := ⟨w.extractLsb' 51 5, w.extractLsb' 48 3, w.extractLsb' 32 16, w.extractLsb' 0 32⟩

/-- A 32-bit immediate sign-extended to 64 bits, as a number (R202). -/
def sext32 (x : BitVec 32) : Nat := (x.signExtend 64).toNat

/-! ## Outcomes of an instruction -/

/-- What checking and executing an instruction gives: completion; an early fault, with no effect (R212); completion
with a late fault (R213); a wait, with what the waiting counts; or a hold: its checks wait for a header, and it has not
issued yet. -/
inductive Res
  | ok (s : State)
  | early (cause info : Nat)
  | late (s : State) (cause info : Nat)
  | wait (s : State)
  | hold (s : State)

/-- An early fault as a pair. -/
def Res.flt (f : Flt) : Res := .early f.1 f.2

/-- ILLEGAL_OP (R203, R215). -/
def Res.illegal : Res := .early fcIllegalOp 0

/-- A state mapped over completion. -/
def Res.map (r : Res) (g : State → State) : Res :=
  match r with
  | .ok s => .ok (g s)
  | .late s c i => .late (g s) c i
  | r => r

/-! ## Hazards (R206) -/

/-- What an instruction reads and writes: scalar, descriptor, predicate and vector registers, tiles, signal counters,
random slots and local-store footprints. -/
structure Uses where
  sr : List Nat := []
  sw : List Nat := []
  dr : List Nat := []
  dw : List Nat := []
  pr : List Nat := []
  pw : List Nat := []
  vr : List Nat := []
  vw : List Nat := []
  tr : List Nat := []
  tw : List Nat := []
  gw : List Nat := []
  rr : Bool := false
  rw : Bool := false
  lr : List Foot := []
  lw : List Foot := []

/-- Footprints of the tensor D[j] describes (R125), its axis 0 taken `wide` times over: the plats it addresses, of the
sizes in their headers, or its elements. -/
def State.dataFeet (s : State) (k : Loc) (j : Nat) (wide : Nat := 1) : List Foot :=
  let d := s.desc k.b j
  let d := { d with ext := d.ext.set 0 (wide * d.e 0) }
  if d.layout = layPlat then s.platFeet k d (s.platSizes k d) else (s.foot k d).toList

/-- Those footprints with the scale tensor's. -/
def State.dFeet (s : State) (k : Loc) (j : Nat) (wide : Nat := 1) : List Foot :=
  let d := s.desc k.b j
  s.dataFeet k j wide ++ (if d.scaled ∧ d.layout ≠ layPlat then (s.foot k (s.desc k.b d.scaleDesc)).toList else [])

/-- What a COPY from D[a] to D[b] writes (R157): a plat's destination has the size its source's header gives. -/
def State.copyDest (s : State) (k : Loc) (a b : Nat) : List Foot :=
  let d := s.desc k.b a
  if d.layout = layPlat then s.platFeet k (s.desc k.b b) (s.platSizes k d) else s.dFeet k b

/-- Whether a footprint touches the station's own local store, whichever way it names it (R206, R288). -/
def State.ownFoot (s : State) (k : Loc) (f : Foot) : Bool :=
  let lo : Int := (lsBase + k.log * 0x200000 : Nat)
  f.meets ⟨s.ownModule * 32 + k.fd, lo, lo + lsBytes⟩

/-- D registers an operand uses: itself and its scale descriptor. -/
def State.dUses (s : State) (k : Loc) (j : Nat) : List Nat :=
  let d := s.desc k.b j
  j :: (if d.scaled then [d.scaleDesc] else [])

/-- The memory at S[SA] + IMM32, in the space FN names, as a footprint. -/
def State.addrFoot (s : State) (k : Loc) (f : ScalF) (n : Nat) : List Foot :=
  let a := (s.sreg k.b f.sa.toNat + sext32 f.imm32) % 2 ^ 64
  (s.footOf k (decide (f.fn.toNat % 2 = 1)) a (some (0, (n : Int)))).toList

/-- What an instruction word reads and writes (R204, chapter 08's usage tables). -/
def State.uses (s : State) (k : Loc) (w : BitVec 64) : Uses :=
  let op := w.toNat / 2 ^ 56
  let c := ctrlOf w
  let f := scalOf w
  let t := tensOf w
  let sd := f.sd.toNat
  let sa := f.sa.toNat
  let sb := f.sb.toNat
  let dd := t.dd.toNat
  let da := t.da.toNat
  let db := t.db.toNat
  let dc := t.dc.toNat
  let pm := [t.pm.toNat]
  let ts := [t.ts.toNat]
  let sx := t.sx.toNat
  let du := fun j => s.dUses k j
  let fe := fun j => s.dFeet k j
  let sb? := fun (b : Nat) => if t.m 3 1 = 1 then [] else [b]
  let sx? := if t.m 3 1 = 1 then [sx] else []
  if op = 0x04 then { sr := [c.sa.toNat], sw := [c.sa.toNat] }
  else if op = 0x05 then { sr := [c.sa.toNat] }
  else if op = 0x10 then { sw := [sd] }
  else if op = 0x11 then { sr := [sd], sw := [sd] }
  else if 0x12 ≤ op ∧ op ≤ 0x17 then { sr := [sa, sb], sw := [sd] }
  else if op = 0x18 then { sr := [sa], sw := [sd], lr := s.addrFoot k f 8 }
  else if op = 0x19 then { sr := [sa, sb], lw := s.addrFoot k f 8 }
  else if op = 0x1A then { sw := [sd], tr := if f.fn = 8 then [f.imm32.toNat % 4] else [] }
  else if op = 0x1B then { sw := [sd], pr := [sa % 8] }
  else if op = 0x20 then { sr := [sa], dw := [sd % 16], lr := s.addrFoot k f 64 }
  else if op = 0x21 then { sr := [sa], dr := [sd % 16], lw := s.addrFoot k f 64 }
  else if op = 0x22 ∨ op = 0x23 then { sr := [sa], dr := [sd % 16], dw := [sd % 16] }
  else if op = 0x24 then { dr := [sa % 16], dw := [sd % 16] }
  else if op = 0x25 then { dr := [sa % 16], sw := [sd] }
  else if op = 0x30 ∨ op = 0x31 then
    let st := decide (bitOf t.mode.toNat 20)
    let given := decide (op = 0x31)
    { dr := du dd ++ du da ++ (if st then [dc] else []), lr := fe da ++ (if given then fe dd else []),
      lw := (if given then s.dataFeet k dd else s.copyDest k da dd) ++ (if st then fe dc else []), rr := true }
  else if op = 0x32 then { dr := du da, sr := [sx], lr := fe da, tr := ts, tw := ts }
  else if op = 0x33 then { dr := du dd, sw := [sx], lw := fe dd, tr := ts }
  else if op = 0x34 ∨ op = 0x42 then { tr := ts, tw := ts }
  else if op = 0x40 ∨ op = 0x41 ∨ op = 0x60 ∨ op = 0x61 then
    let hold := decide (op = 0x40) && bitOf t.mode.toNat 2
    let osk := decide (op ≠ 0x41) && bitOf t.mode.toNat 3
    let ds := [da] ++ (if hold then [] else [db]) ++ (if osk then [dc] else [])
    { dr := ds.flatMap du, lr := ds.flatMap fe, sr := [sx], tr := ts, tw := ts }
  else if op = 0x43 then { sr := [sx], tr := ts }
  else if op = 0x50 then { dr := du da, lr := fe da, vr := [dd], vw := [dd], pr := pm }
  else if op = 0x51 then { dr := du dd, lr := fe dd, lw := s.dataFeet k dd, vr := [da], pr := pm, rr := true }
  else if op = 0x52 then { vr := [da, dd] ++ sb? db, vw := [dd], pr := pm, sr := sx? }
  else if op = 0x54 then { vr := [da, dd], vw := [dd], pr := pm }
  else if op = 0x58 then { vr := [da, dd], vw := [dd], pr := pm, rr := true }
  else if op = 0x53 then { vr := [da, db, dc, dd], vw := [dd], pr := pm }
  else if op = 0x55 then { vr := da :: sb? db, pr := dd % 8 :: pm, pw := [dd % 8], sr := sx? }
  else if op = 0x56 then { vr := [da, db, dd], vw := [dd], pr := dc % 8 :: pm }
  else if op = 0x57 then { vr := [da], pr := pm, tr := ts, tw := ts }
  else if op = 0x59 then { vr := [da, dd], vw := [dd], dr := du db, lr := fe db, pr := pm }
  else if op = 0x62 then
    { dr := du dd ++ du da ++ du db, lr := fe da ++ fe db, lw := fe dd, sr := [sx], tr := ts, tw := ts }
  else if op = 0x63 ∨ op = 0x64 then
    let sc := decide (op = 0x64) || bitOf t.mode.toNat 0
    let ds := da :: (if sc then [dc] else [])
    { dr := (dd :: ds).flatMap du, lr := dd :: ds |>.flatMap fe, lw := fe dd }
  else if op = 0x73 then
    let y := syncOf w
    { sr := [y.sa.toNat], gw := if s.sreg k.b y.sa.toNat = k.num then [y.group.toNat % 16] else [] }
  else if op = 0x74 then { gw := [(syncOf w).group.toNat % 16] }
  else if op = 0x75 then { dr := du dd ++ du da, lr := fe da, lw := fe dd }
  else if op = 0x77 then { tr := ts, tw := ts }
  else if op = 0x80 then { sr := [sa], rw := true }
  else if op = 0x81 then
    let drop := decide (t.m 0 3 = 2 ∧ t.m 3 1 = 0)
    { dr := du dd ++ (if drop then du da else []), lr := if drop then fe da else [],
      lw := s.dFeet k dd (if t.m 0 3 = 0 ∧ t.m 4 1 = 1 then 2 else 1), sr := [sx, sx + 1], rr := true }
  else if op = 0x82 then { dr := du dd ++ du da, lr := fe da, lw := fe dd, sr := [sx], rr := true }
  else if op = 0x83 then
    let tile := bitOf t.mode.toNat 0
    let st := bitOf t.mode.toNat 6
    { dr := du dd ++ (if tile then [] else du da) ++ (if st then [dc] else []),
      lr := (if tile then [] else fe da) ++ fe dd,
      lw := (if t.m 1 2 = 1 then s.dataFeet k dd else fe dd) ++ (if st then fe dc else []),
      tr := if tile then ts else [], tw := if tile then ts else [], rr := true }
  else if op = 0x84 then { dr := [dd] ++ du da, lr := fe da ++ fe dd, lw := fe dd }
  else {}

/-- Whether two register lists share a register. -/
def shares (a b : List Nat) : Bool := a.any (b.contains ·)

/-- Whether the memory `n` touches meets memory `q` writes, or the memory it writes meets what `q` reads. -/
def Uses.memConflict (n q : Uses) : Bool := feetMeet n.lr q.lw || feetMeet n.lw q.lw || feetMeet n.lw q.lr

/-- The uses with the footprints in the station's own local store alone. -/
def State.ownUses (s : State) (k : Loc) (u : Uses) : Uses :=
  { u with lr := u.lr.filter (s.ownFoot k), lw := u.lw.filter (s.ownFoot k) }

/-- Whether `n` may not issue while `q` is still in an engine (R206): it reads or writes what `q` writes, or writes what
`q` reads. -/
def Uses.conflict (n q : Uses) : Bool :=
  let ch := fun (nr nw qr qw : List Nat) => shares nr qw || shares nw qw || shares nw qr
  let nz := fun (l : List Nat) => l.filter (· ≠ 0)
  ch (nz n.sr) (nz n.sw) (nz q.sr) (nz q.sw) || ch n.dr n.dw q.dr q.dw || ch (nz n.pr) (nz n.pw) (nz q.pr) (nz q.pw)
    || ch n.vr n.vw q.vr q.vw || ch n.tr n.tw q.tr q.tw || shares n.gw q.gw
    || (n.rw && (q.rr || q.rw)) || (n.rr && q.rw)
    || n.memConflict q

/-- Whether a LASUM under way will still add to a tile (R224, R249). -/
def State.lasumOn (s : State) (k : Loc) (t : Nat) : Bool :=
  match ((s.stn k).tile t).lockedBy with
  | some h => decide (h < 16)
  | none => false

/-- Whether the word must wait for an instruction still in an engine of the station, its own local store compared by
footprint (R206); SMFS TERMS also for a LASUM whose collective is not complete (R224). -/
def State.hazard (s : State) (k : Loc) (w : BitVec 64) : Bool :=
  let u := s.ownUses k (s.uses k w)
  (s.stn k).engq.any (fun q => u.conflict (s.ownUses k (s.uses k q.word)))
    || (decide (w.toNat / 2 ^ 56 = 0x1A) && u.tr.any (s.lasumOn k))

/-- Whether an instruction must not execute before some of the station's earlier ones still in engines, because both
access a byte, through survey addresses, that one of them writes (R207). -/
def State.ordered (s : State) (k : Loc) (w : BitVec 64) (before : List QEnt) : Bool :=
  before.any (fun q => (s.uses k w).memConflict (s.uses k q.word))

/-! ## Issue -/

/-- The environment of an instruction a station issues now. -/
def State.env (s : State) (k : Loc) (w : BitVec 64) : Env := ⟨k, s.parcelOf k.fd, s.legOf k, s.pcOf k, w, false⟩

/-- A station's PC is left at a faulting instruction, and the station faults (R212, R213, R216). -/
def State.faultAt (s : State) (v : Env) (late : Bool) (cause info : Nat) : State :=
  (s.setPc v.loc v.pc).stnFault v.loc late cause info v.word v.pc

/-- The engine an opcode is queued in; none for classes Z and W (R204, R205). -/
def opEngine (op : Nat) : Option Nat :=
  if op = 0x18 ∨ op = 0x19 ∨ op = 0x20 ∨ op = 0x21 then some engSeq
  else if 0x30 ≤ op ∧ op ≤ 0x33 then some engMov
  else if op = 0x34 ∨ (0x40 ≤ op ∧ op ≤ 0x43) ∨ (0x60 ≤ op ∧ op ≤ 0x62) then some engMat
  else if 0x50 ≤ op ∧ op ≤ 0x59 then some engVec
  else if op = 0x63 ∨ op = 0x64 then some engSel
  else if op = 0x73 ∨ op = 0x75 ∨ op = 0x77 then some engCol
  else if 0x81 ≤ op ∧ op ≤ 0x84 then some engRqd
  else none

/-- Whether an engine's queue is empty, and whether it is full (R205). -/
def Stn.engIdle (t : Stn) (eng : Nat) : Bool := !t.engq.any (fun q => q.eng = eng)
def Stn.engFull (t : Stn) (eng : Nat) : Bool := decide (8 ≤ (t.engq.filter (fun q => q.eng = eng)).length)

/-- Whether the queue of the word's engine is full. -/
def State.stalls (s : State) (k : Loc) (w : BitVec 64) : Bool :=
  match opEngine (w.toNat / 2 ^ 56) with
  | some e => (s.stn k).engFull e
  | none => false

/-- A single step that has issued its instruction waits for it to leave its engine (R216): `n` entries were queued before
and PC stood at `pc`. An engine's instruction that left both as they were has not issued yet. -/
def State.stepIssued (s : State) (k : Loc) (w : BitVec 64) (pc n : Nat) : State :=
  s.updStn k (fun t => { t with step := if t.step = .none' then .none' else if n < t.engq.length then (match t.engq.getLast? with
    | some q => .busy q
    | none => .none')
    else if (opEngine (w.toNat / 2 ^ 56)).isSome && !t.faulted && decide (s.pcOf k = pc) then t.step
    else .none' })

/-- What a station that may issue does with the word `w`: nothing when it may not issue; a wait under R206; a stall on a
full queue (R205); otherwise `go`, after which a single step goes on until the instruction has completed (R216). -/
def State.issue (s : State) (stn : BitVec 11) (w : BitVec 64) (go : Env → State → State) : State :=
  match s.issuable stn.toNat with
  | none => s
  | some k =>
    if s.hazard k w then s.inc (Reg.stnHazardWaitCount k.b)
    else if s.stalls k w ∨ (s.stn k).step = .none' then go (s.env k w) s
    else (go (s.env k w) s).stepIssued k w (s.pcOf k) (s.stn k).engq.length

/-- A class Z instruction (R205): it completes, PC advanced, or faults early. -/
def goZ (body : Env → State → Res) (v : Env) (s : State) : State :=
  match body v s with
  | .ok s => s.advance v.loc
  | .early c i => s.faultAt v false c i
  | .late s c i => s.faultAt v true c i
  | .wait s => s
  | .hold s => s

/-- A class Z instruction that sets PC itself (R195). -/
def goJump (body : Env → State → Res) (v : Env) (s : State) : State :=
  match body v s with
  | .ok s => s
  | .early c i => s.faultAt v false c i
  | .late s c i => s.faultAt v true c i
  | .wait s => s
  | .hold s => s

/-- An instruction placed in its engine's queue, and PC advanced. -/
def State.enqueue (s : State) (v : Env) (eng : Nat) : State :=
  (s.updStn v.loc (fun t => { t with engq := t.engq ++ [⟨eng, v.word, v.pc, v.leg⟩] })).advance v.loc

/-- A class E or M instruction (R205): checked at issue; executed at once when its engine's queue is empty and its
inputs and its turn at memory (R207) are there, else queued, or stalled on a full queue. -/
def goEng (eng : Nat) (body : Env → State → Res) (v : Env) (s : State) : State :=
  match body v s with
  | .early c i => s.faultAt v false c i
  | .hold s => s
  | r =>
    if !(s.stn v.loc).engIdle eng || s.ordered v.loc v.word (s.stn v.loc).engq then
      if (s.stn v.loc).engFull eng then s.inc (Reg.stnIssueStallCount v.loc.b)
      else s.enqueue v eng
    else match r with
      | .ok s => s.advance v.loc
      | .late s c i => s.faultAt v true c i
      | .wait s => s.enqueue v eng
      | .early c i => s.faultAt v false c i
      | .hold s => s

/-- A station asked to be HELD before its next LEG, or in a wait (R214), is HELD. -/
def State.holdNow (s : State) (k : Loc) : State :=
  s.updStn k (fun t => { t with held := true, holdReq := false, waiting := none })

/-- A class W instruction (R205): complete, PC advanced; or waiting, and HELD at once where R214 asks for it. -/
def goW (w : Env → Wait) (body : Env → State → Res) (v : Env) (s : State) : State :=
  match body v s with
  | .ok s => s.advance v.loc
  | .early c i => s.faultAt v false c i
  | .late s c i => s.faultAt v true c i
  | .hold s => s
  | .wait s =>
    if (s.stn v.loc).holdReq then s.holdNow v.loc
    else s.updStn v.loc (fun t => { t with waiting := some (w v) })

/-! ## Inputs from other modules -/

/-- Bytes answered for a read dropped once it has executed. -/
def State.dropRemote (s : State) (needs : List (Nat × Nat)) : State :=
  { s with remoteBuf := s.remoteBuf.filter (fun e => !needs.any (fun x => keyRemote x.1 && decide (x.1 ≤ e.1)
      && decide (e.1 < x.1 + x.2))) }

/-- The requests of an instruction for the needed spans of other modules. -/
def State.ask (s : State) (v : Env) (needs : List (Nat × Nat)) : State :=
  s.askRemote v.loc.fd v.loc.num v.pc v.leg v.parcel needs

/-- Whether a span lies in the station's own local store, which no transaction of the FD reaches. -/
def ownSpan (k : Loc) (x : Nat × Nat) : Bool :=
  decide (x.2 = 0) || (decide (lsKey k.fd k.log 0 ≤ x.1) && decide (x.1 + x.2 ≤ lsKey k.fd k.log 0 + lsBytes))

/-- What an instruction's reads of some spans leave behind: the passed FDs' routers count them, and an aperture's addresses are
translated (R24, R289). -/
def State.noteReads (s : State) (v : Env) (needs : List (Nat × Nat)) : State :=
  needs.foldl (fun s x => s.noteRead v.loc.fd v.parcel x.1 x.2) s

/-- An execution that needs the bytes of some spans: it waits, its requests sent, until those of other modules have
arrived (R205, R291), while a line it reads is locked or evict-pending (R311, R312), and while a limit of R320 leaves it
no transaction, which is counted. -/
def withInputs (v : Env) (s : State) (needs : List (Nat × Nat)) (f : State → Res) : Res :=
  if !s.remoteHere needs then .wait (s.ask v needs)
  else if !s.linesFree v.loc.fd needs then .wait s
  else if !(needs.all (ownSpan v.loc) || s.trkRoom v.loc.fd v.loc.num) then .wait (s.inc (Reg.memTrkStallCount v.loc.fd))
  else (f (s.noteReads v needs)).map (fun s => s.dropRemote needs)

/-- The station of an instruction as a writer. -/
def Env.writer (v : Env) : Writer := .station v.loc.num v.pc v.leg

/-- Whether the limits of R320 admit a station's store: its own local store takes no transaction of the FD's. -/
def State.storeRoom (s : State) (k : Loc) (ws : List (Nat × Byte)) : Bool :=
  ws.all (fun w => ownSpan k (w.1, 1)) || s.trkRoom k.fd k.num

/-- A store by a station: its runs applied, the codewords `bad` poisoned, and the station's late fault when an atomic target is
poisoned (R298, R316). It waits, counted, while a limit of R320 leaves it no transaction. -/
def storeResP (v : Env) (s : State) (ws : List (Nat × Byte)) (bad : List Nat) (k : State → State) : Res :=
  if !s.storeRoom v.loc ws then .wait (s.inc (Reg.memTrkStallCount v.loc.fd))
  else
    let r := s.storeP v.writer v.parcel ws bad
    match r.2 with
    | some c => .late (k r.1) fcPoisonConsumed (s.addrOf c)
    | none => .ok (k r.1)

/-- A store of sound data by a station. -/
def storeRes (v : Env) (s : State) (ws : List (Nat × Byte)) (k : State → State) : Res := storeResP v s ws [] k

/-- Extents ignored under CLAMP added to STN_SHAPE_CLAMP (R282). -/
def State.shapeClamp (s : State) (k : Loc) (x : Nat) : State := if x = 0 then s else s.inc (Reg.stnShapeClampExcess k.b) x

end Sys2Proof.Machine
end

