-- ==== Sys2Proof/Machine/Rng.lean ====
section
/-! DEFINITION. The random unit: blocks, indices and stochastic-rounding bits (R180 to R184, R64). -/

namespace Sys2Proof.Machine

/-- Rotation counts of the ten rounds (R183). -/
def rngRot : List Nat := [13, 29, 41, 7, 53, 19, 37, 11, 47, 23]

/-- One round: x0, x1 and the key (R183). -/
def rngRound (x : Nat × Nat × Nat) (rot : Nat) : Nat × Nat × Nat :=
  let p := x.1 * 0xA0B428DB6F193E5B
  let lo := p % 2 ^ 64
  (p / 2 ^ 64 ^^^ x.2.1 ^^^ x.2.2, (lo * 2 ^ rot) % 2 ^ 64 ||| lo / 2 ^ (64 - rot), (x.2.2 + 0x9E3779B97F4A7C15) % 2 ^ 64)

/-- The block (w0, w1) of a seed, a stream and an index (R183). -/
def rngBlock (seed stream index : Nat) : Nat × Nat :=
  let x := rngRot.foldl rngRound (index % 2 ^ 64, stream % 2 ^ 64, seed % 2 ^ 64)
  (x.1, x.2.1)

/-- The block slot `j` draws at an index offset (R180, R181): SEED, STREAM and BASE of the station. -/
def State.draw (s : State) (k : Loc) (j off : Nat) : Nat × Nat :=
  rngBlock (s.rd (Reg.stnRngSeedSeed k.b)) (s.rd (Reg.stnRngStreamStream k.b j)) (s.rd (Reg.stnRngBaseBase k.b j) + off)

/-- The stochastic-rounding word U of a destination element (R64, R182): w0[63:48]. -/
def State.srWord (s : State) (k : Loc) (j off : Nat) : Nat := (s.draw k j off).1 / 2 ^ 48

/-- Blocks drawn counted (R189). -/
def State.countDraws (s : State) (k : Loc) (n : Nat) : State := if n = 0 then s else s.inc (Reg.stnRngDrawsCount k.b) n

end Sys2Proof.Machine
end

