-- ==== Sys2Proof/Machine/Convert.lean ====
section
/-! DEFINITION. Elements converted into a tensor or through the mask of a plat (R68 to R71, R152, R228, R298). -/

namespace Sys2Proof.Machine

/-- One element converted with group exponent `x` (none for a scale of 0xFF): R65, R68, R70. -/
def cvtElem (fmt zp : Nat) (x : Option Int) (val : FVal) (mode u : Nat) (sat : Bool) : Cvt :=
  match x with
  | none => convert fmt zp .nan mode u sat
  | some e => convert fmt zp (val.scale (-e)) mode u sat

/-- Whether a conversion counts in STN_ARITH_NONFIN (R65, R68): a NaN met a destination without NaN, or the group's
given scale is 0xFF. -/
def cvtCounts (x : Option Int) (c : Cvt) : Bool := c.nanNo || x.isNone

/-- The exponent of a scale byte: none for 0xFF. -/
def scaleExp (e : Nat) : Option Int := if e = 0xFF then none else some ((e : Int) - 127)

/-- The axis a plat's rows lie on in a dense tensor: the lowest-numbered axis but the reduction axis (R153). -/
def Desc.rowAxis (d : Desc) : Nat := if d.redAxis = 0 then 1 else 0

/-- Whether the descriptor's extents are a plat's: K along RED_AXIS, ROWS along the row axis, 1 elsewhere (R153). -/
def Desc.fitsPlat (d : Desc) (h : PlatHdr) : Bool :=
  (List.range 5).all (fun a =>
    if a = d.redAxis then decide (d.e a = h.k) else if a = d.rowAxis then decide (d.e a = h.rows) else decide (d.e a = 1))

/-- Coordinates of dense position `p` of row `r` of a plat in its descriptor's axes. -/
def Desc.platCoord (d : Desc) (r p : Nat) : List Nat :=
  (List.range 5).map (fun a => if a = d.redAxis then p else if a = d.rowAxis then r else 0)

/-- The value bits of every slot of a plat, those without an accepted slot included, given an encoding for each
accepted (row, position, slot): a store through the mask writes +0 into dropped slots (R152). In variable mode SLOTS may
exceed what the groups take; R152 does not speak of a slot of no group: it is written +0 too (DESIGN CHOICE, log 214). -/
def State.platValueWrites (s : State) (k : Loc) (d : Desc) (h : PlatHdr) (enc : Nat → Nat → Nat) : List (Nat × Byte) :=
  let cb := contBytes h.fmt
  let ec := contElems h.fmt
  let accepted : List (Nat × Nat × Nat) :=
    (List.range h.rows).flatMap (fun r => (s.platSlots k d h r).map (fun x => (r, x.1, x.2)))
  let val := fun (r i : Nat) =>
    match accepted.find? (fun x => decide (x.2.2 = i) && (h.variableMode || decide (x.1 = r))) with
    | some x => enc x.1 x.2.1
    | none => 0
  let slotsOf := if h.variableMode then h.slots else h.ng * h.keep
  let rows := if h.variableMode then [0] else List.range h.rows
  rows.flatMap (fun r => (List.range ((slotsOf + ec - 1) / ec)).flatMap (fun i =>
    let key := s.dkey k d (h.valPos r (i * ec)).1
    spread key (leBytes cb ((List.range ec).foldl (fun acc j =>
      if i * ec + j < slotsOf then acc + val r (i * ec + j) % 2 ^ fmtBits h.fmt * 2 ^ (fmtBits h.fmt * j) else acc) 0))))

/-- The codewords that hold the value of an accepted slot. -/
def State.platValueCws (s : State) (k : Loc) (d : Desc) (h : PlatHdr) (r i : Nat) : List Nat :=
  let key := s.dkey k d (h.valPos r i).1
  [key / 32, (key + contBytes h.fmt - 1) / 32]

/-- The state after conversions counted: NaN conversions (R65), draws of SR. -/
def State.countCvts (s : State) (k : Loc) (nan draws : Nat) : State := (s.countNan k nan).countDraws k draws

end Sys2Proof.Machine
end

