-- ==== Sys2Proof/Machine/Move.lean ====
section
/-! DEFINITION. COPY, CVLD, TLD, TST and TCLR (R117 to R131, R152, R227 to R230, R298). -/

namespace Sys2Proof.Machine

/-- π(i) of a copy's MODE (R227). -/
def copyPi (f : TensF) (i : Nat) : Nat := f.m (3 * i) 3

/-- Whether reversal bit `i` is set (R117). -/
def copyRev (f : TensF) (i : Nat) : Bool := bitOf (f.m 15 5) i

/-- Whether PI is a permutation of 0 to 4, and whether the copy is the identity without reversal. -/
def piValid (f : TensF) : Bool := (List.range 5).all (fun a => (List.range 5).any (fun i => copyPi f i = a))
def copyIdentity (f : TensF) : Bool := (List.range 5).all (fun i => copyPi f i = i) && decide (f.m 15 5 = 0)

/-- Source coordinates of a destination coordinate (R117). -/
def copySrc (f : TensF) (src : Desc) (c : List Nat) : List Int :=
  (List.range 5).map (fun p =>
    match (List.range 5).find? (fun i => copyPi f i = p) with
    | some i =>
      let d : Int := c.getD i 0
      if copyRev f i then (src.pe p : Int) - 1 - d - src.pb p else d - src.pb p
    | none => 0)

/-- What a copy's checks settle: source and destination with their scale tensors, the staging descriptor, the bytes
staged, and the extents ignored under CLAMP. -/
structure CopyPlan where
  src : Desc
  ssc : Option Desc
  dst : Desc
  dsc : Option Desc
  stage : Option Desc
  staged : Nat
  excess : Nat

/-- The descriptors of a permuting copy are the same bits, apart from the register (R126). -/
def sameDesc (a b : Desc) : Bool := decide ({ a with num := 0 } = { b with num := 0 })

/-- A square in-place transpose (R126). -/
def squareInPlace (f : TensF) (a b : Desc) : Bool :=
  sameDesc a b && (a.layout = layDense || a.layout = layTile16) && !a.padded && decide (f.m 15 5 = 0)
    && (let moved := (List.range 5).filter (fun i => copyPi f i ≠ i)
        decide (moved.length = 2) && decide (a.e (moved.getD 0 0) = a.e (moved.getD 1 0)))

/-- Bytes of the source data, every container once, plats whole, scales included (R128). -/
def State.copyBytes (s : State) (k : Loc) (d : Desc) (sc : Option Desc) : Nat :=
  let one := fun (d : Desc) =>
    if d.layout = layPlat then (s.platSizes k d).foldl (· + ·) 0
    else if d.layout = layBitmap then bitmapBytes (d.e 0) (d.e 1)
    else ((coordsOf [d.e 0, d.e 1, d.e 2, d.e 3, d.e 4]).map (fun c => (d.container c).1)).eraseDups.length * contBytes d.fmt
  one d + (match sc with | some t => one t | none => 0)

/-- The footprints of a copy's side (R125, R157): plats whole, of the sizes the source's headers give. -/
def State.copyFeet (s : State) (k : Loc) (d : Desc) (sc : Option Desc) (sizes : List Nat) : List Foot :=
  if d.layout = layPlat then s.platFeet k d sizes else s.feet k d sc

/-- Checks of COPY (R118, R119) on formats and layouts, in this order: permutability, layouts, formats, extents, scales.
A reversed reduction axis must have a padded extent that is a multiple of G (log 250, DEDUCED). -/
def copyFormats (f : TensF) (a b : Desc) : Option Flt :=
  let special := fun (d : Desc) => decide (d.layout = layPlat) || decide (d.layout = layBitmap)
  let fixed := fun (d : Desc) => special d || [fW48, fLa192].contains d.fmt
  if !copyIdentity f ∧ (fixed a || fixed b) then some (fcFmtInvalid, if fixed a then a.num else b.num)
  else if (special a || special b) ∧ (a.layout ≠ b.layout ∨ (a.layout = layBitmap ∧ a.ext ≠ b.ext)) then
    some (fcLayoutInvalid, b.num)
  else if a.fmt ≠ b.fmt then some (fcFmtInvalid, b.num)
  else if (List.range 5).any (fun i => decide (b.e i ≠ a.pe (copyPi f i))) then some (fcLayoutInvalid, b.num)
  else if a.scaled ≠ b.scaled ∨ a.group ≠ b.group then some (fcFmtInvalid, b.num)
  else if a.scaled ∧ (copyPi f b.redAxis ≠ a.redAxis ∨ (copyRev f b.redAxis ∧ b.e b.redAxis % b.g ≠ 0)) then
    some (fcFmtInvalid, b.num)
  else none

/-- Checks of CVLD (R118, R117, R228) on formats and layouts. R228 names no fault for a PLAT source, which R135 does not let
it read: FMT_INVALID (log 255, DESIGN CHOICE). -/
def cvldFormats (f : TensF) (a b : Desc) : Option Flt :=
  if a.fmt = fLa192 ∨ a.layout = layBitmap ∨ a.layout = layPlat then some (fcFmtInvalid, a.num)
  else if b.layout ≠ layPlat ∧ (b.fmt = fLa192 ∨ b.fmt = fE8m0 ∨ b.layout = layBitmap) then some (fcFmtInvalid, b.num)
  else if f.m 21 2 = 3 then some (fcFmtInvalid, b.num)
  else if !copyIdentity f ∧ (b.layout = layPlat ∨ [fW48].contains a.fmt ∨ (b.fmt = fW48 ∧ b.layout ≠ layPlat)) then
    some (fcFmtInvalid, a.num)
  else if (List.range 5).any (fun i => decide (b.e i ≠ a.pe (copyPi f i))) then some (fcLayoutInvalid, b.num)
  else none

/-- A fault or none as an `Except`. -/
def orFault (f : Option Flt) : Except Flt Unit := match f with | some e => .error e | none => .ok ()

/-- The checks of a copy that need no plat header: its source and destination with their scale tensors, and the extents
ignored under CLAMP (R118, R119, R200, R227, R228). -/
def copyOps (cvld : Bool) (f : TensF) (v : Env) (s : State) :
    Except Flt ((Desc × Option Desc) × (Desc × Option Desc) × Nat) := do
  if !piValid f then .error (fcLayoutInvalid, f.dd.toNat)
  let (a, asc, x) ← s.useDesc v .read f.da.toNat
  let (b, bsc, y) ← s.useDesc v .write f.dd.toNat cvld
  orFault (if cvld then cvldFormats f a b else copyFormats f a b)
  .ok ((a, asc), (b, bsc), x + y)

/-- The checks every copy makes before any access (R129, R200, R227). -/
def copyCheck (cvld : Bool) (f : TensF) (v : Env) (s : State) : Except Flt CopyPlan := do
  let ((a, asc), (b, bsc), x) ← copyOps cvld f v s
  if a.layout = layPlat then
    for p in a.plats do
      orFault (s.platCheck v .read p)
    for pq in b.plats.zip a.plats do
      orFault (s.runCheck v .write b.survey pq.1.base [(0, (s.platHdr v.loc pq.2).size)])
  if cvld ∧ b.layout = layPlat then
    orFault (s.platCheck v .write b)
    if !b.fitsPlat (s.platHdr v.loc b) then .error (fcLayoutInvalid, b.num)
  let sizes := if a.layout = layPlat then s.platSizes v.loc a else s.platSizes v.loc b
  let sf := s.copyFeet v.loc a asc sizes
  let df := s.copyFeet v.loc b bsc sizes
  let ovr := feetMeet sf df
  if !ovr || (!cvld && squareInPlace f a b) then .ok ⟨a, asc, b, bsc, none, 0, x⟩
  else if f.m 20 1 = 0 then .error (fcCopyOverlap, 0)
  else
    let n := s.copyBytes v.loc a asc
    if 2 ^ 20 < n then .error (fcCopyTooLarge, n)
    if (s.desc v.loc.b f.dc.toNat).survey then .error (fcLayoutInvalid, f.dc.toNat)
    let (g, gsc, z) ← s.useDesc v .write f.dc.toNat
    let gf := s.feet v.loc g none
    let size := match runBounds (g.memRuns false) with | some (lo, hi) => (hi - lo).toNat | none => 0
    if size < n ∨ feetMeet gf (sf ++ df) then .error (fcCopyOverlap, 0)
    let _ := gsc
    .ok ⟨a, asc, b, bsc, some g, n, x + z⟩

/-- Slices of a copy over the padded source extents (R120). -/
def copySlices (f : TensF) (a : Desc) : Nat :=
  let p := copyPi f 0
  if p = 0 then (a.pe 0 + 127) / 128 * (a.pe 1 * a.pe 2 * a.pe 3 * a.pe 4)
  else (a.pe 0 + 15) / 16 * ((a.pe p + 7) / 8)
    * (((List.range 5).filter (fun i => i ≠ 0 ∧ i ≠ p)).foldl (fun m i => m * a.pe i) 1)

/-- Whether a copy uses the die-level transposer (R121). -/
def copyDie (f : TensF) (c : CopyPlan) : Bool := !copyIdentity f && c.src.survey && c.dst.survey

/-- A copy's slices counted at the transposer that carries it out (R121, R131, R132), and its staged bytes. -/
def State.countCopy (s : State) (v : Env) (f : TensF) (c : CopyPlan) : State :=
  let n := if copyIdentity f then 0 else copySlices f c.src
  let s := if n = 0 then s
    else if copyDie f c then s.inc (Reg.fdXpSlicesCount v.loc.fd) n else s.inc (Reg.stnXpSlicesCount v.loc.b) n
  if c.staged = 0 then s else s.inc (Reg.stnXpStagedBytes v.loc.b) c.staged

/-- The spans of a copy's source data: plats whole, or the tensor and its scales. -/
def State.copySpans (s : State) (k : Loc) (c : CopyPlan) : List (Nat × Nat) :=
  if c.src.layout = layPlat then (c.src.plats.zip (s.platSizes k c.src)).map (fun p => (s.dkey k p.1 0, p.2))
  else s.spansOf k c.src c.ssc

/-- The spans of a converting load's destination that it reads (R152, R228): a plat's header, mask and given scales, or the
given scale tensor. -/
def State.cvldGiven (s : State) (k : Loc) (c : CopyPlan) : List (Nat × Nat) :=
  if c.dst.layout = layPlat then s.platAll k c.dst (s.platHdr k c.dst) false true false
  else match c.dsc with
    | some t => (t.memRuns false).map (fun r => (s.dkey k t r.1, r.2))
    | none => []

/-- What an overlapping copy leaves in its staging region (R127): each byte of its footprint its earlier value or a byte of
the source data, by a free choice (log 5). -/
def State.stageWrites (s : State) (k : Loc) (c : CopyPlan) : List (Nat × Byte) :=
  match c.stage with
  | none => []
  | some g =>
    let data := (s.copySpans k c).flatMap (fun x => s.bytesAt x.1 x.2)
    match runBounds (g.memRuns false) with
    | none => []
    | some (lo, hi) => (List.range (hi - lo).toNat).map (fun i =>
        let j := Config.stagingPick s.freeCtr i % (data.length + 1)
        let a := s.dkey k g (lo + i)
        (a, if j = 0 then s.byteAt a else data.getD (j - 1) 0))

/-- Destination codewords of a tensor whose source element, as `spans` names it, is poisoned (R298). -/
def State.poisonCws (s : State) (k : Loc) (d : Desc) (spans : List Nat → List (Nat × Nat)) : List Nat :=
  s.cwsOf k d ((coordsOf [d.e 0, d.e 1, d.e 2, d.e 3, d.e 4]).filter (fun c => (s.poisoned (spans c)).isSome))

/-- Bytes copied as they stand, with the destination codewords their poison reaches. -/
def State.rawCopy (s : State) (src dst n : Nat) : List (Nat × Byte) × List Nat :=
  (spread dst (s.bytesAt src n),
   ((List.range n).filter (fun i => (s.poisonAt (src + i) 1).isSome)).map (fun i => (dst + i) / 32) |>.eraseDups)

/-- The spans of the plat headers that operand D[j] addresses within its bounds: an instruction's checks read them (R134,
R228), so those in another module are fetched first. A header that may not be accessed is left to the checks. -/
def State.platHeads (s : State) (v : Env) (u : Use) (j : Nat) : List (Nat × Nat) :=
  let d := match s.bound v (s.desc v.loc.b j) with | .ok (d, _) => d | .error _ => s.desc v.loc.b j
  if d.layout ≠ layPlat ∨ !d.survey then []
  else (d.plats.filter (fun p => (s.runCheck v u p.survey p.base [(0, 64)]).isNone)).map (fun p => (s.dkey v.loc p 0, 64))

/-- An instruction whose checks read plat headers: it has not issued, or its engine waits, until those of other modules are
here (R129, R200). -/
def withHeads (v : Env) (s : State) (heads : List (Nat × Nat)) (f : State → Res) : Res :=
  if s.remoteHere heads then f s else if v.queued then .wait (s.ask v heads) else .hold (s.ask v heads)

/-- The byte writes and poisoned destination codewords of a COPY (R117, R118, R119, R298). Where a pad makes the elements
of a destination group come from two source groups, R119 does not say which scale it takes: that of its first element's
group, 0x7F when that element is padding (DESIGN CHOICE, log 213). -/
def copyWrites (f : TensF) (c : CopyPlan) (k : Loc) (s : State) : List (Nat × Byte) × List Nat :=
  let a := c.src
  let b := c.dst
  if a.layout = layPlat then
    (a.plats.zip b.plats).foldl (fun acc x =>
      let r := s.rawCopy (s.dkey k x.1 0) (s.dkey k x.2 0) (s.platHdr k x.1).size
      (acc.1 ++ r.1, acc.2 ++ r.2)) ([], [])
  else if a.layout = layBitmap then s.rawCopy (s.dkey k a 0) (s.dkey k b 0) (bitmapBytes (a.e 0) (a.e 1))
  else
    let vals := s.packTensor k b true (fun d => some (s.rawAt k a (copySrc f a d)))
    let pz := s.poisonCws k b (fun d => s.touched k a none (copySrc f a d))
    match c.dsc with
    | none => (vals, pz)
    | some t =>
      let first := fun (g : List Nat) => copySrc f a (g.set b.redAxis (g.getD b.redAxis 0 * b.g))
      let sc := s.packTensor k t true (fun g => some (s.scaleAt k a c.ssc (first g)))
      let spz := s.poisonCws k t (fun g => (s.touched k a c.ssc (first g)).drop ((s.touched k a none (first g)).length))
      (vals ++ sc, pz ++ spz)

/-- The group exponent at a destination coordinate: 0 unscaled, else read as given (R228). -/
def State.givenExp (s : State) (k : Loc) (b : Desc) (bsc : Option Desc) (c : List Nat) : Option Int :=
  match bsc with
  | none => some 0
  | some t => scaleExp (s.stored k t (b.scaleCoord (c.map (fun (x : Nat) => (x : Int)))))

/-- The source element of a converting load at a destination coordinate, converted (R228). -/
def cvldElem (f : TensF) (c : CopyPlan) (k : Loc) (s : State) (fmt : Nat) (x : Option Int) (d : List Nat) : Cvt :=
  cvtElem fmt c.dst.zp x (s.valueAt k c.src c.ssc (copySrc f c.src d)) (f.m 21 2)
    (if f.m 21 2 = rndSr then s.srWord k f.slot.toNat (c.dst.linear d) else 0) (decide (f.m 23 1 = 1))

/-- The outcome of a converting load into a tensor: byte writes, poisoned codewords, NaN conversions and draws. -/
def cvldWrites (f : TensF) (c : CopyPlan) (k : Loc) (s : State) : List (Nat × Byte) × List Nat × Nat × Nat :=
  let b := c.dst
  let cs := coordsOf [b.e 0, b.e 1, b.e 2, b.e 3, b.e 4]
  let one := fun d => cvldElem f c k s b.fmt (s.givenExp k b c.dsc d) d
  (s.packTensor k b true (fun d => some (one d).raw),
   s.poisonCws k b (fun d => s.touched k c.src c.ssc (copySrc f c.src d)),
   (cs.filter (fun d => cvtCounts (s.givenExp k b c.dsc d) (one d))).length,
   if f.m 21 2 = rndSr then cs.length else 0)

/-- The outcome of a converting load through the mask of a plat (R152): byte writes, poisoned codewords, NaN
conversions, draws, and the groups read. -/
def cvldPlat (f : TensF) (c : CopyPlan) (k : Loc) (s : State) : List (Nat × Byte) × List Nat × Nat × Nat × List PlatGrp :=
  let b := c.dst
  let h := s.platHdr k b
  let expAt := fun (r p : Nat) => if h.scaled then scaleExp (s.platScale k b h r p) else some 0
  let one := fun (r p : Nat) => cvldElem f c k s h.fmt (expAt r p) (b.platCoord r p)
  let slots := (List.range h.rows).flatMap (fun r => (s.platSlots k b h r).map (fun x => (r, x.1, x.2)))
  (s.platValueWrites k b h (fun r p => (one r p).raw),
   (slots.filter (fun x => (s.poisoned (s.touched k c.src c.ssc (copySrc f c.src (b.platCoord x.1 x.2.1)))).isSome)).flatMap
     (fun x => s.platValueCws k b h x.1 x.2.2),
   (slots.filter (fun x => cvtCounts (expAt x.1 x.2.1) (one x.1 x.2.1))).length,
   (if f.m 21 2 = rndSr then b.count else 0),
   (List.range h.rows).flatMap (s.platRow k b h))

/-- Whether a word is a copy that the die-level transposer carries out (R121): the descriptors' SPACE bits decide. -/
def State.dieCopy (s : State) (k : Loc) (w : BitVec 64) : Bool :=
  let f := tensOf w
  [0x30, 0x31].contains (w.toNat / 2 ^ 56) && !copyIdentity f && (s.desc k.b f.da.toNat).survey && (s.desc k.b f.dd.toNat).survey

/-- Whether the queue of an FD's die-level transposer holds its 16 copies (R121). -/
def State.xpFull (s : State) (fd : Nat) : Bool := decide (16 ≤ (s.xpQueue.filter (fun e => e.1 = fd)).length)

/-- A copy placed in the die-level transposer's queue as it issues, and one that leaves it. -/
def State.xpJoin (s : State) (v : Env) : State := { s with xpQueue := s.xpQueue ++ [(v.loc.fd, v.loc.key)] }
def State.xpDone (s : State) (v : Env) : State := { s with xpQueue := s.xpQueue.erase (v.loc.fd, v.loc.key) }

/-- Whether a copy that `die` says is for the die-level transposer is behind another there, since they are taken one at a
time in order of issue (R121). -/
def State.xpBehind (s : State) (v : Env) (die : Bool) : Bool :=
  die && decide ((s.xpQueue.filter (fun e => e.1 = v.loc.fd)).head? ≠ some (v.loc.fd, v.loc.key))

/-- What a copy whose inputs are there does. -/
def copyApply (cvld : Bool) (f : TensF) (c : CopyPlan) (v : Env) (s : State) : Res :=
  let k := v.loc
  let fin := fun (s : State) =>
    let s := (s.countCopy v f c).shapeClamp k c.excess
    if copyDie f c then s.xpDone v else s
  let bump := fun (s : State) => if c.stage.isSome then { s with freeCtr := s.freeCtr + 1 } else s
  if cvld ∧ c.dst.layout = layPlat then
    let h := s.platHdr k c.dst
    match s.poisoned (s.cvldGiven k c) with
    | some a => .late (fin s) fcPoisonConsumed a
    | none =>
      let w := cvldPlat f c k s
      storeResP v s (s.stageWrites k c ++ w.1) w.2.1 (fun s =>
        fin (bump ((s.countCvts k w.2.2.1 w.2.2.2.1).platDrops k w.2.2.2.2)))
  else if cvld then
    let w := cvldWrites f c k s
    let bad := match c.dsc with
      | some t => s.poisonCws k c.dst (fun d =>
          [(s.dkey k t (t.container (c.dst.scaleCoord (d.map (fun (x : Nat) => (x : Int))))).1, 1)])
      | none => []
    storeResP v s (s.stageWrites k c ++ w.1) (w.2.1 ++ bad) (fun s => fin (bump (s.countCvts k w.2.2.1 w.2.2.2)))
  else
    let w := copyWrites f c k s
    storeResP v s (s.stageWrites k c ++ w.1) w.2 (fun s => fin (bump s))

/-- COPY and CVLD: checks, then the copy once its transposer and its inputs are there. -/
def bodyMove (cvld : Bool) (f : TensF) (v : Env) (s : State) : Res :=
  let used := uDD + uDA + (if f.m 20 1 = 1 then uDC else 0) + (if cvld ∧ f.m 21 2 = rndSr then uSLOT else 0)
  if !f.okFor used (if cvld then 2 ^ 24 - 1 else 2 ^ 21 - 1) then .illegal
  else match copyOps cvld f v s with
  | .error e => .flt e
  | .ok _ =>
    withHeads v s (s.platHeads v .read f.da.toNat ++ (if cvld then s.platHeads v .write f.dd.toNat else [])) (fun s =>
      match copyCheck cvld f v s with
      | .error e => .flt e
      | .ok c =>
        if s.xpBehind v (copyDie f c) then .wait s
        else withInputs v s (s.copySpans v.loc c ++ (if cvld then s.cvldGiven v.loc c else [])) (copyApply cvld f c v))

/-- A copy that faults in its checks: counted in STN_XP_FAULTS (R131), and out of the die-level transposer's queue. -/
def State.copyFaulted (s : State) (v : Env) (c : Nat) : State :=
  let s := if c = fcCopyOverlap then s.inc (Reg.stnXpFaultsOverlap v.loc.b)
    else if c = fcCopyTooLarge then s.inc (Reg.stnXpFaultsTooLarge v.loc.b)
    else if c = fcLayoutInvalid then s.inc (Reg.stnXpFaultsLayout v.loc.b) else s
  if v.queued ∧ s.dieCopy v.loc v.word then s.xpDone v else s

/-- A copy as it issues: its early faults counted (R131); one for the die-level transposer takes its place in the queue
there, and stalls its station, counted, while that is full (R121); then as any instruction of the move engine. -/
def goCopy (body : Env → State → Res) (v : Env) (s : State) : State :=
  match body v s with
  | .early c i => (s.copyFaulted v c).faultAt v false c i
  | .hold s => s
  | _ =>
    if !s.dieCopy v.loc v.word ∨ (s.stn v.loc).engFull engMov then goEng engMov body v s
    else if s.xpFull v.loc.fd then s.inc (Reg.fdXpStallCount v.loc.fd)
    else goEng engMov body v (s.xpJoin v)

/-- COPY (R123, R228). -/
def bodyCopy (f : TensF) (v : Env) (s : State) : Res := bodyMove false f v s

/-- COPY (R228). -/
def execCopy (stn : BitVec 11) (f : TensF) (s : State) : Out := .next (s.issue stn (tensWord 0x30 f) (goCopy (bodyCopy f)))

/-- CVLD (R228). -/
def bodyCvld (f : TensF) (v : Env) (s : State) : Res := bodyMove true f v s

/-- CVLD (R228). -/
def execCvld (stn : BitVec 11) (f : TensF) (s : State) : Out := .next (s.issue stn (tensWord 0x31 f) (goCopy (bodyCvld f)))

/-- Whether a descriptor is that of one tile image (R229). -/
def tileImage (d : Desc) : Bool :=
  decide (d.fmt = fLa192) && decide (d.layout = layTile1664) && decide (d.ext = [64, 16, 1, 1, 1]) && !d.padded

/-- What a lock names beside a LASUM's handle (R92): a transfer the tile is being sent in, and a TLD that loads it. -/
def lockSent : Nat := 256
def lockLoad : Nat := 257

/-- An instruction that targets a locked tile waits, counted in MA_STALL_TILE (R92); none when the tile is free. -/
def State.tileLocked (s : State) (k : Loc) (t : Nat) : Option State :=
  if ((s.stn k).tile t).lockedBy.isSome then some (s.inc (Reg.maStallTileCount k.b)) else none

/-- An instruction that would convert, store or send a tile that still expects a chain input waits, counted in
MA_CHAIN_WAIT (R102). -/
def State.tileExpects (s : State) (k : Loc) (t : Nat) : Option State :=
  if 0 < ((s.stn k).tile t).expect then some (s.inc (Reg.maChainWaitCount k.b)) else none

/-! ## The chain-in buffer (R101, R104) -/

/-- A chain transfer added to the tile it is for (R61, R62, R99). -/
def chainAdd (t : Tile) (x : ChainXfer) : Tile :=
  let el := (List.range 1024).foldl (fun el i =>
    Sparse.set (fun _ => LA.zero) el i
      ((Sparse.get (fun _ => LA.zero) t.el i).add (Sparse.get (fun _ => LA.zero) x.el i))) t.el
  let t := { t with el := el, expect := t.expect - 1 }
  let t := t.addTerms x.terms
  { t with tl := t.tl || x.tl }

/-- The chain-in buffer served (R101): a transfer whose tile expects inputs is matched by CHAIN_ID, added once the tile
has been opened and no lock stands, or discarded with CHAIN_UNEXPECTED, late (R104). A wait on a lock counts in
MA_STALL_TILE (R92). -/
def State.chainServe (s : State) (k : Loc) : State :=
  let t := s.stn k
  match t.chainBuf with
  | none => s
  | some x =>
    let d := t.tile x.destTile
    if d.expect = 0 then s
    else if d.chainId ≠ x.chainId then
      (s.updStn k (fun t => { t with chainBuf := none })).stnFault k true fcChainUnexpected
        (x.chainId.toNat + x.destTile * 2 ^ 16) 0 (s.pcOf k)
    else if d.lockedBy.isSome then s.inc (Reg.maStallTileCount k.b)
    else if !d.opened then s
    else (s.putTile k x.destTile (chainAdd d x) (d.passesLimit x.terms || x.tl)).updStn k (fun t => { t with chainBuf := none })

/-- A tile's lock ended, and the chain-in buffer that may have waited for it served (R92, R101). -/
def State.unlockTile (s : State) (k : Loc) (t : Nat) : State :=
  (s.updStn k (fun x => x.setTile t { x.tile t with lockedBy := none })).chainServe k

/-- TLD: a tile loaded from memory, locked from its first request on, count and TL from S[SX] (R92, R229). -/
def bodyTld (f : TensF) (v : Env) (s : State) : Res :=
  let k := v.loc
  let ts := f.ts.toNat
  if !f.okFor (uDA + uTS + uSX) 0 then .illegal
  else match s.useDesc v .read f.da.toNat with
    | .error e => .flt e
    | .ok (d, _, x) =>
      if !tileImage d then .early fcLayoutInvalid d.num
      else match (if ((s.stn k).tile ts).lockedBy = some lockLoad then none else s.tileLocked k ts) with
        | some s => .wait s
        | none =>
          let s := s.updStn k (fun t => t.setTile ts { t.tile ts with lockedBy := some lockLoad })
          withInputs v s (s.spansOf k d none) (fun s =>
            let old := (s.stn k).tile ts
            let addr := fun (i : Nat) => s.dkey k d (d.container [i % 64, i / 64, 0, 0, 0]).1
            let el := (List.range 1024).foldl (fun el i =>
              if (s.poisonAt (addr i) 32).isSome then el
              else Sparse.set (fun _ => LA.zero) el i (LA.decode (s.natAt (addr i) 32))) old.el
            let sv := s.sreg k.b f.sx.toNat
            let t : Tile := { old with
              el := el, terms := if f.sx = 0 then 0 else sv % 2 ^ 32, tl := f.sx ≠ 0 && bitOf sv 32, skip := 0, opened := true
              lockedBy := none }
            let s' := ((s.updStn k (fun x => x.setTile ts t)).shapeClamp k x).chainServe k
            match s.poisoned ((List.range 1024).map (fun i => (addr i, 32))) with
            | some a => .late s' fcPoisonConsumed a
            | none => .ok s')

/-- TLD (R229). -/
def execTld (stn : BitVec 11) (f : TensF) (s : State) : Out := .next (s.issue stn (tensWord 0x32 f) (goEng engMov (bodyTld f)))

/-- TST: a tile stored to memory, its count and TL to S[SX] (R229); it waits while the tile is locked or expects an
input. -/
def bodyTst (f : TensF) (v : Env) (s : State) : Res :=
  let k := v.loc
  let ts := f.ts.toNat
  if !f.okFor (uDD + uTS + uSX) 0 then .illegal
  else match s.useDesc v .write f.dd.toNat with
    | .error e => .flt e
    | .ok (d, _, x) =>
      if !tileImage d then .early fcLayoutInvalid d.num
      else match s.tileLocked k ts with
        | some s => .wait s
        | none =>
          match s.tileExpects k ts with
          | some s => .wait s
          | none =>
            let t := (s.stn k).tile ts
            storeRes v s (s.packTensor k d true (fun c => some (t.at (c.getD 1 0) (c.getD 0 0)).encode)) (fun s =>
              (s.setS k.b f.sx.toNat (t.terms % 2 ^ 32 + (if t.tl then 2 ^ 32 else 0)) true).shapeClamp k x)

/-- TST (R229). -/
def execTst (stn : BitVec 11) (f : TensF) (s : State) : Out := .next (s.issue stn (tensWord 0x33 f) (goEng engMov (bodyTst f)))

/-- Any matrix-engine instruction but MPASS ends what HOLD may use (R234). -/
def State.noSlab (s : State) (k : Loc) : State := s.updStn k (fun t => { t with slab := none })

/-- TCLR: a tile cleared, its chain expectation kept (R230). -/
def bodyTclr (f : TensF) (v : Env) (s : State) : Res :=
  let k := v.loc
  if !f.okFor uTS 0 then .illegal
  else match s.tileLocked k f.ts.toNat with
    | some s => .wait s
    | none => .ok (((s.updStn k (fun t => t.setTile f.ts.toNat (t.tile f.ts.toNat).clear)).noSlab k).chainServe k)

/-- TCLR (R230). -/
def execTclr (stn : BitVec 11) (f : TensF) (s : State) : Out :=
  .next (s.issue stn (tensWord 0x34 f) (goEng engMat (bodyTclr f)))

end Sys2Proof.Machine
end

