-- ==== Sys2Proof/Machine/Matrix.lean ====
section
/-! DEFINITION. The matrix arrays: operands on the grid (R51 to R55), passes into accumulator tiles (R56 to R62, R86 to R98),
MPASS, MELEM, and chaining with CHIN and CHOUT (R99 to R106, R231 to R236, R597). -/

namespace Sys2Proof.Machine

/-- An operand element as the arrays take it: the grid values of its limbs, the exponents s + f they carry (R59), its
non-finite bit (R55), and whether its group's scale is 0xFF (R81). A grid format has one limb. -/
structure GEl where
  hi : Int
  lo : Int
  eh : Int
  el : Int
  nf : Bool
  ff : Bool
  deriving DecidableEq, Repr

/-- The grid value and grid exponent of an encoding of a grid format (R51). -/
def gridOf (f zp raw : Nat) : Int × Int :=
  match decodeVal f zp raw with
  | .fin n m e =>
    let fx : Int := if f = fFp4 then -1 else if f = fE2m3 then -3 else 0
    let v := m * 2 ^ (e - fx).toNat
    (if n then -(v : Int) else v, fx)
  | _ => (0, 0)

/-- Sign, significand and exponent of a finite element of a limb format (R52); none for NaN and Inf. -/
def limbDec (f raw : Nat) : Option (Bool × Nat × Int) :=
  match fpFmt f with
  | none => none
  | some p =>
    if (decodeFp p raw).nonfinite then none
    else
      let m := raw % 2 ^ p.mbits
      let e := raw / 2 ^ p.mbits % 2 ^ p.ebits
      let neg := bitOf raw (p.mbits + p.ebits)
      if e = 0 then some (neg, m * 2 ^ (7 - p.mbits), 1 - (p.bias : Int))
      else some (neg, 2 ^ 7 + m * 2 ^ (7 - p.mbits), (e : Int) - p.bias)

/-- xmax of a group (R52). -/
def xmaxOf (f : Nat) (raws : List Nat) : Int :=
  (raws.foldl (fun acc r =>
    match limbDec f r with
    | some (_, sig, x) => if sig = 0 then acc else match acc with | none => some x | some m => some (max m x)
    | none => acc) (none : Option Int)).getD 0

/-- The unbiased exponent of a scale; 0 for 0xFF, whose group enters as zero (R55, R59). -/
def scaleS (e : Nat) : Int := if e = 0xFF then 0 else (e : Int) - 127

/-- An element on the grid: its format, encoding, scale byte and the xmax of its alignment group (R51 to R55). -/
def gel (f zp raw scale : Nat) (xmax : Int) : GEl :=
  let s := scaleS scale
  if fmtLimb f then
    let eh := s + xmax - 7
    let el := s + xmax - 15
    match limbDec f raw with
    | none => ⟨0, 0, eh, el, true, decide (scale = 0xFF)⟩
    | some (neg, sig, x) =>
      if scale = 0xFF then ⟨0, 0, eh, el, true, true⟩
      else
        let sh := (xmax - x).toNat
        let a := if sh < 16 then sig * 256 / 2 ^ sh else 0
        let hi : Int := (a / 256 : Nat)
        let lo : Int := (a % 256 : Nat)
        ⟨if neg then -hi else hi, if neg then -lo else lo, eh, el, false, false⟩
  else
    let g := gridOf f zp raw
    if scale = 0xFF then ⟨0, 0, s + g.2, 0, true, true⟩ else ⟨g.1, 0, s + g.2, 0, false, false⟩

/-- The value a limb selection takes from an element. -/
def GEl.v (x : GEl) (lo : Bool) : Int := if lo then x.lo else x.hi
def GEl.e (x : GEl) (lo : Bool) : Int := if lo then x.el else x.eh

/-! ## Operands -/

/-- Whether a format may be an activation, and a weight (R51). -/
def actFmt (f : Nat) : Bool := fmtGrid f || fmtLimb f
def wgtFmt (f : Nat) : Bool := (fmtGrid f || fmtLimb f) && decide (f ≠ fUint8)

/-- Limbs an operand is taken with (R54, R231). -/
def limbCount (f : Nat) (bit : Nat) : Nat := if fmtLimb f ∧ bit = 1 then 2 else 1

/-- Limb combinations in order (R89): low-limb flags of activation and weight. -/
def limbCombos (na nb : Nat) : List (Bool × Bool) :=
  [(false, false), (false, true), (true, false), (true, true)].filter (fun c => (!c.1 || na = 2) && (!c.2 || nb = 2))

/-- The output axis of a data operand (R232): the first axis but RED_AXIS with an extent above 1, else one of extent 0,
else the lowest. -/
def Desc.outAxis (d : Desc) : Nat :=
  let rest := (List.range 5).filter (· ≠ d.redAxis)
  match rest.find? (fun a => decide (1 < d.pe a)) with
  | some a => a
  | none => (rest.find? (fun a => d.pe a = 0)).getD (rest.headD 0)

/-- The checks of R232 on a data operand's space and layout. -/
def dataLayout (d : Desc) : Option Flt :=
  if d.survey ∨ 2 < d.layout then some (fcLayoutInvalid, d.num) else none

/-- The check of R232 on its axes. -/
def dataAxes (d : Desc) : Option Flt :=
  if (List.range 5).any (fun a => decide (a ≠ d.redAxis) && decide (a ≠ d.outAxis) && decide (d.pe a ≠ 1)) then
    some (fcLayoutInvalid, d.num)
  else none

/-- The check of R49 and R51 on an operand's format in its role. -/
def roleCheck (d : Desc) (weight : Bool) : Option Flt :=
  if (if weight then !wgtFmt d.fmt || d.zpEn else !actFmt d.fmt) then some (fcFmtInvalid, d.num) else none

/-- A pass that would straddle a scale or alignment group (R57, R96): its reduction start is not aligned to the pass
depth, or the groups are smaller than the pass. -/
def groupAlign (d : Desc) (depth : Nat) : Option Flt :=
  if (d.scaled || fmtLimb d.fmt) ∧ (d.pb d.redAxis % depth ≠ 0 ∨ d.g < depth) then some (fcFmtInvalid, d.num) else none

/-- The coordinate of output index `o` and reduction position `p` of a data operand. -/
def Desc.gridCoord (d : Desc) (o p : Nat) : List Int :=
  (List.range 5).map (fun a =>
    if a = d.redAxis then (p : Int) - d.pb a else if a = d.outAxis then (o : Int) - d.pb a else -(d.pb a : Int))

/-- Elements of one output index of a dense operand along its reduction axis, padding included (R79, R116). -/
def State.gridRow (s : State) (k : Loc) (d : Desc) (sc : Option Desc) (o kk : Nat) : List GEl :=
  let coord := d.gridCoord o
  let grp := fun (p : Nat) => ((p : Int) - d.pb d.redAxis) / (d.g : Int)
  let raws := (List.range kk).map (fun p => (p, s.rawAt k d (coord p)))
  raws.map (fun x =>
    let xm := if fmtLimb d.fmt then xmaxOf d.fmt ((raws.filter (fun y => grp y.1 = grp x.1)).map (·.2)) else 0
    gel d.fmt d.zp x.2 (s.scaleAt k d sc (coord x.1)) xm)

/-- The spans that a read of some reduction positions of `m` rows touches, with their scales: a limb element is read with
the whole of its alignment group (R52). -/
def State.gridSpansAt (s : State) (k : Loc) (d : Desc) (sc : Option Desc) (m kk : Nat) (ps : List Nat) : List (Nat × Nat) :=
  let grp := fun (p : Nat) => ((p : Int) - d.pb d.redAxis) / (d.g : Int)
  let gs := (ps.map grp).eraseDups
  let met := if fmtLimb d.fmt then (List.range kk).filter (fun p => gs.contains (grp p)) else ps
  (List.range m).flatMap (fun o => met.flatMap (fun p => s.touched k d sc (d.gridCoord o p)))

/-- The spans a dense operand's read touches, with its scales. -/
def State.gridSpans (s : State) (k : Loc) (d : Desc) (sc : Option Desc) : List (Nat × Nat) := s.spansOf k d sc

/-! ## Passes -/

/-- Partial, term exponent and non-finite bit of one pass at one output element (R55, R56, R59): `none` is a weight
that is never multiplied. -/
def passTerm (la lb : Bool) (aw : List (GEl × Option GEl)) : Int × Int × Bool :=
  aw.foldl (fun acc x =>
    match x.2 with
    | none => acc
    | some w => (acc.1 + x.1.v la * w.v lb, x.1.e la + w.e lb, acc.2.2 || x.1.nf || w.nf)) (0, 0, false)

/-- Whether column `n` lies in a skipped sub-tile (R162). -/
def colSkipped (mask : BitVec 4) (n : Nat) : Bool := bitOf mask.toNat (n / 16)

/-- A term with its non-finite bit added into element (m, n) of a tile; counts clamps (R55, R59 to R61). -/
def addTermAt (m n : Nat) (x : Int × Int × Bool) (acc : Tile × Nat) : Tile × Nat :=
  if x.1 = 0 ∧ !x.2.2 then acc
  else
    let p := promote x.1 x.2.1
    (acc.1.put m n ((acc.1.at m n).addTerm p.1 p.2 x.2.2), acc.2 + (if p.2 then 1 else 0))

/-- One pass over activation rows and weight columns (R78, R88, R162): the tile after it and the terms clamped. -/
def onePass (la lb : Bool) (p0 depth : Nat) (a : List (List GEl)) (w : List (List (Option GEl))) (acc : Tile × Nat) : Tile × Nat :=
  a.zipIdx.foldl (fun acc r =>
    w.zipIdx.foldl (fun acc c =>
      if colSkipped acc.1.skip c.2 then acc
      else addTermAt r.2 c.2 (passTerm la lb (((r.1.drop p0).take depth).zip ((c.1.drop p0).take depth))) acc) acc) acc

/-- Pass starts of a reduction of `kk` positions. -/
def passStarts (kk depth : Nat) : List Nat := (List.range ((kk + depth - 1) / depth)).map (· * depth)

/-- What the passes of an instruction give: the tile, passes run, terms clamped, non-finite elements met, passes
skipped, and whether the term count passed its limit (R62). -/
structure PassOut where
  tile : Tile
  passes : Nat
  clamps : Nat
  nonfin : Nat
  skipped : Nat
  limit : Bool

/-- The passes of an instruction (R89, R148, R162, R233). A non-finite element counts once an instruction in
STN_ARITH_NONFIN, whatever the number of limb combinations it enters (log 246, DEDUCED). -/
def runPasses (na nb depth kk : Nat) (a : List (List GEl)) (w : List (List (Option GEl))) (empty : Nat → Bool) (t : Tile) :
    PassOut :=
  let combos := limbCombos na nb
  let starts := passStarts kk depth
  let live := starts.filter (fun p => !empty p)
  let r := combos.foldl (fun acc c => live.foldl (fun acc p0 => onePass c.1 c.2 p0 depth a w acc) acc) (t, 0)
  let cols := (w.zipIdx.filter (fun c => !colSkipped t.skip c.2)).map (·.1)
  let met := live.flatMap (fun p0 => (List.range (min depth (kk - p0))).map (p0 + ·))
  let an := (a.map (fun row => (met.filter (fun q =>
    ((row[q]?.map (·.nf)).getD false) && cols.any (fun cl => ((cl[q]?.getD none).isSome)))).length)).foldl (· + ·) 0
  let wn := if a = [] then 0
    else (cols.map (fun cl => (met.filter (fun q => ((cl[q]?.getD none).map (·.nf)).getD false)).length)).foldl (· + ·) 0
  let n := live.length * combos.length
  ⟨if n = 0 then r.1 else { r.1.addTerms n with opened := true }, n, r.2, an + wn, (starts.length - live.length) * combos.length,
    t.passesLimit n⟩

/-! ## Feeder queues and weight registers (R80 to R84) -/

/-- A row feeder queue entry (R80): up to four grid values V0 to V3 with their non-finite bits, COUNT, and LAST. -/
def feedEntry (vs : List (Int × Bool)) (last : Bool) : BitVec 48 :=
  BitVec.ofNat 48 (vs.zipIdx.foldl (fun acc x =>
      acc + (x.1.1 % 512).toNat * 2 ^ (9 * x.2) + (if x.1.2 then 2 ^ (36 + x.2) else 0)) 0
    + (if vs.length ≤ 1 then 0 else if vs.length = 2 then 1 else 3) * 2 ^ 40 + (if last then 2 ^ 42 else 0))

/-- An exponent queue entry (R81): EA signed in [11:0], the 0xFF mark in [12]. -/
def expEntry (ea : Int) (ff : Bool) : BitVec 16 := BitVec.ofNat 16 ((ea % 4096).toNat + (if ff then 4096 else 0))

/-- What the feeder writes in one handshake (R82): an entry for each of the 16 queues and one for the exponent queue, and
the handshake in which its activation row would meet PE row 0 (R86, R87). -/
structure FeedRow where
  meets : Nat
  rows : List (BitVec 48)
  exp : BitVec 16

/-- The feeder's entries for one activation row of a pass over positions from `p0` on, `per` values to an entry; unused PE
rows get zeros with clear non-finite bits (R88). -/
def feedRow (lo : Bool) (per p0 : Nat) (row : List GEl) (last : Bool) (meets : Nat) : FeedRow :=
  { meets := meets
    rows := (List.range 16).map (fun r => feedEntry ((List.range per).map (fun i =>
      match row[p0 + per * r + i]? with
      | some x => (x.v lo, x.nf)
      | none => (0, false))) last)
    exp := match row[p0]? with
      | some x => expEntry (x.e lo) x.ff
      | none => 0 }

/-- The matrix passes of one instruction: FP4 mode, a sparse pass (R95), HOLD (R84), limbs of both operands, dense pass
depth, reduction extent, activation rows, weight columns by position, the weight slots of each column with their position
codes, and the pass starts skipped under a tile bitmap (R148). Slots follow the reduction: one for each position, or
G / 2 for each plat group of a sparse pass (R144, R145). -/
structure PassSeq where
  fp4 : Bool
  sparse : Bool
  hold : Bool
  na : Nat
  nb : Nat
  depth : Nat
  kk : Nat
  a : List (List GEl)
  w : List (List (Option GEl))
  ws : List (List (Option GEl × Nat))
  empty : Nat → Bool

/-- The slots of a dense pass: every position, without codes. -/
def denseSlots (w : List (List (Option GEl))) : List (List (Option GEl × Nat)) := w.map (fun c => c.map (fun x => (x, 0)))

/-- What the passes give on a tile. -/
def PassSeq.run (q : PassSeq) (t : Tile) : PassOut := runPasses q.na q.nb q.depth q.kk q.a q.w q.empty t

/-- The passes in order (R89): low-limb flags of activations and weights, and the pass start. -/
def PassSeq.passes (q : PassSeq) : List ((Bool × Bool) × Nat) :=
  (limbCombos q.na q.nb).flatMap (fun c => ((passStarts q.kk q.depth).filter (fun p => !q.empty p)).map (fun p => (c, p)))

/-- The weight slots a pass loads (R83, R145); the columns of a skipped sub-tile get null weights (R162). -/
def PassSeq.slots (q : PassSeq) (mask : BitVec 4) (p0 : Nat) : List (List (Option GEl × Nat)) :=
  q.ws.zipIdx.map (fun c =>
    if colSkipped mask c.2 then []
    else if q.sparse then (c.1.drop (p0 / 2)).take (q.depth / 2) else (c.1.drop p0).take q.depth)

/-- A weight register as R523 packs it: two values, their non-finite bits and their position codes (R83). -/
def wregWord (lb : Bool) (x y : Option (Option GEl × Nat)) : BitVec 64 :=
  let val := fun (x : Option (Option GEl × Nat)) => match x with
    | some (some e, code) => ((e.v lb % 512).toNat, if e.nf then 1 else 0, code % 16)
    | _ => (0, 0, 0)
  let a := val x
  let b := val y
  BitVec.ofNat 64 (a.1 + 2 ^ 9 * b.1 + 2 ^ 18 * a.2.1 + 2 ^ 19 * b.2.1 + 2 ^ 20 * a.2.2 + 2 ^ 24 * b.2.2)

/-- The weight registers of a slab (R83, R523): register (array, PE row, column) at (array × 16 + row) × 16 + column; PE
row r holds slot r of its column, or slots 2r and 2r + 1 in FP4 mode. Unused columns hold zero weights (R88). -/
def slabRegs (fp4 lb : Bool) (slots : List (List (Option GEl × Nat))) : Sparse (BitVec 64) :=
  ((List.range 1024).map (fun i =>
    let col := slots.getD (16 * (i / 256) + i % 16) []
    let r := i / 16 % 16
    (i, if fp4 then wregWord lb (col[2 * r]?) (col[2 * r + 1]?) else wregWord lb (col[r]?) none))).filter
      (fun (e : Nat × BitVec 64) => decide (e.2 ≠ 0))

/-- The slab of pass `i`, if there is one. -/
def PassSeq.slab (q : PassSeq) (mask : BitVec 4) (i : Nat) : Option (Sparse (BitVec 64)) :=
  (q.passes[i]?).map (fun p => slabRegs q.fp4 p.1.2 (q.slots mask p.2))

/-- The rows the feeder has written when the first pass waits at its first promotion, handshake 16 of R86: the exponent
queue, from which nothing has been taken, is full at 32 rows (R82). A pass that swaps its slab meets PE row 0 no sooner
than 16 handshakes after the one before (R87). -/
def PassSeq.fed (q : PassSeq) : List FeedRow :=
  let gap := if q.hold then q.a.length else max q.a.length 16
  ((q.passes.take 32).zipIdx.flatMap (fun p => q.a.zipIdx.map (fun r =>
    feedRow p.1.1.1 (q.depth / 16) p.1.2 r.1 (decide (r.2 + 1 = q.a.length)) (p.2 * gap + r.2)))).take 32

/-- The station while a pass waits at its first promotion for its tile's lock (R84, R92): row queue r holds the rows that
have not met PE row r, the first slab is active, and the shadow registers hold the second when there is one. -/
def State.holdPasses (s : State) (k : Loc) (mask : BitVec 4) (q : PassSeq) : State :=
  let fed := q.fed
  let act := if q.hold then none else q.slab mask 0
  let next := if q.hold then none else q.slab mask 1
  s.updStn k (fun t => { t with
    feedq := (List.range 16).map (fun r => (fed.filter (fun x => decide (16 ≤ x.meets + r))).map (fun x => x.rows.getD r 0))
    expq := fed.map (·.exp), holdPass := q.hold, shadowFull := next.isSome
    wreg := act.getD t.wreg, wshadow := (next.or act).getD t.wshadow })

/-- The feeder and exponent queues empty, no pass under way. -/
def State.emptyFeed (s : State) (k : Loc) : State :=
  s.updStn k (fun t => { t with feedq := [], expq := [], holdPass := false, shadowFull := false })

/-- The station after its passes: the queues empty (R82), and the last slab in the active registers and still in the
shadow ones it was copied from (R83, R84). -/
def State.donePasses (s : State) (k : Loc) (mask : BitVec 4) (q : PassSeq) : State :=
  let last := if q.hold then none else q.slab mask (q.passes.length - 1)
  (s.emptyFeed k).updStn k (fun t => { t with wreg := last.getD t.wreg, wshadow := last.getD t.wshadow })

/-- Slices an engine's read of a data operand passes through the station transposer (R124): those of a copy that brings
the reduction axis to axis 0 (R120), none when it lies there (DEDUCED, log 206). -/
def Desc.readSlices (d : Desc) : Nat :=
  if d.redAxis = 0 then 0
  else (d.pe 0 + 15) / 16 * ((d.pe d.redAxis + 7) / 8)
    * (((List.range 5).filter (fun i => i ≠ 0 ∧ i ≠ d.redAxis)).foldl (fun m i => m * d.pe i) 1)

/-- The slices of such a read when only some positions along the reduction axis are taken: those that hold one. -/
def Desc.readSlicesAt (d : Desc) (ps : List Nat) : Nat :=
  if d.redAxis = 0 then 0
  else (d.pe 0 + 15) / 16 * (ps.map (· / 8)).eraseDups.length
    * (((List.range 5).filter (fun i => i ≠ 0 ∧ i ≠ d.redAxis)).foldl (fun m i => m * d.pe i) 1)

/-- Slices counted in STN_XP_SLICES (R131). -/
def State.countSlices (s : State) (k : Loc) (n : Nat) : State := if n = 0 then s else s.inc (Reg.stnXpSlicesCount k.b) n

/-- The effects of passes on the station (R62, R74, R107, R168). -/
def State.finishPasses (s : State) (k : Loc) (ts : Nat) (o : PassOut) : State :=
  let s := s.putTile k ts o.tile o.limit
  let s := if o.passes = 0 then s else s.inc (Reg.maPassesPasses k.b) o.passes
  let s := if o.skipped = 0 then s else s.inc (Reg.stnSpPassSkipCount k.b) o.skipped
  ((s.countClamp k o.clamps).countNonfinite k o.nonfin).chainServe k

/-- The check of an output-skip bitmap (R232): BITMAP, in the local store. -/
def skipBitmap (f : TensF) (v : Env) (s : State) : Except Flt (Option Desc × Nat) := do
  if f.m 3 1 = 0 then .ok (none, 0)
  else
    let (d, _, x) ← s.useDesc v .read f.dc.toNat
    if d.survey ∨ d.layout ≠ layBitmap then .error (fcLayoutInvalid, d.num)
    .ok (some d, x)

/-- Four bits of sub-tile row 0 from column c0 (R162). -/
def State.skipBits (s : State) (k : Loc) (d : Desc) (c0 : Nat) : Nat :=
  (List.range 4).foldl (fun acc j =>
    acc + (if d.e 1 ≠ 0 ∧ c0 + j < (d.e 0 + 15) / 16 ∧ s.bitmapBit k d 0 (d.e 0) 0 (c0 + j) then 2 ^ j else 0)) 0

/-- The bytes of an output-skip bitmap that hold those bits. -/
def State.skipSpans (s : State) (k : Loc) (bm : Option Desc) (c0 : Nat) : List (Nat × Nat) :=
  match bm with
  | none => []
  | some d => if d.e 1 = 0 then [] else s.bitmapSpans k d 0 (d.e 0) 0 1 c0 (min (c0 + 4) ((d.e 0 + 15) / 16))

/-- The skip mask a tile has for an instruction's passes (R162). -/
def State.skipMask (s : State) (k : Loc) (ts : Nat) (bm : Option Desc) (c0 : Nat) : BitVec 4 :=
  match bm with
  | none => ((s.stn k).tile ts).skip
  | some d => BitVec.ofNat 4 (s.skipBits k d c0)

/-- A tile's skip mask read from the bitmap before the first pass, and sub-tiles skipped counted (R162, R168). -/
def State.loadSkip (s : State) (k : Loc) (ts : Nat) (bm : Option Desc) (c0 : Nat) : State :=
  match bm with
  | none => s
  | some d =>
    let m := s.skipBits k d c0
    (s.updStn k (fun t => t.setTile ts { t.tile ts with skip := BitVec.ofNat 4 m })).inc (Reg.stnSpSubSkipCount k.b) (popcount4 m)
where
  /-- Set bits of a 4-bit mask. -/
  popcount4 (m : Nat) : Nat := ((List.range 4).filter (bitOf m)).length

/-- The pass depth of a dense pass (R94, R98). -/
def denseDepth (fa fw : Nat) : Nat := if fa = fFp4 ∧ fw = fFp4 then 32 else 16

/-- What MPASS's checks settle. -/
structure MpassPlan where
  a : Desc
  asc : Option Desc
  w : Option (Desc × Option Desc)
  bm : Option Desc
  m : Nat
  n : Nat
  kk : Nat
  depth : Nat
  na : Nat
  nb : Nat
  excess : Nat

/-- The checks of an MPASS that loads its weights (R232). -/
def mpassLoad (f : TensF) (v : Env) (s : State) : Except Flt MpassPlan := do
  let (a, asc, x) ← s.useDesc v .read f.da.toNat
  orFault (dataLayout a)
  orFault (roleCheck a false)
  orFault (dataAxes a)
  let m := a.pe a.outAxis
  let kk := a.pe a.redAxis
  if 16 < m then .error (fcShapeOver, a.outAxis + (m - 16) * 2 ^ 32)
  let (w, wsc, y) ← s.useDesc v .read f.db.toNat
  orFault (dataLayout w)
  orFault (roleCheck w true)
  orFault (dataAxes w)
  let n := w.pe w.outAxis
  if 64 < n then .error (fcShapeOver, w.outAxis + (n - 64) * 2 ^ 32)
  if w.pe w.redAxis ≠ kk then .error (fcLayoutInvalid, w.num)
  let depth := denseDepth a.fmt w.fmt
  orFault (groupAlign a depth)
  orFault (groupAlign w depth)
  let (bm, z) ← skipBitmap f v s
  .ok ⟨a, asc, some (w, wsc), bm, m, n, kk, depth, limbCount a.fmt (f.m 0 1), limbCount w.fmt (f.m 1 1), x + y + z⟩

/-- What a HOLD at issue takes from the slab it will find (R234): its format, reduction extent, FP4 mode and columns. -/
structure SlabView where
  fmt : Nat
  k : Nat
  fp4 : Bool
  n : Nat

/-- The slab the matrix instructions still queued will leave active, seen from the word being checked (R234): MPASS with
one slab of one limb leaves it, HOLD keeps it, any other ends it. -/
def State.slabAhead (s : State) (v : Env) : Option SlabView :=
  let now := (s.stn v.loc).slab.map (fun sl => (⟨sl.fmt, sl.k, sl.fp4, sl.vals.length⟩ : SlabView))
  let q := (s.stn v.loc).engq.filter (fun q => q.eng = engMat)
  if v.queued then now
  else q.foldl (fun acc e =>
    let f := tensOf e.word
    if e.word.toNat / 2 ^ 56 ≠ 0x40 then none
    else if f.m 2 1 = 1 then acc
    else match mpassLoad f ⟨v.loc, v.parcel, e.leg, e.pc, e.word, false⟩ s with
      | .ok c => match c.w with
        | some (w, _) =>
          if c.kk ≤ c.depth ∧ c.nb = 1 then some ⟨w.fmt, c.kk, decide (c.depth = 32), c.n⟩ else none
        | none => none
      | .error _ => none) now

/-- The checks of MPASS (R232, R234). -/
def mpassCheck (f : TensF) (v : Env) (s : State) : Except Flt MpassPlan := do
  if f.m 2 1 = 0 then mpassLoad f v s
  else
    let (a, asc, x) ← s.useDesc v .read f.da.toNat
    orFault (dataLayout a)
    orFault (roleCheck a false)
    orFault (dataAxes a)
    let m := a.pe a.outAxis
    let kk := a.pe a.redAxis
    if 16 < m then .error (fcShapeOver, a.outAxis + (m - 16) * 2 ^ 32)
    let some sl := s.slabAhead v | .error (fcFmtInvalid, a.num)
    let depth := denseDepth a.fmt sl.fmt
    if kk ≠ sl.k ∨ depth < kk ∨ decide (depth = 32) ≠ sl.fp4 then .error (fcFmtInvalid, a.num)
    orFault (groupAlign a depth)
    let (bm, z) ← skipBitmap f v s
    .ok ⟨a, asc, none, bm, m, sl.n, kk, depth, limbCount a.fmt (f.m 0 1), 1, x + z⟩

/-- The slab an MPASS leaves active, in the form HOLD uses (R234). -/
def slabOf (fmt : Nat) (depth kk : Nat) (mask : BitVec 4) (w : List (List GEl)) : Slab :=
  let cols := w.zipIdx.map (fun c => if colSkipped mask c.2 then [] else c.1)
  { fmt := fmt, limb := fmtLimb fmt, fp4 := decide (depth = 32), k := kk,
    eb := w.map (fun c => (c.head?.map (·.eh)).getD 0), vals := cols.map (fun c => c.map (·.hi)), nf := cols.map (fun c => c.map (·.nf)) }

/-- The slab an MPASS that issues no pass leaves for HOLD (R162, R233, R234): R234's conditions are on K and B2 alone, so it
leaves one, without weights (log 256, DESIGN CHOICE). One with HOLD keeps the slab it found. -/
def State.idleSlab (s : State) (k : Loc) (c : MpassPlan) : State :=
  match c.w with
  | none => s
  | some (w, _) => s.updStn k (fun t => { t with
      slab := if c.kk ≤ c.depth ∧ c.nb = 1 then some (slabOf w.fmt c.depth c.kk 15 (List.replicate c.n [])) else none })

/-- The weight columns of a held slab. -/
def Slab.cols (sl : Slab) : List (List (Option GEl)) :=
  (sl.vals.zip (sl.nf.zip sl.eb)).map (fun c =>
    if c.1 = [] then List.replicate sl.k none else (c.1.zip c.2.1).map (fun x => some ⟨x.1, 0, c.2.2, 0, x.2, false⟩))

/-- The passes of an MPASS over its operands as they stand (R233, R234). -/
def State.mpassSeq (s : State) (k : Loc) (c : MpassPlan) : PassSeq :=
  let w := match c.w with
    | some (wd, wsc) => (List.range c.n).map (fun o => (s.gridRow k wd wsc o c.kk).map some)
    | none => match (s.stn k).slab with | some sl => sl.cols | none => []
  { fp4 := decide (c.depth = 32), sparse := false, hold := c.w.isNone, na := c.na, nb := if c.w.isSome then c.nb else 1
    depth := c.depth, kk := c.kk, a := (List.range c.m).map (fun o => s.gridRow k c.a c.asc o c.kk), w := w
    ws := denseSlots w, empty := fun _ => false }

/-- The spans an MPASS reads beside its bitmap. -/
def State.mpassSpans (s : State) (k : Loc) (c : MpassPlan) : List (Nat × Nat) :=
  s.gridSpans k c.a c.asc ++ (match c.w with | some (w, wsc) => s.gridSpans k w wsc | none => [])

/-- Whether an MPASS issues no pass for its extents (R233). -/
def MpassPlan.none? (c : MpassPlan) : Bool := decide (c.m = 0) || decide (c.n = 0) || decide (c.kk = 0)

/-- MPASS's passes, its tile free (R233, R234). -/
def mpassApply (f : TensF) (c : MpassPlan) (v : Env) (s : State) : Res :=
  let k := v.loc
  let ts := f.ts.toNat
  let q := s.mpassSeq k c
  let s := (s.shapeClamp k c.excess).emptyFeed k
  if c.none? then .ok (s.idleSlab k c)
  else
    let s := s.loadSkip k ts c.bm 0
    let t := (s.stn k).tile ts
    if t.skip = 15 then .ok (s.idleSlab k c)
    else match s.poisoned (s.mpassSpans k c) with
    | some a => .late (s.idleSlab k c) fcPoisonConsumed a
    | none =>
      let s := s.countSlices k (c.a.readSlices + (match c.w with | some (w, _) => w.readSlices | none => 0))
      let s := (s.finishPasses k ts (q.run t)).donePasses k t.skip q
      .ok (match c.w with
        | none => s
        | some (wd, _) => s.updStn k (fun x => { x with
            slab := if c.kk ≤ c.depth ∧ c.nb = 1 then some (slabOf wd.fmt c.depth c.kk t.skip (q.w.map (fun c => c.filterMap id)))
              else none }))

/-- MPASS while its tile is locked (R92): it has fed its first passes and waits at the first promotion. -/
def State.mpassHeld (s : State) (k : Loc) (ts : Nat) (c : MpassPlan) : State :=
  let mask := s.skipMask k ts c.bm 0
  if c.none? || mask = 15 || (s.poisoned (s.skipSpans k c.bm 0 ++ s.mpassSpans k c)).isSome then s
  else s.holdPasses k mask (s.mpassSeq k c)

/-- MPASS (R233): checks; then it waits for its tile's lock (R92); then its passes, unless the bitmap's poison is
consumed. -/
def bodyMpass (f : TensF) (v : Env) (s : State) : Res :=
  let hold := decide (f.m 2 1 = 1)
  let used := uDA + uTS + (if hold then 0 else uDB) + (if f.m 3 1 = 1 then uDC else 0)
  if !f.okFor used 15 then .illegal
  else match mpassCheck f v s with
    | .error e => .flt e
    | .ok c =>
      match s.tileLocked v.loc f.ts.toNat with
      | some s => .wait (s.mpassHeld v.loc f.ts.toNat c)
      | none =>
        match (if c.none? then none else s.poisoned (s.skipSpans v.loc c.bm 0)) with
        | some a => .late ((s.shapeClamp v.loc c.excess).idleSlab v.loc c) fcPoisonConsumed a
        | none => mpassApply f c v s

/-- MPASS (R233). -/
def execMpass (stn : BitVec 11) (f : TensF) (s : State) : Out :=
  .next (s.issue stn (tensWord 0x40 f) (goEng engMat (bodyMpass f)))

/-! ## Element-wise modes -/

/-- Element (m, n) of an element-wise operand: columns along axis 0, rows along axis 1. R105 gives one exponent to a tile
row of a, or a tile column of b, and does not say which where the alignment groups of an unscaled limb operand split it:
each element takes the exponent of its own group along RED_AXIS within the region (DESIGN CHOICE, log 208). -/
def State.melemEl (s : State) (k : Loc) (d : Desc) (sc : Option Desc) (m n : Nat) : GEl × Nat :=
  let coord := fun (m n : Nat) => [(n : Int) - d.pb 0, (m : Int) - d.pb 1, -(d.pb 2 : Int), -(d.pb 3 : Int), -(d.pb 4 : Int)]
  let c := coord m n
  let grp := fun (c : List Int) => (List.range 5).map (fun a => if a = d.redAxis then c.getD a 0 / (d.g : Int) else c.getD a 0)
  let xm := if fmtLimb d.fmt then
      xmaxOf d.fmt (((List.range (d.pe 1)).flatMap (fun i => (List.range (d.pe 0)).map (fun j => coord i j))).filter
        (fun x => grp x = grp c) |>.map (s.rawAt k d))
    else 0
  let e := s.scaleAt k d sc c
  (gel d.fmt d.zp (s.rawAt k d c) e xm, e)

/-- Whether every list holds one value. -/
def constLists (ls : List (List Nat)) : Bool := ls.all (fun l => l.all (fun x => x = l.headD 0))

/-- The terms of one element under a mode (R106, R597): EMUL and EMAC one per limb combination, EADD and ESUB each limb of
a, then each limb of b. -/
def melemTerms (op na nb : Nat) (a b : GEl) : List (Int × Int × Bool) :=
  let nf := a.nf || b.nf
  if op < 2 then (limbCombos na nb).map (fun c => (a.v c.1 * b.v c.2, a.e c.1 + b.e c.2, nf))
  else
    ((a.hi, a.eh, nf) :: (if na = 2 then [(a.lo, a.el, nf)] else []))
      ++ ((if op = 3 then -b.hi else b.hi, b.eh, nf) :: (if nb = 2 then [(if op = 3 then -b.lo else b.lo, b.el, nf)] else []))

/-- The checks of MELEM (R232, R235): operands and their axes, the region of one tile, equal extents. -/
def melemCheck (f : TensF) (v : Env) (s : State) : Except Flt ((Desc × Option Desc) × (Desc × Option Desc) × Nat) := do
  let (a, asc, x) ← s.useDesc v .read f.da.toNat
  let (b, bsc, y) ← s.useDesc v .read f.db.toNat
  orFault (dataLayout a)
  orFault (dataLayout b)
  orFault (roleCheck a false)
  orFault (roleCheck b true)
  orFault (dataAxes a)
  orFault (dataAxes b)
  let ovr := fun (d : Desc) => (List.range 5).findSome? (fun i =>
    let w := if i = 0 then 64 else if i = 1 then 16 else 1
    if w < d.pe i then some (fcShapeOver, i + (d.pe i - w) * 2 ^ 32) else none)
  orFault (ovr a)
  orFault (ovr b)
  if a.pexts ≠ b.pexts then .error (fcLayoutInvalid, b.num)
  .ok ((a, asc), (b, bsc), x + y)

/-- The elements of an element-wise operand, by rows. -/
def State.melemRows (s : State) (k : Loc) (d : Desc) (sc : Option Desc) : List (List (GEl × Nat)) :=
  (List.range (d.pe 1)).map (fun m => (List.range (d.pe 0)).map (fun n => s.melemEl k d sc m n))

/-- The terms of a mode added to a tile, skipped sub-tiles apart (R106, R162): the tile and the terms clamped. -/
def melemRun (op na nb : Nat) (ae be : List (List (GEl × Nat))) (t0 : Tile) : Tile × Nat :=
  (ae.zip be).zipIdx.foldl (fun acc row =>
    (row.1.1.zip row.1.2).zipIdx.foldl (fun acc e =>
      if colSkipped acc.1.skip e.2 then acc
      else (melemTerms op na nb e.1.1.1 e.1.2.1).foldl (fun acc x => addTermAt row.2 e.2 x acc) acc) acc) (t0, 0)

/-- The feeder's rows of an element-wise operation that waits at its first promotion (R92, R105): queue r holds tile
columns 4r to 4r + 3 of each tile row of operand a, in the first limb combination (log 248, DESIGN CHOICE). Operand b is not held in the shadow
registers. -/
def State.melemHeld (s : State) (k : Loc) (a : Desc) (asc : Option Desc) : State :=
  if a.pexts.any (· = 0) || (s.poisoned (s.gridSpans k a asc)).isSome then s
  else
    let rows := (s.melemRows k a asc).zipIdx.map (fun r =>
      feedRow false 4 0 (r.1.map (·.1)) (decide (r.2 + 1 = a.pe 1)) r.2)
    s.updStn k (fun t => { t with
      feedq := (List.range 16).map (fun r => (rows.filter (fun x => decide (16 ≤ x.meets + r))).map (fun x => x.rows.getD r 0))
      expq := rows.map (·.exp) })

/-- The tile an element-wise mode adds to: EMUL clears it first (R106). -/
def melemTile (op : Nat) (t : Tile) : Tile := if op = 0 then t.clear else t

/-- MELEM: an element-wise mode into a tile (R105, R106, R235, R597). A region without elements still clears the tile
under EMUL, and adds the mode's term count (R106; DEDUCED, log 207). -/
def bodyMelem (f : TensF) (v : Env) (s : State) : Res :=
  let k := v.loc
  let ts := f.ts.toNat
  let op := f.m 4 2
  if !f.okFor (uDA + uDB + uTS) 0x33 then .illegal
  else match melemCheck f v s with
    | .error e => .flt e
    | .ok ((a, asc), (b, bsc), x) =>
      match s.tileLocked k ts with
      | some s => .wait (s.melemHeld k a asc)
      | none =>
        let s := ((s.shapeClamp k x).noSlab k).emptyFeed k
        let cols := a.pe 0
        let some? := !a.pexts.any (· = 0)
        match (if some? then s.poisoned (s.gridSpans k a asc ++ s.gridSpans k b bsc) else none) with
        | some p => .late s fcPoisonConsumed p
        | none =>
          let ae := if some? then s.melemRows k a asc else []
          let be := if some? then s.melemRows k b bsc else []
          let bcols := (List.range cols).map (fun n => be.map (fun r => (r[n]?.map (·.2)).getD 0))
          if a.scaled ∧ !constLists (ae.map (fun r => r.map (·.2))) then .late s fcFmtInvalid a.num
          else if b.scaled ∧ !constLists bcols then .late s fcFmtInvalid b.num
          else
            let na := limbCount a.fmt (f.m 0 1)
            let nb := limbCount b.fmt (f.m 1 1)
            let t0 := melemTile op ((s.stn k).tile ts)
            let r := melemRun op na nb ae be t0
            let terms := if op < 2 then (limbCombos na nb).length else na + nb
            let nf := ((ae ++ be).flatMap (fun r => r.filter (fun e => e.1.nf))).length
            .ok ((s.countSlices k (if some? then a.readSlices + b.readSlices else 0)).finishPasses k ts
              ⟨{ r.1.addTerms terms with opened := true }, 0, r.2, nf, 0, r.1.passesLimit terms⟩)

/-- MELEM (R235). -/
def execMelem (stn : BitVec 11) (f : TensF) (s : State) : Out :=
  .next (s.issue stn (tensWord 0x41 f) (goEng engMat (bodyMelem f)))

/-! ## Chains -/

/-- CHIN: a tile declared to expect COUNT transfers of CHAIN_ID (R236). -/
def bodyChin (f : TensF) (v : Env) (s : State) : Res :=
  let k := v.loc
  let t := (s.stn k).tile f.ts.toNat
  if !f.okFor uTS (2 ^ 18 - 1) ∨ f.m 0 2 = 0 ∨ t.expect ≠ 0 then .illegal
  else .ok (((s.updStn k (fun x =>
    x.setTile f.ts.toNat { t with expect := f.m 0 2, chainId := BitVec.ofNat 16 (f.m 2 16) })).noSlab k).chainServe k)

/-- CHIN (R236). -/
def execChin (stn : BitVec 11) (f : TensF) (s : State) : Out :=
  .next (s.issue stn (tensWord 0x42 f) (goEng engMat (bodyChin f)))

/-- Whether a station's chain-in buffer is taken, or a transfer is on its way to it (R101). -/
def State.chainBusy (s : State) (n : Nat) : Bool :=
  s.chains.any (fun x => x.dest = n) || (match s.locate n with | some q => (s.stn q).chainBuf.isSome | none => false)

/-- CHOUT: a tile sent as a chain transfer, locked until the transfer has left (R92, R99 to R104, R236); it waits while the
tile is locked or expects an input, and while the receiver's buffer is occupied. -/
def bodyChout (f : TensF) (v : Env) (s : State) : Res :=
  let k := v.loc
  let ts := f.ts.toNat
  let d := s.sreg k.b f.sx.toNat
  let id := f.m 2 16
  if !f.okFor (uTS + uSX) (2 ^ 18 - 1) then .illegal
  else if 2 ^ 11 ≤ d then .early fcAddrInvalid d
  else if !(s.parcelFds v.parcel).contains (d / 128) then .early fcChainUnexpected (id + f.m 0 2 * 2 ^ 16)
  else match s.tileLocked k ts with
    | some s => .wait s
    | none =>
      match s.tileExpects k ts with
      | some s => .wait s
      | none =>
        if s.chainBusy d then .wait (s.inc (Reg.maStallChainCount k.b))
        else
          let t := (s.stn k).tile ts
          let p := s.portEffect k.num v.pc
          let s := p.2.noSlab k
          if p.1 then
            let s := s.updStn k (fun x => x.setTile ts { x.tile ts with lockedBy := some lockSent })
            let x : ChainXfer := ⟨k.num, ts, d, f.m 0 2, BitVec.ofNat 16 id, min t.terms (2 ^ 32 - 1), t.tl, t.el⟩
            .ok { (s.passMesh k.fd (d / 128) 0) with chains := s.chains ++ [x] }
          else .ok s

/-- CHOUT (R236). -/
def execChout (stn : BitVec 11) (f : TensF) (s : State) : Out :=
  .next (s.issue stn (tensWord 0x43 f) (goEng engMat (bodyChout f)))

end Sys2Proof.Machine
end

