-- ==== Sys2Proof/Machine/SparseOps.lean ====
section
/-! DEFINITION. The sparse instructions SPMM, SPMM.T, RECON, PRUNE and REGROW (R140 to R163, R244 to R246). -/

namespace Sys2Proof.Machine

/-! ## Sparse products -/

/-- Accepted slots of one plat row as (dense position, encoding, scale byte). -/
def State.platVals (s : State) (k : Loc) (d : Desc) (h : PlatHdr) (r : Nat) : List (Nat × Nat × Nat) :=
  (s.platSlots k d h r).map (fun x => (x.1, s.platRead k d h r x.1 x.2, s.platScale k d h r x.1))

/-- Plat row `r` as the weight column of a forward product, positions p0 to p0 + kk − 1 (R138, R141, R143, R147). -/
def State.platCol (s : State) (k : Loc) (d : Desc) (h : PlatHdr) (r p0 kk : Nat) : List (Option GEl) :=
  let vals := s.platVals k d h r
  (List.range kk).map (fun q =>
    match vals.find? (fun x => x.1 = p0 + q) with
    | none => none
    | some x =>
      let xm := if fmtLimb h.fmt then
          xmaxOf h.fmt ((vals.filter (fun y => y.1 / h.sg = x.1 / h.sg)).map (·.2.1))
        else 0
      some (gel h.fmt 0 x.2.1 x.2.2 xm))

/-- Whether a scaled plat of a floating-point format, or a limb format, enters SPMM.T as a limb operand (R151). -/
def tLimb (h : PlatHdr) : Bool := fmtLimb h.fmt || h.scaled

/-- Dense position `p` as the weight column of the transposed product, plat rows n0 to n0 + kk − 1 (R150, R151): a limb
operand aligns within each pass's rows, exponents raised by the scales. -/
def State.platColT (s : State) (k : Loc) (d : Desc) (h : PlatHdr) (p n0 kk depth : Nat) : List (Option GEl) :=
  let vals := (List.range kk).map (fun q => (s.platVals k d h (n0 + q)).find? (fun x => x.1 = p))
  vals.zipIdx.map (fun x =>
    match x.1 with
    | none => none
    | some y =>
      if !tLimb h then some (gel h.fmt 0 y.2.1 0x7F 0)
      else
        let pass := (vals.drop (x.2 / depth * depth)).take depth
        let xm := (pass.foldl (fun acc z =>
          match z with
          | none => acc
          | some z =>
            if z.2.2 = 0xFF then acc
            else match limbDec h.fmt z.2.1 with
            | some (_, sig, e) =>
              if sig = 0 then acc
              else match acc with
                | none => some (e + scaleS z.2.2)
                | some m => some (max m (e + scaleS z.2.2))
            | none => acc) (none : Option Int)).getD 0
        match limbDec h.fmt y.2.1 with
        | none => some ⟨0, 0, xm - 7, xm - 15, true, decide (y.2.2 = 0xFF)⟩
        | some (neg, sig, e) =>
          if y.2.2 = 0xFF then some ⟨0, 0, xm - 7, xm - 15, true, true⟩
          else
            let sh := (xm - (e + scaleS y.2.2)).toNat
            let a := if sh < 16 then sig * 256 / 2 ^ sh else 0
            let hi : Int := (a / 256 : Nat)
            let lo : Int := (a % 256 : Nat)
            some ⟨if neg then -hi else hi, if neg then -lo else lo, xm - 7, xm - 15, false, false⟩)

/-- The stored slots of plat row `r` as a sparse pass loads them for positions p0 to p0 + kk − 1, G / 2 to a group, with
their codes (R144, R145): dropped slots, and slots that fill a group, are null. `col` is the row's weight column. -/
def State.platSlotCol (s : State) (k : Loc) (d : Desc) (h : PlatHdr) (r p0 kk : Nat) (col : List (Option GEl)) :
    List (Option GEl × Nat) :=
  (((s.platRow k d h r).zipIdx.drop (p0 / h.g)).take ((kk + h.g - 1) / h.g)).flatMap (fun g =>
    (List.range (h.g / 2)).map (fun j =>
      match g.1.acc.find? (fun a => decide (a.2 = g.2 * h.keep + j) && decide (j < h.keep)) with
      | some a => ((col[g.2 * h.g + a.1 - p0]?).getD none, a.1)
      | none => (none, 0)))

/-- Whether SPMM runs sparse passes on a plat (R144): fixed mode that stores at most half of each group. -/
def PlatHdr.halfStored (h : PlatHdr) : Bool := !h.variableMode && decide (2 * h.keep ≤ h.g)

/-- What the checks of SPMM and SPMM.T settle. -/
structure SpmmPlan where
  a : Desc
  asc : Option Desc
  w : Desc
  bm : Option Desc
  m : Nat
  n : Nat
  kk : Nat
  n0 : Nat
  p0 : Nat
  depth : Nat
  na : Nat
  nb : Nat
  excess : Nat

/-- The checks both make on their operands (R134, R135, R151, R232, R244). -/
def spmmOperands (tr : Bool) (f : TensF) (v : Env) (s : State) : Except Flt (Desc × Option Desc × Desc × Nat) := do
  let (a, asc, x) ← s.useDesc v .read f.da.toNat
  orFault (dataLayout a)
  orFault (roleCheck a false)
  orFault (dataAxes a)
  let (w, _, y) ← s.useDesc v .read f.db.toNat
  if w.survey ∨ w.layout ≠ layPlat then .error (fcLayoutInvalid, w.num)
  orFault (s.platCheck v .read w)
  let h := s.platHdr v.loc w
  if !wgtFmt h.fmt ∨ (tr ∧ h.scaled ∧ (h.fmt = fInt8 ∨ h.fmt = fInt4)) then .error (fcFmtInvalid, w.num)
  if 16 < a.pe a.outAxis then .error (fcShapeOver, a.outAxis + (a.pe a.outAxis - 16) * 2 ^ 32)
  .ok (a, asc, w, x + y)

/-- A start or reduction beyond the plat (R244): axis 5 for rows, 6 for dense positions. -/
def platOver (axis lim last : Nat) : Option Flt := if lim < last then some (fcShapeOver, axis + (last - lim) % 2 ^ 32 * 2 ^ 32) else none

/-- The checks of SPMM (R96, R144, R149, R162, R244). -/
def spmmCheck (f : TensF) (v : Env) (s : State) : Except Flt SpmmPlan := do
  let (a, asc, w, x) ← spmmOperands false f v s
  let h := s.platHdr v.loc w
  let sx := s.sreg v.loc.b f.sx.toNat
  let n0 := sx % 2 ^ 32
  let p0 := sx / 2 ^ 32
  let kk := a.pe a.redAxis
  orFault (platOver 5 h.rows n0)
  orFault (platOver 6 h.k (p0 + kk))
  if f.m 3 1 = 1 ∧ n0 % 16 ≠ 0 then .error (fcLayoutInvalid, f.dc.toNat)
  let depth := denseDepth a.fmt h.fmt * (if h.halfStored then 2 else 1)
  if p0 % depth ≠ 0 ∨ ((h.scaled || fmtLimb h.fmt) ∧ h.sg < depth) then .error (fcFmtInvalid, w.num)
  orFault (groupAlign a depth)
  let (bm, z) ← skipBitmap f v s
  .ok ⟨a, asc, w, bm, a.pe a.outAxis, min 64 (h.rows - n0), kk, n0, p0, depth,
    limbCount a.fmt (f.m 0 1), limbCount h.fmt (f.m 1 1), x + z⟩

/-- The checks of SPMM.T (R150, R151, R244). R244 names no fault for a p0 that is no multiple of 64: FMT_INVALID, as for a
start of the reduction that is not aligned (DESIGN CHOICE, log 209). -/
def spmmTCheck (f : TensF) (v : Env) (s : State) : Except Flt SpmmPlan := do
  let (a, asc, w, x) ← spmmOperands true f v s
  let h := s.platHdr v.loc w
  let sx := s.sreg v.loc.b f.sx.toNat
  let p0 := sx % 2 ^ 32
  let n0 := sx / 2 ^ 32
  let kk := a.pe a.redAxis
  orFault (platOver 6 h.k p0)
  orFault (platOver 5 h.rows (n0 + kk))
  let depth := if tLimb h then 16 else denseDepth a.fmt h.fmt
  if p0 % 64 ≠ 0 ∨ n0 % depth ≠ 0 then .error (fcFmtInvalid, w.num)
  orFault (groupAlign a depth)
  let (bm, z) ← skipBitmap f v s
  .ok ⟨a, asc, w, bm, a.pe a.outAxis, min 64 (h.k - p0), kk, n0, p0, depth,
    limbCount a.fmt (f.m 0 1), if tLimb h ∧ f.m 1 1 = 1 then 2 else 1, x + z⟩

/-- Whether every tile of the plat that a range of rows and positions meets is marked empty (R148). -/
def State.slabEmpty (s : State) (k : Loc) (d : Desc) (h : PlatHdr) (r0 rn p0 pn : Nat) : Bool :=
  h.hasBitmap && decide (0 < rn) && decide (0 < pn)
    && (List.range ((r0 + rn - 1) / 16 - r0 / 16 + 1)).all (fun i =>
        (List.range ((p0 + pn - 1) / 16 - p0 / 16 + 1)).all (fun j => s.platEmpty k d h (r0 / 16 + i) (p0 / 16 + j)))

/-- Whether a pass of a sparse product is skipped under the plat's bitmap (R148, R150). -/
def State.spmmEmpty (s : State) (tr : Bool) (k : Loc) (c : SpmmPlan) (q : Nat) : Bool :=
  let h := s.platHdr k c.w
  let len := min c.depth (c.kk - q)
  if tr then s.slabEmpty k c.w h (c.n0 + q) len c.p0 c.n else s.slabEmpty k c.w h c.n0 c.n (c.p0 + q) len

/-- The passes of a sparse product over its operands as they stand (R144 to R151). -/
def State.spmmSeq (s : State) (tr : Bool) (k : Loc) (c : SpmmPlan) : PassSeq :=
  let h := s.platHdr k c.w
  let sparse := !tr && h.halfStored
  let w := (List.range c.n).map (fun n =>
    if tr then s.platColT k c.w h (c.p0 + n) c.n0 c.kk c.depth else s.platCol k c.w h (c.n0 + n) c.p0 c.kk)
  { fp4 := decide (c.depth = if sparse then 64 else 32), sparse := sparse, hold := false, na := c.na, nb := c.nb
    depth := c.depth, kk := c.kk, a := (List.range c.m).map (fun o => s.gridRow k c.a c.asc o c.kk), w := w
    ws := if sparse then w.zipIdx.map (fun x => s.platSlotCol k c.w h (c.n0 + x.2) c.p0 c.kk x.1) else denseSlots w
    empty := s.spmmEmpty tr k c }

/-- The plat rows, and the runs of dense positions in them, that the passes of a sparse product read: skipped passes load
no slab (R148), and the arrays of skipped sub-tiles get null weights (R162). -/
def State.spmmReads (s : State) (tr : Bool) (k : Loc) (c : SpmmPlan) (mask : BitVec 4) : List Nat × List (Nat × Nat) :=
  let live := ((passStarts c.kk c.depth).filter (fun q => !s.spmmEmpty tr k c q)).map (fun q => (q, min c.depth (c.kk - q)))
  if tr then
    (live.flatMap (fun x => (List.range x.2).map (c.n0 + x.1 + ·)),
     ((List.range 4).filter (fun j => decide (16 * j < c.n) && !bitOf mask.toNat j)).map
       (fun j => (c.p0 + 16 * j, min 16 (c.n - 16 * j))))
  else
    (((List.range c.n).filter (fun n => !colSkipped mask n)).map (c.n0 + ·), live.map (fun x => (c.p0 + x.1, x.2)))

/-- The same for a reader of the slabs' values: a limb plat's values are read with the whole of their scale group, which
aligns them (R52, R138). -/
def State.spmmWide (s : State) (tr : Bool) (k : Loc) (c : SpmmPlan) (mask : BitVec 4) : List Nat × List (Nat × Nat) :=
  let h := s.platHdr k c.w
  let rd := s.spmmReads tr k c mask
  if tr ∨ !fmtLimb h.fmt then rd
  else (rd.1, (rd.2.map (fun x => (x.1 / h.sg * h.sg, min h.sg (h.k - x.1 / h.sg * h.sg)))).eraseDups)

/-- The reduction positions of the passes that run (R148). -/
def State.spmmLive (s : State) (tr : Bool) (k : Loc) (c : SpmmPlan) : List Nat :=
  ((passStarts c.kk c.depth).filter (fun q => !s.spmmEmpty tr k c q)).flatMap (fun q =>
    (List.range (min c.depth (c.kk - q))).map (q + ·))

/-- The spans a sparse product reads beside the header and the output-skip bitmap: the activations of the passes that run,
the plat's own marks, and the slabs of those passes. -/
def State.spmmSpans (s : State) (tr : Bool) (k : Loc) (c : SpmmPlan) (mask : BitVec 4) : List (Nat × Nat) :=
  let h := s.platHdr k c.w
  let rd := s.spmmWide tr k c mask
  s.gridSpansAt k c.a c.asc c.m c.kk (s.spmmLive tr k c)
    ++ (if tr then s.platMarks k c.w h c.n0 c.kk c.p0 c.n else s.platMarks k c.w h c.n0 c.n c.p0 c.kk)
    ++ rd.1.flatMap (s.platSpans k c.w h true true rd.2)

/-- The plat groups those passes read. -/
def State.spmmGroups (s : State) (tr : Bool) (k : Loc) (c : SpmmPlan) (mask : BitVec 4) : List PlatGrp :=
  let h := s.platHdr k c.w
  let rd := s.spmmWide tr k c mask
  rd.1.flatMap (fun r =>
    let gs := s.platRow k c.w h r
    rd.2.flatMap (fun x => (gs.drop (h.groups x).1).take ((h.groups x).2 - (h.groups x).1)))

/-- Slices of the station transposer for the slabs of a sparse product (R146, R147): an expand slice carries 128 dense
positions of a row; a corner turn, stored slots by plat rows, is cut as R120 cuts a transposing copy (DEDUCED, log 206). -/
def State.spmmSlices (s : State) (tr : Bool) (k : Loc) (c : SpmmPlan) (mask : BitVec 4) : Nat :=
  let h := s.platHdr k c.w
  let rd := s.spmmReads tr k c mask
  if !tr ∧ h.halfStored then
    rd.2.foldl (fun a x => a + ((x.2 / 2 + 15) / 16) * ((rd.1.length + 7) / 8)) 0
  else rd.2.foldl (fun a x => a + rd.1.length * ((x.2 + 127) / 128)) 0

/-- Sub-tile column 0 of an instruction's output (R162). -/
def spmmC0 (tr : Bool) (c : SpmmPlan) : Nat := (if tr then c.p0 else c.n0) / 16

/-- Whether a sparse product issues no pass for its extents (R233, R244). -/
def SpmmPlan.none? (c : SpmmPlan) : Bool := decide (c.m = 0) || decide (c.n = 0) || decide (c.kk = 0)

/-- The sparse products, their tile free: the skip mask read, poison consumed, dropped slots counted, passes run. -/
def spmmApply (tr : Bool) (f : TensF) (c : SpmmPlan) (v : Env) (s : State) : Res :=
  let k := v.loc
  let ts := f.ts.toNat
  let q := s.spmmSeq tr k c
  let s := ((s.shapeClamp k c.excess).noSlab k).emptyFeed k
  if c.none? then .ok s
  else match s.poisoned (s.skipSpans k c.bm (spmmC0 tr c)) with
  | some p => .late s fcPoisonConsumed p
  | none =>
    let s := s.loadSkip k ts c.bm (spmmC0 tr c)
    let t := (s.stn k).tile ts
    if t.skip = 15 then .ok s
    else match s.poisoned (s.spmmSpans tr k c t.skip) with
    | some p => .late s fcPoisonConsumed p
    | none =>
      let s := (s.platDrops k (s.spmmGroups tr k c t.skip)).countSlices k
        (c.a.readSlicesAt (s.spmmLive tr k c) + s.spmmSlices tr k c t.skip)
      .ok ((s.finishPasses k ts (q.run t)).donePasses k t.skip q)

/-- A sparse product while its tile is locked (R92): it has fed its first passes and waits at the first promotion. -/
def State.spmmHeld (s : State) (tr : Bool) (k : Loc) (ts : Nat) (c : SpmmPlan) : State :=
  let mask := s.skipMask k ts c.bm (spmmC0 tr c)
  if c.none? || mask = 15
      || (s.poisoned (s.skipSpans k c.bm (spmmC0 tr c) ++ s.spmmSpans tr k c mask)).isSome then s
  else s.holdPasses k mask (s.spmmSeq tr k c)

/-- SPMM and SPMM.T: checks, the tile's lock (R92), the product. -/
def bodySpmmOf (tr : Bool) (f : TensF) (v : Env) (s : State) : Res :=
  if !f.okFor (uDA + uDB + uTS + uSX + (if f.m 3 1 = 1 then uDC else 0)) 0xB then .illegal
  else match (if tr then spmmTCheck f v s else spmmCheck f v s) with
    | .error e => .flt e
    | .ok c =>
      match s.poisoned [(s.dkey v.loc c.w 0, 64)] with
      | some p => .late (s.noSlab v.loc) fcPoisonConsumed p
      | none =>
        match s.tileLocked v.loc f.ts.toNat with
        | some s => .wait (s.spmmHeld tr v.loc f.ts.toNat c)
        | none => spmmApply tr f c v s

/-- SPMM (R144). -/
def bodySpmm (f : TensF) (v : Env) (s : State) : Res := bodySpmmOf false f v s

/-- SPMM (R144). -/
def execSpmm (stn : BitVec 11) (f : TensF) (s : State) : Out := .next (s.issue stn (tensWord 0x60 f) (goEng engMat (bodySpmm f)))

/-- SPMM.T (R150). -/
def bodySpmmT (f : TensF) (v : Env) (s : State) : Res := bodySpmmOf true f v s

/-- SPMM.T (R150). -/
def execSpmmT (stn : BitVec 11) (f : TensF) (s : State) : Out :=
  .next (s.issue stn (tensWord 0x61 f) (goEng engMat (bodySpmmT f)))

/-! ## Recon -/

/-- The estimate of a grid value (R158). -/
def estimate (v : Int) (sh : Nat) : Int :=
  let q : Int := (min 7 (v.natAbs / 2 ^ sh) : Nat)
  if v < 0 then -q else q

/-- A recon term added to an estimate that saturates (R160). -/
def reconAdd (acc p e : Int) : Int :=
  let t : Int := if 0 ≤ e then p * (2 ^ e.toNat : Nat)
    else (if p < 0 then -1 else 1) * ((p.natAbs / 2 ^ (-e).toNat : Nat) : Int)
  max (-(2 ^ 31 - 1)) (min (2 ^ 31 - 1) (acc + t))

/-- The estimate of one output element (R159, R160): 64 positions a pass, in ascending order. -/
def reconElem (sha shb : Nat) (kref : Int) (a : List GEl) (w : List (Option GEl)) : Int :=
  (passStarts a.length 64).foldl (fun acc p0 =>
    let t := ((a.drop p0).take 64 |>.zip ((w.drop p0).take 64)).foldl (fun (x : Int × Int) y =>
      match y.2 with
      | none => x
      | some g => (x.1 + estimate y.1.hi sha * estimate g.hi shb, y.1.eh + g.eh)) (0, 0)
    reconAdd acc t.1 (t.2 + sha + shb - kref)) 0

/-- What RECON's checks settle. -/
structure ReconPlan where
  o : Desc
  a : Desc
  asc : Option Desc
  w : Desc
  wsc : Option Desc
  kk : Nat
  excess : Nat

/-- The alignment RECON asks of an operand (R159). -/
def reconAlign (d : Desc) : Option Flt :=
  if d.pb d.redAxis % 64 ≠ 0 ∨ ((d.scaled || fmtLimb d.fmt) ∧ d.g < 64) then some (fcFmtInvalid, d.num) else none

/-- The checks of RECON (R159, R232, R245). R245 names no fault for an output above 16 × 1,024 nor for operands that do not
match it: SHAPE_OVER and LAYOUT_INVALID (DESIGN CHOICE, log 210). -/
def reconCheck (f : TensF) (v : Env) (s : State) : Except Flt ReconPlan := do
  let (o, _, x) ← s.useDesc v .write f.dd.toNat
  if o.survey ∨ o.layout ≠ layBitmap then .error (fcLayoutInvalid, o.num)
  if 16 < o.e 1 then .error (fcShapeOver, 1 + (o.e 1 - 16) * 2 ^ 32)
  if 1024 < o.e 0 then .error (fcShapeOver, (o.e 0 - 1024) * 2 ^ 32)
  let (a, asc, y) ← s.useDesc v .read f.da.toNat
  orFault (dataLayout a)
  orFault (roleCheck a false)
  orFault (dataAxes a)
  orFault (reconAlign a)
  let (w, wsc, z) ← s.useDesc v .read f.db.toNat
  let kk := a.pe a.redAxis
  if a.pe a.outAxis ≠ o.e 1 then .error (fcLayoutInvalid, a.num)
  if w.layout = layPlat then
    if w.survey then .error (fcLayoutInvalid, w.num)
    orFault (s.platCheck v .read w)
    let h := s.platHdr v.loc w
    if !wgtFmt h.fmt ∨ ((h.scaled || fmtLimb h.fmt) ∧ h.sg < 64) then .error (fcFmtInvalid, w.num)
    if h.rows ≠ o.e 0 ∨ h.k ≠ kk then .error (fcLayoutInvalid, w.num)
    .ok ⟨o, a, asc, w, none, kk, x + y + z⟩
  else
    orFault (dataLayout w)
    orFault (roleCheck w true)
    orFault (dataAxes w)
    orFault (reconAlign w)
    if w.pe w.outAxis ≠ o.e 0 ∨ w.pe w.redAxis ≠ kk then .error (fcLayoutInvalid, w.num)
    .ok ⟨o, a, asc, w, wsc, kk, x + y + z⟩

/-- The sub-tiles RECON keeps (R161): S at least THRESH, and under TOP among the F largest, ties to the lower column. -/
def reconKept (top : Bool) (thresh nf : Nat) (ss : List Nat) : List Bool :=
  ss.zipIdx.map (fun x =>
    decide (thresh ≤ x.1) && (!top ||
      decide ((ss.zipIdx.filter (fun y => decide (x.1 < y.1) || (decide (y.1 = x.1) && decide (y.2 < x.2)))).length < nf)))

/-- The sub-tiles that an estimating pass keeps, in order (R158 to R161). -/
def State.reconMask (s : State) (k : Loc) (f : TensF) (sx : Nat) (c : ReconPlan) : List Bool :=
  let h := s.platHdr k c.w
  let a := (List.range (c.o.e 1)).map (fun o => s.gridRow k c.a c.asc o c.kk)
  let w := (List.range (c.o.e 0)).map (fun n =>
    if c.w.layout = layPlat then s.platCol k c.w h n 0 c.kk else (s.gridRow k c.w c.wsc n c.kk).map some)
  let est := w.map (fun col => (a.map (fun row =>
    (reconElem (f.m 0 3) (f.m 3 3) (toSigned 16 (sx / 2 ^ 32 % 2 ^ 16)) row col).natAbs)).foldl max 0)
  let ntile := if c.o.e 1 = 0 then 0 else (c.o.e 0 + 15) / 16
  let ss := (List.range ntile).map (fun j => ((est.drop (16 * j)).take 16).foldl max 0)
  reconKept (decide (f.m 6 1 = 1)) (sx % 2 ^ 32) (sx / 2 ^ 48 % 2 ^ 6 + 1) ss

/-- RECON: an estimating pass and a skip bitmap (R158 to R161, R245). -/
def bodyRecon (f : TensF) (v : Env) (s : State) : Res :=
  let k := v.loc
  let ts := f.ts.toNat
  let sx := s.sreg k.b f.sx.toNat
  if !f.okFor (uDD + uDA + uDB + uTS + uSX) 0x7F ∨ 2 ^ 54 ≤ sx then .illegal
  else match reconCheck f v s with
    | .error e => .flt e
    | .ok c =>
      match s.tileLocked k ts with
      | some s => .wait s
      | none =>
        let fin := fun (s : State) => (s.shapeClamp k c.excess).noSlab k
        let plat := decide (c.w.layout = layPlat)
        let h := s.platHdr k c.w
        let rows := List.range (c.o.e 0)
        match s.poisoned (s.gridSpans k c.a c.asc
            ++ (if plat then s.platAll k c.w h true true true else s.gridSpans k c.w c.wsc)) with
        | some p => .late (fin s) fcPoisonConsumed p
        | none =>
          let kept := s.reconMask k f sx c
          let bits := kept.zipIdx.foldl (fun acc x => acc + (if x.1 then 0 else 2 ^ x.2)) 0
          let nk := (kept.filter id).length
          let passes := (c.o.e 0 + 63) / 64 * ((c.kk + 63) / 64)
          let drops := if plat then rows.flatMap (s.platRow k c.w h) else []
          let slices := c.a.readSlices + (if plat then h.rows * ((c.kk + 127) / 128) else c.w.readSlices)
          storeRes v s (spread (s.dkey k c.o 0) (leBytes (bitmapBytes (c.o.e 0) (c.o.e 1)) bits)) (fun s =>
            let s := ((fin s).platDrops k drops).countSlices k slices
            (((((s.updStn k (fun t => t.setTile ts (t.tile ts).clear)).inc (Reg.stnSpReconKeptCount k.b) nk).inc
              (Reg.stnSpReconSkipCount k.b) (kept.length - nk)).inc (Reg.maPassesPasses k.b)
              (if c.o.e 1 = 0 then 0 else passes)).chainServe k))

/-- RECON (R245). -/
def execRecon (stn : BitVec 11) (f : TensF) (s : State) : Out :=
  .next (s.issue stn (tensWord 0x62 f) (goEng engMat (bodyRecon f)))

/-! ## PRUNE and REGROW -/

/-- Strict order of keys (R153): NaN lowest, the zeros equal, Inf above every finite value. -/
def keyLt (x y : FVal) : Bool :=
  match x.isNan, y.isNan with
  | true, false => true
  | _, true => false
  | false, false => x.lt y

/-- The magnitude of a value. -/
def FVal.abs : FVal → FVal
  | .nan => .nan
  | .inf _ => .inf false
  | .fin _ m e => .fin false m e

/-- Candidates put in rank order (R153): higher key first, the lower position between equal keys. -/
def rankInsert (c : Nat × FVal) : List (Nat × FVal) → List (Nat × FVal)
  | [] => [c]
  | d :: t => if keyLt d.2 c.2 then c :: d :: t else d :: rankInsert c t

/-- Positions of candidates, best first; candidates come in ascending position. -/
def ranked (cs : List (Nat × FVal)) : List Nat := (cs.foldl (fun acc c => rankInsert c acc) []).map (·.1)

/-- Whether a read tensor's padded extents are a plat's (R153). -/
def Desc.readsPlat (d : Desc) (h : PlatHdr) : Bool :=
  (List.range 5).all (fun a =>
    if a = d.redAxis then decide (d.pe a = h.k) else if a = d.rowAxis then decide (d.pe a = h.rows) else decide (d.pe a = 1))

/-- The coordinate a read tensor holds dense position `p` of row `r` at, pads included. -/
def Desc.readCoord (d : Desc) (r p : Nat) : List Int :=
  (List.range 5).map (fun a =>
    (if a = d.redAxis then (p : Int) else if a = d.rowAxis then (r : Int) else 0) - d.pb a)

/-- Values packed into whole containers (R111). -/
def packList (f : Nat) (vs : List Nat) : List Byte :=
  let ec := contElems f
  (List.range ((vs.length + ec - 1) / ec)).flatMap (fun i =>
    leBytes (contBytes f) ((List.range ec).foldl (fun acc j =>
      acc + (vs.getD (i * ec + j) 0) % 2 ^ fmtBits f * 2 ^ (fmtBits f * j)) 0))

/-- Whether a stored encoding is non-zero in the sense of R140: NaN and Inf count, the zeros do not. -/
def encNonzero (f raw : Nat) : Bool :=
  match decodeVal f 0 raw with
  | .fin _ m _ => decide (m ≠ 0)
  | _ => true

/-- The byte writes of a whole plat from its groups, given as ascending (position, encoding) lists per row (R136, R137,
R140, R154 to R156): values, codes, counts, row offsets, scales, bitmap and CODE_DIGEST. -/
def State.platWrites (s : State) (k : Loc) (d : Desc) (h : PlatHdr) (rows : List (List (List (Nat × Nat))))
    (scales : List Byte) : List (Nat × Byte) :=
  let at_ := fun (o : Nat) (bs : List Byte) => spread (s.dkey k d o) bs
  let flat := fun (r : List (List (Nat × Nat))) => r.flatMap id
  let body : List (Nat × Byte) :=
    if h.variableMode then
      let all := rows.flatMap flat
      let offs := (rows.foldl (fun (acc : List Nat × Nat) r => (acc.1 ++ [acc.2], acc.2 + (flat r).length)) ([], 0)).1
      at_ h.valOff (packList h.fmt (all.map (·.2))) ++ at_ h.codeOff (packList fInt4 (all.map (·.1)))
        ++ at_ h.countOff (rows.flatMap (fun r => r.map (fun g => BitVec.ofNat 8 g.length)))
        ++ at_ h.rowoffOff (offs.flatMap (leBytes 4))
    else
      rows.zipIdx.flatMap (fun r =>
        at_ (h.valOff + r.2 * h.vrow) (packList h.fmt ((flat r.1).map (·.2)))
          ++ at_ (h.codeOff + r.2 * h.crow) (packList fInt4 ((flat r.1).map (·.1))))
  let dense := rows.zipIdx.flatMap (fun r => r.1.zipIdx.flatMap (fun g => g.1.map (fun x => (r.2, g.2 * h.g + x.1, x.2))))
  let tiles := (h.k + 15) / 16
  let bm := dense.foldl (fun acc x =>
      if encNonzero h.fmt x.2.2 then acc.set (x.1 / 16 * tiles + x.2.1 / 16) false else acc)
    (List.replicate ((h.rows + 15) / 16 * tiles) true)
  let bmBits := bm.zipIdx.foldl (fun acc x => acc + (if x.1 then 2 ^ x.2 else 0)) 0
  body ++ (if h.scaled then at_ h.scaleOff scales else [])
    ++ (if h.hasBitmap then at_ h.bitmapOff (leBytes (bitmapBytes h.k h.rows) bmBits) else [])
    ++ at_ 40 (leBytes 8 (digestOf (dense.map (fun x => (x.1, x.2.1)))))

/-- The scale bytes of a dense source as a scale section (R156). -/
def State.denseScales (s : State) (k : Loc) (d : Desc) (sc : Option Desc) (h : PlatHdr) : List Byte :=
  (List.range h.rows).flatMap (fun r => (List.range h.scols).map (fun c =>
    BitVec.ofNat 8 (s.scaleAt k d sc (d.readCoord r (c * h.sg)))))

/-- The scale section of a plat source. -/
def State.platScales (s : State) (k : Loc) (d : Desc) (h : PlatHdr) : List Byte :=
  if h.scaled then s.bytesAt (s.dkey k d h.scaleOff) (h.rows * h.scols) else []

/-- The checks of a score tensor (R153). -/
def scoreCheck (d : Desc) (h : PlatHdr) : Option Flt :=
  if d.survey ∨ 2 < d.layout then some (fcLayoutInvalid, d.num)
  else if ! [fFp32, fBf16, fFp16, fInt8].contains d.fmt then some (fcFmtInvalid, d.num)
  else if !d.readsPlat h then some (fcLayoutInvalid, d.num)
  else none

/-- What the checks of PRUNE and REGROW settle. -/
structure SelPlan where
  dst : Desc
  src : Desc
  ssc : Option Desc
  score : Option (Desc × Option Desc)
  excess : Nat

/-- The checks both make (R153, R156, R157, R232, R246). -/
def selCheck (regrow : Bool) (f : TensF) (v : Env) (s : State) : Except Flt SelPlan := do
  let k := v.loc
  let (d, _, x) ← s.useDesc v .write f.dd.toNat
  if d.survey ∨ d.layout ≠ layPlat then .error (fcLayoutInvalid, d.num)
  orFault (s.platCheck v .write d)
  let h := s.platHdr k d
  if !regrow ∧ h.variableMode then .error (fcLayoutInvalid, d.num)
  let (a, asc, y) ← s.useDesc v .read f.da.toNat
  if a.survey then .error (fcLayoutInvalid, a.num)
  if a.layout = layPlat then
    orFault (s.platCheck v .read a)
    let g := s.platHdr k a
    if g.k ≠ h.k ∨ g.rows ≠ h.rows ∨ g.fmt ≠ h.fmt ∨ g.g ≠ h.g ∨ g.sg ≠ h.sg ∨ g.scaled ≠ h.scaled then
      .error (fcLayoutInvalid, d.num)
    if regrow then
      let j := f.m 0 4
      if j = 0 ∨ g.g ≤ j ∨ g.variableMode ≠ h.variableMode then .error (fcLayoutInvalid, d.num)
      if !g.variableMode ∧ h.keep ≠ g.keep + j then .error (fcLayoutInvalid, d.num)
      if g.variableMode ∧ h.slots < g.slots + g.rows * g.ng * j then .error (fcLayoutInvalid, d.num)
  else
    if regrow ∨ 2 < a.layout then .error (fcLayoutInvalid, a.num)
    if !a.readsPlat h ∨ a.fmt ≠ h.fmt ∨ a.g ≠ h.sg ∨ a.scaled ≠ h.scaled then .error (fcLayoutInvalid, d.num)
  let srcFeet := if a.layout = layPlat then (s.platFoot k a).toList else s.feet k a asc
  if regrow ∨ f.m 0 1 = 1 then
    let (c, csc, z) ← s.useDesc v .read f.dc.toNat
    orFault (scoreCheck c h)
    if feetMeet (s.platFoot k d).toList (srcFeet ++ s.feet k c csc) then .error (fcCopyOverlap, 0)
    .ok ⟨d, a, asc, some (c, csc), x + y + z⟩
  else
    if feetMeet (s.platFoot k d).toList srcFeet then .error (fcCopyOverlap, 0)
    .ok ⟨d, a, asc, none, x + y⟩

/-- The spans PRUNE and REGROW read. -/
def State.selSpans (s : State) (k : Loc) (c : SelPlan) : List (Nat × Nat) :=
  (s.dkey k c.dst 0, 64)
    :: (if c.src.layout = layPlat then s.platAll k c.src (s.platHdr k c.src) true true true else s.spansOf k c.src c.ssc)
    ++ (match c.score with | some (d, sc) => s.spansOf k d sc | none => [])

/-- The score of dense position `p` of row `r`. -/
def State.scoreAt (s : State) (k : Loc) (c : SelPlan) (r p : Nat) : FVal :=
  match c.score with
  | some (d, sc) => s.valueAt k d sc (d.readCoord r p)
  | none => .nan

/-- Candidates of group `g` of row `r` as (position, encoding): a dense source's positions or a plat's accepted slots. -/
def State.candidates (s : State) (k : Loc) (c : SelPlan) (h : PlatHdr) (r g : Nat) : List (Nat × Nat) :=
  if c.src.layout = layPlat then
    let sh := s.platHdr k c.src
    (((s.platRow k c.src sh r)[g]?.map (·.acc)).getD []).map (fun x => (x.1, s.platRead k c.src sh r (g * sh.g + x.1) x.2))
  else (List.range h.g).map (fun p => (p, s.rawAt k c.src (c.src.readCoord r (g * h.g + p))))

/-- The slots PRUNE writes for a group (R154), and those it fills. -/
def pruneGroup (keep g : Nat) (fmt : Nat) (cands : List (Nat × Nat)) (key : Nat × Nat → FVal) : List (Nat × Nat) × Nat :=
  let best := (ranked (cands.map (fun c => (c.1, key c)))).take keep
  let fill := ((List.range g).filter (fun p => !best.contains p)).take (keep - best.length)
  let all := (List.range g).filter (fun p => best.contains p || fill.contains p)
  let _ := fmt
  (all.map (fun p => (p, if best.contains p then ((cands.find? (fun c => c.1 = p)).map (·.2)).getD 0 else 0)), fill.length)

/-- The slots REGROW writes for a group (R155), and the positions it adds beyond `j`: `want` slots in all. -/
def regrowGroup (want j g : Nat) (kept : List (Nat × Nat)) (score : Nat → FVal) : List (Nat × Nat) × Nat :=
  let free := (List.range g).filter (fun p => !kept.any (fun c => c.1 = p))
  let add := (ranked (free.map (fun p => (p, score p)))).take (want - kept.length)
  let all := (List.range g).filter (fun p => add.contains p || kept.any (fun c => c.1 = p))
  (all.map (fun p => (p, ((kept.find? (fun c => c.1 = p)).map (·.2)).getD 0)), add.length - j)

/-- The slots PRUNE writes, by rows and groups, with the slots it fills (R154). -/
def State.pruneRows (s : State) (k : Loc) (c : SelPlan) : List (List (List (Nat × Nat) × Nat)) :=
  let h := s.platHdr k c.dst
  (List.range h.rows).map (fun r => (List.range h.ng).map (fun g =>
    pruneGroup h.keep h.g h.fmt (s.candidates k c h r g) (fun x =>
      if c.score.isSome then s.scoreAt k c r (g * h.g + x.1) else (decodeVal h.fmt 0 x.2).abs)))

/-- The slots REGROW writes when it adds `j` to a group, with those it adds beyond (R155). -/
def State.regrowRows (s : State) (k : Loc) (c : SelPlan) (j : Nat) : List (List (List (Nat × Nat) × Nat)) :=
  let h := s.platHdr k c.dst
  (List.range h.rows).map (fun r => (List.range h.ng).map (fun g =>
    let kept := s.candidates k c h r g
    regrowGroup (if h.variableMode then min (kept.length + j) h.g else h.keep)
      (if h.variableMode then h.g else j) h.g kept (fun p => s.scoreAt k c r (g * h.g + p))))

/-- Slots filled in all groups. -/
def selFills (rows : List (List (List (Nat × Nat) × Nat))) : Nat :=
  (rows.map (fun r => (r.map (·.2)).foldl (· + ·) 0)).foldl (· + ·) 0

/-- The byte writes of the destination plat, its scales the source's. -/
def State.selWrites (s : State) (k : Loc) (c : SelPlan) (rows : List (List (List (Nat × Nat) × Nat))) : List (Nat × Byte) :=
  let h := s.platHdr k c.dst
  let scales := if c.src.layout = layPlat then s.platScales k c.src (s.platHdr k c.src) else s.denseScales k c.src c.ssc h
  s.platWrites k c.dst h (rows.map (fun r => r.map (·.1))) scales

/-- Groups of a source plat, whose dropped slots are counted (R141 to R143). -/
def State.selGroups (s : State) (k : Loc) (c : SelPlan) : List PlatGrp :=
  if c.src.layout = layPlat then (List.range (s.platHdr k c.dst).rows).flatMap (s.platRow k c.src (s.platHdr k c.src)) else []

/-- PRUNE's and REGROW's effect once their checks have passed. -/
def selApply (c : SelPlan) (v : Env) (s : State) (rows : List (List (List (Nat × Nat) × Nat))) : Res :=
  let k := v.loc
  match s.poisoned (s.selSpans k c) with
  | some p => .late (s.shapeClamp k c.excess) fcPoisonConsumed p
  | none =>
    let drops := s.selGroups k c
    storeRes v s (s.selWrites k c rows) (fun s =>
      let s := s.platDrops k drops
      (if selFills rows = 0 then s else s.inc (Reg.stnSpFillCount k.b) (selFills rows)).shapeClamp k c.excess)

/-- PRUNE: the top KEEP candidates of each group (R154, R246). -/
def bodyPrune (f : TensF) (v : Env) (s : State) : Res :=
  if !f.okFor (uDD + uDA + (if f.m 0 1 = 1 then uDC else 0)) 1 then .illegal
  else match selCheck false f v s with
    | .error e => .flt e
    | .ok c => selApply c v s (s.pruneRows v.loc c)

/-- PRUNE (R154). -/
def execPrune (stn : BitVec 11) (f : TensF) (s : State) : Out :=
  .next (s.issue stn (tensWord 0x63 f) (goEng engSel (bodyPrune f)))

/-- REGROW: j positions of highest score added to each group (R155, R246). -/
def bodyRegrow (f : TensF) (v : Env) (s : State) : Res :=
  if !f.okFor (uDD + uDA + uDC) 15 then .illegal
  else match selCheck true f v s with
    | .error e => .flt e
    | .ok c => selApply c v s (s.regrowRows v.loc c (f.m 0 4))

/-- REGROW (R155). -/
def execRegrow (stn : BitVec 11) (f : TensF) (s : State) : Out :=
  .next (s.issue stn (tensWord 0x64 f) (goEng engSel (bodyRegrow f)))

end Sys2Proof.Machine
end

