-- ==== Sys2Proof/Machine/Blocks.lean ====
section
/-! DEFINITION. Plat blocks on links (R165 to R167): what a plan's plat is to the engines, the bytes of a block, and what a
receiver reads from them. -/

namespace Sys2Proof.Machine

/-- A plat block's header and the entries of its sections (R165). -/
structure PlatBlk where
  rowFirst : Nat
  rowCount : Nat
  k : Nat
  fmt : Nat
  mode : Nat
  keep : Nat
  group : Nat
  form : Nat
  digest : Nat
  counts : List Nat
  offs : List Nat
  codes : List Nat
  vals : List Nat
  scales : List Nat
  deriving DecidableEq, Repr

/-- FORM codes. -/
def formFull : Nat := 0
def formValues : Nat := 1

/-- Group length, variable mode, groups of a row and scale entries of a row by header bytes K, MODE and GROUP (R133). -/
def modeG (mode : Nat) : Nat := 4 * 2 ^ (mode % 4)
def modeVariable (mode : Nat) : Bool := bitOf mode 2
def groupScols (k group : Nat) : Nat := if bitOf group 2 then (k + 32 * 2 ^ (group % 4) - 1) / (32 * 2 ^ (group % 4)) else 0

/-- A value and its poison as a map entry, and back. -/
def cvEnc (raw : Nat) (poison : Bool) : Nat := 1 + 2 * raw + (if poison then 1 else 0)
def cvDec (c : Nat) : Option (Nat × Bool) := if c = 0 then none else some ((c - 1) / 2, decide ((c - 1) % 2 = 1))

/-- The scale entries of a plat's row, each with its poison or with all the row's if `z` (R165, R363). -/
def State.platRowScales (s : State) (k : Loc) (d : Desc) (h : PlatHdr) (z : Bool) (r : Nat) : List Nat :=
  if h.scaled then (List.range h.scols).map (fun c =>
    let key := s.dkey k d (h.scaleOff + r * h.scols + c : Nat)
    cvEnc (s.natAt key 1) (z || (s.poisonAt key 1).isSome)) else []

/-- What a run keeps of a plat whose first slot is element `base` of the plan's tensor (R166, R167). -/
def State.platOwn (s : State) (k : Loc) (d : Desc) (base : Nat) : PlatOwn :=
  let h := s.platHdr k d
  { base := base, k := h.k, fmt := h.fmt, mode := h.modeByte, keep := h.keep, group := h.groupByte,
    rows := (List.range h.rows).map (fun r => (s.platSlots k d h r).map (·.1))
    scales := (List.range h.rows).map (s.platRowScales k d h false) }

/-- Slots of a plat before a row. -/
def PlatOwn.start (o : PlatOwn) (row : Nat) : Nat := ((o.rows.take row).map List.length).sum

/-- Rows of a plat whose first slot lies before slot `n`. -/
def PlatOwn.below (o : PlatOwn) (n : Nat) : Nat := ((List.range o.rows.length).filter (fun r => decide (o.start r < n))).length

/-- The whole rows that a range of elements stands for, first and one past the last (R165; DEDUCED, log 218): those whose
first slot lies in it, and behind the last slot the rest. -/
def PlatOwn.rowsOf (o : PlatOwn) (first count : Nat) : Nat × Nat :=
  let hi := first + count - o.base
  (o.below (first - o.base), if o.start o.rows.length ≤ hi then o.rows.length else o.below hi)

/-- The digest of some rows (R166). -/
def PlatOwn.digest (o : PlatOwn) (row n : Nat) : Nat :=
  digestOf ((List.range n).flatMap (fun i => (o.rows.getD (row + i) []).map (fun p => (row + i, p))))

/-- A block of rows from `row` on, each given as its slots (position, encoding) (R165). A fixed-mode group is carried without
a count; values and codes are one packed array each (DEDUCED, log 218). -/
def PlatOwn.block (o : PlatOwn) (full : Bool) (fmt row : Nat) (rows : List (List (Nat × Nat))) (scales : List Nat) : PlatBlk :=
  let g := modeG o.mode
  let var := full && modeVariable o.mode
  { rowFirst := row, rowCount := rows.length, k := o.k, fmt := fmt, mode := o.mode, keep := o.keep, group := withBits o.group 3 1 0,
    form := if full then formFull else formValues
    digest := digestOf (rows.zipIdx.flatMap (fun r => r.1.map (fun x => (row + r.2, x.1))))
    counts := if var then rows.flatMap (fun r => (List.range (o.k / g)).map (fun i => (r.filter (fun x => x.1 / g = i)).length)) else []
    offs := if var then (List.range rows.length).map (fun i => ((rows.take i).map List.length).sum) else []
    codes := if full then rows.flatMap (fun r => r.map (fun x => x.1 % g)) else []
    vals := rows.flatMap (fun r => r.map (·.2))
    scales := scales }

/-- A section padded with zeros to a multiple of 16 bytes. -/
def pad16 (bs : List Byte) : List Byte := bs ++ List.replicate ((16 - bs.length % 16) % 16) 0

/-- The sections of a block (R165). -/
def PlatBlk.body (b : PlatBlk) : List Byte :=
  pad16 (b.counts.map (BitVec.ofNat 8)) ++ pad16 (b.offs.flatMap (leBytes 4)) ++ pad16 (packList fInt4 b.codes)
    ++ pad16 (packList b.fmt b.vals) ++ pad16 (b.scales.map (BitVec.ofNat 8))

/-- The bytes of a block (R165). -/
def PlatBlk.bytes (b : PlatBlk) : List Byte :=
  leBytes 4 b.rowFirst ++ leBytes 4 b.rowCount ++ leBytes 4 b.k
    ++ [b.fmt, b.mode, b.keep, b.group, b.form, 0, 0, 0].map (BitVec.ofNat 8)
    ++ leBytes 4 b.body.length ++ leBytes 8 b.digest ++ b.body

/-- The first `n` encodings of a packed array (R111). -/
def unpackList (f n : Nat) (bs : List Byte) : List Nat :=
  (List.range n).map (fun i =>
    bitsAt (ofLeBytes ((bs.drop (i / contElems f * contBytes f)).take (contBytes f))) (i % contElems f * fmtBits f) (fmtBits f))

/-- Bits of an encoding flipped where a value is poisoned: what differs then in the bytes derives from it (R363). -/
def flipIf (w : Nat) (x : Nat × Bool) : Nat := if x.2 then x.1 ^^^ (2 ^ w - 1) else x.1

/-- The bytes of a block of rows, each slot and scale with its poison, and which bytes derive from poison (R363). -/
def PlatOwn.stream (o : PlatOwn) (full : Bool) (fmt row : Nat) (rows : List (List (Nat × Nat × Bool))) (scales : List (Nat × Bool)) :
    List (Byte × Bool) :=
  let mk := fun (v e : Nat × Bool → Nat) => (o.block full fmt row (rows.map (·.map (fun x => (x.1, v x.2)))) (scales.map e)).bytes
  let a := mk (·.1) (·.1)
  a.zip ((a.zip (mk (flipIf (fmtBits fmt)) (flipIf 8))).map (fun x => decide (x.1 ≠ x.2)))

/-- A block read from bytes; `own` gives the slots of a row where the block carries no codes. Values and scales are those of
`pz`, which is the bytes themselves, or their poison. -/
def blkOf (own : Nat → Nat) (bs pz : List Byte) : PlatBlk × Nat :=
  let f := fun (o n : Nat) => ofLeBytes ((bs.drop o).take n)
  let body := (bs.drop 32).take (f 20 4)
  let data := (pz.drop 32).take (f 20 4)
  let up := fun (n : Nat) => (n + 15) / 16 * 16
  let full := decide (f 16 1 = formFull)
  let var := full && modeVariable (f 13 1)
  let ng := f 4 4 * (f 8 4 / modeG (f 13 1))
  let counts := if var then (body.take ng).map (fun c => c.toNat % 32) else []
  let n := if var then counts.sum else if full then ng * f 14 1 else ((List.range (f 4 4)).map (fun i => own (f 0 4 + i))).sum
  let o1 := if var then up ng else 0
  let o2 := o1 + (if var then up (4 * f 4 4) else 0)
  let o3 := o2 + (if full then up ((n + 1) / 2) else 0)
  let o4 := o3 + up (packedBytes (f 12 1) n)
  ({ rowFirst := f 0 4, rowCount := f 4 4, k := f 8 4, fmt := f 12 1, mode := f 13 1, keep := f 14 1, group := f 15 1, form := f 16 1,
     digest := f 24 8, counts := counts
     offs := if var then (List.range (f 4 4)).map (fun i => ofLeBytes ((body.drop (o1 + 4 * i)).take 4)) else []
     codes := if full then unpackList fInt4 n (body.drop o2) else []
     vals := unpackList (f 12 1) n (data.drop o3)
     scales := ((data.drop o4).take (f 4 4 * groupScols (f 8 4) (f 15 1))).map BitVec.toNat }, 32 + o3)

/-- A received block, its values and scales written as those of `CollRun`: poisoned where their flit was, and all of them where
the flits of its header or its positions were (R363). -/
def blkPoison (own : Nat → Nat) (bs pz : List Byte) : PlatBlk :=
  let x := blkOf own bs bs
  let z := (blkOf own bs pz).1
  let all := (pz.take x.2).any (· ≠ 0)
  let enc := fun (v p : List Nat) => (v.zip p).map (fun y => 1 + 2 * y.1 + (if all || decide (y.2 ≠ 0) then 1 else 0))
  { x.1 with vals := enc x.1.vals z.vals, scales := enc x.1.scales z.scales }

/-- The blocks of a byte stream, at most `n`, with the bytes' poison beside it (R362); `own` numbers them too. -/
def blksOf (own : Nat → Nat → Nat) : Nat → Nat → List Byte → List Byte → List PlatBlk
  | 0, _, _, _ => []
  | n + 1, i, bs, pz =>
    if bs.length < 32 ∨ ofLeBytes ((bs.drop 4).take 4) = 0 then []
    else
      let m := 32 + ofLeBytes ((bs.drop 20).take 4)
      blkPoison (own i) bs pz :: blksOf own n (i + 1) (bs.drop m) (pz.drop m)

/-- A list cut into pieces of the lengths given. -/
def cut {α : Type} : List Nat → List α → List (List α)
  | [], _ => []
  | n :: t, l => l.take n :: cut t (l.drop n)

/-- The slots (position, encoding) of each row of a received block: by its own codes in FULL form, else by the positions
`own` gives. -/
def PlatBlk.rows (b : PlatBlk) (own : Nat → List Nat) : List (List (Nat × Nat)) :=
  if b.form = formFull then
    let ng := b.k / modeG b.mode
    let sizes := if modeVariable b.mode then b.counts else List.replicate (b.rowCount * ng) b.keep
    let gs := (cut sizes (b.codes.zip b.vals)).zipIdx.map (fun x => x.1.map (fun c => (x.2 % ng * modeG b.mode + c.1, c.2)))
    (cut (List.replicate b.rowCount ng) gs).map (fun r => r.flatMap id)
  else
    let ps := (List.range b.rowCount).map (fun i => own (b.rowFirst + i))
    (cut (ps.map List.length) b.vals).zip ps |>.map (fun x => x.2.zip x.1)

/-- The digest a received block is checked against (R167): of its own codes in FULL form, else of the own plat's rows. -/
def PlatBlk.expected (b : PlatBlk) (o : PlatOwn) : Nat :=
  if b.form = formFull then digestOf ((b.rows (fun _ => [])).zipIdx.flatMap (fun r => r.1.map (fun x => (b.rowFirst + r.2, x.1))))
  else o.digest b.rowFirst b.rowCount

/-- Whether a received block fails its check: a reserved FORM does too (DESIGN CHOICE, log 218). -/
def PlatBlk.bad (b : PlatBlk) (o : PlatOwn) : Bool := decide (formValues < b.form) || decide (b.digest ≠ b.expected o)

end Sys2Proof.Machine
end

