-- ==== Sys2Proof/Machine/Func.lean ====
section
/-! DEFINITION. The FP32 functions of VFUNC (R239) and the normal table (R186). Each is computed in fixed point
with 640 fraction bits, or exactly with a sticky bit, and rounded once: the value nearest to the exact
mathematical value, ties to even. That 640 bits decide every rounding is PRESUMED (log 10). -/

namespace Sys2Proof.Machine

/-- Fraction bits of the fixed-point arithmetic. -/
def fxBits : Nat := 640

/-- π, truncated to 640 fraction bits. -/
def fxPi : Int := 0x3243f6a8885a308d313198a2e03707344a4093822299f31d0082efa98ec4e6c89452821e638d01377be5466cf34e90c6cc0ac29b7c97c50dd3f84d5b5b54709179216d5d98979fb1bd1310ba698dfb5ac

/-- ln 2, truncated to 640 fraction bits. -/
def fxLn2 : Int := 0xb17217f7d1cf79abc9e3b39803f2f6af40f343267298b62d8a0d175b8baafa2be7b876206debac98559552fb4afa1b10ed2eae35c138214427573b291169b8253e96ca16224ae8c51acbda11317c387e

/-- One in fixed point. -/
def fxOne : Int := 2 ^ fxBits

/-- A fixed-point product. -/
def fxMul (a b : Int) : Int := a * b / 2 ^ fxBits

/-- A finite value in fixed point (its bits below 2^−640 cut). -/
def fxOf (neg : Bool) (m : Nat) (e : Int) : Int :=
  let k := e + fxBits
  let a : Int := if 0 ≤ k then (m * 2 ^ k.toNat : Nat) else (m / 2 ^ (-k).toNat : Nat)
  if neg then -a else a

/-- A fixed-point number as a value. -/
def fxVal (x : Int) : FVal := .fin (decide (x < 0)) x.natAbs (-(fxBits : Int))

/-- The nearest whole number to a quotient. -/
def roundDiv (a b : Int) : Int := (2 * a + b) / (2 * b)

/-- Sum of r^n / n! from the term `t` of index `n` on. -/
def expTerms : Nat → Nat → Int → Int → Int → Int
  | 0, _, _, _, acc => acc
  | k + 1, n, r, t, acc =>
    let t' := fxMul t r / ((n : Int) + 1)
    expTerms k (n + 1) r t' (acc + t')

/-- e^x for fixed-point x: (f, k) with e^x = f · 2^k in fixed point. -/
def fxExp (x : Int) : Int × Int :=
  let k := roundDiv x fxLn2
  (expTerms 150 0 (x - k * fxLn2) fxOne fxOne, k)

/-- Sum of z^(2i+1) / (2i+1). -/
def atanhTerms : Nat → Nat → Int → Int → Int → Int
  | 0, _, _, _, acc => acc
  | k + 1, n, z2, t, acc =>
    let t' := fxMul t z2
    atanhTerms k (n + 2) z2 t' (acc + t' / ((n : Int) + 2))

/-- ln of m · 2^e, m positive, in fixed point. -/
def fxLog (m : Nat) (e : Int) : Int :=
  let lg := ilog2 m
  let y : Int := fxOf false m (-(lg : Int))
  let z := (y - fxOne) * fxOne / (y + fxOne)
  2 * atanhTerms 215 1 (fxMul z z) z z + (e + lg) * fxLn2

/-- Alternating sum of t, t·r²/((n+1)(n+2)), …: the sine from (r, 1), the cosine from (1, 0). -/
def trigTerms : Nat → Nat → Int → Int → Int → Int
  | 0, _, _, _, acc => acc
  | k + 1, n, r2, t, acc =>
    let t' := -(fxMul t r2 / (((n : Int) + 1) * ((n : Int) + 2)))
    trigTerms k (n + 2) r2 t' (acc + t')

/-- sin (`quarter` 0) or cos (`quarter` 1) of a fixed-point angle. -/
def fxTrig (x : Int) (quarter : Int) : Int :=
  let h := fxPi / 2
  let q := roundDiv x h
  let r := x - q * h
  let r2 := fxMul r r
  let sn := trigTerms 80 1 r2 r r
  let cs := trigTerms 80 0 r2 fxOne fxOne
  match (q + quarter) % 4 with
  | 0 => sn
  | 1 => cs
  | 2 => -sn
  | _ => -cs

/-- floor(sqrt n), found bit by bit from bit `k` down. -/
def isqrtFrom : Nat → Nat → Nat → Nat
  | 0, _, r => r
  | k + 1, n, r => isqrtFrom k n (if (r + 2 ^ k) * (r + 2 ^ k) ≤ n then r + 2 ^ k else r)

/-- floor(sqrt n). -/
def isqrt (n : Nat) : Nat := isqrtFrom (ilog2 n / 2 + 1) n 0

/-- A quotient or root known to lie at `r` or strictly between `r` and `r + 1`, times 2^e: the sticky bit below `r`
keeps every later rounding right. -/
def sticky (r : Nat) (exact : Bool) (e : Int) : FVal := .fin false (2 * r + (if exact then 0 else 1)) (e - 1)

/-- √(m · 2^e). -/
def sqrtVal (m : Nat) (e : Int) : FVal :=
  let odd := e % 2
  let n := m * 2 ^ (200 + odd.toNat)
  let r := isqrt n
  sticky r (decide (r * r = n)) ((e - odd - 200) / 2)

/-- 1 / (m · 2^e). -/
def rcpVal (neg : Bool) (m : Nat) (e : Int) : FVal :=
  let n := 2 ^ 200
  match sticky (n / m) (decide (n % m = 0)) (-e - 200) with
  | .fin _ a b => .fin neg a b
  | v => v

/-- 1 / √(m · 2^e). -/
def rsqrtVal (m : Nat) (e : Int) : FVal :=
  let k : Nat := 400 + (e % 2).toNat
  let n := 2 ^ k
  let r := isqrt (n / m)
  sticky r (decide (r * r * m = n)) ((-e - k) / 2)

/-- tanh of a finite value of magnitude below 32. -/
def tanhVal (m : Nat) (e : Int) : FVal :=
  let x := fxOf false m (e + 1)
  let p := fxExp x
  let w : Int := if 0 ≤ p.2 then p.1 * 2 ^ p.2.toNat else p.1 / 2 ^ (-p.2).toNat
  fxVal ((w - fxOne) * fxOne / (w + fxOne))

/-- Whether ±m · 2^e has magnitude `b` or more. -/
def magGe (m : Nat) (e : Int) (b : Nat) : Bool := !(FVal.fin false m e).lt (.fin false b 0)

/-- Function codes of VFUNC. -/
def vfExp : Nat := 0
def vfLog : Nat := 1
def vfSqrt : Nat := 2
def vfRsqrt : Nat := 3
def vfRcp : Nat := 4
def vfSin : Nat := 5
def vfCos : Nat := 6
def vfTanh : Nat := 7

/-- The exact mathematical value of a VFUNC function, its special operands by the table of R239, as a value that one
rounding under RNE turns into the FP32 result. -/
def vfuncVal (fn : Nat) (x : FVal) : FVal :=
  match x with
  | .nan => .nan
  | .inf n =>
    if fn = vfExp then (if n then .fin false 0 0 else .inf false)
    else if fn = vfLog then (if n then .nan else .inf false)
    else if fn = vfSqrt then (if n then .nan else .inf false)
    else if fn = vfRsqrt then (if n then .nan else .fin false 0 0)
    else if fn = vfRcp then .fin n 0 0
    else if fn = vfTanh then .fin n 1 0
    else .nan
  | .fin n m e =>
    if m = 0 then
      if fn = vfExp then .fin false 1 0
      else if fn = vfLog then .inf true
      else if fn = vfRsqrt ∨ fn = vfRcp then .inf n
      else if fn = vfCos then .fin false 1 0
      else .fin n 0 0
    else if fn = vfExp then
      if magGe m e 256 then (if n then .fin false 1 (-400) else .fin false 1 400)
      else
        let p := fxExp (fxOf n m e)
        .fin false p.1.natAbs (p.2 - fxBits)
    else if fn = vfLog then (if n then .nan else fxVal (fxLog m e))
    else if fn = vfSqrt then (if n then .nan else sqrtVal m e)
    else if fn = vfRsqrt then (if n then .nan else rsqrtVal m e)
    else if fn = vfRcp then rcpVal n m e
    else if fn = vfSin then fxVal (fxTrig (fxOf n m e) 0)
    else if fn = vfCos then fxVal (fxTrig (fxOf n m e) 1)
    else if magGe m e 32 then .fin n 1 0
    else
      match tanhVal m e with
      | .fin _ a b => .fin n a b
      | v => v

/-- A VFUNC function of an FP32 encoding (R239). -/
def vfunc (fn : Nat) (a : Nat) : Nat := f32Of (vfuncVal fn (f32Val a))

/-! ## The normal table (R186) -/

/-- Sum of (−1)^i z^(2i) z / (2^i i! (2i+1)): the integral of exp(−t²/2) from 0 to z. -/
def erfTerms : Nat → Nat → Int → Int → Int → Int
  | 0, _, _, _, acc => acc
  | k + 1, n, z2, t, acc =>
    let t' := -(fxMul t z2 / (2 * ((n : Int) + 1)))
    erfTerms k (n + 1) z2 t' (acc + t' / (2 * ((n : Int) + 1) + 1))

/-- Φ(z) − 0.5 is at most j / 2,048, for a non-negative fixed-point z: the integral squared against (j / 2,048)² · 2π. -/
def phiAtMost (z : Int) (j : Nat) : Bool :=
  let i := erfTerms 200 0 (fxMul z z) z z
  decide (fxMul i i * (2048 * 2048) ≤ 2 * fxPi * ((j * j : Nat) : Int))

/-- Midpoint between the FP32 value of encoding `c` − 1 and that of `c`, in fixed point, c ≥ 1. -/
def f32Mid (c : Nat) : Int :=
  match (f32Val (c - 1)).add (f32Val c) with
  | .fin n m e => fxOf n m (e - 1)
  | _ => 0

/-- The largest encoding in [lo, lo + 2^k) whose lower midpoint lies at or below Φ^−1(0.5 + j/2,048). -/
def normalSearch (j : Nat) : Nat → Nat → Nat
  | 0, lo => lo
  | k + 1, lo => normalSearch j k (if phiAtMost (f32Mid (lo + 2 ^ k)) j then lo + 2 ^ k else lo)

/-- T[j] of the normal table: the FP32 value nearest to Φ^−1(0.5 + j / 2,048) (R186). -/
def normalTable (j : Nat) : Nat := if j = 0 then 0 else normalSearch j 31 0

end Sys2Proof.Machine
end

