-- ==== Sys2Proof/Machine/Vector.lean ====
section
/-! DEFINITION. Vector instructions (R209, R237 to R243). -/

namespace Sys2Proof.Machine

/-- The lanes P[PM] enables. -/
def State.enabled (s : State) (k : Loc) (f : TensF) (j : Nat) : Bool := bitOf (s.pred k.b f.pm.toNat) j

/-- Enabled lanes given a value, the others none (R209). -/
def State.maskLanes (s : State) (k : Loc) (f : TensF) (g : Nat → Nat) : List (Option Nat) :=
  (List.range 64).map (fun j => if s.enabled k f j then some (g j) else none)

/-- Lanes of V[DD] written under P[PM]. -/
def State.wrV (s : State) (k : Loc) (f : TensF) (vs : List (Option Nat)) : State :=
  s.updStn k (fun t => t.setLanes f.dd.toNat vs)

/-- Operands R237 forbids: LA192, PLAT, BITMAP, and RAW with a format other than FP32 or N32. -/
def vecFmt (d : Desc) (raw : Bool) : Option Flt :=
  if d.fmt = fLa192 ∨ d.layout = layPlat ∨ d.layout = layBitmap ∨ (raw ∧ d.fmt ≠ fFp32 ∧ d.fmt ≠ fN32) then
    some (fcFmtInvalid, d.num)
  else none

/-- An element as a lane receives it (R237): its bits when RAW, else its value rounded to FP32. -/
def State.laneOf (s : State) (k : Loc) (d : Desc) (sc : Option Desc) (raw : Bool) (c : List Int) : Nat :=
  if raw then s.rawAt k d c else f32Of (s.valueAt k d sc c)

/-- The coordinate lane `j` of a first row reads (R237); none beyond the padded extents. -/
def laneCoord (d : Desc) (j : Nat) : Option (List Int) :=
  if j < d.pe 0 ∧ (List.range 4).all (fun i => decide (0 < d.e (i + 1) + d.pa (i + 1))) then
    some [(j : Int) - d.pb 0, 0, 0, 0, 0]
  else none

/-- Slices a first row's read passes through the station transposer (R124): blocks of 16 columns that hold a lane read; none
from survey addresses, or with the reduction axis at axis 0 (DEDUCED, log 206). -/
def Desc.laneSlices (d : Desc) (js : List Nat) : Nat :=
  if d.redAxis = 0 ∨ d.survey then 0
  else ((js.filter (fun j => (laneCoord d j).isSome)).map (· / 16)).eraseDups.length

/-- VLD: the first row of a tensor into lanes (R237). -/
def bodyVld (f : TensF) (v : Env) (s : State) : Res :=
  let k := v.loc
  let raw := decide (f.m 7 1 = 1)
  if !f.okFor (uDD + uDA + uPM) 0x80 then .illegal
  else match s.useDesc v .read f.da.toNat with
    | .error e => .flt e
    | .ok (d, sc, x) =>
      match vecFmt d raw with
      | some e => .flt e
      | none =>
        let spans := (List.range 64).flatMap (fun j =>
          if s.enabled k f j then (match laneCoord d j with | some c => s.touched k d sc c | none => []) else [])
        withInputs v s spans (fun s =>
          match s.poisoned spans with
          | some a => .late (s.shapeClamp k x) fcPoisonConsumed a
          | none =>
            .ok (((s.countSlices k (d.laneSlices ((List.range 64).filter (s.enabled k f)))).wrV k f (s.maskLanes k f (fun j =>
              match laneCoord d j with | some c => s.laneOf k d sc raw c | none => 0))).shapeClamp k x))

/-- VLD (R237). -/
def execVld (stn : BitVec 11) (f : TensF) (s : State) : Out := .next (s.issue stn (tensWord 0x50 f) (goEng engVec (bodyVld f)))

/-- A lane converted for VST (R237): bits when RAW, else rounded to the destination under its given scale. -/
def vstCvt (f : TensF) (d : Desc) (x : Option Int) (u : Nat) (lane : Nat) : Cvt :=
  if f.m 7 1 = 1 then ⟨lane, false, false, false, 0, 0⟩
  else cvtElem d.fmt d.zp x (f32Val lane) (f.m 4 2) u (decide (f.m 6 1 = 1))

/-- The containers of another module that a masked store rewrites in part: their other elements keep their bits, so they
are read first (R209, R237). -/
def State.vstOld (s : State) (k : Loc) (d : Desc) (cs : List Nat) : List (Nat × Nat) :=
  let ec := contElems d.fmt
  if !d.survey ∨ ec = 1 then []
  else (((cs.map (· / ec)).eraseDups).filter (fun i =>
      (List.range ec).any (fun j => decide (i * ec + j < d.e 0) && !cs.contains (i * ec + j)))).map (fun i =>
    (s.dkey k d (d.container [i * ec, 0, 0, 0, 0]).1, contBytes d.fmt)) |>.filter (fun x => keyRemote x.1)

/-- VST: lanes converted into the first row of a tensor (R237). -/
def bodyVst (f : TensF) (v : Env) (s : State) : Res :=
  let k := v.loc
  let raw := decide (f.m 7 1 = 1)
  let sr := decide (f.m 4 2 = rndSr)
  if !f.okFor (uDD + uDA + uPM + (if sr then uSLOT else 0)) 0xF0 then .illegal
  else if f.m 4 2 = 3 then .early fcFmtInvalid f.dd.toNat
  else match s.useDesc v .write f.dd.toNat true with
    | .error e => .flt e
    | .ok (d, sc, x) =>
      match vecFmt d raw with
      | some e => .flt e
      | none =>
        if d.fmt = fE8m0 then .early fcFmtInvalid d.num
        else
          let js := (List.range (min 64 (d.e 0))).filter (s.enabled k f)
          let cs := if d.count = 0 then [] else js
          let spans := match sc with
            | some t => cs.map (fun (j : Nat) => (s.dkey k t (t.container (d.scaleCoord [(j : Int), 0, 0, 0, 0])).1, 1))
            | none => []
          withInputs v s (spans ++ s.vstOld k d cs) (fun s =>
            match s.poisoned spans with
            | some a => .late (s.shapeClamp k x) fcPoisonConsumed a
            | none =>
              let ex := fun j => s.givenExp k d sc [j, 0, 0, 0, 0]
              let one := fun j => vstCvt f d (ex j) (if sr then s.srWord k f.slot.toNat j else 0) ((s.stn k).lane f.da.toNat j)
              let nan := if raw then 0 else (cs.filter (fun j => cvtCounts (ex j) (one j))).length
              let ws := s.packTensor k d false (fun c =>
                if c.drop 1 = [0, 0, 0, 0] ∧ cs.contains (c.headD 0) then some (one (c.headD 0)).raw else none)
              storeRes v s ws (fun s => (s.countCvts k nan (if sr ∧ !raw then cs.length else 0)).shapeClamp k x))

/-- VST (R237). -/
def execVst (stn : BitVec 11) (f : TensF) (s : State) : Out := .next (s.issue stn (tensWord 0x51 f) (goEng engVec (bodyVst f)))

/-- The second operand of lane `j`: V[DB], or S[SX][31:0] with SB (chapter 08, Vector). -/
def State.laneB (s : State) (k : Loc) (f : TensF) (j : Nat) : Nat :=
  if f.m 3 1 = 1 then s.sreg k.b f.sx.toNat % 2 ^ 32 else (s.stn k).lane f.db.toNat j

/-- The fields VARITH and VCMP use: SX with SB, else DB. -/
def sbUse (f : TensF) : Nat := if f.m 3 1 = 1 then uSX else uDB

/-- VARITH's operation (R238). -/
def varithOp (op a b : Nat) : Nat :=
  match op with
  | 0 => f32Add a b
  | 1 => f32Sub a b
  | 2 => f32Mul a b
  | 3 => f32MinMax false a b
  | _ => f32MinMax true a b

/-- VARITH (R238). -/
def bodyVarith (f : TensF) (v : Env) (s : State) : Res :=
  let k := v.loc
  if !f.okFor (uDD + uDA + uPM + sbUse f) 0xF ∨ 5 ≤ f.m 0 3 then .illegal
  else .ok (s.wrV k f (s.maskLanes k f (fun j => varithOp (f.m 0 3) ((s.stn k).lane f.da.toNat j) (s.laneB k f j))))

/-- VARITH (R238). -/
def execVarith (stn : BitVec 11) (f : TensF) (s : State) : Out :=
  .next (s.issue stn (tensWord 0x52 f) (goEng engVec (bodyVarith f)))

/-- VFMA: V[DA] × V[DB] + V[DC] with one rounding (R238). -/
def bodyVfma (f : TensF) (v : Env) (s : State) : Res :=
  let k := v.loc
  let t := s.stn k
  if !f.okFor (uDD + uDA + uDB + uDC + uPM) 0 then .illegal
  else .ok (s.wrV k f (s.maskLanes k f (fun j =>
    f32Fma (t.lane f.da.toNat j) (t.lane f.db.toNat j) (t.lane f.dc.toNat j))))

/-- VFMA (R238). -/
def execVfma (stn : BitVec 11) (f : TensF) (s : State) : Out := .next (s.issue stn (tensWord 0x53 f) (goEng engVec (bodyVfma f)))

/-- VFUNC: a correctly rounded function of each lane (R239). -/
def bodyVfunc (f : TensF) (v : Env) (s : State) : Res :=
  let k := v.loc
  if !f.okFor (uDD + uDA + uPM) 7 then .illegal
  else .ok (s.wrV k f (s.maskLanes k f (fun j => vfunc (f.m 0 3) ((s.stn k).lane f.da.toNat j))))

/-- VFUNC (R239). -/
def execVfunc (stn : BitVec 11) (f : TensF) (s : State) : Out :=
  .next (s.issue stn (tensWord 0x54 f) (goEng engVec (bodyVfunc f)))

/-- A comparison of two FP32 encodings (R240). -/
def vcmpOp (op a b : Nat) : Bool :=
  let x := f32Val a
  let y := f32Val b
  let un := x.isNan || y.isNan
  match op with
  | 0 => x.eqv y
  | 1 => un || !x.eqv y
  | 2 => x.lt y
  | 3 => x.lt y || x.eqv y
  | 4 => y.lt x
  | 5 => y.lt x || x.eqv y
  | 6 => un
  | _ => !un

/-- A predicate with the enabled bits replaced. -/
def mergeMask (old en new : Nat) : Nat :=
  (List.range 64).foldl (fun acc j => acc + (if (if bitOf en j then bitOf new j else bitOf old j) then 2 ^ j else 0)) 0

/-- VCMP: lane comparisons into P[DD] (R219, R240). -/
def bodyVcmp (f : TensF) (v : Env) (s : State) : Res :=
  let k := v.loc
  if !f.okFor (uDD + uDA + uPM + sbUse f) 0xF ∨ 8 ≤ f.dd.toNat then .illegal
  else
    let new := (List.range 64).foldl (fun acc j =>
      acc + (if vcmpOp (f.m 0 3) ((s.stn k).lane f.da.toNat j) (s.laneB k f j) then 2 ^ j else 0)) 0
    .ok (s.setP k.b f.dd.toNat (mergeMask (s.pred k.b f.dd.toNat) (s.pred k.b f.pm.toNat) new))

/-- VCMP (R240). -/
def execVcmp (stn : BitVec 11) (f : TensF) (s : State) : Out := .next (s.issue stn (tensWord 0x55 f) (goEng engVec (bodyVcmp f)))

/-- VSEL: lanes of V[DA] where P[DC] is 1, of V[DB] elsewhere (R219, R240). -/
def bodyVsel (f : TensF) (v : Env) (s : State) : Res :=
  let k := v.loc
  let t := s.stn k
  if !f.okFor (uDD + uDA + uDB + uDC + uPM) 0 ∨ 8 ≤ f.dc.toNat then .illegal
  else .ok (s.wrV k f (s.maskLanes k f (fun j =>
    if bitOf (s.pred k.b f.dc.toNat) j then t.lane f.da.toNat j else t.lane f.db.toNat j)))

/-- VSEL (R240). -/
def execVsel (stn : BitVec 11) (f : TensF) (s : State) : Out := .next (s.issue stn (tensWord 0x56 f) (goEng engVec (bodyVsel f)))

/-- A lane as a term: P, k and whether it is non-finite (R241). -/
def laneTerm (a : Nat) : Int × Int × Bool :=
  match f32Val a with
  | .fin n m e => (if n then -(m : Int) else m, e, false)
  | _ => (0, 0, true)

/-- VRED: lanes added exactly into a tile row (R241, R92). -/
def bodyVred (f : TensF) (v : Env) (s : State) : Res :=
  let k := v.loc
  let ts := f.ts.toNat
  if !f.okFor (uDA + uPM + uTS) 0x1F then .illegal
  else match s.tileLocked k ts with
    | some s => .wait s
    | none =>
      let js := (List.range 64).filter (s.enabled k f)
      let terms := js.map (fun j => (j, laneTerm ((s.stn k).lane f.da.toNat j)))
      let r := terms.foldl (fun acc x => addTermAt (f.m 0 4) (if f.m 4 1 = 1 then 0 else x.1) x.2 acc) ((s.stn k).tile ts, 0)
      let s := s.putTile k ts (r.1.addTerms 1) (r.1.passesLimit 1)
      .ok ((s.countClamp k r.2).countNonfinite k (terms.filter (fun x => x.2.2.2)).length)

/-- VRED (R241). -/
def execVred (stn : BitVec 11) (f : TensF) (s : State) : Out := .next (s.issue stn (tensWord 0x57 f) (goEng engVec (bodyVred f)))

/-- Formats VCVT rounds to (R242). -/
def vcvtFmt (f : Nat) : Bool := [fInt8, fInt4, fFp4, fE2m3, fE3m2, fE4m3, fE5m2, fBf16, fFp16, fFp32].contains f

/-- A lane converted under KIND (R242): its new bits, and whether it counts as a NaN conversion. -/
def vcvtLane (kind fmt rnd u : Nat) (sat : Bool) (a : Nat) : Nat × Bool :=
  if kind = 0 then
    let c := convert fmt 0 (f32Val a) rnd u sat
    (f32Of (decodeVal fmt 0 c.raw), c.nanNo)
  else if kind = 1 then
    let c := cvtInt (2 ^ 31 - 1) 32 (f32Val a) rnd u
    (c.raw, c.nanNo)
  else ((cvtFp fp32 (.ofInt (toSigned 32 a)) rnd u sat).raw, false)

/-- VCVT: each lane converted according to KIND (R242). -/
def bodyVcvt (f : TensF) (v : Env) (s : State) : Res :=
  let k := v.loc
  let fmt := f.m 0 5
  let rnd := f.m 5 2
  let kind := f.m 8 2
  let sr := decide (rnd = rndSr)
  if !f.okFor (uDD + uDA + uPM + (if sr then uSLOT else 0)) 0x3FF then .illegal
  else if kind = 3 ∨ rnd = 3 ∨ (kind = 0 ∧ !vcvtFmt fmt) ∨ (kind ≠ 0 ∧ fmt ≠ 0) then .early fcFmtInvalid f.dd.toNat
  else
    let js := (List.range 64).filter (s.enabled k f)
    let one := fun j =>
      vcvtLane kind fmt rnd (if sr then s.srWord k f.slot.toNat j else 0) (decide (f.m 7 1 = 1)) ((s.stn k).lane f.da.toNat j)
    .ok ((s.wrV k f (s.maskLanes k f (fun j => (one j).1))).countCvts k (js.filter (fun j => (one j).2)).length
      (if sr then js.length else 0))

/-- VCVT (R242). -/
def execVcvt (stn : BitVec 11) (f : TensF) (s : State) : Out := .next (s.issue stn (tensWord 0x58 f) (goEng engVec (bodyVcvt f)))

/-- A use of D[j] by VGATHER: as `useDesc`, but what lies at survey addresses is checked lane by lane (R215, R243). -/
def State.useGather (s : State) (v : Env) (j : Nat) : Except Flt (Desc × Option Desc × Nat) := do
  let d := s.desc v.loc.b j
  let (d, x) ← s.checkBound v d false
  if !d.survey then orFault (s.runCheck v .read false d.base (d.memRuns false))
  if !d.scaled then .ok (d, none, x)
  else
    let c := s.desc v.loc.b d.scaleDesc
    if d.scaleDesc = j ∨ c.layout ≠ layScale ∨ c.fmt ≠ fE8m0 ∨ c.scaled then .error (fcLayoutInvalid, j)
    let (c, y) ← s.checkBound v c true
    if c.ext ≠ d.scaleExts then .error (fcLayoutInvalid, j)
    if !c.survey then orFault (s.runCheck v .read false c.base (c.memRuns false))
    .ok (d, some c, x + y)

/-- Coordinates of a linear index over the extents (R182, R243). -/
def Desc.unlinear (d : Desc) (i : Nat) : List Nat :=
  [i % d.e 0, i / d.e 0 % d.e 1, i / (d.e 0 * d.e 1) % d.e 2, i / (d.e 0 * d.e 1 * d.e 2) % d.e 3,
   i / (d.e 0 * d.e 1 * d.e 2 * d.e 3) % d.e 4]

/-- The late fault of one gathered lane (R243): an index beyond the extents, or a survey address R290 refuses. -/
def State.gatherFault (s : State) (v : Env) (d : Desc) (sc : Option Desc) (i : Nat) : Option Flt :=
  if d.count ≤ i then some (fcAddrInvalid, i)
  else
    let c := d.unlinear i
    match (if d.survey then s.runCheck v .read true d.base [((d.container c).1, contBytes d.fmt)] else none) with
    | some e => some e
    | none =>
      match sc with
      | some t => if t.survey then
          s.runCheck v .read true t.base [((t.container (d.scaleCoord (c.map (fun (x : Nat) => (x : Int))))).1, 1)] else none
      | none => none

/-- VGATHER: lanes loaded at data-chosen indices (R243). -/
def bodyVgather (f : TensF) (v : Env) (s : State) : Res :=
  let k := v.loc
  let raw := decide (f.m 7 1 = 1)
  if !f.okFor (uDD + uDA + uDB + uPM) 0x80 then .illegal
  else match s.useGather v f.db.toNat with
    | .error e => .flt e
    | .ok (d, sc, x) =>
      match vecFmt d raw with
      | some e => .flt e
      | none =>
        let idx := fun j => (s.stn k).lane f.da.toNat j
        let js := (List.range 64).filter (s.enabled k f)
        match js.findSome? (fun j => s.gatherFault v d sc (idx j)) with
        | some e => .late (s.shapeClamp k x) e.1 e.2
        | none =>
          let coord := fun j => (d.unlinear (idx j)).map (fun (x : Nat) => (x : Int))
          let spans := js.flatMap (fun j => s.touched k d sc (coord j))
          withInputs v s spans (fun s =>
            match s.poisoned spans with
            | some a => .late (s.shapeClamp k x) fcPoisonConsumed a
            | none => .ok ((s.wrV k f (s.maskLanes k f (fun j => s.laneOf k d sc raw (coord j)))).shapeClamp k x))

/-- VGATHER (R243). -/
def execVgather (stn : BitVec 11) (f : TensF) (s : State) : Out :=
  .next (s.issue stn (tensWord 0x59 f) (goEng engVec (bodyVgather f)))

end Sys2Proof.Machine
end

