-- ==== Sys2Proof/Machine/Random.lean ====
section
/-! DEFINITION. RNGSET, RAND, SAMPLE, QUANT and DIGEST (R68 to R75, R180 to R191, R250 to R255, R406 to R413, R598,
R599). -/

namespace Sys2Proof.Machine

/-- RNGSET: the seed, a stream or a base written with S[SA] + sext(IMM32) (R250). -/
def bodyRngset (f : ScalF) (v : Env) (s : State) : Res :=
  let b := v.loc.b
  let n := f.fn.toNat
  let x := (s.sreg b f.sa.toNat + sext32 f.imm32) % 2 ^ 64
  if !f.okFor false true false true true then .illegal
  else if n = 0 then .ok (s.wr (Reg.stnRngSeedSeed b) x)
  else if 8 ≤ n ∧ n < 16 then .ok (s.wr (Reg.stnRngStreamStream b (n - 8)) x)
  else if 16 ≤ n ∧ n < 24 then .ok (s.wr (Reg.stnRngBaseBase b (n - 16)) x)
  else .illegal

/-- RNGSET (R250). -/
def execRngset (stn : BitVec 11) (f : ScalF) (s : State) : Out := .next (s.issue stn (scalWord 0x80 f) (goZ (bodyRngset f)))

/-! ## RAND -/

/-- DIST codes (R185). -/
def distRaw : Nat := 0
def distUniform : Nat := 1
def distBernoulli : Nat := 2
def distTable : Nat := 3
def distBm : Nat := 4

/-- A uniform word n × 2^−k as an FP32 encoding. -/
def f32Frac (n k : Nat) : Nat := f32Of (.fin false n (-(k : Int)))

/-- The sign of an FP32 encoding changed. -/
def f32Neg (a : Nat) : Nat := if 2 ^ 31 ≤ a % 2 ^ 32 then a % 2 ^ 32 - 2 ^ 31 else a % 2 ^ 32 + 2 ^ 31

/-- z of NORMAL_TABLE (R186). -/
def normalByTable (w0 : Nat) : Nat :=
  let y := w0 / 2 ^ 41 % 2 ^ 22
  let j := y / 4096
  let t := normalTable j
  let z := if j = 1023 then t else f32Fma (f32Frac (y % 4096) 12) (f32Sub (normalTable (j + 1)) t) t
  if bitOf w0 63 then f32Neg z else z

/-- z of NORMAL_BM (R187). -/
def normalByBm (w : Nat × Nat) : Nat :=
  let u1 := f32Frac (w.1 / 2 ^ 40 + 1) 24
  let u2 := f32Frac (w.2 / 2 ^ 40) 24
  f32Mul (vfunc vfSqrt (f32Mul 0xC0000000 (vfunc vfLog u1))) (vfunc vfCos (f32Mul 0x40C90FDB u2))

/-- The FP32 result of a distribution for one block, its parameters and, for drop-out, the FP32 source element (R185). -/
def distF32 (dist : Nat) (w : Nat × Nat) (p q x : Nat) : Nat :=
  if dist = distUniform then f32Fma (f32Frac (w.1 / 2 ^ 40) 24) (f32Sub q p) p
  else if dist = distBernoulli then (if w.1 / 2 ^ 32 < min (p % 2 ^ 33) (2 ^ 32) then f32Mul x q else 0)
  else if dist = distTable then f32Fma q (normalByTable w.1) p
  else f32Fma q (normalByBm w) p

/-- Destination formats of RAND (R251). -/
def randFmt (dist : Nat) (mask : Bool) (f : Nat) : Bool :=
  if dist = distRaw then decide (f = fFp32) || decide (f = fN32)
  else if mask then decide (f = fInt8) || decide (f = fUint8)
  else decide (f = fFp32) || decide (f = fBf16) || decide (f = fFp16)

/-- Whether a descriptor's elements can be written or read one by one: not a plat or a bitmap. -/
def elemLayout (d : Desc) : Bool := decide (d.layout ≠ layPlat) && decide (d.layout ≠ layBitmap)

/-- Whether a source's padded extents are a destination's extents (R598, R599). -/
def padMatch (a d : Desc) : Bool := (List.range 5).all (fun i => decide (a.pe i = d.e i))

/-- The source coordinate of a destination coordinate (R598, R599). -/
def padCoord (a : Desc) (c : List Nat) : List Int := (List.range 5).map (fun i => (c.getD i 0 : Int) - a.pb i)

/-- All coordinates of a descriptor. -/
def Desc.coords (d : Desc) : List (List Nat) := coordsOf [d.e 0, d.e 1, d.e 2, d.e 3, d.e 4]

/-- A destination of 64-bit elements seen as its 32-bit containers (R251). -/
def Desc.widened (d : Desc) : Desc := { d with ext := d.ext.set 0 (2 * d.e 0) }

/-- What RAND's checks settle: destination, drop-out source with its scales, extents ignored under CLAMP. -/
structure RandPlan where
  dst : Desc
  src : Option (Desc × Option Desc)
  excess : Nat

/-- Whether RAND reads D[DA]. -/
def randDrop (f : TensF) : Bool := decide (f.m 0 3 = distBernoulli) && decide (f.m 3 1 = 0)

/-- The checks of RAND (R185, R251, R598). -/
def randCheck (f : TensF) (v : Env) (s : State) : Except Flt RandPlan := do
  let dist := f.m 0 3
  let wide := bitOf f.mode.toNat 4
  let mask := bitOf f.mode.toNat 3
  if 6 ≤ dist then .error (fcFmtInvalid, f.dd.toNat)
  if dist = 5 ∨ (mask ∧ dist ≠ distBernoulli) ∨ (wide ∧ dist ≠ distRaw)
      ∨ (if dist = distRaw then f.sx ≠ 0 else f.sx = 0 ∨ f.sx = 31) then .error (fcIllegalOp, 0)
  let (d, _, x) ← s.useDesc v .write f.dd.toNat
  if !randFmt dist mask d.fmt ∨ !elemLayout d then .error (fcFmtInvalid, d.num)
  if wide then
    orFault (d.widened.check true)
    orFault (s.runCheck v .write d.survey d.base (d.widened.memRuns (decide (tileCols d.layout ≠ 0) && d.survey)))
  if !randDrop f then .ok ⟨d, none, x⟩
  else
    let (a, asc, y) ← s.useDesc v .read f.da.toNat
    orFault (if a.fmt = fLa192 ∨ !elemLayout a then some (fcFmtInvalid, a.num) else none)
    if !padMatch a d then .error (fcLayoutInvalid, a.num)
    .ok ⟨d, some (a, asc), x + y⟩

/-- The encoding RAND gives a destination element. -/
def State.randElem (s : State) (k : Loc) (f : TensF) (c : RandPlan) (e : List Nat) : Nat :=
  let w := s.draw k f.slot.toNat (c.dst.linear e)
  let p := s.sreg k.b f.sx.toNat
  let q := s.sreg k.b (f.sx.toNat + 1) % 2 ^ 32
  let dist := f.m 0 3
  if dist = distRaw then w.1 / 2 ^ 32
  else if bitOf f.mode.toNat 3 then (if w.1 / 2 ^ 32 < min (p % 2 ^ 33) (2 ^ 32) then 1 else 0)
  else
    let x := match c.src with
      | some (a, asc) => f32Of (s.valueAt k a asc (padCoord a e))
      | none => 0
    let r := distF32 dist w (if dist = distBernoulli then p else p % 2 ^ 32) q x
    if c.dst.fmt = fFp32 then r else (convert c.dst.fmt 0 (f32Val r) rndRne 0 false).raw

/-- RAND: every destination element drawn at its own index (R251). -/
def bodyRand (f : TensF) (v : Env) (s : State) : Res :=
  let k := v.loc
  if !f.okFor (uDD + uSLOT + uSX + (if randDrop f then uDA else 0)) 0x1F then .illegal
  else match randCheck f v s with
    | .error e => .flt e
    | .ok c =>
      let spans := match c.src with | some (a, asc) => s.spansOf k a asc | none => []
      withInputs v s spans (fun s =>
        match s.poisoned spans with
        | some a => .late (s.shapeClamp k c.excess) fcPoisonConsumed a
        | none =>
          let ws :=
            if bitOf f.mode.toNat 4 then
              s.packTensor k c.dst.widened true (fun e =>
                some ((s.draw k f.slot.toNat (c.dst.linear (e.set 0 (e.headD 0 / 2)))).1 / 2 ^ (32 * (e.headD 0 % 2)) % 2 ^ 32))
            else s.packTensor k c.dst true (fun e => some (s.randElem k f c e))
          storeRes v s ws (fun s => (s.countDraws k c.dst.count).shapeClamp k c.excess))

/-- RAND (R251). -/
def execRand (stn : BitVec 11) (f : TensF) (s : State) : Out := .next (s.issue stn (tensWord 0x81 f) (goEng engRqd (bodyRand f)))

/-! ## SAMPLE -/

/-- A candidate: score and key as FP32 encodings, global index (R188). -/
structure Cand where
  score : Nat
  key : Nat
  index : Nat
  deriving DecidableEq, Repr

/-- Candidates in rank order of a field: the higher first, the lower index between equals. R188 orders no NaN key: one
ranks below every other key and equals another NaN (log 252, DESIGN CHOICE). -/
def candInsert (g : Cand → Nat) (c : Cand) : List Cand → List Cand
  | [] => [c]
  | d :: t =>
    let x := f32Val (g c)
    let y := f32Val (g d)
    if keyLt y x || (!keyLt x y && decide (c.index < d.index)) then c :: d :: t else d :: candInsert g c t

/-- A list of candidates sorted by a field. -/
def candSort (g : Cand → Nat) (cs : List Cand) : List Cand := cs.foldl (fun acc c => candInsert g c acc) []

/-- The list a row gives (R188, R252): the mask applied first, then the entry of highest key when there is no mask or
FINAL is set. -/
def candList (topk : Nat) (final : Bool) (cs : List Cand) : List Cand :=
  let kept := if topk = 0 then cs else (candSort Cand.score cs).take topk
  if topk = 0 ∨ final then (candSort Cand.key kept).take 1 else kept

/-- Entries of an output row (R252). -/
def sampleEntries (f : TensF) : Nat := if bitOf f.mode.toNat 1 ∨ f.m 2 7 = 0 then 1 else f.m 2 7

/-- A list as bytes, filled up with empty entries: VALID 0, the marker as INDEX when the row has no candidate, and
free values, the same in every run (R402, R404), where R188 states nothing (log 264). -/
def candBytes (n row : Nat) (cs : List Cand) : List Byte :=
  (cs.flatMap (fun c => leBytes 4 c.score ++ leBytes 4 c.key ++ leBytes 4 c.index ++ [1, 0, 0, 0]))
    ++ (List.range (n - cs.length)).flatMap (fun i =>
      leBytes 8 (Config.emptyEntry row i) ++ (if cs = [] then leBytes 4 0xFFFFFFFF else leBytes 4 (Config.emptyEntry row i / 2 ^ 64))
        ++ [0, 0, 0, 0])

/-- The Gumbel term of a block (R188). -/
def gumbel (w0 : Nat) : Nat :=
  let t := f32Of (vfuncVal vfLog (.fin false (2 * (w0 / 2 ^ 40) + 1) (-25)))
  f32Neg (vfunc vfLog (f32Neg t))

/-- +Inf in FP32. -/
def f32Inf : Nat := 0x7F800000

/-- Whether a score takes part (R188). -/
def scoreIn (invt : Nat) (x : FVal) : Bool :=
  match x with
  | .nan => false
  | .inf true => !(match f32Val invt with | .fin _ m _ => decide (m ≠ 0) | _ => false)
  | _ => true

/-- Source and destination rows of SAMPLE with the extents ignored under CLAMP. -/
structure SamplePlan where
  src : Desc
  ssc : Option Desc
  dst : Desc
  excess : Nat

/-- The checks of SAMPLE (R188, R252). The excess of the product over 2^32 − 1 keeps its low 32 bits in STN_FAULT_INFO
(log 86). -/
def sampleCheck (f : TensF) (v : Env) (s : State) : Except Flt SamplePlan := do
  if 64 < f.m 2 7 then .error (fcIllegalOp, 0)
  let merge := bitOf f.mode.toNat 0
  let (a, asc, x) ← s.useDesc v .read f.da.toNat
  let (d, _, y) ← s.useDesc v .write f.dd.toNat
  if merge then
    if a.layout ≠ layDense ∨ a.fmt ≠ fUint8 ∨ a.e 0 % 16 ≠ 0 then .error (fcLayoutInvalid, a.num)
  else
    if ! [fFp32, fBf16, fFp16].contains a.fmt ∨ !elemLayout a then .error (fcFmtInvalid, a.num)
  if d.layout ≠ layDense ∨ d.fmt ≠ fUint8 ∨ d.e 0 ≠ 16 * sampleEntries f then .error (fcLayoutInvalid, d.num)
  if (List.range 4).any (fun i => decide (a.e (i + 1) ≠ d.e (i + 1))) then .error (fcLayoutInvalid, d.num)
  if !merge ∧ 2 ^ 32 ≤ a.count then .error (fcShapeOver, (a.count - (2 ^ 32 - 1)) % 2 ^ 32 * 2 ^ 32)
  .ok ⟨a, asc, d, x + y⟩

/-- Candidates of a score row (R188). -/
def State.scoreCands (s : State) (k : Loc) (f : TensF) (c : SamplePlan) (r : List Nat) : List Cand :=
  let invt := s.sreg k.b f.sx.toNat % 2 ^ 32
  (List.range (c.src.e 0)).filterMap (fun (i : Nat) =>
    let e := i :: r
    let x := s.valueAt k c.src c.ssc (e.map (fun (n : Nat) => (n : Int)))
    if !scoreIn invt x then none
    else
      let sc := f32Of x
      let n := c.src.linear e
      some ⟨sc, if invt = f32Inf then sc else f32Fma sc invt (gumbel (s.draw k f.slot.toNat n).1), n⟩)

/-- Candidates of a row of whole lists (R188). A VALID byte that is neither 0 nor 1 counts as empty (log 253,
DESIGN CHOICE). -/
def State.listCands (s : State) (k : Loc) (c : SamplePlan) (r : List Nat) : List Cand :=
  (List.range (c.src.e 0 / 16)).filterMap (fun i =>
    let w := s.natAt (s.dkey k c.src (c.src.container (16 * i :: r)).1) 16
    if bitsAt w 96 8 = 1 then some ⟨bitsAt w 0 32, bitsAt w 32 32, bitsAt w 64 32⟩ else none)

/-- SAMPLE: candidate lists formed or merged, row by row (R188, R252). -/
def bodySample (f : TensF) (v : Env) (s : State) : Res :=
  let k := v.loc
  if !f.okFor (uDD + uDA + uSLOT + uSX) 0x1FF then .illegal
  else match sampleCheck f v s with
    | .error e => .flt e
    | .ok c =>
      let merge := bitOf f.mode.toNat 0
      let spans := s.spansOf k c.src c.ssc
      withInputs v s spans (fun s =>
        match s.poisoned spans with
        | some a => .late (s.shapeClamp k c.excess) fcPoisonConsumed a
        | none =>
          let n := sampleEntries f
          let rows := if c.dst.count = 0 then [] else coordsOf [c.dst.e 1, c.dst.e 2, c.dst.e 3, c.dst.e 4]
          let list := fun r =>
            candList (f.m 2 7) (bitOf f.mode.toNat 1) (if merge then s.listCands k c r else s.scoreCands k f c r)
          let ws := rows.zipIdx.flatMap (fun r =>
            spread (s.dkey k c.dst (c.dst.container (0 :: r.1)).1)
              (candBytes n r.2 (list r.1)))
          let draws := if merge ∨ s.sreg k.b f.sx.toNat % 2 ^ 32 = f32Inf then 0 else c.src.count
          storeRes v s ws (fun s =>
            (s.countDraws k draws).shapeClamp k c.excess))

/-- SAMPLE (R252). -/
def execSample (stn : BitVec 11) (f : TensF) (s : State) : Out :=
  .next (s.issue stn (tensWord 0x82 f) (goEng engRqd (bodySample f)))

/-! ## QUANT -/

/-- SMODE codes (R253). -/
def smNone : Nat := 0
def smGiven : Nat := 1
def smFloor : Nat := 2

/-- EMAX, and MAXF as m · 2^e (R69). -/
def quantMax (f : Nat) : Int × Nat × Int :=
  if f = fInt8 then (6, 127, 0)
  else if f = fInt4 then (2, 7, 0)
  else match fpFmt f with
    | some p => ((maxFin p).2, (maxFin p).1, (maxFin p).2 - p.mbits)
    | none => (0, 1, 0)

/-- The larger of two finite magnitudes; non-finite values are ignored (R68). -/
def amaxOf (vs : List FVal) : Nat × Int :=
  vs.foldl (fun a x =>
    match x with
    | .fin _ m e => if (FVal.fin false a.1 a.2).lt (.fin false m e) then (m, e) else a
    | _ => a) (0, 0)

/-- The exponent X that FLOOR or CEIL chooses for a group (R68). -/
def chooseExp (smode fmt : Nat) (vs : List FVal) : Int :=
  let a := amaxOf vs
  if a.1 = 0 then 0
  else
    let q := quantMax fmt
    let x : Int := (ilog2 a.1 : Int) + a.2 - q.1
    let x := if smode = smFloor ∨ !(FVal.fin false q.2.1 q.2.2).lt (.fin false a.1 (a.2 - x)) then x else x + 1
    max (-127) (min 127 x)

/-- e² of R71 with 32 fractional bits: `val` is the source value, `x` its group's exponent. -/
def errSq (val : FVal) (x : Option Int) (c : Cvt) : Nat :=
  match val, x with
  | .fin n m e, some x =>
    if !c.fin then 0
    else
      let k := e - x - c.lsb + 16
      let q : Nat := if 0 ≤ k then m * 2 ^ k.toNat else m / 2 ^ (-k).toNat
      let d := ((if n then -(q : Int) else q) - c.y * 65536).natAbs
      min d (2 ^ 31) ^ 2
  | _, _ => 0

/-- One element of a quantisation: destination coordinates, group, source value with its C flag, group exponent,
conversion. -/
structure QEl where
  co : List Nat
  grp : List Nat
  val : FVal
  c : Bool
  x : Option Int
  cv : Cvt

/-- Operands of QUANT: the FP32 source with its scale tensor, the destination with its own, the statistics tensor. -/
structure QuantPlan where
  src : Option (Desc × Option Desc)
  dst : Desc
  dsc : Option Desc
  stats : Option Desc
  excess : Nat

/-- The group size of a destination: a plat's is its header's (R73, R138). -/
def State.qGroup (s : State) (k : Loc) (d : Desc) : Nat := if d.layout = layPlat then (s.platHdr k d).sg else d.g

/-- Extents of the statistics tensor: one entry per group (R73). The spec states no check of the tensor beyond DENSE with
32-bit containers (R253): a format other than FP32 and N32 takes FMT_INVALID, extents other than the destination's with
RED_AXIS replaced by the group count LAYOUT_INVALID (DESIGN CHOICE, log 215). -/
def State.qStatExts (s : State) (k : Loc) (d : Desc) : List Nat :=
  d.ext.set d.redAxis ((d.e d.redAxis + s.qGroup k d - 1) / s.qGroup k d)

/-- The first axis on which a tile cannot fill the destination (R253, R599). -/
def tileOver (d : Desc) : Option Flt :=
  (List.range 5).findSome? (fun a =>
    let lim := if a = 0 then 64 else if a = 1 then 16 else 1
    if lim < d.e a then some (fcShapeOver, a + (d.e a - lim) % 2 ^ 32 * 2 ^ 32) else none)

/-- The checks of QUANT that need no plat header (R63, R69, R200, R253): source, destination with its scales, and the extents
ignored under CLAMP. -/
def quantOps (f : TensF) (v : Env) (s : State) : Except Flt (Option (Desc × Option Desc) × (Desc × Option Desc) × Nat) := do
  let tile := bitOf f.mode.toNat 0
  let smode := f.m 1 2
  if 5 ≤ f.m 7 3 ∨ (!tile ∧ bitOf f.mode.toNat 10) then .error (fcIllegalOp, 0)
  if f.m 3 2 = 3 then .error (fcFmtInvalid, f.dd.toNat)
  let (src, x) ← (if tile then .ok (none, 0) else do
    let (a, asc, x) ← s.useDesc v .read f.da.toNat
    if a.fmt ≠ fFp32 ∨ !elemLayout a then .error (fcFmtInvalid, a.num)
    .ok (some (a, asc), x) : Except Flt (Option (Desc × Option Desc) × Nat))
  let (d, dsc, y) ← s.useDesc v .write f.dd.toNat (decide (smode = smGiven))
  if d.layout = layBitmap ∨ (d.layout ≠ layPlat ∧ (d.fmt = fLa192 ∨ d.fmt = fE8m0)) then .error (fcFmtInvalid, d.num)
  .ok (src, (d, dsc), x + y)

/-- The checks of QUANT (R63, R69, R115, R152, R253, R599). -/
def quantCheck (f : TensF) (v : Env) (s : State) : Except Flt QuantPlan := do
  let (src, (d, dsc), x) ← quantOps f v s
  let smode := f.m 1 2
  let plat := decide (d.layout = layPlat)
  if plat then
    orFault (s.platCheck v .write d)
    if !d.fitsPlat (s.platHdr v.loc d) then .error (fcLayoutInvalid, d.num)
  if smode ≠ smNone ∧ !(if plat then (s.platHdr v.loc d).scaled else d.scaled) then .error (fcLayoutInvalid, d.num)
  if smFloor ≤ smode ∧ !fmtScalable (if plat then (s.platHdr v.loc d).fmt else d.fmt) then .error (fcFmtInvalid, d.num)
  match src with
  | some (a, _) => if !padMatch a d then .error (fcLayoutInvalid, a.num)
  | none => orFault (tileOver d)
  if !bitOf f.mode.toNat 6 then .ok ⟨src, d, dsc, none, x⟩
  else
    let (g, _, z) ← s.useDesc v .write f.dc.toNat
    if g.layout ≠ layDense then .error (fcLayoutInvalid, g.num)
    if g.fmt ≠ fFp32 ∧ g.fmt ≠ fN32 then .error (fcFmtInvalid, g.num)
    if g.ext ≠ s.qStatExts v.loc d then .error (fcLayoutInvalid, g.num)
    .ok ⟨src, d, dsc, some g, x + z⟩

/-- A source element of QUANT and its C flag: from an FP32 tensor, a group scale applied where the tensor has one (R48), or
tile element (c1, c0) with TL (R62, R599). -/
def State.quantVal (s : State) (k : Loc) (f : TensF) (p : QuantPlan) (c : List Nat) : FVal × Bool :=
  match p.src with
  | some (a, asc) => (s.valueAt k a asc (padCoord a c), false)
  | none =>
    let t := (s.stn k).tile f.ts.toNat
    let x := t.at (c.getD 1 0) (c.getD 0 0)
    (decodeVal fLa192 0 x.encode, x.c || t.tl)

/-- Whether a destination element takes a skipped sub-tile's fill (R163). -/
def State.quantSkip (s : State) (k : Loc) (f : TensF) (p : QuantPlan) (c : List Nat) : Bool :=
  p.src.isNone && colSkipped ((s.stn k).tile f.ts.toNat).skip (c.getD 0 0)

/-- The fill value of a FILL code in the destination format (R115, R163, R253). -/
def quantFill (f : TensF) (d : Desc) (fmt : Nat) : Nat := ({ d with pad := f.m 7 3, fmt := fmt } : Desc).padRaw

/-- Destination coordinates that convert an element: all of a tensor's, a plat's accepted slots (R152), without
skipped sub-tiles. -/
def State.quantCoords (s : State) (k : Loc) (f : TensF) (p : QuantPlan) : List (List Nat) :=
  let all :=
    if p.dst.layout = layPlat then
      let h := s.platHdr k p.dst
      (List.range h.rows).flatMap (fun r => (s.platSlots k p.dst h r).map (fun x => p.dst.platCoord r x.1))
    else p.dst.coords
  all.filter (fun c => !s.quantSkip k f p c)

/-- The elements of a quantisation, converted with their groups' exponents (R68 to R72). -/
def State.quantEls (s : State) (k : Loc) (f : TensF) (p : QuantPlan) : List QEl :=
  let d := p.dst
  let h := s.platHdr k d
  let plat := decide (d.layout = layPlat)
  let fmt := if plat then h.fmt else d.fmt
  let g := s.qGroup k d
  let smode := f.m 1 2
  let raw := (s.quantCoords k f p).map (fun c => (c, c.set d.redAxis (c.getD d.redAxis 0 / g), s.quantVal k f p c))
  let groups := (raw.map (fun x => x.2.1)).eraseDups
  let exps := groups.map (fun gr =>
    let x : Option Int :=
      if smode = smNone then some 0
      else if smode = smGiven then
        (if plat then scaleExp (s.platScale k d h (gr.getD d.rowAxis 0) (gr.getD d.redAxis 0 * g))
         else s.givenExp k d p.dsc (gr.set d.redAxis (gr.getD d.redAxis 0 * g)))
      else some (chooseExp smode fmt ((raw.filter (fun y => y.2.1 = gr)).map (fun y => y.2.2.1)))
    (gr, x))
  raw.map (fun x =>
    let e := ((exps.find? (fun y => y.1 = x.2.1)).map (·.2)).getD none
    let u := if f.m 3 2 = rndSr then s.srWord k f.slot.toNat (d.linear x.1) else 0
    ⟨x.1, x.2.1, x.2.2.1, x.2.2.2, e, cvtElem fmt d.zp e x.2.2.1 (f.m 3 2) u (bitOf f.mode.toNat 5)⟩)

/-- Whether an element counts as saturated (R72, R254), and as non-finite in its group (R73). -/
def QEl.sat (x : QEl) : Bool := x.cv.sat || x.c
def QEl.nonfin (x : QEl) : Bool := x.val.nonfinite || x.x.isNone

/-- The statistics entry of a group (R73). -/
def statEntry (els : List QEl) : Nat :=
  min 255 (els.filter QEl.sat).length + min 255 (els.filter QEl.nonfin).length * 2 ^ 8
    + min 0xFFFF ((els.map (fun x => errSq x.val x.x x.cv)).foldl (· + ·) 0 / 2 ^ 28) * 2 ^ 16

/-- The scale byte of a chosen exponent. -/
def expByte (x : Option Int) : Nat := match x with | some e => (e + 127).toNat | none => 0xFF

/-- Byte writes of a quantisation: values and fills, chosen scales, statistics. -/
def State.quantWrites (s : State) (k : Loc) (f : TensF) (p : QuantPlan) (els : List QEl) : List (Nat × Byte) :=
  let d := p.dst
  let h := s.platHdr k d
  let enc := fun (fmt : Nat) (c : List Nat) =>
    match els.find? (fun x => x.co = c) with
    | some x => x.cv.raw
    | none => quantFill f d fmt
  let expOf := fun (g : List Nat) =>
    match els.find? (fun x => x.grp = g) with
    | some x => expByte x.x
    | none => 0x7F
  let choose := decide (smFloor ≤ f.m 1 2)
  let vals :=
    if d.layout = layPlat then s.platValueWrites k d h (fun r q => enc h.fmt (d.platCoord r q))
    else s.packTensor k d true (fun c => some (enc d.fmt c))
  let scales :=
    if !choose then []
    else if d.layout = layPlat then
      (List.range h.rows).flatMap (fun r =>
        spread (s.dkey k d (h.scaleOff + r * h.scols : Nat))
          ((List.range h.scols).map (fun q => BitVec.ofNat 8 (expOf (d.platCoord r q)))))
    else match p.dsc with
      | some t => s.packTensor k t true (fun g => some (expOf g))
      | none => []
  let stats := match p.stats with
    | some t => s.packTensor k t true (fun g => some (statEntry (els.filter (fun x => x.grp = g))))
    | none => []
  vals ++ scales ++ stats

/-- The station's quantiser statistics at a retirement with ENABLE at 1 (R74, R75). -/
def State.quantStats (s : State) (k : Loc) (els : List QEl) : State :=
  let b := k.b
  if !s.flag (Reg.stnQstCtlEnable b) then s
  else
    let old := s.rd (Reg.stnQstSatSat b)
    let s := s.inc (Reg.stnQstCountCount b) els.length
    let s := s.inc (Reg.stnQstSatSat b) (els.filter QEl.sat).length
    let s := s.inc (Reg.stnQstSseSse b) ((els.map (fun x => errSq x.val x.x x.cv)).foldl (· + ·) 0)
    let s := s.wr (Reg.stnQstSeqSeq b) (s.rd (Reg.stnQstSeqSeq b) + 1)
    let thr := s.rd (Reg.stnQstCtlSatThresh b)
    if old < thr ∧ thr ≤ s.rd (Reg.stnQstSatSat b) then s.stnEvent k 0x1020 [s.meridian.toNat] else s

/-- What QUANT does once its tile is free and its inputs are there. -/
def quantApply (f : TensF) (p : QuantPlan) (v : Env) (spans : List (Nat × Nat)) (s : State) : Res :=
  let k := v.loc
  match s.poisoned spans with
  | some a => .late (s.shapeClamp k p.excess) fcPoisonConsumed a
  | none =>
    let els := s.quantEls k f p
    let drops := if p.dst.layout = layPlat then
      (let h := s.platHdr k p.dst; (List.range h.rows).flatMap (s.platRow k p.dst h)) else []
    storeRes v s (s.quantWrites k f p els) (fun s =>
      let s := (s.quantStats k els).countCvts k (els.filter (fun x => cvtCounts x.x x.cv)).length
        (if f.m 3 2 = rndSr then els.length else 0)
      let s := (s.platDrops k drops).shapeClamp k p.excess
      if bitOf f.mode.toNat 10 then
        (s.updStn k (fun t => t.setTile f.ts.toNat (t.tile f.ts.toNat).clear)).chainServe k
      else s)

/-- QUANT: a tile or an FP32 tensor quantised (R253). -/
def bodyQuant (f : TensF) (v : Env) (s : State) : Res :=
  let k := v.loc
  let tile := bitOf f.mode.toNat 0
  if !f.okFor (uDD + uSLOT + (if tile then uTS else uDA) + (if bitOf f.mode.toNat 6 then uDC else 0)) 0x7FF then .illegal
  else match quantOps f v s with
  | .error e => .flt e
  | .ok _ => withHeads v s (s.platHeads v .write f.dd.toNat) (fun s =>
    match quantCheck f v s with
    | .error e => .flt e
    | .ok p =>
      match (if tile then (s.tileLocked k f.ts.toNat).orElse (fun _ => s.tileExpects k f.ts.toNat) else none) with
      | some s => .wait s
      | none =>
        let given := if f.m 1 2 = smGiven then
            (match p.dsc with | some t => (t.memRuns false).map (fun r => (s.dkey k t r.1, r.2)) | none => []) else []
        let mask := if p.dst.layout = layPlat then
            s.platAll k p.dst (s.platHdr k p.dst) false (decide (f.m 1 2 = smGiven)) false else []
        let spans := (match p.src with | some (a, asc) => s.spansOf k a asc | none => []) ++ given ++ mask
        withInputs v s spans (quantApply f p v spans))

/-- QUANT (R253). -/
def execQuant (stn : BitVec 11) (f : TensF) (s : State) : Out := .next (s.issue stn (tensWord 0x83 f) (goEng engRqd (bodyQuant f)))

/-! ## DIGEST -/

/-- A witness record of the image (R406). -/
structure WitRec where
  k0 : Nat
  k1 : Nat
  origin : List Nat
  gext : List Nat
  mark : Bool

/-- Witness record `i` of a parcel's image. -/
def State.witRec (s : State) (p i : Nat) : WitRec :=
  let b := s.img p 48 4 + 64 * i
  ⟨s.img p b 8, s.img p (b + 8) 8, (List.range 5).map (fun a => s.img p (b + 16 + 4 * a) 4),
   (List.range 4).map (fun a => s.img p (b + 36 + 4 * a) 4), bitOf (s.img p (b + 56) 1) 0⟩

/-- A witness term (R408). -/
def witTerm (r : WitRec) (x lo hi : Nat) : Nat :=
  let w := rngBlock (r.k0 ^^^ lo) (r.k1 ^^^ hi) x
  w.2 * 2 ^ 64 + w.1

/-- The global index of an element (R407). -/
def witIndex (r : WitRec) (c : List Nat) : Nat :=
  let g := fun a => r.origin.getD a 0 + c.getD a 0
  let e := fun a => r.gext.getD a 0
  (g 0 + e 0 * (g 1 + e 1 * (g 2 + e 2 * (g 3 + e 3 * g 4)))) % 2 ^ 64

/-- The terms of an element with its encoding (R408). -/
def witTerms (r : WitRec) (fmt : Nat) (c : List Nat) (raw : Nat) : List Nat :=
  let x := witIndex r c
  if fmt = fLa192 then
    [witTerm r x (raw % 2 ^ 64) (raw / 2 ^ 64 % 2 ^ 64),
     witTerm r x (raw / 2 ^ 128 % 2 ^ 64) (2 ^ 63 + raw / 2 ^ 192 % 4)]
  else [witTerm r x raw 0]

/-- The empty marker (R409). -/
def witMarker (r : WitRec) : Nat := witTerm r (2 ^ 64 - 1) 1 (2 ^ 62)

/-- The plats of a PLAT descriptor with their coordinates on axes 2 to 4. -/
def Desc.platsAt (d : Desc) : List (Desc × List Nat) := d.plats.zip (coordsOf [d.e 2, d.e 3, d.e 4])

/-- Whether a digest's source has a zero extent. -/
def State.digEmpty (s : State) (k : Loc) (d : Desc) : Bool :=
  if d.layout = layPlat then d.plats.all (fun p => let h := s.platHdr k p; decide (h.rows * h.k = 0)) else decide (d.count = 0)

/-- The terms of a source (R408). -/
def State.digTerms (s : State) (k : Loc) (r : WitRec) (d : Desc) : List Nat :=
  if d.layout = layPlat then
    d.platsAt.flatMap (fun p =>
      let h := s.platHdr k p.1
      (List.range h.rows).flatMap (fun row => (s.platSlots k p.1 h row).flatMap (fun x =>
        witTerms r h.fmt (x.1 :: row :: p.2) (s.platVal k p.1 h row x.2))))
  else if d.layout = layBitmap then
    (s.bytesAt (s.dkey k d 0) (bitmapBytes (d.e 0) (d.e 1))).zipIdx.flatMap (fun b => witTerms r fUint8 [b.2, 0, 0, 0, 0] b.1.toNat)
  else d.coords.flatMap (fun c => witTerms r d.fmt c (s.stored k d c))

/-- The spans a digest reads. -/
def State.digSpans (s : State) (k : Loc) (d : Desc) : List (Nat × Nat) :=
  if d.layout = layPlat then
    d.plats.flatMap (fun p => s.platAll k p (s.platHdr k p) true false false)
  else s.spansOf k d none

/-- The checks of DIGEST (R255, R410): source, then witness piece, then record. -/
def digCheck (f : TensF) (v : Env) (s : State) : Except Flt (Desc × Desc × Nat) := do
  let (a, _, x) ← s.useDesc v .read f.da.toNat
  if a.layout = layPlat then
    for p in a.plats do
      orFault (s.platCheck v .read p)
  let (d, _, y) ← s.useDesc v .write f.dd.toNat
  if d.survey ∨ d.layout ≠ layDense ∨ d.fmt ≠ fUint8 ∨ d.e 0 ≠ 16 ∨ d.base % 16 ≠ 0 then .error (fcLayoutInvalid, d.num)
  if s.img v.parcel 52 2 ≤ f.m 0 16 then .error (fcIllegalOp, 0)
  .ok (a, d, x + y)

/-- DIGEST: the terms of a tensor added to a witness piece (R255, R408 to R410, R413). -/
def bodyDigest (f : TensF) (v : Env) (s : State) : Res :=
  let k := v.loc
  if !f.okFor (uDD + uDA) 0xFFFF then .illegal
  else match s.useDesc v .read f.da.toNat with
  | .error e => .flt e
  | .ok _ => withHeads v s (s.platHeads v .read f.da.toNat) (fun s =>
    match digCheck f v s with
    | .error e => .flt e
    | .ok (a, d, x) =>
      let spans := s.digSpans k a
      withInputs v s spans (fun s =>
        let piece := s.dkey k d 0
        match s.poisoned (spans ++ [(piece, 16)]) with
        | some p => .late (s.shapeClamp k x) fcPoisonConsumed p
        | none =>
          let r := s.witRec v.parcel (f.m 0 16)
          let empty := s.digEmpty k a
          let ts := if empty then [] else s.digTerms k r a
          let sum := (ts ++ (if empty && r.mark then [witMarker r] else [])).foldl (· + ·) (s.natAt piece 16)
          let drops := if a.layout = layPlat then
            a.plats.flatMap (fun p => let h := s.platHdr k p; (List.range h.rows).flatMap (s.platRow k p h)) else []
          storeRes v s (spread piece (leBytes 16 sum)) (fun s =>
            let s := if ts = [] then s else s.inc (Reg.stnDigTermsCount k.b) ts.length
            let s := if empty then s.inc (Reg.stnDigMarksEmpty k.b) else s
            let s := if empty && r.mark then s.inc (Reg.stnDigMarksMarks k.b) else s
            (s.platDrops k drops).shapeClamp k x)))

/-- DIGEST (R255). -/
def execDigest (stn : BitVec 11) (f : TensF) (s : State) : Out :=
  .next (s.issue stn (tensWord 0x84 f) (goEng engRqd (bodyDigest f)))

end Sys2Proof.Machine
end

