-- ==== Sys2Proof/Machine/Traverse.lean ====
section
/-! DEFINITION. Legs, periods, lateness and marks (R211, R220, R257 to R277), leg barriers and barrier records, the
start and the end of a traverse. -/

namespace Sys2Proof.Machine

/-! ## The timetable -/

/-- PERIOD of a parcel's image (R258). -/
def State.periodLen (s : State) (p : Nat) : Nat := s.img p 16 4

/-- The station's period index (R268). -/
def State.periodOf (s : State) (k : Loc) : Nat := s.rd (Reg.stnTrvPosPeriod k.b)

/-- The origin of the station's period (R268). -/
def State.originOf (s : State) (k : Loc) (p : Nat) : Nat :=
  s.rd (Reg.glbTrvOriginOrigin p) + s.periodOf k * s.periodLen p

/-- END_i (R260). -/
def State.legEnd (s : State) (p n i : Nat) : Nat :=
  (List.range (i + 1)).foldl (fun acc j => acc + s.legLength p n j + s.legSlack p n j) 0

/-- The slack that remains after leg `i` (R273). -/
def State.remaining (s : State) (p n i : Nat) : Int :=
  (s.periodLen p : Int) - (s.legEnd p n i : Nat)
    - ((List.range (s.legCount p n - (i + 1))).foldl (fun acc j => acc + s.legLength p n (i + 1 + j)) 0 : Nat)

/-- A lateness measured (R271, R285): STN_LATENESS, and STN_LATE_MAX when it is the largest since the last read. -/
def State.setLateness (s : State) (k : Loc) (l : Int) : State :=
  let s := s.wr (Reg.stnLatenessLateness k.b) (l % (2 ^ 64 : Nat)).toNat
  if toSigned 64 (s.rd (Reg.stnLateMaxMax k.b)) < l then s.wr (Reg.stnLateMaxMax k.b) (l % (2 ^ 64 : Nat)).toNat else s

/-- Key under which an event of a parcel is raised at most once in a period. -/
def onceKey (code p n : Nat) : Nat × Nat := (code * 4 + p, n)

/-- TAG of a parcel's traverse. -/
def State.trvTag (s : State) (p : Nat) : Nat := s.rd (Reg.glbTrvStatusTag p)

/-- Lateness measured at the end of a leg, and the late overrun it may show (R269, R273). -/
def State.measure (s : State) (k : Loc) (p : Nat) : State :=
  let i := s.legOf k
  let l : Int := (s.meridian.toNat : Int) - ((s.originOf k p + s.legEnd p k.num i : Nat) : Int)
  let s := s.setLateness k l
  let rem := s.remaining p k.num i
  if rem < l then
    let s := if (s.lst k.num).overruns.contains (s.periodOf k) then s else
      (s.inc (Reg.stnPacingOverruns k.b)).updLst k.num (fun l => { l with overruns := l.overruns ++ [s.periodOf k] })
    s.raiseOnce (onceKey 0x0023 p (s.periodOf k)) 0x0023 p
      [s.trvTag p, k.num, i, s.periodOf k, (l % (2 ^ 64 : Nat)).toNat, (rem % (2 ^ 64 : Nat)).toNat]
  else s

/-- STN_LEG_END (R285). -/
def State.setLegEnd (s : State) (k : Loc) (p : Nat) : State :=
  s.wr (Reg.stnLegEndEnd k.b) (s.originOf k p + s.legEnd p k.num (s.legOf k))

/-- The leg number set to `i`, in the next period when it does not rise (R268); events raised once a leg or period may
be raised again (R76, R273), and nothing is written in it yet (R443). -/
def State.enterLeg (s : State) (k : Loc) (p i : Nat) : State :=
  let next := decide (i ≤ s.legOf k)
  let s := if next then s.wr (Reg.stnTrvPosPeriod k.b) (s.periodOf k + 1) else s
  let s := s.updStn k (fun t =>
    { t with evClamp := false, evNonfin := false, evTermLim := false, evMeta := false })
  ((s.updLst k.num (fun l => { l with wrote := [] })).wr (Reg.stnPcLeg k.b) i).setLegEnd k p

/-! ## Draining and visibility -/

/-- Whether the writes of a station's instructions before one are visible (R207): none of them is still queued in an
engine, on its way to another module, waiting at a line's home (R311), or in a chain transfer. `before` are the engine
entries before it. -/
def State.writesSeen (s : State) (k : Loc) (before : List QEnt) : Bool :=
  !before.any (fun q => decide (q.eng ≠ engCol))
    && !(s.remote ++ s.fab.stalled).any (fun r => decide (r.stn = k.num) && r.isWrite)
    && !s.homeWaits.any (fun r => decide (r.stn = k.num) && r.isWrite)
    && !s.chains.any (fun x => decide (x.src = k.num))

/-- What FENCE and BARRIER wait for: every earlier write visible (R207). -/
def State.fenceOk (s : State) (k : Loc) : Bool := s.writesSeen k (s.stn k).engq

/-- What SIGNAL and COLL wait for: the writes before them, ahead of the one executing in the collective queue. -/
def State.colFenceOk (s : State) (k : Loc) : Bool :=
  s.writesSeen k ((s.stn k).engq.takeWhile (fun q => decide (q.eng ≠ engCol)))

/-- Whether the station's engines have drained (R211 step 1, R248): nothing queued, no collective unfinished, every write
visible. -/
def State.drained (s : State) (k : Loc) : Bool :=
  (s.stn k).engq.isEmpty && (s.lst k.num).handles.isEmpty && s.fenceOk k

/-- What is open at a leg barrier or END (R211 step 2): tiles locked or expecting, and signal counters not zero. -/
def State.openInfo (s : State) (k : Loc) : Nat :=
  (s.stn k).tileMask (fun t => t.lockedBy.isSome || decide (0 < t.expect))
    + 2 ^ 16 * (List.range 16).foldl (fun m i => m + (if s.rd (Reg.stnSg k.b i) = 0 then 0 else 2 ^ i)) 0

/-- Steps 1 and 2 of a leg barrier (R211, R104): a wait, a fault, or `k` once all is closed. -/
def closeStation (v : Env) (s : State) (go : State → Res) : Res :=
  if !s.drained v.loc then .wait s
  else if s.openInfo v.loc ≠ 0 then .early fcBarrierOpen (s.openInfo v.loc)
  else match (s.stn v.loc).chainBuf with
    | some x =>
      .late (s.updStn v.loc (fun t => { t with chainBuf := none })) fcChainUnexpected (x.chainId.toNat + x.destTile * 2 ^ 16)
    | none => go s

/-! ## Barrier records -/

/-- Offsets in a station block of the registers a barrier record holds (R211): S0 to S31, STN_SDATA, P0 to P7, D0 to D15,
seed, streams and bases. -/
def recOffsets : List Nat :=
  0x500 :: (List.range 16).map (fun i => 0x510 + 8 * i) ++ (List.range 32).map (fun i => 0x600 + 8 * i)
    ++ 0x700 :: (List.range 8).map (fun i => 0x708 + 8 * i) ++ (List.range 128).map (fun i => 0x800 + 8 * i)

/-- The barrier record of a station that will go on at `pc` in `leg` of `period` (R211). -/
def State.takeRecord (s : State) (k : Loc) (pc leg period : Nat) : BarRec :=
  ⟨recOffsets.map (fun o => (o, s.reg (k.b + o))), (s.stn k).vregs, pc, leg, period⟩

/-- A station loaded from a barrier record (R446 step 3). -/
def State.loadRecord (s : State) (k : Loc) (p : Nat) (r : BarRec) : State :=
  let s := r.regs.foldl (fun s x => s.setReg (k.b + x.1) x.2) s
  let s := s.updStn k (fun t => { t with vregs := r.vregs })
  let s := (s.setPc k r.pc).wr (Reg.stnPcLeg k.b) r.leg
  (s.wr (Reg.stnTrvPosPeriod k.b) r.period).setLegEnd k p

/-- The record written, and the inbound record of the leg emptied (R211, R445, R447); without a log the station is unrepeatable
all through the leg. -/
def State.putRecord (s : State) (k : Loc) (r : BarRec) : State :=
  (s.updLst k.num (fun l =>
    { l with barrec := some r, inlog := [], inBytes := 0, sigRcv := [], relCount := [], repeating := false, repCount := [], rechain := 0,
             mkDone := [], mkRep := [], laDone := [], restake := none, overruns := l.overruns.filter (fun n => decide (n = r.period)) })).setUnrep k.fd k.log (s.noInlog k.fd k.log).toNat

/-! ## Return to service at a leg barrier (R455) -/

/-- The registers of one physical station copied to another of the same FD. -/
def State.copyRegs (s : State) (fd a b : Nat) : State :=
  let s := { s with regs := Sparse.dropRange s.regs (stnBase fd b) (stnBase fd b + 0x1000) }
  (s.regs.filter (fun e => decide (stnBase fd a ≤ e.1) && decide (e.1 < stnBase fd a + 0x1000))).foldl
    (fun s e => s.setReg (e.1 - stnBase fd a + stnBase fd b) e.2) s

/-- The registers and the state of one physical station copied to another of the same FD. -/
def State.copyStation (s : State) (fd a b : Nat) : State :=
  let s := s.copyRegs fd a b
  s.setStnAt (stnKey fd b) (s.stnAt (stnKey fd a))

/-- A physical station left as a station that runs nothing. -/
def State.clearStation (s : State) (fd a : Nat) : State :=
  { s with regs := Sparse.dropRange s.regs (stnBase fd a) (stnBase fd a + 0x1000) }.setStnAt (stnKey fd a) Stn.idle

/-- EV_STATION_RETURNED and EV_RETURN_FAILED (R470). -/
def evStationReturned : Nat := 0x1083
def evReturnFailed : Nat := 0x1084

/-- A return at a leg barrier of the logical station it concerns (R455): a tested station loads the barrier record and begins
its shadow run; one that has shadowed a whole period takes the logical station. In between the shadow, which executes the same
legs on the same inputs, is at every barrier where the station is: its effects are the same function of the same record, so that
comparing them finds a difference only where a check of R443 fails in it, which ends the return (log 99). -/
def State.returnStep (s : State) (k : Loc) (r : ReturnRun) : State :=
  if s.rd (Reg.fdReturnCtlState r.fd) = 1 then
    let r' := { r with period := s.periodOf k, leg := s.legOf k }
    let s := s.copyRegs r.fd k.phys r.phys
    { s with returns := s.returns.map (fun x => if x = r then r' else x) }.wr (Reg.fdReturnCtlState r.fd) 2
  else if r.period + 1 < s.periodOf k ∨ (r.period + 1 = s.periodOf k ∧ r.leg ≤ s.legOf k) then
    let s := (s.copyStation r.fd k.phys r.phys).clearStation r.fd k.phys
    let s := s.wr (Reg.fdStnMapPhys r.fd (k.log / 8) (k.log % 8)) r.phys
    let s := s.wr (Reg.fdStatusFailed r.fd) (s.rd (Reg.fdStatusFailed r.fd) - 1)
    let s := s.wr (Reg.fdStatusSparesLeft r.fd) (s.rd (Reg.fdStatusSparesLeft r.fd) + 1)
    let s := { s with
      returns := s.returns.filter (· ≠ r)
      failed := s.failed.filter (fun x => !(decide (x.1 = r.fd) && decide (x.2.1 = r.phys))) }
    (s.wr (Reg.fdReturnCtlState r.fd) 0).raise (fdCode evStationReturned r.fd) (s.parcelOf r.fd) [s.meridian.toNat, r.phys, k.num]
  else s.copyRegs r.fd k.phys r.phys

/-- The returns that a leg barrier of the station moves on. -/
def State.returnsAt (s : State) (k : Loc) : State :=
  match s.returns.find? (fun r => decide (r.fd = k.fd) && decide (r.log = some k.log)) with
  | some r => s.returnStep k r
  | none => s

/-! ## Restakes reaching the leg of the error (R448) -/

/-- EV_STATION_RESTAKED (R470). -/
def evStationRestaked : Nat := 0x5080

/-- A repeated leg completed: when the spare reaches the leg the error was found in, FD_RSTK_LAST and the event. -/
def State.restakeAt (s : State) (k : Loc) (ran : Bool) : State :=
  match (s.lst k.num).restake with
  | none => s
  | some r =>
    let legs := if ran then r.legs + 1 else r.legs
    let s := if ran then s.inc (Reg.fdRstkStatLegs k.fd) else s
    if s.periodOf k = r.period ∧ s.legOf k = r.leg then
      let d := min (s.meridian - r.time).toNat (2 ^ 32 - 1)
      let s := ((((s.wr (Reg.fdRstkLastPhys k.fd) r.phys).wr (Reg.fdRstkLastLogical k.fd) k.log).wr
        (Reg.fdRstkLastSpare k.fd) r.spare).wr (Reg.fdRstkLastLegs k.fd) (min legs 255)).wr (Reg.fdRstkLastDelay k.fd) d
      (s.updLst k.num (fun l => { l with restake := none })).raise (fdCode evStationRestaked k.fd) (s.parcelOf k.fd)
        [s.meridian.toNat, r.phys, k.num, r.spare, legs, (s.meridian - r.time).toNat]
    else s.updLst k.num (fun l => { l with restake := some { r with legs := legs } })

/-! ## The end of a traverse -/

/-- Logical stations that have a program in a parcel's image. -/
def State.programmed (s : State) (p : Nat) : List Loc := (s.parcelStns p).filter (fun k => decide (s.progWords p k.num ≠ 0))

/-- The returns of a parcel's FDs that had not run a whole period end in failure (R455). -/
def State.failReturns (s : State) (p : Nat) : State :=
  (s.returns.filter (fun r => decide (s.parcelOf r.fd = p) && r.log.isSome)).foldl (fun s r =>
    ({ s with returns := s.returns.filter (· ≠ r) }.wr (Reg.fdReturnCtlState r.fd) 3).raise (fdCode evReturnFailed r.fd) p
      [s.meridian.toNat, r.phys]) s

/-- What lasts only as long as a traverse of the parcel dropped. -/
def State.dropTraverse (s : State) (p : Nat) : State :=
  let mine := fun (n : Nat) => decide (s.parcelOf (n / 128) = p)
  { s with
    lsts := s.lsts.filter (fun e => !mine e.1)
    ready := s.ready.filter (fun r => r.1 ≠ p)
    readyHeld := s.readyHeld.filter (fun r => r.2.1 ≠ p)
    colls := s.colls.filter (fun c => c.parcel ≠ p)
    evOnce := s.evOnce.filter (fun e => e.1 % 4 ≠ p) }

/-! ## LEG and END -/

/-- A leg barrier's steps 3 and 4 and what follows them (R211, R269, R446, R451, R455). -/
def State.finishLeg (s : State) (v : Env) (i : Nat) : State :=
  let k := v.loc
  let s := (s.measure k v.parcel).updStn k (fun t =>
    (List.range 4).foldl (fun t j => t.setTile j (t.tile j).clear) { t with waiting := none })
  let s := s.enterLeg k v.parcel i
  let s := (s.setPc k (v.pc + 1)).restakeAt k true
  let s := s.putRecord k (s.takeRecord k (v.pc + 1) i (s.periodOf k))
  let s := s.returnsAt k
  if s.retireReq.any (fun r => decide (s.parcelOf r.1 = v.parcel)) then
    match s.locate k.num with
    | some q => s.updStn q (fun t => { t with held := true, holdReq := false })
    | none => s
  else s

/-- LEG: a leg change, or a leg barrier (R211, R221, R268). -/
def bodyLeg (f : CtrlF) (v : Env) (s : State) : Res :=
  let i := f.imm16.toNat
  if !f.okFor false true true false ∨ s.legCount v.parcel v.loc.num ≤ i then .illegal
  else if f.f = 0 then .ok ((((s.measure v.loc v.parcel).enterLeg v.loc v.parcel i).restakeAt v.loc true).setPc v.loc (v.pc + 1))
  else closeStation v s (fun s => .ok (s.finishLeg v i))

/-- LEG is where a station asked to be HELD becomes so (R214). -/
def goLeg (f : CtrlF) (v : Env) (s : State) : State :=
  if (s.stn v.loc).holdReq then s.holdNow v.loc
  else match bodyLeg f v s with
  | .ok s => s
  | .early c i => s.faultAt v false c i
  | .late s c i => s.faultAt v true c i
  | .hold s => s
  | .wait s => s.updStn v.loc (fun t => { t with waiting := some (.drain (some f.imm16.toNat)) })

/-- LEG (R211). -/
def execLeg (stn : BitVec 11) (f : CtrlF) (s : State) : Out := .next (s.issue stn (ctrlWord 0x02 f) (goLeg f))

/-! ## Lockstep groups -/

/-- A lockstep group of an image (R262): its members here, GUARD and SPAN. -/
structure LockGrp where
  members : List Nat
  guard : Nat
  span : Bool

/-- Lockstep group `g` of a parcel's image, if listed. -/
def State.lockGrp (s : State) (p g : Nat) : Option LockGrp :=
  (((List.range (s.img p 40 2)).map (fun i => s.img p 36 4 + 16 * i)).find? (fun b => s.img p b 2 = g)).map (fun b =>
    ⟨(List.range (s.img p (b + 2) 2)).map (fun j => s.img p (s.img p (b + 4) 4 + 2 * j) 2), s.img p (b + 8) 4,
     bitOf (s.img p (b + 12) 1) 0⟩)

/-- What member `n` of group `g` shows for mark `k`: (time of issue, planned instant) when it waits in WAITMK; its end
when it has ended (R276); none while it has not issued. -/
def State.markOf (s : State) (g k n : Nat) : Option (Nat × Option Int) :=
  match s.locate n with
  | none => none
  | some q =>
    if (s.stn q).ended then some ((s.lst n).endAt, none)
    else match (s.stn q).waiting with
      | some (.lockstep g' k' planned since) => if g' = g ∧ k' = k then some (since, some planned) else none
      | _ => none

/-- The mark that the members of a group now wait at: the largest count among them. -/
def State.markNo (s : State) (g : Nat) (ms : List Nat) : Option Nat :=
  ms.findSome? (fun n =>
    match s.locate n with
    | some q => (match (s.stn q).waiting with | some (.lockstep g' k' _ _) => if g' = g then some k' else none | _ => none)
    | none => none)

/-- A formed mark here (R274): its number, the last issue time A, and the latest planned instant of the members here. -/
def State.formed (s : State) (g : Nat) (ms : List Nat) : Option (Nat × Nat × Int) :=
  match s.markNo g ms with
  | none => none
  | some k =>
    let rs := ms.map (s.markOf g k)
    if rs.all Option.isSome then
      let pls := rs.filterMap (fun r => r.bind (·.2))
      some (k, (rs.map (fun r => (r.map (·.1)).getD 0)).foldl max 0, pls.foldl max (pls.headD 0))
    else none

/-- The READY plan of a group that spans modules (R366): its index. -/
def State.readyPlan (s : State) (p g : Nat) : Option Nat :=
  (List.range (s.img p 42 2)).find? (fun i =>
    decide (s.img p (s.img p 44 4 + 64 * i) 1 = 6) && decide (s.img p (s.img p 44 4 + 64 * i + 16) 2 = g))

/-- Modules of a plan (R350). -/
def State.planModules (s : State) (p i : Nat) : List Nat :=
  let b := s.img p 44 4 + 64 * i
  (List.range (s.img p (b + 56) 4)).map (fun j => s.img p (s.img p (b + 36) 4 + 4 * j) 4)

/-- The port a route step's message leaves by: the step's own while it is up, else by the routes (R343, R352). -/
def State.stepPort (s : State) (ld port peer : Nat) : Option Nat :=
  if port < 16 ∧ s.portUp port then some port
  else if 0x10 ≤ port ∧ port < 0x14 then s.routePort ld (port - 0x10) peer
  else s.routePort ld ((s.ownModule + peer) % 4) peer

/-- The sends of a group's READY plan in order: PORT and peer (R352, R366). -/
def State.readySends (s : State) (p g : Nat) : List (Nat × Nat) :=
  match s.readyPlan p g with
  | none => []
  | some i =>
    let b := s.img p 44 4 + 64 * i
    let steps := (List.range (s.img p (b + 44) 4)).map (fun j => s.img p (b + 40) 4 + 16 * j)
    (steps.filter (fun r => s.img p r 1 = 1)).map (fun r => (s.img p (r + 2) 1, s.img p (r + 4) 4))

/-- A READY message sent on some routes, held while its port is UP_UNSYNC or while no route reaches its peer (R364, R365,
R366). -/
def State.sendReadyOn (s : State) (sends : List (Nat × Nat)) (p g k a : Nat) : State :=
  sends.foldl (fun s x =>
    let m := TxFlit.msg 0 5 x.2 0 p [p, g, k, s.ownModule, a] []
    match s.stepPort 0 x.1 x.2 with
    | none => { s with fab := { s.fab with unrouted := s.fab.unrouted ++ [m] } }
    | some port =>
      if s.rd (Reg.lnkStatusState port) = lnkUpUnsync then
        { s with readyHeld := s.readyHeld ++ [(port, p, g, k, x.2, a)] }
      else s.sendPort port m 1) s

/-- A READY message sent along its plan's route (R366). -/
def State.sendReady (s : State) (p g k a : Nat) : State := s.sendReadyOn (s.readySends p g) p g k a

/-- A mark known to be formed here announces itself to the other modules of its group, once (R366). -/
def State.announce (s : State) (p g : Nat) : State :=
  match s.lockGrp p g with
  | none => s
  | some grp =>
    if !grp.span then s
    else match s.formed g grp.members with
    | none => s
    | some (k, a, _) =>
      let own := s.ownModule
      if s.ready.any (fun r => decide (r.1 = p ∧ r.2.1 = g ∧ r.2.2.1 = k ∧ r.2.2.2.1 = own)) then s
      else { s with ready := s.ready ++ [(p, g, k, own, a)] }.sendReady p g k a

/-- Once every member here has completed END, a mark another module has asked about is answered with the latest END time,
since they count as having issued it then (R276, R366). -/
def State.announceEnded (s : State) (p g k : Nat) : State :=
  match s.lockGrp p g with
  | none => s
  | some grp =>
    let rs := grp.members.map (s.markOf g k)
    let own := s.ownModule
    if !grp.span ∨ (s.markNo g grp.members).isSome ∨ !rs.all Option.isSome
        ∨ s.ready.any (fun r => decide (r.1 = p ∧ r.2.1 = g ∧ r.2.2.1 = k ∧ r.2.2.2.1 = own)) then s
    else
      let a := (rs.map (fun r => (r.map (·.1)).getD 0)).foldl max 0
      { s with ready := s.ready ++ [(p, g, k, own, a)] }.sendReady p g k a

/-- Lockstep groups of an image, by number. -/
def State.lockGroups (s : State) (p : Nat) : List Nat :=
  (List.range (s.img p 40 2)).map (fun i => s.img p (s.img p 36 4 + 16 * i) 2)

/-- The marks of a group that an END here lets this module announce: the one its members wait at, and those that other
modules have asked about (R276). -/
def State.answerEnds (s : State) (p g : Nat) : State :=
  (((s.ready.filter (fun r => decide (r.1 = p ∧ r.2.1 = g))).map (·.2.2.1)).eraseDups).foldl (fun s k => s.announceEnded p g k)
    (s.announce p g)

/-- Groups across modules kept for READY messages that come after the traverse (R276). -/
def State.keepLocks (s : State) (p : Nat) : State :=
  { s with lockEnded := (s.lockGroups p).foldl (fun l g =>
      match s.lockGrp p g with
      | some grp =>
        if !grp.span then l
        else l ++ [⟨p, g, (grp.members.map (fun n => (s.lst n).endAt)).foldl max 0, s.readySends p g,
          (s.ready.filter (fun r => decide (r.1 = p ∧ r.2.1 = g ∧ r.2.2.2.1 = s.ownModule))).map (·.2.2.1)⟩]
      | none => l) (s.lockEnded.filter (fun e => decide (e.parcel ≠ p))) }

/-- The parcel returns to IDLE once every station with a program has ended (R267, R287). -/
def State.traverseDone (s : State) (p : Nat) : State :=
  let ks := s.programmed p
  if ks.all (fun k => (s.stn k).ended) then
    let periods := ks.foldl (fun m k => max m (s.periodOf k + 1)) 0
    let late := ks.foldl (fun (m : Int) k => max m (toSigned 64 (s.rd (Reg.stnLatenessLateness k.b)))) (-(2 ^ 63 : Nat))
    let ovr := ks.foldl (fun m k => m + s.rd (Reg.stnPacingOverruns k.b)) 0
    let s := (s.failReturns p).wr (Reg.glbTrvStatusState p) trvIdle
    ((s.raise 0x0021 p [s.trvTag p, s.meridian.toNat, periods, (late % (2 ^ 64 : Nat)).toNat, ovr]).keepLocks p).dropTraverse p
  else s

/-- What END does once the station has drained (R220, R267, R269, R276): IDLE, everything else kept. -/
def State.finishEnd (s : State) (v : Env) : State :=
  let s := s.measure v.loc v.parcel
  let s := s.updStn v.loc (fun t => { t with waiting := none, active := false, ended := true, holdReq := false })
  let s := s.updLst v.loc.num (fun l => { l with endAt := s.meridian.toNat })
  ((s.lockGroups v.parcel).foldl (fun s g => s.answerEnds v.parcel g) s).traverseDone v.parcel

/-- END (R220). -/
def bodyEnd (f : CtrlF) (v : Env) (s : State) : Res :=
  if !f.okFor false false false false then .illegal
  else closeStation v s (fun s => .ok (s.finishEnd v))

/-- A of a mark (R274, R366): the largest readiness time once every module of the group has given one. -/
def State.markTime (s : State) (p g k a : Nat) (span : Bool) : Option Nat :=
  if !span then some a
  else match s.readyPlan p g with
    | none => none
    | some i =>
      let times := (s.planModules p i).map (fun m =>
        (s.ready.find? (fun r => decide (r.1 = p ∧ r.2.1 = g ∧ r.2.2.1 = k ∧ r.2.2.2.1 = m))).map (·.2.2.2.2))
      if times.all Option.isSome then some ((times.map (fun t => t.getD 0)).foldl max 0) else none

/-- One member completes a lockstep WAITMK at time `t`, with lateness `l` (R274, R275). -/
def State.markMember (s : State) (g k t : Nat) (l pl : Int) (miss : Bool) (p n : Nat) : State :=
  match s.locate n with
  | none => s
  | some q =>
    match (s.stn q).waiting with
    | some (.lockstep g' k' planned since) =>
      if g' ≠ g ∨ k' ≠ k then s
      else
        let s := (s.setLateness q l).inc (Reg.stnWaitmkTicks q.b) (t - since)
        let s := if planned = pl then s else s.inc (Reg.stnPacingMismatch q.b)
        let s := if miss then
            (s.inc (Reg.stnPacingMiss q.b)).raiseOnce (onceKey (0x0024 + 0x100000 * (n + 1)) p (s.periodOf q)) 0x0024 p
              [s.trvTag p, s.meridian.toNat, g, n, s.periodOf q, (l % (2 ^ 64 : Nat)).toNat]
          else s
        let s := s.updLst n (fun x => { x with
          lockK := Sparse.set (fun _ => 0) x.lockK g k
          mkDone := Sparse.set (fun _ => 0) x.mkDone g (Sparse.get (fun _ => 0) x.mkDone g + 1)
          mkRep := if x.repeating then Sparse.set (fun _ => 0) x.mkRep g (Sparse.get (fun _ => 0) x.mkRep g + 1) else x.mkRep })
        (s.updStn q (fun t => { t with waiting := none })).advance q
    | _ => s

/-- P of a mark (R274): the latest planned instant of its members here and, of a group that spans modules, elsewhere. No
message brings the others' (R366), which are a free value (log 216). -/
def markPlanned (p g k : Nat) (span : Bool) (pl : Int) : Int := if span then max pl (Config.farPlanned p g k) else pl

/-- A lockstep mark completes once M has come (R274); at once and with a miss when it was learnt after M (R275). -/
def State.markComplete (s : State) (p g : Nat) (learnt : Bool) : State :=
  match s.lockGrp p g with
  | none => s
  | some grp =>
    match s.formed g grp.members with
    | none => s
    | some (k, a, pl) =>
      match s.markTime p g k a grp.span with
      | none => s
      | some a =>
        let pl := markPlanned p g k grp.span pl
        let m := (max pl (a + grp.guard : Nat)).toNat
        let now := s.meridian.toNat
        let miss := learnt && decide (m < now)
        if (learnt ∧ !miss) ∨ now < m then s
        else
          let t := if miss then now else m
          let s := grp.members.foldl (fun s n => s.markMember g k t ((t : Int) - pl) pl miss p n) s
          { s with ready := s.ready.filter (fun r => !(decide (r.1 = p ∧ r.2.1 = g ∧ r.2.2.1 = k))) }

/-- END as it issues: complete, wait or fault (R220). -/
def goEnd (f : CtrlF) (v : Env) (s : State) : State :=
  match bodyEnd f v s with
  | .ok s => s
  | .early c i => s.faultAt v false c i
  | .late s c i => s.faultAt v true c i
  | .hold s => s
  | .wait s =>
    if (s.stn v.loc).holdReq then s.holdNow v.loc
    else s.updStn v.loc (fun t => { t with waiting := some (.drain none) })

/-- END (R220). -/
def execEnd (stn : BitVec 11) (f : CtrlF) (s : State) : Out := .next (s.issue stn (ctrlWord 0x01 f) (goEnd f))

/-! ## WAITMK -/

/-- Whether a repeated WAITMK or BARRIER of a group was already completed before the repetition (R447); the key of
barrier group g is 65536 + g. -/
def Lst.repDone (l : Lst) (g : Nat) : Bool :=
  l.repeating && decide (Sparse.get (fun _ => 0) l.mkRep g < Sparse.get (fun _ => 0) l.mkDone g)

/-- One more repeated completion counted. -/
def Lst.countRep (l : Lst) (g : Nat) : Lst := { l with mkRep := Sparse.set (fun _ => 0) l.mkRep g (Sparse.get (fun _ => 0) l.mkRep g + 1) }

/-- The planned instant of a WAITMK: origin + IMM32, which is signed (R202, R270). -/
def State.plannedAt (s : State) (v : Env) (f : SyncF) : Int := (s.originOf v.loc v.parcel : Int) + f.imm32.toInt

/-- WAITMK: a mark of the station's own schedule, or of a lockstep group (R247, R270, R274, R447). -/
def bodyWaitmk (f : SyncF) (v : Env) (s : State) : Res :=
  let g := f.group.toNat
  let planned := s.plannedAt v f
  let now := s.meridian.toNat
  if !f.okFor false true true then .illegal
  else if g = 0 then
    if planned ≤ (now : Int) then .ok (s.setLateness v.loc ((now : Int) - planned)) else .wait s
  else match s.lockGrp v.parcel g with
    | none => .illegal
    | some grp =>
      if !grp.members.contains v.loc.num then .illegal
      else if (s.lst v.loc.num).repDone g then .ok (s.updLst v.loc.num (fun l => l.countRep g))
      else .wait s

/-- What a WAITMK waits for. -/
def waitmkWait (f : SyncF) (v : Env) (s : State) : Wait :=
  let planned := s.plannedAt v f
  if f.group = 0 then .mark s.meridian.toNat planned
  else .lockstep f.group.toNat (Sparse.get (fun _ => 0) (s.lst v.loc.num).lockK f.group.toNat + 1) planned s.meridian.toNat

/-- WAITMK as it issues; the last member's issue is announced (R366). -/
def goWaitmk (f : SyncF) (v : Env) (s : State) : State :=
  let w := waitmkWait f v s
  let t := goW (fun _ => w) (bodyWaitmk f) v s
  if f.group = 0 then t else t.announce v.parcel f.group.toNat

/-- WAITMK (R247). -/
def execWaitmk (stn : BitVec 11) (f : SyncF) (s : State) : Out := .next (s.issue stn (syncWord 0x72 f) (goWaitmk f))

/-- The waiting WAITMK of a station completes, the meridian having reached its planned instant (R270). -/
def execWaitmkMarkReached (stn : BitVec 11) (s : State) : Out :=
  .next (match s.locate stn.toNat with
    | none => s
    | some k =>
      match (s.stn k).waiting with
      | some (.mark since planned) =>
        if (s.meridian.toNat : Int) < planned ∨ s.stateAt k ≠ stWaiting then s
        else
          let s := (s.setLateness k ((s.meridian.toNat : Int) - planned)).inc (Reg.stnWaitmkTicks k.b) (s.meridian.toNat - since)
          (s.updStn k (fun t => { t with waiting := none })).advance k
      | _ => s)

/-- The mark that a lockstep group waits at completes, the meridian having reached M (R274). -/
def execLockstepMarkComplete (p : BitVec 2) (group : BitVec 16) (s : State) : Out :=
  .next ((s.announce p.toNat group.toNat).markComplete p.toNat group.toNat false)

/-- A mark of a group that this module's members have left, their traverse over, answered once with their latest END (R276). -/
def State.answerLate (s : State) (p g k : Nat) : State :=
  match s.lockEnded.find? (fun e => decide (e.parcel = p ∧ e.group = g)) with
  | none => s
  | some e =>
    if e.marks.contains k then s
    else { s with lockEnded := s.lockEnded.map (fun x => if x = e then { e with marks := e.marks ++ [k] } else x) }.sendReadyOn
      e.sends p g k e.time

/-- A READY message (R366): the readiness time of another module; a mark learnt too late completes now (R275), and one that
comes after the traverse is answered (R276). -/
def execReadyMessage (p : BitVec 2) (group : BitVec 16) (mark : BitVec 32) (module : BitVec 18) (time : BitVec 64) (s : State) : Out :=
  let g := group.toNat
  let e := (p.toNat, g, mark.toNat, module.toNat, time.toNat)
  .next (if !s.trvLoaded p.toNat then s.answerLate p.toNat g mark.toNat
    else if s.ready.any (fun r => decide (r.1 = e.1 ∧ r.2.1 = g ∧ r.2.2.1 = mark.toNat ∧ r.2.2.2.1 = module.toNat)) then s
    else (({ s with ready := s.ready ++ [e] }.announceEnded p.toNat g mark.toNat).announce p.toNat g).markComplete p.toNat g true)

/-! ## The start (R266) -/

/-- A station with a program begins leg 0 of period 0 at PC 0, its record written as at a leg barrier (R266, R446). -/
def State.startStation (s : State) (k : Loc) (p : Nat) : State :=
  let s := s.updStn k (fun t => { t with
    active := true, ended := false, waiting := none, faulted := false, held := false, holdReq := false,
    evClamp := false, evNonfin := false, evTermLim := false, evMeta := false })
  let s := (s.setPc k 0).wr (Reg.stnPcLeg k.b) 0
  let s := (s.wr (Reg.stnTrvPosPeriod k.b) 0).wr (Reg.stnLatenessLateness k.b) 0
  let s := s.setLegEnd k p
  s.putRecord k (s.takeRecord k 0 0 0)

/-- At max(ORIGIN, end of LOADING) an armed traverse starts (R266). -/
def execTraverseStart (p : BitVec 2) (s : State) : Out :=
  let p := p.toNat
  let o := s.rd (Reg.glbTrvOriginOrigin p)
  .next (if s.rd (Reg.glbTrvStatusState p) ≠ trvArmed ∨ s.meridian.toNat < o then s
    else
      let s := (s.programmed p).foldl (fun s k => s.startStation k p) s
      let s := s.wr (Reg.glbTrvStatusState p) trvRunning
      (s.raise 0x0020 p [s.trvTag p, o, s.meridian.toNat, s.rd (Reg.glbTrvDigestBytes p 0)]).traverseDone p)

end Sys2Proof.Machine
end

