-- ==== Sys2Proof/Machine/Sync.lean ====
section
/-! DEFINITION. FENCE, BARRIER, SIGNAL, WAITSIG, COLLWAIT (R207, R208, R247, R248), deliveries between stations, and how a
waiting station goes on once what it waits for has come about (R205). -/

namespace Sys2Proof.Machine

/-! ## Barrier groups -/

/-- Members of barrier group `g` of a parcel's image, if listed (R262). -/
def State.barrierGrp (s : State) (p g : Nat) : Option (List Nat) :=
  (((List.range (s.img p 30 2)).map (fun i => s.img p 32 4 + 8 * i)).find? (fun b => s.img p b 2 = g)).map (fun b =>
    (List.range (s.img p (b + 2) 2)).map (fun j => s.img p (s.img p (b + 4) 4 + 2 * j) 2))

/-- Whether a member has arrived: it waits in BARRIER of the group and its earlier writes are visible (R207, R208). -/
def State.arrived (s : State) (g n : Nat) : Bool :=
  match s.locate n with
  | some k => decide ((s.stn k).waiting = some (.barrier g)) && s.fenceOk k
  | none => false

/-- A waiting station goes on behind its instruction. -/
def State.goOn (s : State) (k : Loc) : State := (s.updStn k (fun t => { t with waiting := none })).advance k

/-- A barrier completes for all its members once all have arrived (R208). -/
def State.tryBarrier (s : State) (p g : Nat) : State :=
  match s.barrierGrp p g with
  | none => s
  | some ms =>
    if ms.all (s.arrived g) then
      ms.foldl (fun s n =>
        match s.locate n with
        | some k => (s.updLst n (fun l =>
            let l := { l with mkDone := Sparse.set (fun _ => 0) l.mkDone (65536 + g) (Sparse.get (fun _ => 0) l.mkDone (65536 + g) + 1) }
            if l.repeating then l.countRep (65536 + g) else l)).goOn k
        | none => s) s
    else s

/-! ## Waits that end -/

/-- The instruction word at a word offset of a station's program (R192). -/
def State.wordAt (s : State) (p n pc : Nat) : BitVec 64 := BitVec.ofNat 64 (s.img p (s.progOff p n + 8 * pc) 8)

/-- Whether a collective handle of a station is bound: by a collective under way, or by a COLL or LASUM that has issued and
is still queued (R248, R249). -/
def State.handleBusy (s : State) (k : Loc) (h : Nat) : Bool :=
  (s.lst k.num).handles.any (fun x => x.1 = h)
    || (s.stn k).engq.any (fun q => [0x75, 0x77].contains (q.word.toNat / 2 ^ 56) && decide ((tensOf q.word).m 16 4 = h))

/-- A waiting END or leg barrier goes on once the station has drained. -/
def State.wakeDrain (s : State) (k : Loc) (leg : Option Nat) : State :=
  let v := s.env k (s.wordAt (s.parcelOf k.fd) k.num (s.pcOf k))
  match closeStation v s (fun s => .ok (match leg with | some i => s.finishLeg v i | none => s.finishEnd v)) with
  | .ok s => s
  | .early c i => s.faultAt v false c i
  | .late s c i => s.faultAt v true c i
  | .wait s => s
  | .hold s => s

/-- An increment, or the opposite of a WAITSIG's count, added to a signal counter (R208): it saturates above, the
saturation counted; where a negative IMM32 would bring it below zero R208 states no value, which is free (log 217). -/
def State.bumpSignal (s : State) (k : Loc) (c : Nat) (n : Int) : State :=
  let g := Reg.stnSg k.b c
  let v := (s.rd g : Int) + n
  if v < 0 then s.free.2.wr g s.free.1
  else (if (2 ^ 32 : Nat) ≤ v then s.inc (Reg.stnSelClampOvf k.b) else s).wr g (min v.toNat (2 ^ 32 - 1))

/-- WAITSIG's subtraction (R208). -/
def State.takeSignal (s : State) (k : Loc) (c : Nat) (n : Int) : State := s.bumpSignal k c (-n)

/-- A station whose awaited condition holds goes on (R205). -/
def State.wake (s : State) (k : Loc) : State :=
  match (s.stn k).waiting with
  | some (.drain leg) => s.wakeDrain k leg
  | some .fence => if s.fenceOk k then s.goOn k else s
  | some (.barrier g) => s.tryBarrier (s.parcelOf k.fd) g
  | some (.sig c n) => if n ≤ (s.rd (Reg.stnSg k.b c) : Int) then (s.takeSignal k c n).goOn k else s
  | some (.coll h) => if s.handleBusy k h then s else s.goOn k
  | _ => s

/-- The place of the station with a physical key, if it holds a logical station. -/
def State.locOf (s : State) (key : Nat) : Option Loc := (s.logOf (key / 256) (key % 256)).map (fun l => ⟨key / 256, l, key % 256⟩)

/-- Every waiting station whose condition now holds goes on. -/
def State.settle (s : State) : State :=
  ((s.stns.filter (fun e => e.2.waiting.isSome)).map (·.1)).foldl (fun s key =>
    match s.locOf key with
    | some k => s.wake k
    | none => s) s

/-! ## Instructions -/

/-- FENCE (R207). -/
def bodyFence (f : SyncF) (v : Env) (s : State) : Res :=
  if !f.okFor false false false then .illegal else if s.fenceOk v.loc then .ok s else .wait s

/-- FENCE (R207). -/
def execFence (stn : BitVec 11) (f : SyncF) (s : State) : Out :=
  .next (s.issue stn (syncWord 0x70 f) (goW (fun _ => .fence) (bodyFence f)))

/-- BARRIER: it waits for every member; one repeated that had completed completes at once (R208, R247, R447). -/
def bodyBarrier (f : SyncF) (v : Env) (s : State) : Res :=
  let g := f.group.toNat
  if !f.okFor false true false then .illegal
  else match s.barrierGrp v.parcel g with
    | none => .illegal
    | some ms =>
      if !ms.contains v.loc.num then .illegal
      else if (s.lst v.loc.num).repDone (65536 + g) then .ok (s.updLst v.loc.num (fun l => l.countRep (65536 + g)))
      else .wait s

/-- BARRIER as it issues: the last member's issue completes it. -/
def goBarrier (f : SyncF) (v : Env) (s : State) : State :=
  (goW (fun _ => .barrier f.group.toNat) (bodyBarrier f) v s).tryBarrier v.parcel f.group.toNat

/-- BARRIER (R208). -/
def execBarrier (stn : BitVec 11) (f : SyncF) (s : State) : Out := .next (s.issue stn (syncWord 0x71 f) (goBarrier f))

/-- SIGNAL: an increment sent to a counter of a station of the parcel, after the station's earlier writes (R207, R208,
R247). With every entry of the tracker taken it stalls (R320). -/
def bodySignal (f : SyncF) (v : Env) (s : State) : Res :=
  let t := s.sreg v.loc.b f.sa.toNat
  if !f.okFor true true true ∨ 16 ≤ f.group.toNat then .illegal
  else if 2 ^ 11 ≤ t then .early fcAddrInvalid t
  else if !(s.parcelFds v.parcel).contains (t / 128) then .early fcAccessDenied t
  else if !s.colFenceOk v.loc then .wait s
  else if 16384 ≤ s.trkTotal v.loc.fd then .wait (s.inc (Reg.memTrkStallCount v.loc.fd))
  else
    let r := s.portEffect v.loc.num v.pc
    if !r.1 then .ok r.2
    else .ok { (r.2.passMesh v.loc.fd (t / 128) 0) with sigs := r.2.sigs ++ [(v.loc.num, t, f.group.toNat, f.imm32.toInt)] }

/-- SIGNAL (R208). -/
def execSignal (stn : BitVec 11) (f : SyncF) (s : State) : Out :=
  .next (s.issue stn (syncWord 0x73 f) (goEng engCol (bodySignal f)))

/-- WAITSIG: it waits for a count and subtracts it (R208). -/
def bodyWaitsig (f : SyncF) (v : Env) (s : State) : Res :=
  let c := f.group.toNat
  let n := f.imm32.toInt
  let g := Reg.stnSg v.loc.b c
  if !f.okFor false true true ∨ 16 ≤ c then .illegal
  else if n ≤ s.rd g then .ok (s.takeSignal v.loc c n) else .wait s

/-- WAITSIG (R208). -/
def execWaitsig (stn : BitVec 11) (f : SyncF) (s : State) : Out :=
  .next (s.issue stn (syncWord 0x74 f) (goW (fun _ => .sig f.group.toNat f.imm32.toInt) (bodyWaitsig f)))

/-- COLLWAIT: it waits until the handle's collective has completed; a free handle does not wait (R248). -/
def bodyCollwait (f : SyncF) (v : Env) (s : State) : Res :=
  if !f.okFor false true false ∨ 16 ≤ f.group.toNat then .illegal
  else if s.handleBusy v.loc f.group.toNat then .wait s else .ok s

/-- COLLWAIT (R248). -/
def execCollwait (stn : BitVec 11) (f : SyncF) (s : State) : Out :=
  .next (s.issue stn (syncWord 0x76 f) (goW (fun _ => .coll f.group.toNat) (bodyCollwait f)))

/-! ## Deliveries -/

/-- A signal increment added to a station's counter (R208), and to its inbound record (R445). -/
def State.addSignal (s : State) (k : Loc) (c : Nat) (n : Int) : State :=
  (s.bumpSignal k c n).updLst k.num (fun l =>
    { l with sigRcv :=
        Sparse.set (fun _ => 0) l.sigRcv c (((Sparse.get (fun _ => (0 : Nat)) l.sigRcv c : Nat) : Int) + n).toNat })

/-- The oldest increment on its way from `source` to a counter of `target` arrives (R208). `source` is a logical station,
or 0xFFFF for the module's own engines (R419, R459). -/
def execSignalDelivery (source : BitVec 16) (target : BitVec 11) (counter : BitVec 4) (s : State) : Out :=
  .next (match s.sigs.find? (fun x => decide (x.1 = source.toNat ∧ x.2.1 = target.toNat ∧ x.2.2.1 = counter.toNat)) with
    | none => s
    | some x =>
      let s := { s with sigs := s.sigs.erase x }
      match s.locate x.2.1 with
      | some k => (s.addSignal k x.2.2.1 x.2.2.2).settle
      | none => s)

/-- A transfer has left its sender (R92): the tile sent is unlocked. -/
def State.chainSent (s : State) (x : ChainXfer) : State :=
  match s.locate x.src with
  | some q => if ((s.stn q).tile x.srcTile).lockedBy = some lockSent then s.unlockTile q x.srcTile else s
  | none => s

/-- CHAIN_TRANSFER_ARRIVAL: the oldest transfer on its way to station `dest` takes its free chain-in buffer, is put
into the inbound log, and is served (R101, R104, R445). One that arrives again from the log is not logged again, and its sender
is done with it (R446, R448). -/
def execChainTransferArrival (dest : BitVec 11) (s : State) : Out :=
  .next (match s.chains.find? (fun x => x.dest = dest.toNat), s.locate dest.toNat with
    | some x, some k =>
      if (s.stn k).chainBuf.isSome then s
      else
        let again := decide (0 < (s.lst k.num).rechain)
        let s := { s with chains := s.chains.erase x }
        let s := if again then s.updLst k.num (fun l => { l with rechain := l.rechain - 1 }) else s.logInbound k.fd k.log (.chain x)
        let s := (s.updStn k (fun t => { t with chainBuf := some x })).chainServe k
        (if again then s else s.chainSent x).settle
    | _, _ => s)

end Sys2Proof.Machine
end

