-- ==== Sys2Proof/Machine/Coll.lean ====
section
/-! DEFINITION. Collective plans and engines (R248, R249, R341 to R368): COLL, LASUM, and the steps of a plan's route. -/

namespace Sys2Proof.Machine

/-! ## Plans (R350 to R352) -/

/-- A member entry of a plan (R351). -/
structure PMem where
  stn : Nat
  shard : Nat
  first : Nat
  count : Nat
  sideIn : Nat
  sideOut : Nat
  deriving DecidableEq, Repr

/-- A route step (R352). -/
structure PStep where
  action : Nat
  level : Nat
  port : Nat
  peer : Nat
  first : Nat
  count : Nat
  deriving DecidableEq, Repr

/-- A collective plan (R350). -/
structure Plan where
  op : Nat
  mode : Nat
  srcFmt : Nat
  dstFmt : Nat
  log2v : Nat
  narrow : Nat
  pad : Nat
  vfirst : Nat
  vcount : Nat
  elements : Nat
  cap : Nat
  rowElems : Nat
  mems : List PMem
  modules : List Nat
  steps : List PStep
  root : Nat
  deriving DecidableEq, Repr

/-- OP codes (R350). -/
def opAllReduce : Nat := 0
def opReduceScatter : Nat := 1
def opAllGather : Nat := 2
def opAllToAll : Nat := 3
def opBroadcast : Nat := 4
def opLaSum : Nat := 5
def opReady : Nat := 6

/-- Offset of plan `i` in a parcel's image, and the number of plans. -/
def State.planOff (s : State) (p i : Nat) : Nat := s.img p 44 4 + 64 * i
def State.planCount (s : State) (p : Nat) : Nat := s.img p 42 2

/-- Route steps with the delivery R356 makes in any case: a plan that lists no DELIVER step delivers its whole tensor after
its last step (DEDUCED, log 50). -/
def withDelivery (op elements : Nat) (ts : List PStep) : List PStep :=
  if op = 6 ∨ ts.any (fun t => decide (t.action = 4)) then ts else ts ++ [⟨4, 0, 0xFF, 0, 0, max 1 elements⟩]

/-- Plan `i` of a parcel's image. -/
def State.plan (s : State) (p i : Nat) : Plan :=
  let b := s.planOff p i
  let f := fun (o n : Nat) => s.img p (b + o) n
  { op := f 0 1, mode := f 1 1, srcFmt := f 2 1, dstFmt := f 3 1, log2v := f 4 1, narrow := f 5 1, pad := f 6 1,
    vfirst := f 8 4, vcount := f 12 4, elements := f 16 4, cap := f 20 4, rowElems := f 24 4,
    mems := (List.range (f 32 2)).map (fun j =>
      let m := f 28 4 + 32 * j
      ⟨s.img p m 2, s.img p (m + 4) 4, s.img p (m + 8) 4, s.img p (m + 12) 4, s.img p (m + 16) 4, s.img p (m + 20) 4⟩),
    modules := s.planModules p i,
    steps := withDelivery (f 0 1) (f 16 4) ((List.range (f 44 4)).map (fun j =>
      let r := f 40 4 + 16 * j
      ⟨s.img p r 1, s.img p (r + 1) 1, s.img p (r + 2) 1, s.img p (r + 4) 4, s.img p (r + 8) 4, s.img p (r + 12) 4⟩)),
    root := f 52 4 }

/-- MODE bits. -/
def Plan.free (q : Plan) : Bool := bitOf q.mode 0
def Plan.sparse (q : Plan) : Bool := bitOf q.mode 1
def Plan.lockstep (q : Plan) : Bool := bitOf q.mode 2

/-- Whether the plan reduces tensor elements. -/
def Plan.reduces (q : Plan) : Bool := decide (q.op = opAllReduce) || decide (q.op = opReduceScatter)

/-- The smallest power of two that is not below `n`, as an exponent. -/
def clog2 (n : Nat) : Nat := if n ≤ 1 then 0 else ilog2 (n - 1) + 1

/-- The level of the tree's root (R354, R357). -/
def Plan.top (q : Plan) : Nat := if q.free then clog2 q.modules.length else q.log2v

/-- Index of a module in the plan's list. -/
def Plan.modIdx (q : Plan) (m : Nat) : Nat := q.modules.findIdx (· = m)

/-- Wire format of a tree value of a level (R354). -/
def Plan.wire (q : Plan) (l : Nat) : Nat := if q.narrow ≤ l then fN32 else fW48

/-! ## Values -/

/-- The key of the value of node (l, j) at an element. -/
def valKey (l j e : Nat) : Nat := (l * 2 ^ 18 + j) * 2 ^ 32 + e

/-- A tree value at a level from its children there (R354): W48 up to the narrowing level, N32 above, narrowed at it. -/
def Plan.combine (q : Plan) (l a b : Nat) : Nat :=
  let v := if l ≤ q.narrow then wireAdd fW48 a b else wireAdd fN32 a b
  if l = q.narrow then (convert fN32 0 (decodeVal fW48 0 v) rndRne 0 false).raw else v

/-- A tree value passed up unchanged beside an absent leaf (R357), narrowed at the narrowing level. -/
def Plan.passUp (q : Plan) (l a : Nat) : Nat :=
  if l = q.narrow then (convert fN32 0 (decodeVal fW48 0 a) rndRne 0 false).raw else a

/-- Whether leaf `j` is formed in this module. -/
def Plan.ownLeaf (q : Plan) (own j : Nat) : Bool :=
  if q.free then decide (j = own) else decide (q.vfirst ≤ j) && decide (j < q.vfirst + q.vcount)

/-- Members of the plan that supply leaf `j` at an element; in Free mode every member of the module does (R357). -/
def Plan.suppliers (q : Plan) (j e : Nat) : List PMem :=
  q.mems.filter (fun m => (q.free || decide (m.shard = j)) && decide (m.first ≤ e) && decide (e < m.first + m.count))

/-- The value of node (l, j) at an element as far as it is known: none while it awaits an input, `some none` for an
absent leaf (R354, R357). In Free mode a module to which no member supplies the element sums nothing, +0; elsewhere the
spec states no value for a leaf that no member supplies, and it is free (log 30). -/
def nodeVal (q : Plan) (own : Nat) (r : CollRun) : Nat → Nat → Nat → Option (Option (Nat × Bool))
  | 0, j, e =>
    match cvDec (Sparse.get (fun _ => 0) r.vals (valKey 0 j e)) with
    | some (v, z) => some (some (if q.ownLeaf own j then q.passUp 0 v else v, z))
    | none =>
      if q.free && decide (q.modules.length ≤ j) then some none
      else if q.ownLeaf own j && (q.suppliers j e).isEmpty then
        some (some (q.passUp 0 (if q.free then 0 else Config.absentLeaf j e % 2 ^ 48), false))
      else none
  | l + 1, j, e =>
    match cvDec (Sparse.get (fun _ => 0) r.vals (valKey (l + 1) j e)) with
    | some x => some (some x)
    | none =>
      match nodeVal q own r l (2 * j) e, nodeVal q own r l (2 * j + 1) e with
      | some (some a), some (some b) => some (some (q.combine (l + 1) a.1 b.1, a.2 || b.2))
      | some (some a), some none => some (some (q.passUp (l + 1) a.1, a.2))
      | some none, some (some b) => some (some (q.passUp (l + 1) b.1, b.2))
      | some none, some none => some none
      | _, _ => none

/-- The result at an element as far as it is known (R354, R356). -/
def resVal (q : Plan) (own : Nat) (r : CollRun) (e : Nat) : Option (Nat × Bool) :=
  match cvDec (Sparse.get (fun _ => 0) r.res e) with
  | some x => some x
  | none =>
    if q.reduces then
      match nodeVal q own r q.top 0 e with
      | some (some (v, z)) => some ((convert q.dstFmt 0 (decodeVal (q.wire q.top) 0 v) rndRne 0 false).raw, z)
      | _ => none
    else none

/-! ## Runs -/

/-- The run of a plan, if one is in progress. -/
def State.collRun (s : State) (p i : Nat) : Option CollRun := s.colls.find? (fun r => decide (r.parcel = p ∧ r.plan = i))

/-- The state with a run replaced. -/
def State.setRun (s : State) (r : CollRun) : State :=
  { s with colls := s.colls.map (fun x => if x.parcel = r.parcel ∧ x.plan = r.plan then r else x) }

/-- COL_STATUS.ACTIVE of each link die (R371). -/
def State.showActive (s : State) : State :=
  [0, 1].foldl (fun s d => s.wr (Reg.colStatusActive d) (s.colls.filter (fun r => r.ld = d)).length) s

/-- Contexts a parcel may hold on a link die (R368). -/
def State.collShare (s : State) (ld p : Nat) : Nat :=
  let w := s.shareWeight ld
  let sum := w 0 + w 1 + w 2 + w 3
  if sum = 0 then 16 else (16 * w p + sum - 1) / sum

/-- Whether a parcel may take one more context (R368). -/
def State.collRoom (s : State) (ld p : Nat) : Bool :=
  decide ((s.colls.filter (fun r => r.ld = ld)).length < 16)
    && decide ((s.colls.filter (fun r => decide (r.ld = ld ∧ r.parcel = p))).length < s.collShare ld p)

/-- A run with nothing in it. -/
def CollRun.fresh (p i ld : Nat) : CollRun :=
  { parcel := p, plan := i, ld := ld, mems := [], vals := [], res := [], la := LA.zero, laTerms := 0, laPoison := false,
    laFinal := false, steps := [], held := false, rows := [], plats := [], prows := [] }

/-- Elements a member receives (R351, R356). -/
def Plan.shareOf (q : Plan) (m : PMem) : Nat × Nat := if q.op = opReduceScatter then (m.first, m.count) else (0, q.elements)

/-- Whether a step's range meets a share. -/
def PStep.meets (t : PStep) (x : Nat × Nat) : Bool := decide (t.first < x.1 + x.2) && decide (x.1 < t.first + t.count)

/-- Whether a member's part is complete (R367): every send made, and every delivery into its share. -/
def memberDone (q : Plan) (r : CollRun) (m : PMem) : Bool :=
  q.steps.zipIdx.all (fun t =>
    r.steps.contains t.2
      || !(decide (t.1.action = 1) || (decide (t.1.action = 4)
            && (decide (q.op = opLaSum) || decide (q.op = opAllToAll) || t.1.meets (q.shareOf m)))))

/-- Whether a send of a run has still to be acknowledged (R367): one of its flits waits at a port or in an uplink's context
(DEDUCED, log 236). -/
def State.collUnacked (s : State) (r : CollRun) : Bool :=
  let mine := fun (f : TxFlit) => decide (f.plan = r.plan + 1 ∧ f.parcel = r.parcel ∧ f.die = 16 + r.ld ∧ f.src = 16)
  s.ports.any (fun p => p.2.unacked.any (fun x => mine x.2) || p.2.txq.any mine)
    || s.ctxs.any (fun c => c.unacked.any (fun x => x.2.any mine) || c.wait.any mine)
    || s.ctxWait.any (fun x => mine x.2) || s.fab.unrouted.any mine

/-- Whether a result that the engines of a run's link die wrote into another module for its parcel is not visible there yet
(R367). -/
def State.collWriting (s : State) (r : CollRun) : Bool :=
  s.remote.any (fun x => x.isWrite && decide (x.fd = 16 + r.ld ∧ x.parcel = r.parcel ∧ 0xFFFF ≤ x.stn))

/-- Members whose part is complete free their handles; a run all of whose members are done ends (R367). -/
def State.collFinish (s : State) (p i : Nat) : State :=
  match s.collRun p i with
  | none => s
  | some r =>
    let q := s.plan p i
    let ready := if s.collUnacked r || s.collWriting r then [] else
      r.mems.filter (fun m => !m.done && (match q.mems[m.idx]? with | some pm => memberDone q r pm | none => true))
    let s := ready.foldl (fun s m =>
      let s := s.updLst m.stn (fun l => { l with handles := l.handles.filter (fun h => h.1 ≠ m.handle) })
      match m.tile, s.locate m.stn with
      | some t, some k => s.unlockTile k t
      | _, _ => s) s
    let r := { r with mems := r.mems.map (fun m => if ready.contains m then { m with done := true } else m) }
    let s := s.setRun r
    let s := if r.mems.length = q.mems.length ∧ r.mems.all (·.done) then
        { s with colls := s.colls.filter (fun x => !(decide (x.parcel = p ∧ x.plan = i))) }.showActive
      else s
    s.settle

/-- Runs that waited for an acknowledgement looked at again (R367). -/
def State.collAcked (s : State) : State := s.colls.foldl (fun s r => s.collFinish r.parcel r.plan) s

/-! ## COLL and LASUM -/

/-- Checks of a COLL or LASUM against its plan (R248, R249): the member's index in the plan. -/
def State.collCheck (s : State) (v : Env) (pl h : Nat) (la repeated : Bool) : Except Flt Nat := do
  let bad : Flt := (fcCollInvalid, pl)
  if s.planCount v.parcel ≤ pl then .error bad
  let q := s.plan v.parcel pl
  if (if la then q.op ≠ opLaSum else q.op = opLaSum ∨ q.op = opReady) then .error bad
  let i := q.mems.findIdx (fun m => m.stn = v.loc.num)
  if q.mems.length ≤ i then .error bad
  if !repeated ∧ (if v.queued then (s.lst v.loc.num).handles.any (fun x => x.1 = h) else s.handleBusy v.loc h) then .error bad
  .ok i

/-- Whether a plan may take a member now: its run has a context and this member is not already in it. -/
def State.collMayJoin (s : State) (v : Env) (pl ld : Nat) : Bool :=
  match s.collRun v.parcel pl with
  | some r => !r.mems.any (fun m => m.stn = v.loc.num)
  | none => s.collRoom ld v.parcel

/-- The run a member joins, opened if there is none. -/
def State.openRun (s : State) (p pl ld : Nat) : State :=
  match s.collRun p pl with
  | some _ => s
  | none => { s with colls := s.colls ++ [CollRun.fresh p pl ld] }.showActive

/-- Formats a reduction takes (R353). -/
def leafFmt (f : Nat) : Bool :=
  [fLa192, fFp32, fN32, fBf16, fFp16, fE4m3, fE5m2, fE2m3, fE3m2, fFp4, fW48].contains f

/-- Whether a plat's header, or the codes, counts and row offset of a row, hold poison (R143). -/
def State.platRowPoison (s : State) (k : Loc) (d : Desc) (h : PlatHdr) (r : Nat) : Bool :=
  (s.poisoned ((s.dkey k d 0, 64) :: s.platSpans k d h false false [(0, h.k)] r)).isSome

/-- A source element of a collective: its encoding, its value, and whether a codeword it derives from is poisoned (R143,
R363); elements beyond the source are +0. A plat gives its accepted slots in canonical order (R165, R166). -/
def State.collElems (s : State) (k : Loc) (d : Desc) (sc : Option Desc) : List (Nat × FVal × Bool) :=
  if d.layout = layPlat then
    let h := s.platHdr k d
    (List.range h.rows).flatMap (fun r =>
      let z := s.platRowPoison k d h r
      (s.platSlots k d h r).map (fun x =>
        let raw := s.platRead k d h r x.1 x.2
        let e := s.platScale k d h r x.1
        let val := if e = 0xFF then FVal.nan else (decodeVal h.fmt 0 raw).scale ((e : Int) - 127)
        let at_ := [(s.dkey k d (h.valPos r x.2).1, contBytes h.fmt)]
          ++ (if h.scaled then [(s.dkey k d (h.scaleOff + r * h.scols + x.1 / h.sg : Nat), 1)] else [])
        (raw, val, z || (s.poisoned at_).isSome)))
  else d.coords.map (fun c =>
    let ci := c.map (fun (n : Nat) => (n : Int))
    (s.stored k d c, s.valueAt k d sc ci, (s.poisoned (s.touched k d sc ci)).isSome))

/-- A value in units of 2^−112 as an LA element; a non-finite value sets N (R357). -/
def laOf (x : FVal) : LA :=
  match x with
  | .fin n m e => LA.zero.addTerm (promote (if n then -(m : Int) else m) e).1 false false
  | _ => ⟨0, true, false⟩

/-- The W48 encoding of a value (R353). -/
def toW48 (x : FVal) : Nat := (convert fW48 0 x rndRne 0 false).raw

/-- The rows a member brings to a SPARSE gather or broadcast, its first the row `base` of the plan's plat (R165). -/
def State.platRowsOf (s : State) (k : Loc) (d : Desc) (base : Nat) : List PlatRow :=
  let h := s.platHdr k d
  (List.range h.rows).map (fun r =>
    let z := s.platRowPoison k d h r
    let enc := fun (o n raw : Nat) => cvEnc raw (z || (s.poisonAt (s.dkey k d o) n).isSome)
    { row := base + r, full := true
      slots := (s.platSlots k d h r).map (fun x => (x.1, enc (h.valPos r x.2).1 (contBytes h.fmt) (s.platRead k d h r x.1 x.2)))
      scales := s.platRowScales k d h z r })

/-- The leaves that a reduction's member supplies put into its run (R353, R357): a W48 leaf passes unchanged, and in Free mode
an LA192 element enters the module's sum as it stands. -/
def CollRun.addLeaves (r : CollRun) (q : Plan) (m : PMem) (own : Nat) (w48 la : Bool) (src : List (Nat × FVal × Bool)) : CollRun :=
  (List.range m.count).foldl (fun r i =>
    let e := m.first + i
    let x := src.getD i (0, FVal.ofInt 0, false)
    if q.free then
      let key := valKey 30 0 e
      let old := cvDec (Sparse.get (fun _ => 0) r.vals key)
      let sum := ((old.map (fun o => LA.decode o.1)).getD LA.zero).add (if la then LA.decode x.1 else laOf x.2.1)
      let z := ((old.map (·.2)).getD false) || x.2.2
      let vals := Sparse.set (fun _ => 0) r.vals key (cvEnc sum.encode z)
      let all := (q.suppliers own e).all (fun p => decide (p = m) || r.mems.any (fun y => q.mems[y.idx]? = some p))
      { r with vals :=
          if all then Sparse.set (fun _ => 0) vals (valKey 0 own e) (cvEnc (toW48 (decodeVal fLa192 0 sum.encode)) z) else vals }
    else { r with vals := Sparse.set (fun _ => 0) r.vals (valKey 0 m.shard e) (cvEnc (if w48 then x.1 else toW48 x.2.1) x.2.2) }) r

/-- The plat, and the rows of one, that a member joins a SPARSE plan with (R165, R167): the source of a reduction, whose
slots meet those of other modules; the destination of a gather or broadcast, whose mask VALUES blocks are stored
through. -/
def State.joinPlat (s : State) (k : Loc) (q : Plan) (m : PMem) (a d : Desc) (r : CollRun) : CollRun :=
  if q.reduces then { r with plats := r.plats ++ [s.platOwn k a m.first] }
  else
    let o := s.platOwn k d 0
    { r with
      plats := r.plats ++ [o]
      prows := r.prows ++ (if q.op = opBroadcast ∧ q.root ≠ s.ownModule then [] else s.platRowsOf k a (o.below m.first)) }

/-- The elements that a gather's or broadcast's member copies (R356, R357). -/
def CollRun.addCopies (r : CollRun) (q : Plan) (m : PMem) (own : Nat) (src : List (Nat × FVal × Bool)) : CollRun :=
  if q.op = opBroadcast ∧ q.root ≠ own then r
  else (List.range m.count).foldl (fun r i =>
    let x := src.getD i (0, FVal.ofInt 0, false)
    { r with res := Sparse.set (fun _ => 0) r.res (m.first + i) (cvEnc x.1 x.2.2) }) r

/-- The rows that an ALL_TO_ALL's member sends, by its input sidecar, whose poison goes with their indices (R359, R363). -/
def State.addRows (s : State) (k : Loc) (q : Plan) (m : PMem) (own : Nat) (src : List (Nat × FVal × Bool)) (r : CollRun) : CollRun :=
  { r with rows := r.rows ++ (List.range m.count).filterMap (fun i =>
      let at_ := lsKey k.fd k.log (m.sideIn + 8 * i)
      let w := s.natAt at_ 8
      let d := bitsAt w 32 19
      if d = 0x7FFFF then none
      else some ⟨own, m.shard, m.first + i, bitsAt w 0 32, d, some (k.num, m.sideIn + 8 * i), none,
        (List.range q.rowElems).map (fun j =>
          let x := src.getD (i * q.rowElems + j) (0, FVal.ofInt 0, false)
          cvEnc x.1 x.2.2), (s.poisonAt at_ 8).isSome⟩) }

/-- The checks of COLL's operands that need no plat header (R200, R353). -/
def collOps (f : TensF) (v : Env) (s : State) (q : Plan) : Except Flt (Desc × Option Desc × Desc × Nat) := do
  let (a, asc, x) ← s.useDesc v .read f.da.toNat
  let (d, _, y) ← s.useDesc v .write f.dd.toNat
  if q.reduces ∧ !q.sparse ∧ !leafFmt a.fmt then .error (fcFmtInvalid, a.num)
  if q.sparse then
    if a.layout ≠ layPlat then .error (fcLayoutInvalid, a.num)
    if d.layout ≠ layPlat then .error (fcLayoutInvalid, d.num)
  .ok (a, asc, d, x + y)

/-- The checks of COLL's operands (R165, R248, R353). -/
def collOperands (f : TensF) (v : Env) (s : State) (q : Plan) : Except Flt (Desc × Option Desc × Desc × Nat) := do
  let (a, asc, d, x) ← collOps f v s q
  if q.sparse then
    orFault (s.platCheck v .read a)
    orFault (s.platCheck v .write d)
    if q.reduces ∧ !leafFmt (s.platHdr v.loc a).fmt then .error (fcFmtInvalid, a.num)
  else
    if !elemLayout a then .error (fcFmtInvalid, a.num)
    if !elemLayout d then .error (fcFmtInvalid, d.num)
  .ok (a, asc, d, x)

/-- The leaves or rows a member's COLL gives its run, its handle bound, and the collective finished if all is there. -/
def collLeaves (v : Env) (pl h i : Nat) (q : Plan) (a : Desc) (asc : Option Desc) (d : Desc) (x : Nat) (s : State) : Res :=
  let k := v.loc
  let p := v.parcel
  match s.collRun p pl, q.mems[i]? with
  | some r, some m =>
    let src := s.collElems k a asc
    let own := q.modIdx s.ownModule
    let r := if q.reduces then r.addLeaves q m own (decide (a.layout ≠ layPlat ∧ a.fmt = fW48))
          (decide (a.layout ≠ layPlat ∧ a.fmt = fLa192) && asc.isNone) src
      else if q.op = opAllToAll then s.addRows k q m own src r
      else if q.sparse then r
      else r.addCopies q m s.ownModule src
    let r := if q.sparse then s.joinPlat k q m a d r else r
    let mask := fun (e : Desc) => (let g := s.platHdr k e; (List.range g.rows).flatMap (s.platRow k e g))
    let drops := if !q.sparse then [] else mask a ++ (if s.dkey k a 0 = s.dkey k d 0 then [] else mask d)
    let r := { r with
      mems := r.mems ++ [⟨k.num, h, none, i, d.num, s.dbits k.b d.num, d.ext, false⟩] }
    let s := (s.setRun r).updLst k.num (fun l => { l with handles := l.handles ++ [(h, pl)] })
    .ok (((s.platDrops k drops).shapeClamp k x).collFinish p pl)
  | _, _ => .ok s

/-- A checked COLL: counted again while a leg repeats; else, once its writes are visible and a context is free, joined. -/
def collJoin (v : Env) (pl h i : Nat) (q : Plan) (a : Desc) (asc : Option Desc) (d : Desc) (x : Nat) (s : State) : Res :=
  let k := v.loc
  if s.portRepeats k.num v.pc then .ok ((s.portEffect k.num v.pc).2.shapeClamp k x)
  else if !s.colFenceOk k ∨ !s.collMayJoin v pl (ldOf k.fd) then .wait s
  else
    withInputs v s (if q.sparse then s.platAll k a (s.platHdr k a) true true true ++ s.platAll k d (s.platHdr k d) false false false
        else s.spansOf k a asc)
      (fun s => collLeaves v pl h i q a asc d x ((s.portEffect k.num v.pc).2.openRun v.parcel pl (ldOf k.fd)))

/-- COLL: the station's share of a planned collective is contributed and bound to its handle (R248). -/
def bodyColl (f : TensF) (v : Env) (s : State) : Res :=
  if !f.okFor (uDD + uDA) (2 ^ 20 - 1) then .illegal
  else match s.collCheck v (f.m 0 16) (f.m 16 4) false (s.portRepeats v.loc.num v.pc) with
    | .error e => .flt e
    | .ok i =>
      let q := s.plan v.parcel (f.m 0 16)
      match collOps f v s q with
      | .error e => .flt e
      | .ok _ => withHeads v s (if q.sparse then s.platHeads v .read f.da.toNat ++ s.platHeads v .write f.dd.toNat else [])
        (fun s => match collOperands f v s q with
          | .error e => .flt e
          | .ok (a, asc, d, x) => collJoin v (f.m 0 16) (f.m 16 4) i q a asc d x s)

/-- COLL (R248). -/
def execColl (stn : BitVec 11) (f : TensF) (s : State) : Out :=
  .next (s.issue stn (tensWord 0x75 f) (goEng engCol (bodyColl f)))

/-- A sum written into element (0, 0) of a tile, with its term count (R249). -/
def State.laInto (s : State) (k : Loc) (ts : Nat) (x : LA) (terms : Nat) : State :=
  let t := (s.stn k).tile ts
  s.putTile k ts { ({ t with terms := 0 }.put 0 0 x) with
    terms := min terms (2 ^ 32 - 1), tl := t.tl || decide (65536 < terms) } ((decide (t.terms ≤ 65536) || !t.tl) && decide (65536 < terms))

/-- The key of a contribution in what is kept for a repetition: its instruction and its ordinal there. -/
def laKey (pc n : Nat) : Nat := n * 2 ^ 32 + pc

/-- LASUM: element (0, 0) of a tile contributed to an exact sum, the tile locked until the handle completes (R249). A
repetition of one already contributed takes the sum when it has completed (R447; DEDUCED, log 51). -/
def bodyLasum (f : TensF) (v : Env) (s : State) : Res :=
  let k := v.loc
  let p := v.parcel
  let pl := f.m 0 16
  let h := f.m 16 4
  let ld := ldOf k.fd
  let ts := f.ts.toNat
  let rep := s.portRepeats k.num v.pc
  let lock := fun (s : State) => s.updStn k (fun t => t.setTile ts { t.tile ts with lockedBy := some h })
  if !f.okFor uTS (2 ^ 20 - 1) then .illegal
  else match s.collCheck v pl h true rep with
    | .error e => .flt e
    | .ok i =>
      if rep then
        let s := (s.portEffect k.num v.pc).2
        .ok (if (s.lst k.num).handles.any (fun x => x.1 = h) then lock s
          else match (s.lst k.num).laDone.find? (fun x => x.1 = laKey v.pc (atPc (s.lst k.num).repCount v.pc)) with
          | some x => s.laInto k ts x.2.1 x.2.2
          | none => s)
      else match (s.tileLocked k ts).orElse (fun _ => s.tileExpects k ts) with
        | some s => .wait s
        | none =>
          if !s.collMayJoin v pl ld then .wait s
          else
            let s := (s.portEffect k.num v.pc).2.openRun p pl ld
            match s.collRun p pl with
            | none => .ok s
            | some r =>
              let t := (s.stn k).tile ts
              let r := { r with
                mems := r.mems ++ [⟨k.num, h, some ts, i, 0, 0, [laKey v.pc (atPc (s.lst k.num).relCount v.pc)], false⟩]
                la := if r.laFinal then r.la else r.la.add (t.at 0 0)
                laTerms := if r.laFinal then r.laTerms else r.laTerms + t.terms }
              let s := (s.setRun r).updLst k.num (fun l => { l with handles := l.handles ++ [(h, pl)] })
              .ok ((lock s).collFinish p pl)

/-- LASUM (R249). -/
def execLasum (stn : BitVec 11) (f : TensF) (s : State) : Out :=
  .next (s.issue stn (tensWord 0x77 f) (goEng engCol (bodyLasum f)))

/-- Flits that wait at a port, or in the contexts of an uplink's plane. -/
def State.portQueue (s : State) (k : Nat) : Nat := if isUplink k then s.planeWaits (planeOf k) else (s.port k).txq.length

/-- The port of a plan's route step: of a plan with FREE the port of the direction, or the uplink, at which the fewest flits wait,
the first of them (R343, R352, R357). -/
def State.collPort (s : State) (free : Bool) (ld port peer : Nat) : Option Nat :=
  match s.stepPort ld port peer with
  | none => none
  | some k =>
    if !free then some k
    else some (((if isUplink k then [6, 7, 14, 15] else [k % 8, k % 8 + 8]).filter s.portUp).foldl (fun b x =>
      if s.portQueue x < s.portQueue b then x else b) k)

/-- A collective held, its peer lost (R364). -/
def State.collLost (s : State) (r : CollRun) (peer : Nat) : State :=
  if r.held then s
  else (s.setRun { r with held := true }).raise (0xA046 + 0x100 * r.ld) r.parcel [s.meridian.toNat, r.plan, peer]

/-! ## Route steps -/

/-- The step of a run whose turn has come: it is not done, its action is the one asked for, and no earlier step of its
range is still to be done (R352). -/
def State.stepAt (s : State) (p i j action : Nat) : Option (CollRun × Plan × PStep) :=
  match s.collRun p i with
  | none => none
  | some r =>
    let q := s.plan p i
    match q.steps[j]? with
    | none => none
    | some t =>
      if t.action ≠ action ∨ r.steps.contains j then none
      else if (List.range j).any (fun n =>
          !r.steps.contains n && (match q.steps[n]? with | some u => u.meets (t.first, t.count) | none => false)) then none
      else some (r, q, t)

/-- Such a step of a run that is not held. -/
def State.stepOf (s : State) (p i j action : Nat) : Option (CollRun × Plan × PStep) := (s.stepAt p i j action).filter (fun x => !x.1.held)

/-- Whether acceptance of an ALL_TO_ALL at this module is known: every other module's indices are here. -/
def a2aKnown (q : Plan) (own : Nat) (r : CollRun) : Bool :=
  decide (r.mems.length = q.mems.length)
    && q.steps.zipIdx.all (fun t => decide (t.1.action ≠ 3) || decide (t.1.level ≠ 0) || decide (t.1.peer = own) || r.steps.contains t.2)

/-- Acceptance order (R360). -/
def rowBefore (a b : A2aRow) : Bool :=
  decide (a.gidx < b.gidx)
      || (decide (a.gidx = b.gidx) && (decide (a.shard < b.shard) || (decide (a.shard = b.shard) && decide (a.row < b.row))))

/-- A row put into acceptance order. -/
def rowInsert (x : A2aRow) : List A2aRow → List A2aRow
  | [] => [x]
  | y :: t => if rowBefore x y then x :: y :: t else y :: rowInsert x t

/-- Rows in acceptance order. -/
def inOrder (l : List A2aRow) : List A2aRow := l.foldl (fun acc x => rowInsert x acc) []

/-- Rows accepted by destination `d` in acceptance order (R360). -/
def a2aAccepted (q : Plan) (d : Nat) (r : CollRun) : List A2aRow := (inOrder (r.rows.filter (fun x => x.dest = d))).take q.cap

/-- The value of an element that a step sends: the tree value of its LEVEL, or the result (R352, R356). -/
def State.sendVal (s : State) (r : CollRun) (q : Plan) (t : PStep) (e : Nat) : Option (Nat × Bool) :=
  let own := q.modIdx s.ownModule
  if q.reduces ∧ t.level < q.top then
    (match nodeVal q own r t.level ((if q.free then own else q.vfirst) / 2 ^ t.level) e with
     | some (some x) => some (if q.free ∧ q.wire t.level = fN32 then toW48 (decodeVal fN32 0 x.1) else x.1, x.2)
     | _ => none)
  else resVal q own r e

/-- The values a step sends: none while an input is awaited. The steps of an ALL_TO_ALL at LEVEL 0 carry indices, at
LEVEL 1 the ordinals a destination accepts, at LEVEL 2 accepted rows, in acceptance order (log 31). -/
def State.sendVals (s : State) (r : CollRun) (q : Plan) (t : PStep) : Option (List (Nat × Bool)) :=
  let own := q.modIdx s.ownModule
  let dst := q.modIdx t.peer
  if q.op = opLaSum then
    (if r.mems.length = q.mems.length then some [(r.la.encode + r.laTerms * 2 ^ 256, r.laPoison)] else none)
  else if q.op = opAllToAll then
    if t.level = 0 then
      (if r.mems.length = q.mems.length then
        some ((r.rows.filter (fun x => x.src = own ∧ x.dest = dst)).map (fun x => (x.gidx + x.shard * 2 ^ 32 + x.row * 2 ^ 64, x.bad)))
      else none)
    else if t.level = 1 then
      (if a2aKnown q own r then
        some (((a2aAccepted q own r).filter (fun x => x.src = dst)).map (fun x => (x.gidx + x.shard * 2 ^ 32 + x.row * 2 ^ 64, x.bad)))
      else none)
    else
      let mine := inOrder (r.rows.filter (fun x => x.src = own ∧ x.dest = dst))
      (if r.mems.length = q.mems.length ∧ mine.all (fun x => x.acc.isSome) then
        some ((mine.filter (fun x => x.acc = some true)).flatMap (fun x => x.data.map (fun c => (cvDec c).getD (0, false))))
      else none)
  else
    let vs := (List.range t.count).map (fun i => s.sendVal r q t (t.first + i))
    if vs.all Option.isSome then some (vs.map (fun x => x.getD (0, false))) else none

/-! ## What a message carries (R362) -/

/-- Whether a step carries the indices or the ordinals of an ALL_TO_ALL. -/
def carriesIndex (q : Plan) (t : PStep) : Bool := decide (q.op = opAllToAll) && decide (t.level < 2)

/-- Format of the elements a step carries: Free-mode values are W48 throughout (R357, R362; DEDUCED, log 235). -/
def wireFmt (q : Plan) (t : PStep) : Nat :=
  if q.op = opLaSum then fLa192
  else if q.reduces ∧ t.level < q.top then (if q.free then fW48 else q.wire t.level)
  else if q.reduces then q.dstFmt else q.srcFmt

/-- Elements in one flit. An index or an ordinal of an ALL_TO_ALL takes 12 bytes (log 31). -/
def perFlit (q : Plan) (t : PStep) : Nat :=
  if carriesIndex q t then 20 else max 1 (240 / contBytes (wireFmt q t) * contElems (wireFmt q t))

/-- A list in pieces of `n`, at most `m` of them. -/
def pieces {α : Type} (n : Nat) : Nat → List α → List (List α)
  | 0, _ => []
  | m + 1, l => if l.isEmpty then [] else l.take n :: pieces n m (l.drop n)

/-- The payload of a data flit: its bytes, padded with zeros. -/
def payload (bs : List Byte) : List Byte := (bs ++ List.replicate 240 0).take 240

/-- The payloads that carry some values, each with its POISON (R362, R363). -/
def valPayloads (q : Plan) (t : PStep) (vs : List (Nat × Bool)) : List (List Byte × Bool) :=
  (pieces (perFlit q t) vs.length vs).map (fun c =>
    (payload (if carriesIndex q t then c.flatMap (fun x => leBytes 12 x.1) else packList (wireFmt q t) (c.map (·.1))), c.any (·.2)))

/-- The payloads of a byte stream. -/
def streamPayloads (bs : List (Byte × Bool)) : List (List Byte × Bool) :=
  (pieces 240 bs.length bs).map (fun c => (payload (c.map (·.1)), c.any (·.2)))

/-- The plats of a run that a step's range meets, each once, with the rows meant (R165). -/
def CollRun.platsIn (r : CollRun) (t : PStep) : List (PlatOwn × Nat × Nat) :=
  (r.plats.foldl (fun (acc : List PlatOwn) o => if acc.any (fun x => x.base = o.base) then acc else acc ++ [o]) []).filterMap (fun o =>
    let ab := o.rowsOf t.first t.count
    if o.base + o.start o.rows.length ≤ t.first ∨ t.first + t.count ≤ o.base ∨ ab.2 ≤ ab.1 then none else some (o, ab.1, ab.2))

/-- The slots of rows `a` to `b` of a plat with the values a reduction's step sends for them, none while one is awaited. -/
def State.sendRows (s : State) (r : CollRun) (q : Plan) (t : PStep) (o : PlatOwn) (a b : Nat) : Option (List (List (Nat × Nat × Bool))) :=
  let rows := (List.range (b - a)).map (fun i =>
    (o.rows.getD (a + i) []).zipIdx.map (fun x => (x.1, s.sendVal r q t (o.base + o.start (a + i) + x.2))))
  if rows.all (fun row => row.all (fun x => x.2.isSome)) then some (rows.map (·.map (fun x => (x.1, x.2.getD (0, false))))) else none

/-- The stream of plat blocks a SPARSE plan's step sends: none while an input is awaited (R165, R167, R362). A reduction sends
VALUES blocks, whose scale section holds the scales of this module's own plat (log 257, DESIGN CHOICE); a copied block goes
in FULL form if `full`, a choice the spec leaves open (log 218). -/
def State.sendBlocks (s : State) (r : CollRun) (q : Plan) (t : PStep) (full : Bool) : Option (List (Byte × Bool)) :=
  if r.mems.length ≠ q.mems.length then none
  else (r.platsIn t).foldl (fun acc x =>
    let o := x.1
    let out : Option (List (Byte × Bool)) :=
      if q.reduces then (s.sendRows r q t o x.2.1 x.2.2).map (fun rows => o.stream false (wireFmt q t) x.2.1 rows
        ((List.range (x.2.2 - x.2.1)).flatMap (fun i => (o.scales.getD (x.2.1 + i) []).map (fun z => (cvDec z).getD (0, false)))))
      else
        let rows := (List.range (x.2.2 - x.2.1)).map (fun i => r.prows.find? (fun y => y.row = x.2.1 + i))
        if rows.all Option.isSome then
          let rs := rows.filterMap id
          some (o.stream full o.fmt x.2.1 (rs.map (fun y => y.slots.map (fun z => (z.1, (cvDec z.2).getD (0, false)))))
            (rs.flatMap (fun y => y.scales.map (fun z => (cvDec z).getD (0, false)))))
        else none
    match acc, out with
    | some a, some b => some (a ++ b)
    | _, _ => none) (some [])

/-- The payloads of a step's message: none while an input is awaited. -/
def State.sendPayloads (s : State) (r : CollRun) (q : Plan) (t : PStep) : Option (List (List Byte × Bool)) :=
  if q.sparse ∧ q.op ≠ opLaSum ∧ q.op ≠ opAllToAll then (s.sendBlocks r q t (decide (s.free.1 % 2 = 0))).map streamPayloads
  else (s.sendVals r q t).map (valPayloads q t)

/-- A header flit and the data flits behind it (R362). -/
def collFlits (m : TxFlit) (ps : List (List Byte × Bool)) : List TxFlit :=
  { m with last := ps.isEmpty } :: ps.zipIdx.map (fun x =>
    { m with idx := x.2 + 1, last := decide (x.2 + 1 = ps.length), poison := x.1.2, args := [], data := x.1.1 })

/-- COLL_SEND: a route step sends a value or a range once its inputs are there (R340, R352, R362, R363, R365): the header says
the plan, this module, LEVEL, FORMAT, NODE and the range; the term count of an LA_SUM follows. -/
def execCollSend (p : BitVec 2) (plan : BitVec 16) (step : BitVec 32) (s : State) : Out :=
  .next (match s.stepOf p.toNat plan.toNat step.toNat 1 with
    | none => s
    | some (r, q, t) =>
      match s.sendPayloads r q t with
      | none => s
      | some ps =>
        match s.collPort q.free r.ld t.port t.peer with
        | none => s.collLost r t.peer
        | some port =>
          if q.lockstep ∧ s.rd (Reg.lnkStatusState port) = lnkUpUnsync then s
          else
            let node := (if q.free then q.modIdx s.ownModule else q.vfirst) / 2 ^ t.level
            let head := { TxFlit.msg (if q.free then 2 else 1) 4 t.peer (16 + r.ld) r.parcel
              ([plan.toNat, s.ownModule, t.level, wireFmt q t, node, t.first, t.count] ++ (if q.op = opLaSum then [r.laTerms] else [])) []
              with plan := plan.toNat + 1, lockstep := q.lockstep }
            (((s.setRun { r with steps := r.steps ++ [step.toNat] }).free.2).sendFlits port (collFlits head ps)).collFinish
                p.toNat plan.toNat)

/-! ## Arrivals -/

/-- EV_PLAT_MASK_MISMATCH: a block whose digest is not the one expected is discarded and holds the collective (R167). The record
names the link port and the time, ROW_FIRST and both digests (R169). -/
def State.maskMismatch (s : State) (r : CollRun) (port row own other : Nat) : State :=
  (s.setRun { r with held := true }).raise (0xA030 + 0x100 * r.ld) r.parcel [port, s.meridian.toNat, row, own, other]

/-- An arrival that a RECV_ADD does not accept: discarded, counted, and the collective held (R355). -/
def State.treeErr (s : State) (r : CollRun) (module level node : Nat) : State :=
  ((s.setRun { r with held := true }).inc (Reg.colTreeErrCount r.ld)).raise (0xA047 + 0x100 * r.ld) r.parcel
    [s.meridian.toNat, r.plan, module, level, node]

/-- The run and the step of an arrival that comes again: its step is done (R355). -/
def State.stepAgain (s : State) (p i j action : Nat) : Option CollRun :=
  (s.collRun p i).filter (fun r => r.steps.contains j
      && (match (s.plan p i).steps[j]? with | some t => decide (t.action = action) | none => false))

/-- Received values, each with the POISON of its flit, as entries of a run's map at the keys given. -/
def putVals (per : Nat) (vals : List (BitVec 256)) (poison : List Bool) (conv : Nat → Nat) (key : Nat → Nat)
    (m : Sparse Nat) : Sparse Nat :=
  vals.zipIdx.foldl (fun m x => Sparse.set (fun _ => 0) m (key x.2) (cvEnc (conv x.1.toNat) (poison.getD (x.2 / per) false))) m

/-- The plat blocks of a received stream, each with the plat of this module it belongs to (R165, R362): those of a reduction in
the order of the plats its range meets, the others all of one plat. -/
def recvBlocks (r : CollRun) (q : Plan) (t : PStep) (stream : List Byte) (poison : List Bool) : List (PlatBlk × PlatOwn) :=
  let os := if q.reduces then (r.platsIn t).map (·.1) else r.plats.take 1
  let own := fun (i : Nat) => os.getD (if q.reduces then i else 0) ⟨0, 0, 0, 0, 0, 0, [], []⟩
  let pz := (List.range stream.length).map (fun i => if poison.getD (i / 240) false then (255 : Byte) else 0)
  (blksOf (fun i row => ((own i).rows.getD row []).length) (stream.length / 32) 0 stream
    pz).zipIdx.map (fun x => (x.1, own x.2))

/-- The first received block whose digest is not the one expected, with the plat it is checked against: of a gather or
broadcast, each member's (R167). -/
def badBlock (r : CollRun) (q : Plan) (bs : List (PlatBlk × PlatOwn)) : Option (PlatBlk × PlatOwn) :=
  (bs.flatMap (fun x => if q.reduces then [x] else r.plats.map (fun o => (x.1, o)))).find? (fun x => x.1.bad x.2)

/-- The values of received VALUES blocks of a reduction put into a run's map, element by element (R167). -/
def putBlocks (bs : List (PlatBlk × PlatOwn)) (conv : Nat → Nat) (key : Nat → Nat) (m : Sparse Nat) : Sparse Nat :=
  bs.foldl (fun m x => x.1.vals.zipIdx.foldl (fun m y =>
    Sparse.set (fun _ => 0) m (key (x.2.base + x.2.start x.1.rowFirst + y.2))
        (cvEnc (conv ((y.1 - 1) / 2)) (decide ((y.1 - 1) % 2 = 1)))) m) m

/-- COLL_RECV_ADD: a received tree value checked and kept, so that its node forms (R354, R355, R358, R363, R167). `vals` are the
elements as carried, `stream` the plat blocks of a SPARSE plan, `poison` the POISON of each data flit, `terms` an LA_SUM's
term count. A node takes each of its two children once, and not the one this module forms itself; any other arrival is
discarded and counted, the collective held or not (R355). -/
def execCollRecvAdd (p : BitVec 2) (plan : BitVec 16) (step : BitVec 32) (module : BitVec 18) (level : BitVec 8) (node : BitVec 32)
    (vals : List (BitVec 256)) (stream : List Byte) (poison : List Bool) (terms : BitVec 32) (s : State) : Out :=
  .next (match s.stepAt p.toNat plan.toNat step.toNat 2 with
    | none =>
      match s.stepAgain p.toNat plan.toNat step.toNat 2 with
      | some r => s.treeErr r module.toNat level.toNat node.toNat
      | none => s
    | some (r, q, t) =>
      let done := fun (r : CollRun) => (s.setRun { r with steps := r.steps ++ [step.toNat] }).collFinish p.toNat plan.toNat
      if q.op = opLaSum then
        if r.held then s
        else done { r with
          la := r.la.add (LA.decode ((vals.head?.map (·.toNat)).getD 0)), laTerms := r.laTerms + terms.toNat
          laPoison := r.laPoison || poison.any id }
      else
        let own := if q.free then q.modIdx s.ownModule else q.vfirst
        let j := own / 2 ^ t.level
        let mine := decide (node.toNat = own / 2 ^ level.toNat) && (q.free || decide (0 < q.vcount))
        let fits := decide (module.toNat = t.peer) && decide (level.toNat + 1 = t.level) && (q.sparse || decide (vals.length = t.count))
          && (decide (node.toNat = 2 * j) || decide (node.toNat = 2 * j + 1)) && !mine
          && (List.range t.count).all (fun i => decide (Sparse.get (fun _ => 0) r.vals (valKey level.toNat node.toNat (t.first + i)) = 0))
        let conv := fun (v : Nat) =>
          if q.free ∧ q.wire level.toNat = fN32 then (convert fN32 0 (decodeVal fW48 0 v) rndRne 0 false).raw else v
        let key := valKey level.toNat node.toNat
        if !fits then s.treeErr r module.toNat level.toNat node.toNat
        else if r.held then s
        else if q.sparse then
          if r.mems.length ≠ q.mems.length then s
          else
            let bs := recvBlocks r q t stream poison
            match badBlock r q bs with
            | some x => s.maskMismatch r ((s.stepPort r.ld t.port t.peer).getD 255) x.1.rowFirst (x.1.expected x.2) x.1.digest
            | none => done { r with vals := putBlocks bs conv key r.vals }
        else
          let per := perFlit q { t with level := level.toNat }
          done { r with vals := putVals per vals poison conv (fun i => key (t.first + i)) r.vals })

/-- EV_A2A_DROP at most once per plan and period of its parcel (R360). -/
def State.a2aDrop (s : State) (r : CollRun) (n : Nat) (stn : Nat) : State :=
  if n = 0 then s
  else
    let per := match s.locate stn with | some k => s.periodOf k | none => 0
    (s.inc (Reg.colA2aDropCount r.ld) n).raiseOnce (onceKey (0x2049 + 0x100000 * r.plan) r.parcel per) (0x2049 + 0x100 * r.ld) r.parcel
      [s.meridian.toNat, r.plan]

/-- The ACCEPTED bit of a row's sidecar entry written, poisoned where it derives from poison (R359, R360, R363). -/
def State.markRow (s : State) (x : A2aRow) (acc bad : Bool) : State :=
  match x.side with
  | none => s
  | some (n, off) =>
    match s.locate n with
    | none => s
    | some k =>
      let key := lsKey k.fd k.log off
      s.wroteRun (.engine (16 + ldOf k.fd)) (s.parcelOf k.fd) key (leBytes 8 (withBits (s.natAt key 8) 51 1 (if acc then 1 else 0))) bad

/-- Own rows to destination `d` that are not settled yet, settled by the ordinals it accepts (R360); `bad` says which of them
came with POISON (R363). -/
def State.settleRows (s : State) (r : CollRun) (own d : Nat) (acc bad : A2aRow → Bool) : State :=
  let open? := fun (x : A2aRow) => decide (x.src = own ∧ x.dest = d ∧ x.acc = none)
  let mine := r.rows.filter open?
  let s := mine.foldl (fun s x => s.markRow x (acc x) (x.bad || bad x)) s
  let s := s.setRun { r with rows := r.rows.map (fun x => if open? x then { x with acc := some (acc x) } else x) }
  let drops := mine.filter (fun x => !acc x)
  s.a2aDrop r drops.length ((drops.head?.bind (·.side)).map (·.1) |>.getD 0)

/-- The rows of received blocks of a gather or broadcast, with their scales (R165). -/
def blockRows (bs : List (PlatBlk × PlatOwn)) : List PlatRow :=
  bs.flatMap (fun x =>
    let sc := groupScols x.1.k x.1.group
    (x.1.rows (fun row => x.2.rows.getD row [])).zipIdx.map (fun y =>
      ⟨x.1.rowFirst + y.2, decide (x.1.form = formFull), y.1, (x.1.scales.drop (y.2 * sc)).take sc⟩))

/-- COLL_RECV_COPY: a received range copied into its place (R352, R356, R358, R360). The operands are those of
COLL_RECV_ADD; a plat block's digest is checked first (R167). -/
def execCollRecvCopy (p : BitVec 2) (plan : BitVec 16) (step : BitVec 32) (module : BitVec 18) (vals : List (BitVec 256))
    (stream : List Byte) (poison : List Bool) (terms : BitVec 32) (s : State) : Out :=
  .next (match s.stepOf p.toNat plan.toNat step.toNat 3 with
    | none => s
    | some (r, q, t) =>
      let own := q.modIdx s.ownModule
      let src := q.modIdx module.toNat
      let mark := fun (s : State) =>
        match s.collRun p.toNat plan.toNat with
        | some r => (s.setRun { r with steps := r.steps ++ [step.toNat] }).collFinish p.toNat plan.toNat
        | none => s
      if module.toNat ≠ t.peer then s
      else if q.op = opLaSum then
        mark (s.setRun { r with
          la := LA.decode ((vals.head?.map (·.toNat)).getD 0), laTerms := terms.toNat, laPoison := poison.any id, laFinal := true })
      else if q.op = opAllToAll then
        if t.level = 0 then
          mark (s.setRun { r with rows := r.rows ++ vals.zipIdx.map (fun x =>
            ⟨src, bitsAt x.1.toNat 32 32, bitsAt x.1.toNat 64 32, bitsAt x.1.toNat 0 32, own, none, none, [],
             poison.getD (x.2 / perFlit q t) false⟩) })
        else if t.level = 1 then
          let is := fun (x : A2aRow) (y : BitVec 256) => decide (y.toNat = x.gidx + x.shard * 2 ^ 32 + x.row * 2 ^ 64)
          mark (s.settleRows r own src (fun x => vals.any (is x))
            (fun x => vals.zipIdx.any (fun y => is x y.1 && poison.getD (y.2 / perFlit q t) false)))
        else
          let acc := (a2aAccepted q own r).filter (fun x => x.src = src)
          mark (s.setRun { r with rows := r.rows.map (fun x =>
            match acc.findIdx? (· = x) with
            | some i => { x with data := (List.range q.rowElems).map (fun j =>
                let n := i * q.rowElems + j
                cvEnc ((vals.getD n 0).toNat) (poison.getD (n / perFlit q t) false)) }
            | none => x) })
      else if q.sparse then
        if r.mems.length ≠ q.mems.length then s
        else
          let bs := recvBlocks r q t stream poison
          match badBlock r q bs with
          | some x => s.maskMismatch r ((s.stepPort r.ld t.port t.peer).getD 255) x.1.rowFirst (x.1.expected x.2) x.1.digest
          | none =>
            if q.reduces then mark (s.setRun { r with res := putBlocks bs id id r.res })
            else mark (s.setRun { r with prows := r.prows ++ blockRows bs })
      else mark (s.setRun { r with res := putVals (perFlit q t) vals poison id (fun i => t.first + i) r.res }))

/-! ## Delivery -/

/-- Byte writes of a collective's results, the codewords `bad` that a poisoned value reaches written poisoned and logged, in
any module, and counted in COL_POISON (R296, R363). -/
def State.collStore (s : State) (r : CollRun) (ws : List (Nat × Byte)) (bad : List Nat) : State :=
  let s := (s.storeP (.engine (16 + r.ld)) r.parcel ws bad).1
  if bad = [] then s
  else (s.inc (Reg.colPoisonCount r.ld) bad.length).raise (0x2048 + 0x100 * r.ld) r.parcel [s.meridian.toNat, r.plan]

/-- The destination of a joined member. -/
def CollMem.dst (m : CollMem) : Desc := { descOf m.dnum m.dbits with ext := m.ext }

/-- Results of a range written into one member's share of a tensor (R356). -/
def State.deliverTensor (s : State) (r : CollRun) (q : Plan) (t : PStep) (m : CollMem) (pm : PMem) (k : Loc) : State :=
  let own := q.modIdx s.ownModule
  let d := m.dst
  let sh := q.shareOf pm
  let off := if q.op = opReduceScatter then pm.first else 0
  let at_ := fun (c : List Nat) =>
    let e := d.linear c + off
    if t.first ≤ e ∧ e < t.first + t.count ∧ sh.1 ≤ e ∧ e < sh.1 + sh.2 then resVal q own r e else none
  let ws := s.packTensor k d false (fun c => (at_ c).map (·.1))
  let bad := s.cwsOf k d (d.coords.filter (fun c => ((at_ c).map (·.2)).getD false))
  s.collStore r ws bad

/-- Codewords in which two byte writes of one shape differ. -/
def diffCws (a b : List (Nat × Byte)) : List Nat := (((a.zip b).filter (fun x => decide (x.1 ≠ x.2))).map (fun x => x.1.1 / 32)).eraseDups

/-- The byte writes of a gathered or broadcast plat (R165), poisoned values and scales flipped if `flip`: values and scales
go through its mask, but rows that brought other codes than its own rewrite the plat. Where all codes are its own, bitmap
and CODE_DIGEST stay as they are (log 251, DESIGN CHOICE). -/
def State.copyPlat (s : State) (r : CollRun) (k : Loc) (d : Desc) (h : PlatHdr) (flip : Bool) : List (Nat × Byte) :=
  let row := fun (i : Nat) => (r.prows.find? (fun y => y.row = i)).getD ⟨i, false, [], []⟩
  let dec := fun (w c : Nat) => (let x := (cvDec c).getD (0, false); if flip then flipIf w x else x.1)
  let scales := if h.scaled then (List.range h.rows).flatMap (fun i => (row i).scales.map (fun c => BitVec.ofNat 8 (dec 8 c))) else []
  let kept := fun (i : Nat) => !(row i).full || decide ((row i).slots.map (·.1) = (s.platSlots k d h i).map (·.1))
  if (List.range h.rows).all (fun i => kept i) then
    s.platValueWrites k d h (fun i pos => (((row i).slots.find? (fun x => x.1 = pos)).map (fun x => dec (fmtBits h.fmt) x.2)).getD 0)
      ++ (if h.scaled then spread (s.dkey k d h.scaleOff) scales else [])
  else
    s.platWrites k d h ((List.range h.rows).map (fun i => (List.range h.ng).map (fun g =>
      ((row i).slots.filter (fun x => x.1 / h.g = g)).map (fun x => (x.1 % h.g, dec (fmtBits h.fmt) x.2))))) scales

/-- The byte writes of a reduction's results into one member's plat, through its mask (R167). -/
def State.reducePlat (s : State) (r : CollRun) (q : Plan) (pm : PMem) (k : Loc) (d : Desc) (h : PlatHdr) (flip : Bool) :
    List (Nat × Byte) :=
  let own := q.modIdx s.ownModule
  let off := if q.op = opReduceScatter then pm.first else 0
  let slots := (List.range h.rows).flatMap (fun row => (s.platSlots k d h row).map (fun x => (row, x.1)))
  s.platValueWrites k d h (fun row pos =>
    (let x := (resVal q own r (slots.findIdx (· = (row, pos)) + off)).getD (0, false)
     if flip then flipIf (fmtBits h.fmt) x else x.1))

/-- Results written into one member's plat (R165, R167, R363). -/
def State.deliverPlat (s : State) (r : CollRun) (q : Plan) (m : CollMem) (pm : PMem) (k : Loc) : State :=
  let h := s.platHdr k m.dst
  let w := if q.reduces then s.reducePlat r q pm k m.dst h else s.copyPlat r k m.dst h
  s.collStore r (w false) (diffCws (w false) (w true))

/-- Accepted rows, the pad and the output sidecar, whose entries take their index's poison, written into an ALL_TO_ALL's
destination (R361, R363). -/
def State.deliverRows (s : State) (r : CollRun) (q : Plan) (m : CollMem) (pm : PMem) (k : Loc) : State :=
  let own := q.modIdx s.ownModule
  let d := m.dst
  let acc := a2aAccepted q own r
  let fill := ({ d with pad := q.pad % 8 } : Desc).padRaw
  let at_ := fun (c : List Nat) =>
    let e := d.linear c
    let slot := e / q.rowElems
    if q.cap ≤ slot then none
    else match acc[slot]? with
      | some x => some ((cvDec (x.data.getD (e % q.rowElems) 0)).getD (0, false))
      | none => some (fill, false)
  let side := (List.range q.cap).flatMap (fun slot =>
    match acc[slot]? with
    | some x => leBytes 4 x.gidx ++ leBytes 4 x.row
    | none => leBytes 4 0xFFFFFFFF ++ leBytes 4 0)
  let ws := s.packTensor k d false (fun c => (at_ c).map (·.1)) ++ spread (lsKey k.fd k.log pm.sideOut) side
  let bad := s.cwsOf k d (d.coords.filter (fun c => ((at_ c).map (·.2)).getD false))
  let sbad := (acc.zipIdx.filter (fun x => x.1.bad)).map (fun x => (lsKey k.fd k.log pm.sideOut + 8 * x.2) / 32)
  s.collStore r ws (bad ++ sbad).eraseDups

/-- The exact sum written into element (0, 0) of a participant's tile, with its term count (R249), and kept for a
repetition of the leg. -/
def State.deliverLa (s : State) (r : CollRun) (m : CollMem) (k : Loc) : State :=
  match m.tile with
  | none => s
  | some ts => (s.laInto k ts r.la r.laTerms).updLst k.num (fun l => { l with laDone := l.laDone ++ [(m.ext.headD 0, r.la, r.laTerms)] })

/-- Whether a delivery's inputs are there. A plat is delivered whole. -/
def State.deliverReady (s : State) (r : CollRun) (q : Plan) (t : PStep) : Bool :=
  let own := q.modIdx s.ownModule
  if q.op = opLaSum then decide (r.mems.length = q.mems.length)
  else if q.op = opAllToAll then
    a2aKnown q own r && (a2aAccepted q own r).all (fun x => !x.data.isEmpty || decide (q.rowElems = 0))
  else
    q.mems.zipIdx.all (fun m => !t.meets (q.shareOf m.1) || r.mems.any (fun x => x.idx = m.2))
      && (if !q.sparse then (List.range t.count).all (fun i => (resVal q own r (t.first + i)).isSome)
          else if q.reduces then q.mems.all (fun m =>
            !t.meets (q.shareOf m) || (List.range (q.shareOf m).2).all (fun i => (resVal q own r ((q.shareOf m).1 + i)).isSome))
          else (r.plats.head?.map (fun o => (List.range o.rows.length).all (fun i => r.prows.any (fun y => y.row = i)))).getD false)

/-- COLL_DELIVER: result values of a step's range written to the members' destinations (R356, R361, R363, R367). -/
def execCollDeliver (p : BitVec 2) (plan : BitVec 16) (step : BitVec 32) (s : State) : Out :=
  .next (match s.stepOf p.toNat plan.toNat step.toNat 4 with
    | none => s
    | some (r, q, t) =>
      if !s.deliverReady r q t then s
      else
        let own := q.modIdx s.ownModule
        let s := if q.op = opAllToAll then
            (let ok := a2aAccepted q own r; s.settleRows r own own (fun x => ok.contains x) (fun _ => false)) else s
        let s := r.mems.foldl (fun s m =>
          match q.mems[m.idx]?, s.locate m.stn with
          | some pm, some k =>
            if m.done then s
            else if q.op = opLaSum then s.deliverLa r m k
            else if q.op = opAllToAll then (if m.idx = 0 then s.deliverRows r q m pm k else s)
            else if q.sparse then s.deliverPlat r q m pm k
            else s.deliverTensor r q t m pm k
          | _, _ => s) s
        match s.collRun p.toNat plan.toNat with
        | some r => (s.setRun { r with steps := r.steps ++ [step.toNat] }).collFinish p.toNat plan.toNat
        | none => s)

end Sys2Proof.Machine
end

