-- ==== Sys2Proof/Machine/Control.lean ====
section
/-! DEFINITION. Control instructions: NOP, JMP, LOOP, SELECT, TRAP (R195 to R197, R203, R204). -/

namespace Sys2Proof.Machine

/-- Checks of NOP: it uses no field. -/
def bodyNop (f : CtrlF) (_ : Env) (s : State) : Res := if f.okFor false false false false then .ok s else .illegal

/-- NOP does nothing (R204). -/
def execNop (stn : BitVec 11) (f : CtrlF) (s : State) : Out := .next (s.issue stn (ctrlWord 0x00 f) (goZ (bodyNop f)))

/-- Whether a word offset lies within the station's program (R192, R197; the station's image is its program, log 20). -/
def State.inProg (s : State) (v : Env) (t : Int) : Bool :=
  decide (0 ≤ t) && decide (t < (s.progWords v.parcel v.loc.num : Int))

/-- PC_INVALID with the target word offset (R197, R215). -/
def pcInvalid (t : Int) : Res := .early fcPcInvalid (t % (2 ^ 64 : Nat)).toNat

/-- A branch to a word offset: PC_INVALID before PC changes, or PC set (R195, R197). -/
def State.branch (s : State) (v : Env) (t : Int) : Res :=
  if s.inProg v t then .ok (s.setPc v.loc t.toNat) else pcInvalid t

/-- JMP: PC := PC + OFF32 (R195). -/
def bodyJmp (f : CtrlF) (v : Env) (s : State) : Res :=
  if f.okFor false false false true then s.branch v (v.pc + f.off32.toInt) else .illegal

/-- JMP (R195). -/
def execJmp (stn : BitVec 11) (f : CtrlF) (s : State) : Out := .next (s.issue stn (ctrlWord 0x03 f) (goJump (bodyJmp f)))

/-- LOOP: the count register decremented, and a branch while it is not zero; DATA_STEER before any effect when it
carries DATA (R195). -/
def bodyLoop (f : CtrlF) (v : Env) (s : State) : Res :=
  let b := v.loc.b
  let i := f.sa.toNat
  if !f.okFor true false false true then .illegal
  else if s.sdata b i then .early fcDataSteer i
  else
    let n := s.sreg b i
    if n = 0 then .ok (s.setPc v.loc (v.pc + 1))
    else
      let s' := s.setS b i (n - 1) (s.sdata b i)
      if n = 1 then .ok (s'.setPc v.loc (v.pc + 1))
      else if s.inProg v (v.pc + f.off32.toInt) then .ok (s'.setPc v.loc (v.pc + f.off32.toInt).toNat)
      else pcInvalid (v.pc + f.off32.toInt)

/-- LOOP (R195). -/
def execLoop (stn : BitVec 11) (f : CtrlF) (s : State) : Out := .next (s.issue stn (ctrlWord 0x04 f) (goJump (bodyLoop f)))

/-- Entries of a SELECT's variant table (R196). -/
def selectEntries (f : CtrlF) : Nat := if f.imm16 = 0 then 65536 else f.imm16.toNat

/-- Entry `e` of the variant table that starts at image word `t0`: a signed word offset (R196). -/
def State.variant (s : State) (v : Env) (t0 e : Nat) : Int :=
  toSigned 32 (s.img v.parcel (s.progOff v.parcel v.loc.num + 8 * (t0 + e / 2) + 4 * (e % 2)) 4)

/-- SELECT: a branch through the variant table, the index clamped or faulting beyond it (R196, R197). -/
def bodySelect (f : CtrlF) (v : Env) (s : State) : Res :=
  let b := v.loc.b
  let n := selectEntries f
  let t0 : Int := v.pc + f.off32.toInt
  let i := s.sreg b f.sa.toNat
  if !f.okFor true true true true then .illegal
  else if !s.inProg v t0 then pcInvalid t0
  else if !s.inProg v (t0 + ((n + 1) / 2 : Nat) - 1) then pcInvalid (t0 + ((n + 1) / 2 : Nat) - 1)
  else if i < n then s.branch v (v.pc + s.variant v t0.toNat i)
  else if f.f = 1 then
    (s.branch v (v.pc + s.variant v t0.toNat (n - 1))).map (fun s => s.inc (Reg.stnSelClampExcess b) (i - (n - 1)))
  else .early fcShapeOver (7 + (i - (n - 1)) % 2 ^ 32 * 2 ^ 32)

/-- SELECT (R196). -/
def execSelect (stn : BitVec 11) (f : CtrlF) (s : State) : Out :=
  .next (s.issue stn (ctrlWord 0x05 f) (goJump (bodySelect f)))

/-- TRAP faults with IMM16 (R204, R215). -/
def bodyTrap (f : CtrlF) (_ : Env) (_ : State) : Res :=
  if f.okFor false false true false then .early fcTrap f.imm16.toNat else .illegal

/-- TRAP (R204). -/
def execTrap (stn : BitVec 11) (f : CtrlF) (s : State) : Out := .next (s.issue stn (ctrlWord 0x06 f) (goZ (bodyTrap f)))

end Sys2Proof.Machine
end

