-- ==== Sys2Proof/Machine/Scalar.lean ====
section
/-! DEFINITION. Scalar instructions (R194, R204, R221 to R225) and descriptor instructions (R199, R226). -/

namespace Sys2Proof.Machine

/-- A result written to S[SD] with its DATA flag (R194). -/
def wrS (v : Env) (f : ScalF) (x : Nat) (data : Bool) (s : State) : Res := .ok (s.setS v.loc.b f.sd.toNat (x % 2 ^ 64) data)

/-- OR of the DATA flags of SA and SB (R194). -/
def dataAB (v : Env) (f : ScalF) (s : State) : Bool := s.sdata v.loc.b f.sa.toNat || s.sdata v.loc.b f.sb.toNat

/-- B = S[SB] + sext(IMM32) (chapter 08, Scalar). -/
def opB (v : Env) (f : ScalF) (s : State) : Nat := (s.sreg v.loc.b f.sb.toNat + sext32 f.imm32) % 2 ^ 64

/-- S[SA]. -/
def opA (v : Env) (f : ScalF) (s : State) : Nat := s.sreg v.loc.b f.sa.toNat

/-- SLI: S[SD] := sext(IMM32), DATA 0. -/
def bodySli (f : ScalF) (v : Env) (s : State) : Res :=
  if f.okFor true false false false true then wrS v f (sext32 f.imm32) false s else .illegal

/-- SLI (R204). -/
def execSli (stn : BitVec 11) (f : ScalF) (s : State) : Out := .next (s.issue stn (scalWord 0x10 f) (goZ (bodySli f)))

/-- SLUI: bits [63:32] of S[SD] := IMM32, DATA kept. -/
def bodySlui (f : ScalF) (v : Env) (s : State) : Res :=
  if f.okFor true false false false true then
    wrS v f (f.imm32.toNat * 2 ^ 32 + s.sreg v.loc.b f.sd.toNat % 2 ^ 32) (s.sdata v.loc.b f.sd.toNat) s
  else .illegal

/-- SLUI (R204). -/
def execSlui (stn : BitVec 11) (f : ScalF) (s : State) : Out := .next (s.issue stn (scalWord 0x11 f) (goZ (bodySlui f)))

/-- SADD: S[SA] + B. -/
def bodySadd (f : ScalF) (v : Env) (s : State) : Res :=
  if f.okFor true true true false true then wrS v f (opA v f s + opB v f s) (dataAB v f s) s else .illegal

/-- SADD (R204). -/
def execSadd (stn : BitVec 11) (f : ScalF) (s : State) : Out := .next (s.issue stn (scalWord 0x12 f) (goZ (bodySadd f)))

/-- SSUB: S[SA] − S[SB] + sext(IMM32). -/
def bodySsub (f : ScalF) (v : Env) (s : State) : Res :=
  if f.okFor true true true false true then
    wrS v f (opA v f s + (2 ^ 64 - s.sreg v.loc.b f.sb.toNat) + sext32 f.imm32) (dataAB v f s) s
  else .illegal

/-- SSUB (R204). -/
def execSsub (stn : BitVec 11) (f : ScalF) (s : State) : Out := .next (s.issue stn (scalWord 0x13 f) (goZ (bodySsub f)))

/-- SMUL: the low 64 bits of S[SA] × S[SB]. -/
def bodySmul (f : ScalF) (v : Env) (s : State) : Res :=
  if f.okFor true true true false false then wrS v f (opA v f s * s.sreg v.loc.b f.sb.toNat) (dataAB v f s) s else .illegal

/-- SMUL (R204). -/
def execSmul (stn : BitVec 11) (f : ScalF) (s : State) : Out := .next (s.issue stn (scalWord 0x14 f) (goZ (bodySmul f)))

/-- SLOGIC: AND, OR, XOR, ANDN by FN (R222). -/
def bodySlogic (f : ScalF) (v : Env) (s : State) : Res :=
  if !f.okFor true true true true true then .illegal
  else
    let a := BitVec.ofNat 64 (opA v f s)
    let b := BitVec.ofNat 64 (opB v f s)
    match f.fn.toNat with
    | 0 => wrS v f (a &&& b).toNat (dataAB v f s) s
    | 1 => wrS v f (a ||| b).toNat (dataAB v f s) s
    | 2 => wrS v f (a ^^^ b).toNat (dataAB v f s) s
    | 3 => wrS v f (a &&& ~~~b).toNat (dataAB v f s) s
    | _ => .illegal

/-- SLOGIC (R222). -/
def execSlogic (stn : BitVec 11) (f : ScalF) (s : State) : Out := .next (s.issue stn (scalWord 0x15 f) (goZ (bodySlogic f)))

/-- SSHIFT: left, logical right, arithmetic right by B[5:0] (R222). -/
def bodySshift (f : ScalF) (v : Env) (s : State) : Res :=
  if !f.okFor true true true true true then .illegal
  else
    let a := BitVec.ofNat 64 (opA v f s)
    let n := opB v f s % 64
    match f.fn.toNat with
    | 0 => wrS v f (a <<< n).toNat (dataAB v f s) s
    | 1 => wrS v f (a >>> n).toNat (dataAB v f s) s
    | 2 => wrS v f (a.sshiftRight n).toNat (dataAB v f s) s
    | _ => .illegal

/-- SSHIFT (R222). -/
def execSshift (stn : BitVec 11) (f : ScalF) (s : State) : Out := .next (s.issue stn (scalWord 0x16 f) (goZ (bodySshift f)))

/-- SMINMAX: signed or unsigned minimum or maximum of S[SA] and B (R222). -/
def bodySminmax (f : ScalF) (v : Env) (s : State) : Res :=
  if !f.okFor true true true true true then .illegal
  else
    let a := BitVec.ofNat 64 (opA v f s)
    let b := BitVec.ofNat 64 (opB v f s)
    match f.fn.toNat with
    | 0 => wrS v f (if b.slt a then b else a).toNat (dataAB v f s) s
    | 1 => wrS v f (if a.slt b then b else a).toNat (dataAB v f s) s
    | 2 => wrS v f (if b.ult a then b else a).toNat (dataAB v f s) s
    | 3 => wrS v f (if a.ult b then b else a).toNat (dataAB v f s) s
    | _ => .illegal

/-- SMINMAX (R222). -/
def execSminmax (stn : BitVec 11) (f : ScalF) (s : State) : Out :=
  .next (s.issue stn (scalWord 0x17 f) (goZ (bodySminmax f)))

/-! ## Memory words (R223, R226) -/

/-- A = S[SA] + sext(IMM32), modulo 2^64. -/
def memAddr (v : Env) (f : ScalF) (s : State) : Nat := (opA v f s + sext32 f.imm32) % 2 ^ 64

/-- The checks of R223 on `n` bytes at A, aligned to `n`: ADDR_INVALID, ACCESS_DENIED, or none. -/
def memCheck (v : Env) (f : ScalF) (n : Nat) (u : Use) (s : State) : Option Flt :=
  let a := memAddr v f s
  if a % n ≠ 0 then some (fcAddrInvalid, a)
  else s.runCheck v u (decide (f.fn.toNat % 2 = 1)) a [(0, n)]

/-- The key of A: a local-store offset or a survey address (R223). -/
def memKey (v : Env) (f : ScalF) (s : State) : Nat :=
  if f.fn.toNat % 2 = 1 then s.keyOf (memAddr v f s) else lsKey v.loc.fd v.loc.log (memAddr v f s)

/-- The old value that an SLD through INC_FETCH reads, incremented in place (R315); none for any other key. -/
def incFetch (k : Nat) (s : State) : Option (Nat × State) :=
  if keyRemote k then none
  else match regionOf (k / 2 ^ 41) (k % 2 ^ 41) with
    | .atomic 0xA b =>
      let t := dieKey (k / 2 ^ 41) (scBase + b)
      let old := s.natAt t 8
      some (old, ((s.poke t (leBytes 8 (old + 1))).inc (Reg.scAtomicOpsCount (k / 2 ^ 41))))
    | _ => none

/-- SLD: S[SD] := the 64-bit word at A, DATA 1; poison leaves it unchanged (R223). -/
def bodySld (f : ScalF) (v : Env) (s : State) : Res :=
  if !f.okFor true true false true true ∨ 1 < f.fn.toNat then .illegal
  else match memCheck v f 8 .sld s with
    | some e => .flt e
    | none =>
      let k := memKey v f s
      withInputs v s [(k, 8)] (fun s =>
        match s.poisonAt k 8 with
        | some c => .late s fcPoisonConsumed (s.addrOf c)
        | none =>
          match incFetch k s with
          | some (old, s) => .ok (s.setS v.loc.b f.sd.toNat old true)
          | none => .ok (s.setS v.loc.b f.sd.toNat (s.natAt k 8) true))

/-- SLD (R223). -/
def execSld (stn : BitVec 11) (f : ScalF) (s : State) : Out := .next (s.issue stn (scalWord 0x18 f) (goEng engSeq (bodySld f)))

/-- SST: S[SB] stored at A (R223). -/
def bodySst (f : ScalF) (v : Env) (s : State) : Res :=
  if !f.okFor false true true true true ∨ 1 < f.fn.toNat then .illegal
  else match memCheck v f 8 .write s with
    | some e => .flt e
    | none => storeRes v s (spread (memKey v f s) (leBytes 8 (s.sreg v.loc.b f.sb.toNat))) id

/-- SST (R223). -/
def execSst (stn : BitVec 11) (f : ScalF) (s : State) : Out := .next (s.issue stn (scalWord 0x19 f) (goEng engSeq (bodySst f)))

/-- The value of an SMFS source (R224); none for a source or qualifier that is not assigned. -/
def smfsValue (v : Env) (f : ScalF) (s : State) : Option Nat :=
  let b := v.loc.b
  match f.fn.toNat with
  | 8 =>
    if f.imm32.toNat < 4 then
      let t := (s.stn v.loc).tile f.imm32.toNat
      some (t.terms % 2 ^ 32 + (if t.tl then 2 ^ 32 else 0))
    else none
  | fn =>
    if f.imm32 ≠ 0 then none
    else match fn with
      | 0 => some s.meridian.toNat
      | 1 => some (s.rd (Reg.stnPacePace b))
      | 2 => some (s.legOf v.loc)
      | 3 => some v.loc.num
      | 4 => some (s.rd Reg.glbModuleNumModule)
      | 5 => some v.parcel
      | 6 => some (s.rd (Reg.stnLatenessLateness b))
      | 7 => some lsBytes
      | 9 => some (s.rd (Reg.stnQstSeqSeq b))
      | _ => none

/-- SMFS: a station source with DATA 1 (R224). -/
def bodySmfs (f : ScalF) (v : Env) (s : State) : Res :=
  if !f.okFor true false false true true then .illegal
  else match smfsValue v f s with
    | some x => wrS v f x true s
    | none => .illegal

/-- SMFS (R224). -/
def execSmfs (stn : BitVec 11) (f : ScalF) (s : State) : Out := .next (s.issue stn (scalWord 0x1A f) (goZ (bodySmfs f)))

/-- Set bits of a 64-bit mask. -/
def popcount (m : Nat) : Nat := ((List.range 64).filter (bitOf m)).length

/-- Index of the lowest set bit, or 64. -/
def lowestBit (m : Nat) : Nat := ((List.range 64).find? (bitOf m)).getD 64

/-- SMFP: a predicate's mask, population count or lowest set bit, with DATA 1 (R225). -/
def bodySmfp (f : ScalF) (v : Env) (s : State) : Res :=
  if !f.okFor true true false true false ∨ 8 ≤ f.sa.toNat then .illegal
  else
    let m := s.pred v.loc.b f.sa.toNat
    match f.fn.toNat with
    | 0 => wrS v f m true s
    | 1 => wrS v f (popcount m) true s
    | 2 => wrS v f (lowestBit m) true s
    | _ => .illegal

/-- SMFP (R225). -/
def execSmfp (stn : BitVec 11) (f : ScalF) (s : State) : Out := .next (s.issue stn (scalWord 0x1B f) (goZ (bodySmfp f)))

/-! ## Descriptors -/

/-- DLD: D[SD] := 64 bytes at A, unchecked (R226). -/
def bodyDld (f : ScalF) (v : Env) (s : State) : Res :=
  if !f.okFor true true false true true ∨ 1 < f.fn.toNat ∨ 16 ≤ f.sd.toNat then .illegal
  else match memCheck v f 64 .read s with
    | some e => .flt e
    | none =>
      let k := memKey v f s
      withInputs v s [(k, 64)] (fun s =>
        match s.poisonAt k 64 with
        | some c => .late s fcPoisonConsumed (s.addrOf c)
        | none => .ok (s.setDbits v.loc.b f.sd.toNat (s.natAt k 64)))

/-- DLD (R226). -/
def execDld (stn : BitVec 11) (f : ScalF) (s : State) : Out := .next (s.issue stn (scalWord 0x20 f) (goEng engSeq (bodyDld f)))

/-- DST: 64 bytes at A := D[SD] (R226). -/
def bodyDst (f : ScalF) (v : Env) (s : State) : Res :=
  if !f.okFor true true false true true ∨ 1 < f.fn.toNat ∨ 16 ≤ f.sd.toNat then .illegal
  else match memCheck v f 64 .write s with
    | some e => .flt e
    | none => storeRes v s (spread (memKey v f s) (leBytes 64 (s.dbits v.loc.b f.sd.toNat))) id

/-- DST (R226). -/
def execDst (stn : BitVec 11) (f : ScalF) (s : State) : Out := .next (s.issue stn (scalWord 0x21 f) (goEng engSeq (bodyDst f)))

/-- DSET: field FN of D[SD] := S[SA] + sext(IMM32); LAYOUT_INVALID when it does not fit (R199, R226). -/
def bodyDset (f : ScalF) (v : Env) (s : State) : Res :=
  if !f.okFor true true false true true ∨ 16 ≤ f.sd.toNat then .illegal
  else match dField f.fn.toNat with
    | none => .illegal
    | some (lo, w) =>
      let x := memAddr v f s
      let fits : Bool :=
        if dSigned f.fn.toNat then
          decide (-(2 ^ (w - 1) : Nat) ≤ toSigned 64 x) && decide (toSigned 64 x < (2 ^ (w - 1) : Nat))
        else decide (x < 2 ^ w)
      if fits then
        .ok (s.setDbits v.loc.b f.sd.toNat (withBits (s.dbits v.loc.b f.sd.toNat) lo w x))
      else .early fcLayoutInvalid f.sd.toNat

/-- DSET (R199). -/
def execDset (stn : BitVec 11) (f : ScalF) (s : State) : Out := .next (s.issue stn (scalWord 0x22 f) (goZ (bodyDset f)))

/-- DADV: BASE += STRIDE[FN] × (S[SA] + sext(IMM32)), modulo 2^64 (R226). -/
def bodyDadv (f : ScalF) (v : Env) (s : State) : Res :=
  if !f.okFor true true false true true ∨ 16 ≤ f.sd.toNat ∨ f.fn.toNat < 1 ∨ 4 < f.fn.toNat then .illegal
  else
    let d := s.desc v.loc.b f.sd.toNat
    let x : Int := d.base + d.st f.fn.toNat * (memAddr v f s : Int)
    .ok (s.setDbits v.loc.b f.sd.toNat (withBits (s.dbits v.loc.b f.sd.toNat) 0 64 (x % (2 ^ 64 : Nat)).toNat))

/-- DADV (R226). -/
def execDadv (stn : BitVec 11) (f : ScalF) (s : State) : Out := .next (s.issue stn (scalWord 0x23 f) (goZ (bodyDadv f)))

/-- DCOPY: D[SD] := D[SA] (R204). -/
def bodyDcopy (f : ScalF) (v : Env) (s : State) : Res :=
  if !f.okFor true true false false false ∨ 16 ≤ f.sd.toNat ∨ 16 ≤ f.sa.toNat then .illegal
  else .ok (s.setDbits v.loc.b f.sd.toNat (s.dbits v.loc.b f.sa.toNat))

/-- DCOPY (R204). -/
def execDcopy (stn : BitVec 11) (f : ScalF) (s : State) : Out := .next (s.issue stn (scalWord 0x24 f) (goZ (bodyDcopy f)))

/-- DGET: S[SD] := field FN of D[SA], strides sign-extended, DATA 1 (R226). -/
def bodyDget (f : ScalF) (v : Env) (s : State) : Res :=
  if !f.okFor true true false true false ∨ 16 ≤ f.sa.toNat then .illegal
  else match dField f.fn.toNat with
    | none => .illegal
    | some (lo, w) =>
      let x := bitsAt (s.dbits v.loc.b f.sa.toNat) lo w
      wrS v f (if dSigned f.fn.toNat then (toSigned w x % (2 ^ 64 : Nat)).toNat else x) true s

/-- DGET (R226). -/
def execDget (stn : BitVec 11) (f : ScalF) (s : State) : Out := .next (s.issue stn (scalWord 0x25 f) (goZ (bodyDget f)))

end Sys2Proof.Machine
end

