-- ==== Sys2Proof/Machine/Engine.lean ====
section
/-! DEFINITION. Instruction words fetched from an image, engine queues (R205, R213) and single steps (R216). -/

namespace Sys2Proof.Machine

/-- What issuing a word does, by its opcode (R204); a word with an opcode that R204 does not assign is illegal
(R203). -/
def issueWord (w : BitVec 64) : Env → State → State :=
  let op := w.toNat / 2 ^ 56
  if op = 0x00 then (let f := ctrlOf w; goZ (bodyNop f))
  else if op = 0x01 then (let f := ctrlOf w; goEnd f)
  else if op = 0x02 then (let f := ctrlOf w; goLeg f)
  else if op = 0x03 then (let f := ctrlOf w; goJump (bodyJmp f))
  else if op = 0x04 then (let f := ctrlOf w; goJump (bodyLoop f))
  else if op = 0x05 then (let f := ctrlOf w; goJump (bodySelect f))
  else if op = 0x06 then (let f := ctrlOf w; goZ (bodyTrap f))
  else if op = 0x10 then (let f := scalOf w; goZ (bodySli f))
  else if op = 0x11 then (let f := scalOf w; goZ (bodySlui f))
  else if op = 0x12 then (let f := scalOf w; goZ (bodySadd f))
  else if op = 0x13 then (let f := scalOf w; goZ (bodySsub f))
  else if op = 0x14 then (let f := scalOf w; goZ (bodySmul f))
  else if op = 0x15 then (let f := scalOf w; goZ (bodySlogic f))
  else if op = 0x16 then (let f := scalOf w; goZ (bodySshift f))
  else if op = 0x17 then (let f := scalOf w; goZ (bodySminmax f))
  else if op = 0x18 then (let f := scalOf w; goEng engSeq (bodySld f))
  else if op = 0x19 then (let f := scalOf w; goEng engSeq (bodySst f))
  else if op = 0x1A then (let f := scalOf w; goZ (bodySmfs f))
  else if op = 0x1B then (let f := scalOf w; goZ (bodySmfp f))
  else if op = 0x20 then (let f := scalOf w; goEng engSeq (bodyDld f))
  else if op = 0x21 then (let f := scalOf w; goEng engSeq (bodyDst f))
  else if op = 0x22 then (let f := scalOf w; goZ (bodyDset f))
  else if op = 0x23 then (let f := scalOf w; goZ (bodyDadv f))
  else if op = 0x24 then (let f := scalOf w; goZ (bodyDcopy f))
  else if op = 0x25 then (let f := scalOf w; goZ (bodyDget f))
  else if op = 0x30 then (let f := tensOf w; goCopy (bodyCopy f))
  else if op = 0x31 then (let f := tensOf w; goCopy (bodyCvld f))
  else if op = 0x32 then (let f := tensOf w; goEng engMov (bodyTld f))
  else if op = 0x33 then (let f := tensOf w; goEng engMov (bodyTst f))
  else if op = 0x34 then (let f := tensOf w; goEng engMat (bodyTclr f))
  else if op = 0x40 then (let f := tensOf w; goEng engMat (bodyMpass f))
  else if op = 0x41 then (let f := tensOf w; goEng engMat (bodyMelem f))
  else if op = 0x42 then (let f := tensOf w; goEng engMat (bodyChin f))
  else if op = 0x43 then (let f := tensOf w; goEng engMat (bodyChout f))
  else if op = 0x50 then (let f := tensOf w; goEng engVec (bodyVld f))
  else if op = 0x51 then (let f := tensOf w; goEng engVec (bodyVst f))
  else if op = 0x52 then (let f := tensOf w; goEng engVec (bodyVarith f))
  else if op = 0x53 then (let f := tensOf w; goEng engVec (bodyVfma f))
  else if op = 0x54 then (let f := tensOf w; goEng engVec (bodyVfunc f))
  else if op = 0x55 then (let f := tensOf w; goEng engVec (bodyVcmp f))
  else if op = 0x56 then (let f := tensOf w; goEng engVec (bodyVsel f))
  else if op = 0x57 then (let f := tensOf w; goEng engVec (bodyVred f))
  else if op = 0x58 then (let f := tensOf w; goEng engVec (bodyVcvt f))
  else if op = 0x59 then (let f := tensOf w; goEng engVec (bodyVgather f))
  else if op = 0x60 then (let f := tensOf w; goEng engMat (bodySpmm f))
  else if op = 0x61 then (let f := tensOf w; goEng engMat (bodySpmmT f))
  else if op = 0x62 then (let f := tensOf w; goEng engMat (bodyRecon f))
  else if op = 0x63 then (let f := tensOf w; goEng engSel (bodyPrune f))
  else if op = 0x64 then (let f := tensOf w; goEng engSel (bodyRegrow f))
  else if op = 0x70 then (let f := syncOf w; goW (fun _ => .fence) (bodyFence f))
  else if op = 0x71 then (let f := syncOf w; goBarrier f)
  else if op = 0x72 then (let f := syncOf w; goWaitmk f)
  else if op = 0x73 then (let f := syncOf w; goEng engCol (bodySignal f))
  else if op = 0x74 then (let f := syncOf w; goW (fun _ => .sig f.group.toNat f.imm32.toInt) (bodyWaitsig f))
  else if op = 0x75 then (let f := tensOf w; goEng engCol (bodyColl f))
  else if op = 0x76 then (let f := syncOf w; goW (fun _ => .coll f.group.toNat) (bodyCollwait f))
  else if op = 0x77 then (let f := tensOf w; goEng engCol (bodyLasum f))
  else if op = 0x80 then (let f := scalOf w; goZ (bodyRngset f))
  else if op = 0x81 then (let f := tensOf w; goEng engRqd (bodyRand f))
  else if op = 0x82 then (let f := tensOf w; goEng engRqd (bodySample f))
  else if op = 0x83 then (let f := tensOf w; goEng engRqd (bodyQuant f))
  else if op = 0x84 then (let f := tensOf w; goEng engRqd (bodyDigest f))
  else goZ (fun _ _ => .illegal)

/-- The body of a word that an engine may hold. -/
def engineBody (w : BitVec 64) : Env → State → Res :=
  let op := w.toNat / 2 ^ 56
  if op = 0x18 then (let f := scalOf w; bodySld f)
  else if op = 0x19 then (let f := scalOf w; bodySst f)
  else if op = 0x20 then (let f := scalOf w; bodyDld f)
  else if op = 0x21 then (let f := scalOf w; bodyDst f)
  else if op = 0x30 then (let f := tensOf w; bodyCopy f)
  else if op = 0x31 then (let f := tensOf w; bodyCvld f)
  else if op = 0x32 then (let f := tensOf w; bodyTld f)
  else if op = 0x33 then (let f := tensOf w; bodyTst f)
  else if op = 0x34 then (let f := tensOf w; bodyTclr f)
  else if op = 0x40 then (let f := tensOf w; bodyMpass f)
  else if op = 0x41 then (let f := tensOf w; bodyMelem f)
  else if op = 0x42 then (let f := tensOf w; bodyChin f)
  else if op = 0x43 then (let f := tensOf w; bodyChout f)
  else if op = 0x50 then (let f := tensOf w; bodyVld f)
  else if op = 0x51 then (let f := tensOf w; bodyVst f)
  else if op = 0x52 then (let f := tensOf w; bodyVarith f)
  else if op = 0x53 then (let f := tensOf w; bodyVfma f)
  else if op = 0x54 then (let f := tensOf w; bodyVfunc f)
  else if op = 0x55 then (let f := tensOf w; bodyVcmp f)
  else if op = 0x56 then (let f := tensOf w; bodyVsel f)
  else if op = 0x57 then (let f := tensOf w; bodyVred f)
  else if op = 0x58 then (let f := tensOf w; bodyVcvt f)
  else if op = 0x59 then (let f := tensOf w; bodyVgather f)
  else if op = 0x60 then (let f := tensOf w; bodySpmm f)
  else if op = 0x61 then (let f := tensOf w; bodySpmmT f)
  else if op = 0x62 then (let f := tensOf w; bodyRecon f)
  else if op = 0x63 then (let f := tensOf w; bodyPrune f)
  else if op = 0x64 then (let f := tensOf w; bodyRegrow f)
  else if op = 0x73 then (let f := syncOf w; bodySignal f)
  else if op = 0x75 then (let f := tensOf w; bodyColl f)
  else if op = 0x77 then (let f := tensOf w; bodyLasum f)
  else if op = 0x81 then (let f := tensOf w; bodyRand f)
  else if op = 0x82 then (let f := tensOf w; bodySample f)
  else if op = 0x83 then (let f := tensOf w; bodyQuant f)
  else if op = 0x84 then (let f := tensOf w; bodyDigest f)
  else fun _ _ => .illegal

/-- A fault of an instruction an engine executes (R213): the first one moves PC to it, later ones are only counted. -/
def State.engineFault (s : State) (v : Env) (cause info : Nat) : State :=
  if (s.stn v.loc).faulted then s.stnFault v.loc true cause info v.word v.pc else s.faultAt v true cause info

/-- The engine's next instruction executed: removed once it completes or faults, left while it waits (R205, R213). -/
def State.dispatch (s : State) (k : Loc) (q : QEnt) : State :=
  let v : Env := ⟨k, s.parcelOf k.fd, q.leg, q.pc, q.word, true⟩
  let drop := fun (s : State) => s.updStn k (fun t => { t with engq := t.engq.erase q })
  match engineBody q.word v s with
  | .ok s => (drop s).settle
  | .late s c i => ((drop s).engineFault v c i).settle
  | .early c i => ((drop (if [0x30, 0x31].contains (q.word.toNat / 2 ^ 56) then s.copyFaulted v c else s)).engineFault v c i).settle
  | .wait s => s
  | .hold s => s

/-- A single step's instruction issued, unless it waits under R206 or for room in its engine's queue (R216); a PC outside
the program faults (R197). -/
def State.stepGo (s : State) (k : Loc) : State :=
  let p := s.parcelOf k.fd
  let w := s.wordAt p k.num (s.pcOf k)
  let v := s.env k w
  let done := fun (s : State) => s.updStn k (fun t => { t with step := .none' })
  if s.progWords p k.num ≤ s.pcOf k then (done s).faultAt v false fcPcInvalid (s.pcOf k)
  else if s.hazard k w then s.inc (Reg.stnHazardWaitCount k.b)
  else if s.stalls k w then s.inc (Reg.stnIssueStallCount k.b)
  else ((issueWord w v s).stepIssued k w (s.pcOf k) (s.stn k).engq.length).settle

/-- A station whose single step still waits to issue tries again. -/
def State.stepRetry (s : State) (k : Loc) : State :=
  if (s.stn k).step = .issue ∧ s.stateAt k = stRunning then s.stepGo k else s

/-- ENGINE_QUEUE_DISPATCH: an engine of a logical station takes the next instruction from its queue (R205), unless one
issued before it, in another engine, must access the same memory first (R207), the FD is stopped (R321, R488), or an error
has stopped the station for good (R442). -/
def execEngineQueueDispatch (stn : BitVec 11) (eng : BitVec 3) (s : State) : Out :=
  .next (match s.locate stn.toNat with
    | none => s
    | some k =>
      match (s.stn k).engq.find? (fun q => q.eng = eng.toNat) with
      | some q =>
        if s.fdStopped k.fd ∨ (s.stn k).dead ∨ s.ordered k q.word ((s.stn k).engq.takeWhile (fun e => decide (e ≠ q))) then s
        else (s.dispatch k q).stepRetry k
      | none => s)

/-- STN_STEP: a write of STN_CTL.STEP; a halted station issues the instruction at its PC and is halted again once it has
completed, in any other state the write is ignored (R216, R218). -/
def execStnStep (stn : BitVec 11) (s : State) : Out :=
  .next (match s.locate stn.toNat with
    | none => s
    | some k =>
      if s.stateAt k ≠ stHalted then s
      else (s.updStn k (fun t => { t with step := .issue })).stepGo k)

end Sys2Proof.Machine
end

