-- ==== Sys2Proof/Machine/StnCtl.lean ====
section
/-! DEFINITION. Writes to a station's control, state and random registers (R189, R216 to R218), and the write of a register
by its access codes (R14). -/

namespace Sys2Proof.Machine

/-- A register written by its access codes alone (R14): RW fields take the value, a 1 clears a W1C bit, everything
else is ignored. A location without a register discards the write (R13). -/
def State.plainWrite (s : State) (a : Nat) (v : BitVec 64) : State :=
  match regRowAt a with
  | none => s
  | some r =>
    let m := BitVec.ofNat 64 r.rw
    s.setReg a (((s.reg a &&& ~~~m) ||| (v &&& m)) &&& ~~~(v &&& BitVec.ofNat 64 r.w1c))

/-- Whether a block offset is one of the S, P, SG and D registers or STN_SDATA (R217). -/
def isStateReg (o : Nat) : Bool :=
  (decide (0x600 ≤ o) && decide (o < 0x748)) || (decide (0x780 ≤ o) && decide (o < 0xC00))

/-- Whether a block offset is SEED or a STREAM or BASE register (R189). -/
def isRngReg (o : Nat) : Bool := decide (o = 0x500) || (decide (0x510 ≤ o) && decide (o < 0x590))

/-- A BAR0 write to a register of physical station `p` of FD `fd`, other than STEP and STN_RB_SEL (R189, R216, R217): S0,
P0 and bit 0 of STN_SDATA keep their value, bits [511:496] of a D register stay zero (R198). -/
def State.stnWrite (s : State) (fd p o : Nat) (v : BitVec 64) : State :=
  let b := stnBase fd p
  if isStateReg o then
    if s.stateOf fd p ≠ stHalted then s.inc (Reg.stnStatusWrDiscard b)
    else if o = 0x600 ∨ o = p0Off then s
    else if o = 0x700 then s.plainWrite (b + o) (v &&& 0xFFFFFFFE)
    else if o % 0x40 = 0x38 ∧ 0x800 ≤ o then s.plainWrite (b + o) (v &&& 0xFFFFFFFFFFFF)
    else s.plainWrite (b + o) v
  else if isRngReg o then
    if s.stateOf fd p ≠ stHalted then s.inc (Reg.stnRngStatusWrDiscard b) else s.plainWrite (b + o) v
  else s.plainWrite (b + o) v

/-- A BAR0 write of STN_CTL.HALT of a logical station (R216, R218); clearing it in FAULTED or HELD resumes nothing. -/
def execStnHaltWrite (stn : BitVec 11) (halt : Bool) (s : State) : Out :=
  .next (match s.locate stn.toNat with
    | none => s
    | some k => s.stnWrite k.fd k.phys 0 (if halt then 1 else 0))

/-- A BAR0 write to the S, P, SG, D or STN_SDATA register at block offset `off` of a logical station (R217); an offset
that is none of them is another row's write and does nothing here. -/
def execStnStateRegWrite (stn : BitVec 11) (off : BitVec 12) (v : BitVec 64) (s : State) : Out :=
  .next (match s.locate stn.toNat with
    | none => s
    | some k => if isStateReg off.toNat then s.stnWrite k.fd k.phys off.toNat v else s)

/-- A BAR0 write to SEED, STREAMj or BASEj of a logical station (R189). -/
def execStnRngRegWrite (stn : BitVec 11) (off : BitVec 12) (v : BitVec 64) (s : State) : Out :=
  .next (match s.locate stn.toNat with
    | none => s
    | some k => if isRngReg off.toNat then s.stnWrite k.fd k.phys off.toNat v else s)

end Sys2Proof.Machine
end

