-- ==== Sys2Proof/Machine/Coherence.lean ====
section
/-! DEFINITION. Requests that reach their home through the mesh: reads, writes, snoops, notices and grants of the
directory (R309 to R313, R317), atomic operations (R314 to R316), and error correction (R295, R296, R299, R325). -/

namespace Sys2Proof.Machine

/-! ## Errors in codewords -/

/-- EV_ECC_CORRECTED (R325). -/
def evEccCorrected : Nat := 0x5061

/-- The fields that count corrected and uncorrectable codewords of a key's tier (R177, R323), a redirected granule's
being the reserve's (DEDUCED, log 237); the shared cache has none. -/
def State.eccFlds (s : State) (k : Nat) : Option (Fld × Fld) :=
  let fd := k / 2 ^ 41
  match regionOf fd (s.homeKey k % 2 ^ 41) with
  | .t1 => some (Reg.t1EccCorr fd, Reg.t1EccUncorr fd)
  | .t2 => some (Reg.t2EccCorr fd, Reg.t2EccUncorr fd)
  | .ls l _ => (s.locate (fd * 128 + l)).map (fun q => (Reg.lsEccCorr q.b, Reg.lsEccUncorr q.b))
  | _ => none

/-- A correction counted, and EV_ECC_CORRECTED raised at most once per second per tier (R325); a second is 4 × 10⁹
ticks (R43). -/
def State.eccCorrected (s : State) (k : Nat) : State :=
  let fd := k / 2 ^ 41
  let key := fd * 4 + tierOf k
  let s := match s.eccFlds k with | some f => s.inc f.1 | none => s
  let last := Sparse.get (fun _ => 0) s.eccTime key
  if last ≠ 0 ∧ s.meridian.toNat < last - 1 + 4000000000 then s
  else
    { s with eccTime := Sparse.set (fun _ => 0) s.eccTime key (s.meridian.toNat + 1) }.raise
      (fdCode evEccCorrected fd) (s.parcelOf fd) [s.meridian.toNat, s.addrOf (k / 32 * 32)]

/-- The offset of a local-store codeword found uncorrectable recorded in LS_POISON_ADDR while that is free (R176, R177). -/
def State.lsPoisonAt (s : State) (k : Nat) : State :=
  let fd := k / 2 ^ 41
  match regionOf fd (k % 2 ^ 41) with
  | .ls l o =>
    match s.locate (fd * 128 + l) with
    | some q =>
      if s.flag (Reg.lsPoisonAddrValid q.b) then s
      else (s.wr (Reg.lsPoisonAddrAddr q.b) (o / 32 * 32)).wr (Reg.lsPoisonAddrValid q.b) 1
    | none => s
  | _ => s

/-- An uncorrectable error found in a key's codeword (R296): counted, poisoned and logged. -/
def State.eccUncorrected (s : State) (k found : Nat) : State :=
  let s := match s.eccFlds k with | some f => s.inc f.2 | none => s
  (s.lsPoisonAt k).poisonCw k found

/-- Bits set in a symbol. -/
def bitCount (b : BitVec 8) : Nat := (maskBits b.toNat 8).length

/-- What ECC makes of a codeword whose bits differ from those written as `errs` says, one 8-bit pattern for each erroneous
symbol: 0 no error, 1 corrected, 2 detected. The tiers correct one symbol and detect two, the shared cache and the local
store one bit and two (R295). What more errors look like is not given, and free (log 225). -/
def State.eccSees (s : State) (k : Nat) (errs : List (BitVec 8)) : Nat × State :=
  let n := if tierOf k < 2 then (errs.filter (fun b => decide (b ≠ 0))).length else errs.foldl (fun a b => a + bitCount b) 0
  if n ≤ 2 then (n, s) else (s.free.1 % 3, s.free.2)

/-- An access to a key that finds the errors `errs` in its codeword (R295, R296, R299). A poisoned codeword shows the poison
pattern and nothing else. -/
def State.eccFind (s : State) (k : Nat) (errs : List (BitVec 8)) (found : Nat) : State :=
  if s.cwPoison (k / 32) then s
  else
    let r := s.eccSees k errs
    if r.1 = 1 then r.2.eccCorrected k
    else if r.1 = 2 then r.2.eccUncorrected k found
    else r.2

/-! ## The directory -/

/-- Whether a key lies in tier-1, tier-2, scratch or a local store of an FD, within its sizes (R288). -/
def State.fdMemory (s : State) (k n : Nat) : Bool :=
  decide (k / 2 ^ 41 < 16) && !s.addrBad (k / 2 ^ 41) (k % 2 ^ 41) n .read true
    && (match regionOf (k / 2 ^ 41) (k % 2 ^ 41) with | .t1 | .t2 | .sc _ | .ls _ _ => true | _ => false)

/-- The line of a command's survey address, and the FD it is homed at, when it lies in this module. -/
def State.lineOf (s : State) (addr : BitVec 64) : Option (Nat × Nat) :=
  let k := s.keyOf addr.toNat
  if keyRemote k ∨ !cacheable k then none else some (k / 128, k / 2 ^ 41)

/-- Whether the stack behind a key is stopped (R321). -/
def State.stackStopped (s : State) (k : Nat) : Bool :=
  s.memTrip.contains (k / 2 ^ 41) && (match regionOf (k / 2 ^ 41) (s.homeKey k % 2 ^ 41) with | .t1 => true | _ => false)

/-- Whether a key lies in a local store that is being cleared (R179). -/
def State.clearsStore (s : State) (k : Nat) : Bool :=
  match regionOf (k / 2 ^ 41) (k % 2 ^ 41) with
  | .ls _ _ => s.clearing (s.parcelOf (k / 2 ^ 41))
  | _ => false

/-- A read by FD `fd` of the line at `addr` reaches its home (R309, R310, R317). `errs` are the errors in
the first codeword (R295). A read of its own FD's memories, of scratch or of a local store is served without the
directory; a line held is read from its copy; one evict-pending waits (R312); a stopped stack serves nothing (R321). A request that finds
a limit of R320 is counted and comes again. -/
def State.memRead (s : State) (fd : BitVec 4) (addr : BitVec 64) (errs : List (BitVec 8)) : State :=
  let k := s.keyOf addr.toNat
  if keyRemote k ∨ !s.fdMemory k 1 ∨ s.stackStopped k then s
    else
      let f := fd.toNat
      if !s.trkRoom f 0xFFFF then s.inc (Reg.memTrkStallCount f)
      else
      let s := s.passMesh f (k / 2 ^ 41) (k % 2 ^ 41)
      if k / 2 ^ 41 = f ∨ !cacheable k then s.eccFind k errs foundRead
      else if s.copies.any (fun c => decide (c.fd = f ∧ c.line = k / 128) && !c.evicting) then s
      else
        let s := if s.evictPending f (k / 128) then s else s.eccFind k errs foundRead
        s.request ⟨f, 0xFFFF, k / 128 * 128, false, [], false, false⟩

/-- A write of FD `fd`, or of an edge die, to bytes of one line reaches its home (R299, R311, R317):
applied at once when no other FD shares the line, else once every sharer has answered; it waits while the FD is
evict-pending for the line (R312). Bytes beyond the line belong to another request; a loaded image is not written (R210); a
stopped stack takes nothing (R321); a local store being cleared discards the write before it is looked at (R179). A request that
finds a limit of R320 is counted and comes again. -/
def State.memWrite (s : State) (fd : BitVec 5) (addr : BitVec 64) (data : List Byte) (errs : List (BitVec 8)) : State :=
  let k := s.keyOf addr.toNat
  let bs := data.take (128 - k % 128)
  if keyRemote k ∨ bs = [] ∨ !s.fdMemory k bs.length ∨ s.inImage k bs.length ∨ s.stackStopped k then s
    else
      if s.clearsStore k then s
      else if !s.trkRoom fd.toNat 0xFFFF then s.inc (Reg.memTrkStallCount fd.toNat)
      else
      let s := if k % 32 = 0 ∧ 32 ≤ bs.length then s else s.eccFind k errs foundPartial
      if cacheable k then (s.meshTrip fd.toNat (k / 2 ^ 41) (k % 2 ^ 41)).request ⟨fd.toNat, 0xFFFF, k, true, bs, false, false⟩
      else s.wroteRun (.engine fd.toNat) 0 k bs false

/-- SNOOP_RECEIVE: the oldest snoop of a line reaches sharer `fd`, which answers (R313). -/
def execSnoopReceive (fd : BitVec 4) (addr : BitVec 64) (s : State) : Out :=
  .next (match s.lineOf addr with
    | none => s
    | some (line, _) =>
      match s.snoops.find? (fun x => decide (x.1 = line ∧ x.2.1 = fd.toNat)) with
      | none => s
      | some x =>
        let s := ({ s with snoops := s.snoops.erase x }.snoopAt fd.toNat line).passMesh fd.toNat (line * 128 / 2 ^ 41) (line * 128 % 2 ^ 41)
        { s with snoopAns := s.snoopAns ++ [(line, fd.toNat)] })

/-- SNOOP_ANSWER_RECEIVE: an answer reaches the home; with the last one the write completes (R311). -/
def execSnoopAnswerReceive (fd : BitVec 4) (addr : BitVec 64) (s : State) : Out :=
  .next (match s.lineOf addr with
    | none => s
    | some (line, home) =>
      if !s.snoopAns.contains (line, fd.toNat) then s
      else
        let s := { s with snoopAns := s.snoopAns.erase (line, fd.toNat) }
        match (s.dirOf home).find? (fun e => e.line = line) with
        | none => s
        | some e =>
          let aw := e.awaiting &&& ~~~(1#16 <<< fd.toNat)
          let e' := { e with awaiting := aw }
          let s := s.updEnt line (fun _ => e')
          if e.locked ∧ aw = 0 then (s.unlockLine e').settle else s)

/-- SHARER_EVICTION: a sharer evicts a line it holds and sends its notice (R312). -/
def execSharerEviction (fd : BitVec 4) (addr : BitVec 64) (s : State) : Out :=
  .next (match s.lineOf addr with
    | none => s
    | some (line, _) =>
      match s.copies.find? (fun c => decide (c.fd = fd.toNat ∧ c.line = line) && !c.evicting) with
      | none => s
      | some c =>
        { s.passMesh fd.toNat (line * 128 / 2 ^ 41) (line * 128 % 2 ^ 41) with
          copies := s.copies.map (fun x => if x = c then { x with evicting := true } else x)
          notices := s.notices ++ [(line, fd.toNat, c.epoch.toNat)] })

/-- EVICTION_NOTICE_RECEIVE: a notice reaches the home, which clears the sender's bit or discards the notice as stale, and
acknowledges it (R312). -/
def execEvictionNoticeReceive (fd : BitVec 4) (addr : BitVec 64) (s : State) : Out :=
  .next (match s.lineOf addr with
    | none => s
    | some (line, home) =>
      match s.notices.find? (fun x => decide (x.1 = line ∧ x.2.1 = fd.toNat)) with
      | none => s
      | some n =>
        let s := { s with notices := s.notices.erase n, evictAcks := s.evictAcks ++ [(line, fd.toNat)] }.passMesh home fd.toNat
            (line * 128 % 2 ^ 41)
        match (s.dirOf home).find? (fun e => decide (e.line = line ∧ e.epoch.toNat = n.2.2) && e.sharers.getLsbD fd.toNat) with
        | some e =>
          let e' := { e with sharers := e.sharers &&& ~~~(1#16 <<< fd.toNat) }
          s.setDir home (if e'.sharers = 0 ∧ !e.locked then (s.dirOf home).filter (fun x => x.line ≠ line)
            else (s.dirOf home).map (fun x => if x.line = line then e' else x))
        | none => s.inc (Reg.scStaleNoteCount home))

/-- EVICTION_ACK_RECEIVE: the sharer leaves evict-pending, and its requests that waited for that go to the home in order
(R312). -/
def execEvictionAckReceive (fd : BitVec 4) (addr : BitVec 64) (s : State) : Out :=
  .next (match s.lineOf addr with
    | none => s
    | some (line, _) =>
      let f := fd.toNat
      if !s.evictAcks.contains (line, f) then s
      else
        let mine := fun (r : HomeReq) => decide (r.die = f ∧ r.key / 128 = line)
        let waits := s.readWait.filter mine
        let s := { s with
          evictAcks := s.evictAcks.erase (line, f)
          copies := s.copies.filter (fun c => !(decide (c.fd = f ∧ c.line = line) && c.evicting))
          readWait := s.readWait.filter (fun r => !mine r) }
        (waits.foldl (fun s r => s.homeRequest r true) s).settle)

/-- READ_GRANT_RECEIVE: a grant reaches its FD; its data is delivered, and installed in its slice unless the read is marked
use once (R308, R313). -/
def execReadGrantReceive (fd : BitVec 4) (addr : BitVec 64) (s : State) : Out :=
  .next (match s.lineOf addr with
    | none => s
    | some (line, _) =>
      match s.grants.find? (fun g => decide (g.fd = fd.toNat ∧ g.line = line)) with
      | none => s
      | some g =>
        let s := { s with grants := s.grants.erase g }.meshSend (line * 128 / 2 ^ 41) g.fd (line * 128 % 2 ^ 41) [1, line] g.bytes
        if g.once then s.inc (Reg.scFillOnceCount g.fd)
        else { s with copies := s.copies.filter (fun c => !(decide (c.fd = g.fd ∧ c.line = line)))
            ++ [⟨g.fd, line, lineSlice line, g.epoch, g.bytes, false⟩] })

/-! ## Atomic operations -/

/-- An atomic of station `n` whose target codeword `c` is poisoned: POISON_CONSUMED, late (R316). -/
def State.atomicFault (s : State) (n : BitVec 11) (c : Nat) : State :=
  match s.locate n.toNat with
  | some q => s.stnFault q true fcPoisonConsumed (s.addrOf c) 0 (s.pcOf q)
  | none => s

/-- INC_FETCH at offset `b` of an FD's scratch: the old value, and the state with the element incremented (R315). -/
def State.incFetch (s : State) (f b : Nat) : Nat × State :=
  let k := dieKey f (scBase + b)
  (s.natAt k 8, (s.poke k (leBytes 8 (s.natAt k 8 + 1))).inc (Reg.scAtomicOpsCount f))

/-- INC_FETCH for station `n` at offset `b` of the FD's scratch, by the slice that holds it: the old value answered, the
stored one incremented (R307, R315). -/
def State.atomicFetch (s : State) (f b : Nat) (n : BitVec 11) : State :=
  if b % 8 ≠ 0 ∨ s.scratch f < b + 8 then s
  else match s.poisonAt (dieKey f (scBase + b)) 8 with
    | some c => s.atomicFault n c
    | none => (s.incFetch f b).2.meshSend f (n.toNat / 128) b [2, (s.incFetch f b).1, scratchSlice b] []

/-- A write into the atomic window at key `k`, by a station or an engine of FD `f`. A station's is counted apart from those of its
program (R447). -/
def State.atomicWrite (s : State) (k f parcel : Nat) (data : List Byte) (stn : Option (BitVec 11)) : State :=
  match stn with
  | some n =>
    let w : Writer := .station n.toNat (2 ^ 32) 0
    match (s.writeRun w parcel k data false).2 with
    | some c => (s.wroteRun w parcel k data false).atomicFault n c
    | none => s.wroteRun w parcel k data false
  | none => s.wroteRun (.engine f) parcel k data false

/-- ATOMIC_OPERATION: an access of the atomic window of FD `fd` reaches the slice that holds its target (R314 to R316).
`stn` is the station that issued it, none for the host or an engine. INC_FETCH is a station's 8-byte SLD: it answers
the old value and adds 1; with any other access it, like a reserved code or a misfit, is an address error that nothing
here serves (R290). -/
def execAtomicOperation (fd op : BitVec 4) (off : BitVec 32) (data : List Byte) (stn : Option (BitVec 11)) (s : State) : Out :=
  let f := fd.toNat
  let b := off.toNat
  .next (if op = 0xA then
      match stn with
      | none => s
      | some n => s.atomicFetch f b n
    else if 0xA < op.toNat ∨ data = [] ∨ s.addrBad f (atomBase + op.toNat * 2 ^ 32 + b) data.length .write true then s
    else s.atomicWrite (dieKey f (atomBase + op.toNat * 2 ^ 32 + b)) f (s.parcelOf f) data stn)

end Sys2Proof.Machine
end

