-- ==== Sys2Proof/Machine/Dram.lean ====
section
/-! DEFINITION. Channel retirement (R300 to R303), the scrubber (R304, R305), the poison log (R306), die edges (R319), mesh
routers (R25), transaction limits (R320), stack temperature (R321, R322), and requests to and from other modules
(R290, R291). -/

namespace Sys2Proof.Machine

/-! ## Channels -/

/-- EV_CHANNEL_RETIRED and EV_T1_RESERVE_EXHAUSTED (R325). -/
def evChannelRetired : Nat := 0x5062
def evT1ReserveExhausted : Nat := 0x9063

/-- Codewords of a tier-1 pseudo-channel or a tier-2 sub-channel. -/
def chanCodewords (tier : Nat) : Nat := if tier = 0 then 768 * 2 ^ 20 / 32 else 32 * 2 ^ 30 / 32

/-- The first 17 codewords of a channel in row order (R293, R294), as keys of their first bytes: those an empty log takes,
and the first it loses. -/
def State.chanHead (s : State) (fd tier ch : Nat) : List Nat :=
  let granule : Nat → Nat := fun r =>
    if tier = 0 then
      64 * r + (ch ^^^ (r % 64) ^^^ (r / 2 ^ 6 % 64) ^^^ (r / 2 ^ 12 % 64) ^^^ (r / 2 ^ 18 % 16))
    else
      let inSvc := maskBits (Sparse.get (fun _ => 0xFF) s.t2Set fd) 8
      inSvc.length * r + inSvc.findIdx (· = ch)
  (List.range 17).map (fun i => dieKey fd ((if tier = 0 then 0 else t2Base) + granule (i / 8) * 256 + i % 8 * 32))

/-- The codewords of a channel logged as poisoned by its retirement (R296, R301 to R303): the log takes the first that fit,
the rest are lost and counted (R306; log 36). -/
def State.logChannel (s : State) (fd tier ch : Nat) : State :=
  ((s.chanHead fd tier ch).foldl (fun s k => s.logPoison k foundRetire) s).inc (Reg.memPoisonStatOvf fd) (chanCodewords tier - 17)

/-- A tier-1 pseudo-channel retired: the first of an FD is redirected to the reserve, all of it poisoned; a second leaves the
FD without tier-1 capacity and to be retired at its parcel's next barrier (R301, R302). -/
def State.retireT1 (s : State) (fd pc : Nat) : State :=
  let p := s.parcelOf fd
  let first := !s.flag (Reg.t1RedirectUsed fd)
  let s := s.wr ⟨(Reg.t1PcRetiredMask fd).addr, pc, 1⟩ 1
  let s := if first then ((s.wr (Reg.t1RedirectPc fd) pc).wr (Reg.t1RedirectUsed fd) 1).loseAs (fd, 2, 0) else s.loseAs (fd, 0, pc)
  let s := (s.logChannel fd 0 pc).raise (fdCode evChannelRetired fd) p [s.meridian.toNat, pc]
  if first then s
  else
    let s := (s.wr (Reg.fdMemCapT1Mib fd) 0).raise (fdCode evT1ReserveExhausted fd) p [s.meridian.toNat, pc]
    if s.retireReq.any (fun r => r.1 = fd) then s else { s with retireReq := s.retireReq ++ [(fd, 255)] }

/-- A tier-2 sub-channel retired: its data is lost and a re-forming reset is pending (R303). -/
def State.retireT2 (s : State) (fd ch : Nat) : State :=
  let s := (s.wr ⟨(Reg.t2StatusRetired fd).addr, ch, 1⟩ 1).wr (Reg.t2StatusReform fd) 1
  ((s.loseAs (fd, 1, ch)).logChannel fd 1 ch).raise (fdCode evChannelRetired fd) (s.parcelOf fd) [s.meridian.toNat, ch]

/-- DRAM_INTERFACE_ERROR: one execution of a command on a channel of tier 0 or 1 finds an interface error, or (`ok`) a
repetition succeeds. Each error makes the controller repeat the command, counted in RETRY; when the fourth repetition
also fails the channel is retired (R300). -/
def execDramInterfaceError (fd : BitVec 4) (tier2 : Bool) (ch : BitVec 6) (ok : Bool) (s : State) : Out :=
  let f := fd.toNat
  let tier := if tier2 then 1 else 0
  let key := (f * 2 + tier) * 64 + ch.toNat
  let retired : Bool := if tier2 then decide (8 ≤ ch.toNat) || bitOf (s.rd (Reg.t2StatusRetired f)) ch.toNat
    else bitOf (s.rd (Reg.t1PcRetiredMask f)) ch.toNat
  let n := Sparse.get (fun _ => 0) s.dramTry key
  .next (if retired then s
    else if ok then { s with dramTry := Sparse.set (fun _ => 0) s.dramTry key 0 }
    else if n < 4 then
      { s with dramTry := Sparse.set (fun _ => 0) s.dramTry key (n + 1) }.inc (if tier2 then Reg.t2RetryCount f else Reg.t1RetryCount f)
    else
      let s := { s with dramTry := Sparse.set (fun _ => 0) s.dramTry key 0 }
      if tier2 then s.retireT2 f ch.toNat else s.retireT1 f ch.toNat)

/-! ## The scrubber -/

/-- EV_POISON_FOUND (R325). -/
def evPoisonFound : Nat := 0x1060

/-- The tier a scrubber walks, with its first key and its codewords: tier-1, the tier-2 range in service, scratch. -/
def State.scrubRange (s : State) (fd tier : Nat) : Nat × Nat :=
  if tier = 0 then (dieKey fd 0, 0xC00000000 / 32)
  else if tier = 1 then (dieKey fd t2Base, s.rd (Reg.t2StatusInService fd) * 0x800000000 / 32)
  else (dieKey fd scBase, s.scratch fd / 32)

/-- Whether a scrubber skips a codeword: a poisoned one, or one of a retired channel, redirected or not (R305), or of a stopped
stack. -/
def State.scrubSkips (s : State) (fd k : Nat) : Bool :=
  s.cwPoison (k / 32) || s.chanDead k
    || (decide (k % 2 ^ 41 < 0xC00000000) && bitOf (s.rd (Reg.t1PcRetiredMask fd)) (t1Pc (k % 2 ^ 41)))

/-- SCRUB_STEP: the scrubber of an FD reads the next codeword of tier-1, tier-2 or scratch (`tier` 0 to 2) in ascending
order; `errs` are the errors it finds there (R295). Poisoned codewords and retired channels are skipped; the last
codeword completes a pass (R304, R305). -/
def execScrubStep (fd : BitVec 4) (tier : BitVec 2) (errs : List (BitVec 8)) (s : State) : Out :=
  let f := fd.toNat
  let t := tier.toNat
  let r := s.scrubRange f t
  let key := f * 4 + t
  let i := Sparse.get (fun _ => 0) s.scrubAt key
  let k := r.1 + i * 32
  .next (if !s.flag (Reg.memScrubCtlEnable f) ∨ t = 3 ∨ r.2 ≤ i then s
    else
      let e := s.eccSees k errs
      let s := if s.scrubSkips f k then s
        else if e.1 = 1 then e.2.eccCorrected k
        else if e.1 = 2 then
          (e.2.eccUncorrected k foundScrub).raise (fdCode evPoisonFound f) (s.parcelOf f) [s.meridian.toNat, s.addrOf k]
        else e.2
      if i + 1 < r.2 then { s with scrubAt := Sparse.set (fun _ => 0) s.scrubAt key (i + 1) }
      else { s with scrubAt := Sparse.set (fun _ => 0) s.scrubAt key 0 }.inc
        (if t = 0 then Reg.memScrubPassesT1 f else if t = 1 then Reg.memScrubPassesT2 f else Reg.memScrubPassesSc f))

/-- The head entry of an FD's poison log removed (R306). -/
def State.popPoison (s : State) (fd : Nat) : State :=
  { s with poisonLog := Sparse.set (fun _ => []) s.poisonLog fd ((s.plog fd).drop 1) }

/-- POISON_LOG_POP: 1 written to MEM_POISON_STAT.POP (R306). -/
def execPoisonLogPop (fd : BitVec 4) (s : State) : Out := .next (s.popPoison fd.toNat)

/-! ## Edges and routers -/

/-- EV_EDGE_FAIL and EV_MESH_ROUTER_FAIL (R25, R325). -/
def evEdgeFail : Nat := 0xD067
def evMeshRouterFail : Nat := 0xD001

/-- Flits an edge's sender holds that the receiver has not acknowledged, as far as an error has kept them there (R319). -/
def State.edgeHeldOf (s : State) (key : Nat) : List (Nat × Nat) := Sparse.get (fun _ => []) s.fab.edgeHeld key

/-- They, replaced. -/
def State.setEdgeHeld (s : State) (key : Nat) (l : List (Nat × Nat)) : State :=
  { s with fab := { s.fab with edgeHeld := Sparse.set (fun _ => []) s.fab.edgeHeld key l } }

/-- Credits of a class of traffic on an edge, in flits: REQ, RSP, SNP and LOCK (R318). -/
def edgeCredits (cls : Nat) : Nat := if cls < 2 then 32 else 16

/-- A flit to be sent again, held with its class; the sender holds 64, and of one class as many as it has credits (R318,
R319). A transaction that meets no error crosses its edges within one step, which leaves their buffers as it found them
(log 260). -/
def State.holdEdge (s : State) (key seq cls : Nat) : State :=
  let l := s.edgeHeldOf key
  if l.any (fun x => x.1 = seq) ∨ 64 ≤ l.length ∨ edgeCredits cls ≤ (l.filter (fun x => x.2 = cls)).length then s else s.setEdgeHeld key (l ++ [(seq, cls)])

/-- EDGE_FLIT_RECEIVE: flit `seq` of class `cls` (0 REQ, 1 RSP, 2 SNP, 3 LOCK; R318) sent over edge `edge` of FD `fd` arrives
with its CRC-16 good or bad (R319). The next flit in order is acknowledged and its credit returned, or found in error;
the sender then resends it and the flits it had sent after it, each resend counted. The sixteenth failure in a row of one flit
fails the edge. -/
def execEdgeFlitReceive (fd : BitVec 4) (edge : BitVec 2) (seq : BitVec 16) (cls : BitVec 2) (crcOk : Bool) (s : State) : Out :=
  let key := fd.toNat * 4 + edge.toNat
  let run := Sparse.get (fun _ => 0) s.edgeRun key
  let want := Sparse.get (fun _ => 0) s.edgeSeq key
  let replays := Reg.fdEdgeErrReplays fd.toNat edge.toNat
  .next (if seq.toNat ≠ want then
      -- sent before the sender knew of the error: discarded, held and sent again
      if 0 < run ∧ (seq.toNat + 2 ^ 16 - want) % 2 ^ 16 < 64 then (s.holdEdge key seq.toNat cls.toNat).inc replays else s
    else if crcOk then
      ({ s with
        edgeSeq := Sparse.set (fun _ => 0) s.edgeSeq key ((seq.toNat + 1) % 2 ^ 16)
        edgeRun := Sparse.set (fun _ => 0) s.edgeRun key 0 }.setEdgeHeld key
            ((s.edgeHeldOf key).filter (fun x => decide (x.1 ≠ want)))).send
        ⟨.meshMessage, [fd.toNat, fd.toNat, 3, edge.toNat, want], []⟩
    else
      let s := ({ s with edgeRun := Sparse.set (fun _ => 0) s.edgeRun key (run + 1) }).holdEdge key want cls.toNat
      let s := s.wr (Reg.fdEdgeErrMaxRun fd.toNat edge.toNat) (max (s.rd (Reg.fdEdgeErrMaxRun fd.toNat edge.toNat)) (min (run + 1) 65535))
      if run + 1 = 16 then s.raise (fdCode evEdgeFail fd.toNat) (s.parcelOf fd.toNat) [s.meridian.toNat, edge.toNat]
      else s.inc replays)

/-- MESH_ROUTER_FAULT: an FD's mesh router stops, which is module-fatal (R25). -/
def execMeshRouterFault (fd : BitVec 4) (s : State) : Out :=
  .next (s.raise (fdCode evMeshRouterFail fd.toNat) 4 [s.meridian.toNat])

/-! ## Limits -/

/-- EV_PARCEL_BUSY (R39). -/
def evParcelBusy : Nat := 0x0010

/-- A register that may be written only while no traverse of a parcel is loaded (R320). -/
def State.writeParcelIdle (s : State) (p a : Nat) (v : BitVec 64) : State :=
  if s.rd (Reg.glbTrvStatusState p) = trvIdle then s.plainWrite a v else s.raise evParcelBusy p [s.meridian.toNat]

/-- One that may be written only while no traverse of its FD's parcel is loaded (R320). -/
def State.writeIdle (s : State) (fd a : Nat) (v : BitVec 64) : State := s.writeParcelIdle (s.parcelOf fd) a v

/-- MEM_TRK_CFG_WRITE (R320). -/
def execMemTrkCfgWrite (fd : BitVec 4) (v : BitVec 64) (s : State) : Out :=
  .next (s.writeIdle fd.toNat (Reg.memTrkCfgLockResv fd.toNat).addr v)

/-! ## Other modules -/

/-- EV_DOMAIN_DENIED (R325). -/
def evDomainDenied : Nat := 0x9069

/-- The parcel that serves a request for a die of this module under a domain tag (R291): the die's own, with the same tag
valid; an edge die belongs to none. -/
def State.domainOf (s : State) (die tag : Nat) : Option Nat :=
  let p := s.parcelOf die
  if die < 16 ∧ s.flag (Reg.glbMemDomainValid p) ∧ s.rd (Reg.glbMemDomainDomain p) = tag then some p else none

/-- How a remote request uses its bytes. -/
def remoteUse (data : List Byte) (sld : Bool) : Use := if data ≠ [] then .write else if sld then .sld else .read

/-- A request of another module served (R291, R298, R315, R316): the answer's status and data. INC_FETCH answers a station's
8-byte SLD; an atomic operation of a station that meets a poisoned target is status 4; a local store under clearing reads
as zeros (R179). `ld` is the link die it came by. -/
def State.serveRemote (s : State) (ld k n : Nat) (data : List Byte) (sld stn poison : Bool) : Nat × List Byte × State :=
  let die := k / 2 ^ 41
  let inc := match regionOf die (k % 2 ^ 41) with | .atomic 10 b => some b | _ => none
  if data ≠ [] then
    let r := s.writeRun (.engine (16 + ld)) (s.parcelOf die) k data poison
    match regionOf die (k % 2 ^ 41) with
    | .atomic op b =>
      if stn ∧ !poison then
        let q := State.atomicRun (.station 0 0 0) die op (data.length / atomicSize op) b data
            (s.meshTrip (16 + ld) die (k % 2 ^ 41), none)
        (if q.2.isSome then 4 else 0, [], q.1)
      else (0, [], r.1)
    | _ => (0, [], r.1)
  else if (s.poisonAt k n).isSome then (3, s.bytesAt k n, s)
  else match inc with
    | some b => if sld then (0, leBytes 8 (s.incFetch die b).1, (s.incFetch die b).2) else (0, s.bytesAt k n, s)
    | none => (0, (match regionOf die (k % 2 ^ 41) with
        | .ls _ _ => if s.clearing (s.parcelOf die) then List.replicate n 0 else s.bytesAt k n
        | _ => s.bytesAt k n), s)

/-- REMOTE_REQUEST_RECEIVE: a read of `len` bytes, or a write of `data`, from module `module` (R290, R291); whether it is a
station's SLD, whether a station issued it, and whether its data is poisoned (R315, R316, R335). It is checked against the
domain tag, then against what the requester could not know of this module, and served: the answer is a MEM_RSP with status 0
served, 1 denied, 2 refused, 3 served with poisoned data, 4 a station's atomic operation on a poisoned target, 5 a write into a
loaded image (R210; log 258). A module without a number accepts none (R35); a stopped stack serves none (R321; log 261). -/
def execRemoteRequestReceive (module : BitVec 18) (tag : BitVec 32) (addr : BitVec 64) (len : BitVec 16) (data : List Byte)
    (sld stn poison : Bool) (s : State) : Out :=
  let a := addr.toNat
  let die := addrDie a
  let n := if data = [] then len.toNat else data.length
  let k := a % 2 ^ 46
  let u := remoteUse data sld
  let answer := fun (st : Nat) (d : List Byte) =>
    { TxFlit.msg 4 3 module.toNat die (s.parcelOf die) [st, a] d with poison := decide (st = 3) }
  .next (if !s.flag Reg.glbModuleNumValid ∨ addrModule a ≠ s.ownModule then s
    else if (s.domainOf die tag.toNat).isNone then s.sendModule (answer 1 []) 1
    else if s.addrBad die (addrOff a) n u true ∨ regionOf die (addrOff a) = .mirror (addrOff a - mirrorBase)
        ∨ !s.fdAnswers die then
      s.sendModule (answer 2 []) 1
    else if u = .write ∧ s.inImage k n then s.sendModule (answer 5 []) 1
    else if s.stackStopped k then s
    else
      let ld := s.edgeLd module.toNat die
      let r := (if data = [] then s.meshTrip (16 + ld) die (addrOff a) else s).serveRemote ld k n data sld stn poison
      (r.2.2.sendModule (answer r.1 r.2.1) (flitsFor r.2.1.length)).settle)

/-- The number that stands for a station in a host access to another module (R528): the function's, above every
station's. -/
def hostStn (fn : Nat) : Nat := 0x10000 + fn

/-- A host read or write of another module answered (R528): status 0 done, 1 unsupported, 2 poisoned. -/
def State.hostAnswer (s : State) (r : RemoteReq) (st : Nat) (bs : List Byte) : State :=
  if r.stn < hostStn 0 then s
  else
    { s with remoteBuf := s.remoteBuf.dropRange (2 ^ 64 + r.addr) (2 ^ 64 + r.addr + r.len) }.send
      ⟨.completion, [r.stn - hostStn 0, st], bs⟩

/-- The oldest request of this module for an address. -/
def State.remoteAt (s : State) (addr : BitVec 64) : Option RemoteReq := s.remote.find? (fun r => r.addr = addr.toNat)

/-- DOMAIN_DENIAL_RECEIVE: another module denied a request; its destination is left unchanged (R291). The event is that of the
FD that asked (R325); of a request of no FD, the code's FD is not given, and free (log 226). -/
def execDomainDenialReceive (addr : BitVec 64) (s : State) : Out :=
  .next (match s.remoteAt addr with
    | none => s
    | some r =>
      let s := (s.endRemote r).collAcked
      let s := if r.fd < 16 then s.raise (fdCode evDomainDenied r.fd) r.parcel [s.meridian.toNat, r.addr]
        else s.free.2.raise (fdCode evDomainDenied (s.free.1 % 16)) r.parcel [s.meridian.toNat, r.addr]
      (s.hostAnswer r 1 []).settle)

/-- A station faults late for a request of its own, at the PC of the instruction that made it (R213, R290, R316). -/
def State.lateFault (s : State) (r : RemoteReq) (cause info : Nat) : State :=
  match (if r.stn < 2048 then s.locate r.stn else none) with
  | none => s
  | some q => s.engineFault ⟨q, r.parcel, r.leg, r.pc, s.wordAt r.parcel q.num r.pc, true⟩ cause info

/-- ADDRESS_REFUSAL_RECEIVE: the target module refused a request; the station faults late with ADDR_INVALID, and the
instruction that awaited it ends without effect (R290, R213). -/
def execAddressRefusalReceive (addr : BitVec 64) (s : State) : Out :=
  .next (match s.remoteAt addr with
    | none => s
    | some r =>
      let s := (s.endRemote r).collAcked
      match (if r.stn < 2048 then s.locate r.stn else none) with
      | none => (s.hostAnswer r 1 []).settle
      | some q =>
        let s := if r.isWrite then s
          else s.updStn q (fun t => { t with engq := t.engq.filter (fun e => !decide (e.pc = r.pc ∧ e.leg = r.leg)) })
        (s.lateFault r fcAddrInvalid r.addr).settle)

/-! ## Stack temperature -/

/-- EV_MEM_THERM_WARN, _HOT and _TRIP (R325). -/
def evMemThermWarn : Nat := 0x1064
def evMemThermHot : Nat := 0x5065
def evMemThermTrip : Nat := 0x9066

/-- The level a stack at `temp` is at, having been at `old` (R321): a level is entered at its threshold and left 3 °C
below it. -/
def thermLevel (thr : List Nat) (old temp : Nat) : Nat :=
  ((List.range thr.length).filter (fun i =>
    decide (thr.getD i 0 ≤ temp) || (decide (i < old) && decide (thr.getD i 0 < temp + 3)))).length

end Sys2Proof.Machine
end

