-- ==== Sys2Proof/Machine/Links.lean ====
section
/-! DEFINITION. Torus ports: bring-up, HELLO, flits, NAKs, replay, lanes and low power (R326 to R342, R364, R365, R503,
R517). -/

namespace Sys2Proof.Machine

/-- Codes of R373 for LD0. -/
def evPortUp : Nat := 0x2040
def evPortDown : Nat := 0x6041
def evLaneRetired : Nat := 0x6042
def evLaneRejoined : Nat := 0x2043
def evPortMiswired : Nat := 0x2044
def evLinkUnsync : Nat := 0x2045
def evDirectionBroken : Nat := 0x604A

/-- An event of a port (R373): the code of its link die. -/
def State.portEvent (s : State) (code k : Nat) : State := s.raise (code + 0x100 * (k / 8)) 4 [s.meridian.toNat, k]

/-! ## Offsets (R497) -/

/-- The offset of a partner from the stamps of one exchange, in ps: ((t2 − t1) − (t4 − t3)) / 2 − ASYM_PS. -/
def State.stampOffset (s : State) (k : Nat) (t1 t2 t3 t4 : BitVec 64) : Int :=
  ((t2 - t1).toInt - (t4 - t3).toInt) / 2 - toSigned 16 (s.rd (Reg.merPortOffAsymPs k))

/-- MER_PORT_OFFk: the offset measured, held within its 32 bits. -/
def State.setOffset (s : State) (k : Nat) (o : Int) : State :=
  s.wr (Reg.merPortOffOffsetPs k) (max (-(2 ^ 31)) (min (2 ^ 31 - 1) o) % (2 ^ 32 : Nat)).toNat

/-- The offset guard of R502, 64 ns. -/
def offGuard : Nat := 64000

/-! ## Up and down -/

/-- What waits for a port is sent: its flits (R340), then those no route reached (R364), and READY messages once it is UP_SYNC
(R365). What it had sent before a retrain is replayed on an NAK or a timeout (R337). -/
def State.releasePort (s : State) (k : Nat) : State :=
  let s := (s.flushPort k).reroute
  if s.rd (Reg.lnkStatusState k) = lnkUpSync then
    (s.readyHeld.filter (fun r => r.1 = k)).foldl (fun s r =>
      { s with readyHeld := s.readyHeld.erase r }.sendPort k
        (TxFlit.msg 0 5 r.2.2.2.2.1 0 r.2.1 [r.2.1, r.2.2.1, r.2.2.2.1, s.ownModule, r.2.2.2.2.2] []) 1) s
  else s

/-- Collectives that wait on a peer no route reaches hold (R364). -/
def State.holdLost (s : State) : State :=
  s.colls.foldl (fun s r =>
    match ((s.plan r.parcel r.plan).steps.zipIdx.filter (fun x => !r.steps.contains x.2)).find? (fun x =>
      decide (x.1.action = 1 ∨ x.1.action = 2 ∨ x.1.action = 3) && (s.stepPort r.ld x.1.port x.1.peer).isNone) with
    | some x => s.collLost r x.1.peer
    | none => s) s

/-- Modules that requests or held flits of no collective wait on and that no route reaches, with a die and a parcel concerned
(R364). -/
def State.lostPeers (s : State) : List (Nat × Nat × Nat) :=
  ((s.remote.map (fun r => (addrModule r.addr, addrDie r.addr, r.parcel)))
    ++ (s.fab.unrouted.filter (fun f => f.kind ≠ 4)).map (fun f => (f.peer, f.die, f.parcel))).filter (fun x =>
      decide (x.1 ≠ s.ownModule) && (s.routePort (ldOf x.2.1) ((s.ownModule + x.1) % 4) x.1).isNone)

/-- EV_COLL_PEER_LOST for each module lost since `old` (R364). -/
def State.tellLost (s old : State) : State :=
  (s.lostPeers.zipIdx.filter (fun x => !old.lostPeers.any (fun y => y.1 = x.1.1)
      && !(s.lostPeers.take x.2).any (fun y => y.1 = x.1.1))).foldl (fun s x => s.peerLost x.1.2.1 x.1.2.2 x.1.1) s

/-- A port goes down: its direction may become broken (R342), and the flits it had not had acknowledged, and those that waited,
take the other port of the direction or the routes of R342 (R337); without one they are held (R364). -/
def State.takeDown (s : State) (k st : Nat) : State :=
  let p := s.port k
  let old := s
  let s := (s.wr (Reg.lnkStatusState k) st).wr (Reg.lnkStatusLanes k) 0
  let s := s.updPort k (fun q => { q with
    unacked := [], txq := [], retrain := false, rounds := 0, tries := 0, l1 := false, rxSeq := 0, txSeq := 0
    nakSent := false, early := [], loss := none, opened := [], deficit := [], turns := [] })
  let s := if !isUplink k && !old.dirBroken (k % 8) && s.dirBroken (k % 8) then s.portEvent evDirectionBroken k else s
  let s := ((p.unacked.map (·.2) ++ p.txq).filter (fun f => f.vc ≠ 7)).foldl (fun s f => s.routeFlits [f]) s
  s.holdLost.tellLost old

/-- A port down with EV_PORT_DOWN (R330, R337), whose record has the cause of a power loss the partner announced (R478). -/
def State.portFails (s : State) (k : Nat) : State :=
  (s.raise (evPortDown + 0x100 * (k / 8)) 4 ([s.meridian.toNat, k] ++ (s.port k).loss.toList.map (· + 1))).takeDown k lnkDown

/-- A port back in training from the first step, with no lane in its deal (R332, R35). -/
def State.toTrain (s : State) (k : Nat) : State :=
  ((s.wr (Reg.lnkStatusState k) lnkTrain).wr (Reg.lnkStatusLanes k) 0).updPort k (fun p =>
    { p with rounds := 0, noLane := false, l1 := false, retrain := false, early := [] })

/-- A HELLO sent in a CTRL flit on port `k` (R333): this module, the port, version 1, the receive credits of each VC, and the
meridian. It takes the next SEQ and a place in the replay buffer, but no credit, which it is first to give; in a retrain, where
older flits come first in the replay buffer, it takes no SEQ (R336; DEDUCED, log 117). -/
def State.sendHello (s : State) (k : Nat) : State :=
  let q := (s.port k).txSeq
  let m := { TxFlit.msg 7 1 0 0 0 ([s.ownModule, k, 1] ++ (List.range 8).map (fun v => rxSize v - (s.port k).rxHeld v)
      ++ [s.meridian.toNat]) [] with left := true }
  let s := if (s.port k).retrain then s
    else (s.updPort k (fun p => { p with txSeq := (q + 1) % 65536, unacked := p.unacked ++ [(q, m)] })).inc (Reg.lnkTxFlitsCount k)
  s.dealFlit k (q, m)

/-- A HELLO received in order (R336); in a retrain it has no SEQ of its own (log 117). -/
def State.takeHello (s : State) (k : Nat) : State :=
  if (s.port k).retrain then s
  else (s.updPort k (fun p => { p with rxSeq := (p.rxSeq + 1) % 65536 })).inc (Reg.lnkRxFlitsCount k)

/-- A port enters HELLO and sends the first of its three rounds (R332). -/
def State.toHello (s : State) (k : Nat) : State :=
  ((s.wr (Reg.lnkStatusState k) lnkHello).updPort k (fun p => { p with rounds := 0 })).sendHello k

/-! ## Bring-up (R332, R333) -/

/-- LINK_TRAINING_COMPLETE: steps 2 to 4 end on torus port `k` with the lanes that trained; retired lanes and those outside
LANE_MASK stay out. With none the port waits 1 s to train again (R332). -/
def execLinkTrainingComplete (k lanes : BitVec 4) (s : State) : Out :=
  let n := k.toNat
  let ok := lanes.toNat &&& s.rd (Reg.lnkCfgLaneMask n) &&& (15 - s.rd (Reg.lnkStatusRetired n))
  .next (if isUplink n ∨ s.rd (Reg.lnkStatusState n) ≠ lnkTrain ∨ !s.flag Reg.glbModuleNumValid ∨ !s.flag (Reg.lnkCfgEnable n)
      ∨ (s.port n).retrain then s
    else if ok = 0 then (s.wr (Reg.lnkStatusState n) lnkDown).updPort n (fun p => { p with noLane := true })
    else (s.wr (Reg.lnkStatusLanes n) ok).toHello n)

/-- PORT_NO_LANE_RETRY: a port left with no lane trains again after 1 s (R332). -/
def execPortNoLaneRetry (k : BitVec 4) (s : State) : Out :=
  .next (if (s.port k.toNat).noLane ∧ s.flag (Reg.lnkCfgEnable k.toNat) then s.toTrain k.toNat else s)

/-- The neighbour that R326 expects on torus port `k`: one step along its axis in the same section. -/
def State.neighbour (s : State) (k : Nat) : Nat :=
  let own := s.ownModule
  let a := k % 8 / 2
  let c := coordOf own a
  let c' := if k % 2 = 0 then (c + 1) % 4 else (c + 3) % 4
  own - c * 4 ^ a + c' * 4 ^ a

/-- HELLO: a round is received on torus port `k` (R333): the partner's module, port and version, its receive credits per
VC, and the stamps of the exchange. A round before the third is answered with the next of its own; the third brings the
port up, UP_UNSYNC beyond the guard (R332, R503). A port found miswired out of a retrain gives up its flits (R342). -/
def execHello (k : BitVec 4) (module : BitVec 18) (port : BitVec 4) (version : BitVec 8) (credits : BitVec 128)
    (t1 t2 t3 t4 : BitVec 64) (s : State) : Out :=
  let n := k.toNat
  .next (if isUplink n ∨ s.rd (Reg.lnkStatusState n) ≠ lnkHello then s
    else
      let s := ((s.takeHello n).wr (Reg.lnkStatusPartner n) module.toNat).wr (Reg.lnkStatusPartnerPort n) port.toNat
      if version ≠ 1 ∨ port.toNat ≠ n ^^^ 1 ∨ module.toNat ≠ s.neighbour n then
        let s := s.portEvent evPortMiswired n
        if (s.port n).retrain then s.takeDown n lnkMiswired else s.wr (Reg.lnkStatusState n) lnkMiswired
      else
        let s := (List.range 8).foldl (fun s v => s.wr (creditFld n v) (credits.toNat / 2 ^ (16 * v) % 2 ^ 16)) s
        let o := s.stampOffset n t1 t2 t3 t4
        let s := s.setOffset n o
        let r := (s.port n).rounds + 1
        if r < 3 then (s.updPort n (fun p => { p with rounds := r })).sendHello n
        else
          let s := s.updPort n (fun p => { p with
            rounds := 0, retrain := false, batch := 0, batchBad := false, high := 0, nakSent := false })
          if o.natAbs ≤ offGuard then ((s.wr (Reg.lnkStatusState n) lnkUpSync).portEvent evPortUp n).releasePort n
          else
            let s := (s.wr (Reg.lnkStatusState n) lnkUpUnsync).inc (Reg.merPortOffResyncs n)
            ((s.portEvent evPortUp n).portEvent evLinkUnsync n).releasePort n)

/-! ## Flits (R335 to R339) -/

/-- One bit of the CRC-32 of R335, by the polynomial of IEEE 802.3 (PRESUMED, log 68). -/
def crcBit (x : Nat) : Nat := if x % 2 = 1 then (x / 2) ^^^ 0xEDB88320 else x / 2

/-- One byte of the CRC-32 of R335: its eight bits, least significant first. -/
def crcByte (c : Nat) (b : Byte) : Nat := crcBit (crcBit (crcBit (crcBit (crcBit (crcBit (crcBit (crcBit (c ^^^ b.toNat))))))))

/-- CRC-32 of R335. -/
def crc32 (bs : List Byte) : BitVec 32 := ~~~ BitVec.ofNat 32 (bs.foldl crcByte 0xFFFFFFFF)

/-- `n` bytes of a flit or frame from `o` on, as a number. -/
def field (f : List Byte) (o n : Nat) : Nat := ofLeBytes ((f.drop o).take n)

/-- Whether a KIND belongs to a VC (R336, R339). -/
def kindOnVc (kind vc : Nat) : Bool :=
  [(0, 7), (1, 7), (2, 3), (3, 4), (4, 1), (4, 2), (5, 0), (6, 5), (7, 6)].contains (kind, vc)

/-- Whether a flit passes its CRC and the checks of R335. -/
def flitOk (f : List Byte) : Bool :=
  decide (f.length = 256) && decide ((crc32 (f.take 252)).toNat = field f 252 4)
    && kindOnVc (field f 2 1 / 8) (field f 2 1 % 8) && decide (field f 3 1 < 8) && decide (field f 8 4 < 2 ^ 25)

/-- ACK and CREDIT of a flit applied (R335): flits up to ACK leave the replay buffer, and collectives that waited for them go
on (R367); credit returns to its VC. -/
def State.applyAck (s : State) (k ack cr : Nat) : State :=
  let p := s.port k
  let s := match p.unacked.findIdx? (fun x => x.1 = ack) with
    | some i => (s.updPort k (fun q => { q with unacked := q.unacked.drop (i + 1), tries := 0 })).collAcked
    | none => s
  let c := creditFld k (cr % 8)
  (s.wr c (min 65535 (s.rd c + cr / 8))).flushPort k

/-- An answer of another module crosses the mesh from its link die to the die that asked (R22, R23). -/
def State.answerIn (s : State) (r : RemoteReq) : State :=
  s.passMesh (16 + s.edgeLd (addrModule r.addr) r.fd) r.fd (addrOff r.addr)

/-- A piece of data another module answered (log 37): payload bytes 0–7 its survey address, 8–9 its length, 10 the status
and from 16 on the data. A read whose bytes are all here, and a write answered, are complete (R207, R320); status 4
says that an atomic operation of a station met a poisoned target (R316), status 5 that a write named a loaded image, which
is ACCESS_DENIED (R210; log 258). -/
def State.memResponse (s : State) (pay : List Byte) (poison : Bool) : State :=
  let a := field pay 0 8
  let n := min (field pay 8 2) 224
  if n = 0 then
    match s.remote.find? (fun r => r.isWrite && decide (r.addr = a)) with
    | some r =>
      let s := ((s.answerIn r).endRemote r).collAcked.settle
      if field pay 10 1 = 4 then s.lateFault r fcPoisonConsumed a
      else if field pay 10 1 = 5 then (s.hostAnswer r 1 []).lateFault r fcAccessDenied a
      else s
    | none => s
  else match s.remote.find? (fun r => !r.isWrite && decide (r.addr ≤ a) && decide (a + n ≤ r.addr + r.len)) with
  | none => s
  | some q =>
    let s := s.answerIn q
    let s := (List.range n).foldl (fun s i =>
      let v := (if poison then 257 else 1) + field pay (16 + i) 1
      { s with remoteBuf := Sparse.set (fun _ => 0) s.remoteBuf (2 ^ 64 + a + i) v }) s
    let here := fun (r : RemoteReq) => !r.isWrite && s.remoteHere [(2 ^ 64 + r.addr, r.len)]
    let s' := (s.remote.filter here).foldl (fun s r => s.endRemote r) s
    ((s.remote.filter here).foldl (fun s r =>
      let k := 2 ^ 64 + r.addr
      s.hostAnswer r (if (s.poisonAt k r.len).isSome then 2 else 0) (s.bytesAt k r.len)) s').settle

/-- Whether a flit received on a torus port goes on to another module of the section (R341); CTRL flits stay on their hop. -/
def State.forwards (s : State) (f : List Byte) : Bool :=
  let dst := field f 8 4 % 2 ^ 18
  decide (dst ≠ s.ownModule) && decide (dst / 64 = s.ownModule / 64) && decide (field f 2 1 / 8 ≠ 1)

/-- Whether the hop into port `k` is the wrap-around link of its ring, from coordinate 3 to 0 or from 0 to 3 (R339). -/
def State.wrapHop (s : State) (k : Nat) : Bool := decide (coordOf s.ownModule (k % 8 / 2) = if k % 2 = 0 then 3 else 0)

/-- A received flit as it is sent on: it keeps its message's place, and its half of the buffer it is held in: the upper after
the wrap-around link (R339; a flit that crossed it a hop earlier is not told by its bytes, DEDUCED, log 220). -/
def State.onward (s : State) (n : Nat) (f : List Byte) : TxFlit :=
  let fl := field f 3 1
  let rt := field f 8 4
  { vc := field f 2 1 % 8, kind := field f 2 1 / 8, peer := rt % 2 ^ 18, die := bitsAt rt 18 5, parcel := bitsAt rt 23 2,
    idx := if bitOf fl 0 then 0 else 1, last := bitOf fl 1, poison := bitOf fl 2, src := n, upper := s.wrapHop n,
    args := [fl, rt], data := (f.drop 12).take 240 }

/-- A flit for this module taken (R338): a MEM_RSP completes a request; what the other kinds carry is presented by its own
command. One for another module is dropped: no module forwards traffic to or from an uplink (R343). -/
def State.takeFlit (s : State) (f : List Byte) : State :=
  if field f 8 4 % 2 ^ 18 = s.ownModule ∧ field f 2 1 / 8 = 3 then s.memResponse ((f.drop 12).take 240) (bitOf (field f 3 1) 2)
  else s

/-- A flit discarded for its CRC, its form or its SEQ (R335, R337): counted, and on the first of a gap a NAK is sent. Flits held ahead of
their turn are discarded with it. -/
def State.rejectFlit (s : State) (k : Nat) : State :=
  let s := (s.inc (Reg.lnkReplayCrcErr k) (1 + (s.port k).early.length)).updPort k (fun p => { p with early := [] })
  if (s.port k).nakSent then s
  else (s.updPort k (fun p => { p with nakSent := true })).deal k [(s.port k).txSeq, 7, 1, (s.port k).rxSeq] []

/-- A CTRL flit taken: the power loss it announces is kept for EV_PORT_DOWN (R478). What else one says comes by its own
command. -/
def State.takeCtrl (s : State) (n : Nat) (f : List Byte) : State :=
  if field f 2 1 / 8 = 1 then
    s.updPort n (fun p => { p with loss := (Config.announcedLoss ((f.drop 12).take 240)).or p.loss })
  else s

/-- The next flit in order accepted (R337): its ACK and CREDIT applied; held in the receive buffer while it is sent on, else
taken and its credit returned at once (R339). -/
def State.acceptFlit (s : State) (n : Nat) (f : List Byte) : State :=
  let s := (s.updPort n (fun p => { p with rxSeq := (p.rxSeq + 1) % 65536, nakSent := false })).inc (Reg.lnkRxFlitsCount n)
  let s := s.applyAck n (field f 4 2) (field f 6 2)
  let x := s.onward n f
  if s.forwards f then
    let i := 2 * x.vc + (if x.upper then 1 else 0)
    (s.updPort n (fun p => { p with rxBuf := Sparse.set (fun _ => 0) p.rxBuf i (Sparse.get (fun _ => 0) p.rxBuf i + 1) })).routeFlits [x]
  else ((s.takeCtrl n f).takeFlit f).returnCredit n x.vc

/-- Flits of the deal that came ahead of their turn accepted now (R328); `m` bounds them. -/
def State.acceptEarly (n : Nat) : Nat → State → State
  | 0, s => s
  | m + 1, s =>
    match (s.port n).early.find? (fun x => x.1 = (s.port n).rxSeq) with
    | none => s
    | some x => State.acceptEarly n m ((s.updPort n (fun p => { p with early := p.early.erase x })).acceptFlit n x.2)

/-- FLIT_RECEIVE: 256 bytes arrive on torus port `k` (R335 to R339). An IDLE flit only acknowledges and returns credit; a
sequenced flit is accepted in order. One ahead by less than the lanes in the deal belongs to the same deal and waits for
its turn, unless a flit of the gap was discarded (R328; DEDUCED, log 221). NAKs come by their own command (log 117), and
uplinks receive frames. -/
def execFlitReceive (k : BitVec 4) (f : List Byte) (s : State) : Out :=
  let n := k.toNat
  .next (if isUplink n ∨ !s.portUp n ∨ (s.port n).l1 then s
    else if !flitOk f then s.rejectFlit n
    else
      let seq := field f 0 2
      let ahead := (seq + 65536 - (s.port n).rxSeq) % 65536
      if field f 2 1 / 8 = 0 then s.applyAck n (field f 4 2) (field f 6 2)
      else if ahead = 0 then State.acceptEarly n (s.port n).early.length (s.acceptFlit n f)
      else if ahead < (maskBits (s.rd (Reg.lnkStatusLanes n)) 4).length ∧ !(s.port n).nakSent
          ∧ !(s.port n).early.any (fun x => x.1 = seq) then
        s.updPort n (fun p => { p with early := p.early ++ [(seq, f)] })
      else s.rejectFlit n)

/-- Flits from `seq` on sent again, ahead of all other traffic (R337). Once eight replays of one SEQ have made no progress,
the port retrains from step 3 instead, keeping its buffer. -/
def State.replay (s : State) (k seq : Nat) : State :=
  let p := s.port k
  let t := if p.trySeq = seq then p.tries else 0
  if t < 8 then
    (s.dealAgain k (p.unacked.drop (p.unacked.findIdx (fun x => x.1 = seq)))).updPort k (fun q => { q with tries := t + 1, trySeq := seq })
  else (((s.inc (Reg.lnkReplayRetrains k)).inc (Reg.lnkReplayCrcErr k) p.early.length).wr (Reg.lnkStatusState k) lnkTrain).updPort k (fun q =>
    { q with tries := 0, trySeq := seq, retrain := true, early := [] })

/-- NAK_RECEIVE: a NAK that carries the SEQ its sender expects (R336, R337): its ACK and CREDIT fields are applied, flits
before that SEQ are acknowledged, the rest replayed. -/
def execNakReceive (k : BitVec 4) (seq ack credit : BitVec 16) (s : State) : Out :=
  let n := k.toNat
  .next (if isUplink n ∨ !s.portUp n then s
    else
      let s := s.applyAck n ack.toNat credit.toNat
      let s := match (s.port n).unacked.findIdx? (fun x => x.1 = seq.toNat) with
        | some 0 => s
        | some i => (s.updPort n (fun p => { p with unacked := p.unacked.drop i, tries := 0 })).collAcked
        | none => s
      if (s.port n).unacked.any (fun x => x.1 = seq.toNat) then s.replay n seq.toNat else s)

/-- REPLAY_TIMEOUT: no ACK has advanced for 2 µs; everything unacknowledged is replayed (R337). -/
def execReplayTimeout (k : BitVec 4) (s : State) : Out :=
  let n := k.toNat
  .next (match (s.port n).unacked.head? with
    | some x => if isUplink n ∨ !s.portUp n then s else s.replay n x.1
    | none => s)

/-- PORT_RETRAIN_END: a retrain from step 3 ends; the port goes on to HELLO, or goes down (R337). -/
def execPortRetrainEnd (k : BitVec 4) (ok : Bool) (s : State) : Out :=
  let n := k.toNat
  .next (if !(s.port n).retrain ∨ !s.flag Reg.glbModuleNumValid then s
    else if ok then s.toHello n
    else s.portFails n)

/-! ## Lanes (R330, R331) -/

/-- Lanes of a mask, retired on port `n`, start their rejoin test (R331, R372). -/
def State.rejoin (s : State) (n mask : Nat) : State :=
  s.wr (Reg.lnkCfgRejoin n) (s.rd (Reg.lnkCfgRejoin n) ||| (mask &&& s.rd (Reg.lnkStatusRetired n)))

/-- LANE_REJOIN_REQUEST: a write of LNK_CFG.REJOIN (R331). -/
def execLaneRejoinRequest (k mask : BitVec 4) (s : State) : Out :=
  .next (if isUplink k.toNat then s else s.rejoin k.toNat mask.toNat)

/-- LANE_REJOIN_TEST_END: the PRBS31 test of a lane ends; it rejoins the deal of a port that has one, from the flit
after a sequenced CTRL flit (R336, log 117), or stays retired, and its REJOIN bit reads 0 (R331). -/
def execLaneRejoinTestEnd (k : BitVec 4) (lane : BitVec 2) (ok : Bool) (s : State) : Out :=
  let n := k.toNat
  let l := lane.toNat
  .next (if !bitOf (s.rd (Reg.lnkCfgRejoin n)) l then s
    else
      let s := s.wr ⟨(Reg.lnkCfgRejoin n).addr, 8 + l, 1⟩ 0
      if !ok then s
      else
        let s := s.wr ⟨(Reg.lnkStatusRetired n).addr, 8 + l, 1⟩ 0
        let s := if s.portUp n then s.txMsg n [TxFlit.msg 7 1 (s.rd (Reg.lnkStatusPartner n)) 0 0 [l] []] else s
        let s := if s.rd (Reg.lnkStatusLanes n) = 0 then s else s.wr ⟨(Reg.lnkStatusLanes n).addr, 4 + l, 1⟩ 1
        s.portEvent evLaneRejoined n)

/-! ## L1 and resynchronisation -/

/-- LINK_L1_ENTRY: both ends of an idle torus port agree to enter L1 (R517); L1_IDLE_US at 0 never does. -/
def execLinkL1Entry (k : BitVec 4) (s : State) : Out :=
  let n := k.toNat
  .next (if isUplink n ∨ !s.portUp n ∨ s.rd Reg.glbLpCtlL1IdleUs = 0 ∨ !(s.port n).txq.isEmpty ∨ !(s.port n).unacked.isEmpty then s
    else s.updPort n (fun p => { p with l1 := true }))

/-- LINK_L1_WAKE: a flit waits at either end; the port resumes from step 3 of R332 (R517). -/
def execLinkL1Wake (k : BitVec 4) (s : State) : Out :=
  let n := k.toNat
  .next (if !(s.port n).l1 then s
    else (s.wr (Reg.lnkStatusState n) lnkTrain).updPort n (fun p => { p with l1 := false, retrain := true }))

end Sys2Proof.Machine
end

