-- ==== Sys2Proof/Machine/Sha2.lean ====
section
/-! DEFINITION. SHA-384 (R265, R555, R565): the spec names the function and FIPS 180-4 defines it (PRESUMED, log 32). -/

namespace Sys2Proof.Machine

/-- The integer part of the `e`-th root of `v`, found bit by bit from bit `k - 1` down, `r` being what is found so far. -/
def rootOf (e v : Nat) : Nat → Nat → Nat
  | 0, r => r
  | k + 1, r => rootOf e v k (if (r + 2 ^ k) ^ e ≤ v then r + 2 ^ k else r)

/-- The first 64 bits of the fraction of the `e`-th root of a number below 2^9. -/
def rootFraction (e p : Nat) : BitVec 64 := BitVec.ofNat 64 (rootOf e (p * 2 ^ (64 * e)) 69 0)

/-- The first 80 primes: those below 410. -/
def shaPrimes : List Nat := (List.range 410).filter (fun p => 2 ≤ p ∧ (List.range p).all (fun d => d < 2 || p % d ≠ 0))

/-- The round constants, one a round: from the cube roots of the first 80 primes. -/
def shaK : List (BitVec 64) := shaPrimes.map (rootFraction 3)

/-- A hash value of eight words, the first four and the last four apart. A round brings one new word to each half, in front,
and the last word of each half leaves. -/
structure ShaState where
  fore : List (BitVec 64)
  aft : List (BitVec 64)
  deriving DecidableEq, Repr

/-- The initial hash of SHA-384: from the square roots of the ninth to sixteenth primes. -/
def sha384Init : ShaState :=
  let h := ((shaPrimes.drop 8).take 8).map (rootFraction 2)
  ⟨h.take 4, h.drop 4⟩

/-- The words of a hash value in order. -/
def ShaState.words (h : ShaState) : List (BitVec 64) := h.fore ++ h.aft

/-- Big-endian bytes of a number. -/
def beBytes (n v : Nat) : List Byte := (leBytes n v).reverse

/-- The number that big-endian bytes spell. -/
def ofBeBytes (b : List Byte) : Nat := ofLeBytes b.reverse

/-- The sum modulo 2 of a word rotated right by each of the counts. -/
def rotations (x : BitVec 64) (cs : List Nat) : BitVec 64 := cs.foldl (fun acc c => acc ^^^ x.rotateRight c) 0

/-- The word that follows in the message schedule; the newest of the words before it is first. -/
def shaNext (w : List (BitVec 64)) : BitVec 64 :=
  let back := fun (i : Nat) => w.getD (i - 1) 0
  back 16 + back 7 + (rotations (back 15) [1, 8] ^^^ back 15 >>> 7) + (rotations (back 2) [19, 61] ^^^ back 2 >>> 6)

/-- The 80 words of the message schedule of a block's 16. -/
def shaSchedule (w : List (BitVec 64)) : List (BitVec 64) :=
  ((List.range 64).foldl (fun acc _ => shaNext acc :: acc) w.reverse).reverse

/-- One round, with the sum of its constant and its message word. -/
def ShaState.round (h : ShaState) (kw : BitVec 64) : ShaState :=
  let x := fun (i : Nat) => h.fore.getD i 0
  let y := fun (i : Nat) => h.aft.getD i 0
  let choice := (y 0 &&& (y 1 ^^^ y 2)) ^^^ y 2
  let majority := (x 0 &&& (x 1 ||| x 2)) ||| (x 1 &&& x 2)
  let step := kw + choice + rotations (y 0) [14, 18, 41] + y 3
  ⟨(majority + rotations (x 0) [28, 34, 39] + step) :: h.fore.take 3, (step + x 3) :: h.aft.take 3⟩

/-- A list cut into pieces of `k`, `n` of them. -/
def chunks {α : Type} (k : Nat) : Nat → List α → List (List α)
  | 0, _ => []
  | n + 1, l => l.take k :: chunks k n (l.drop k)

/-- One 128-byte block: the hash value it finds and the one its rounds leave, added word by word. -/
def ShaState.block (h : ShaState) (b : List Byte) : ShaState :=
  let w := shaSchedule ((chunks 8 16 b).map (fun c => BitVec.ofNat 64 (ofBeBytes c)))
  let q := (List.zipWith (· + ·) shaK w).foldl ShaState.round h
  ⟨List.zipWith (· + ·) h.fore q.fore, List.zipWith (· + ·) h.aft q.aft⟩

/-- A message with a 1 bit, zeros to 16 bytes short of a whole block, and its length in bits. -/
def shaPadded (m : List Byte) : List Byte :=
  m ++ 0x80 :: List.replicate ((239 - m.length % 128) % 128) 0 ++ beBytes 16 (8 * m.length)

/-- SHA-384 of a message: 48 bytes. -/
def sha384 (m : List Byte) : List Byte :=
  let p := shaPadded m
  (((chunks 128 (p.length / 128) p).foldl ShaState.block sha384Init).words.take 6).flatMap (fun x => beBytes 8 x.toNat)

end Sys2Proof.Machine
end

