-- ==== Sys2Proof/Machine/Load.lean ====
section
/-! DEFINITION. Loading a traverse: the checks of R263 in order, the footprint (R264), the digest (R265) and what
ARMED sets (R266, R307). -/

namespace Sys2Proof.Machine

/-- REFUSE codes (R286). -/
def rfFormat : Nat := 1
def rfStations : Nat := 2
def rfSchedule : Nat := 3
def rfFootprint : Nat := 4
def rfPlacement : Nat := 5

/-- `n` bytes at a survey address lie wholly in tier-1 or tier-2 of one FD of the parcel (R257). -/
def State.placed (s : State) (p a n : Nat) : Bool :=
  let die := addrDie a
  decide (addrModule a = s.ownModule) && (s.parcelFds p).contains die
    && (match regionOf die (addrOff a) with | .t1 | .t2 => true | _ => false)
    && (s.spanCheck (some p) .read a n).isNone

/-- IMAGE_BYTES of the image that BASE names. -/
def State.imgBytes (s : State) (p : Nat) : Nat := s.img p 8 8

/-- A table of `n` bytes at an offset lies in the image, at a multiple of 8 (R257). -/
def State.tabOk (s : State) (p off n : Nat) : Bool := decide (off % 8 = 0) && decide (off + n ≤ s.imgBytes p)

/-- A list of logical stations lies in the image and names stations (R262). -/
def State.stnListOk (s : State) (p off n : Nat) : Bool :=
  s.tabOk p off (2 * n) && (List.range n).all (fun j => decide (s.img p (off + 2 * j) 2 < 2048))

/-- The header (R258). -/
def State.headerOk (s : State) (p : Nat) : Bool :=
  let f := s.img p
  decide (f 0 4 = 0x31565254) && decide (f 4 2 = 1) && decide (f 6 2 = 0) && decide (f 54 2 = 0)
    && (List.range 44).all (fun i => decide (f (84 + i) 1 = 0))
    && decide (128 ≤ s.imgBytes p) && decide (s.imgBytes p % 8 = 0) && decide (s.imgBytes p ≤ 2 ^ 32)
    && decide (1 ≤ f 16 4)

/-- A leg entry (R260). -/
def State.legOk (s : State) (p b : Nat) : Bool :=
  (decide (s.img p (b + 8) 2 = 0xFFFF) || decide (s.img p (b + 8) 2 < s.img p 28 2))
    && decide (s.img p (b + 10) 1 < 2) && decide (s.img p (b + 11) 5 = 0)

/-- A station entry, its program and its leg table (R259, R260). -/
def State.stationOk (s : State) (p n : Nat) : Bool :=
  decide (s.img p (s.stnEntry p n + 14) 2 = 0)
    && (decide (s.progWords p n = 0)
      || (decide (1 ≤ s.legCount p n) && s.tabOk p (s.progOff p n) (8 * s.progWords p n)
          && s.tabOk p (s.legOff p n) (16 * s.legCount p n)
          && (List.range (s.legCount p n)).all (fun i => s.legOk p (s.legOff p n + 16 * i))))

/-- The barrier group table: entries, their lists, and numbers that differ (R262). -/
def State.barriersOk (s : State) (p : Nat) : Bool :=
  let t := s.img p 32 4
  let n := s.img p 30 2
  s.tabOk p t (8 * n)
    && decide (((List.range n).map (fun i => s.img p (t + 8 * i) 2)).Nodup)
    && (List.range n).all (fun i => s.stnListOk p (s.img p (t + 8 * i + 4) 4) (s.img p (t + 8 * i + 2) 2))

/-- The lockstep group table: group 0 is never listed, and a spanning group has its READY plan (R262, R366). -/
def State.lockstepsOk (s : State) (p : Nat) : Bool :=
  let t := s.img p 36 4
  let n := s.img p 40 2
  s.tabOk p t (16 * n)
    && decide (((List.range n).map (fun i => s.img p (t + 16 * i) 2)).Nodup)
    && (List.range n).all (fun i =>
      let b := t + 16 * i
      decide (1 ≤ s.img p b 2) && decide (s.img p (b + 12) 1 < 2) && decide (s.img p (b + 13) 3 = 0)
        && s.stnListOk p (s.img p (b + 4) 4) (s.img p (b + 2) 2)
        && (decide (s.img p (b + 12) 1 = 0) || (s.readyPlan p (s.img p b 2)).isSome))

/-- Whether a route step's PORT is one of R352. -/
def stepPortOk (x : Nat) : Bool :=
  decide (x ≤ 5) || (decide (8 ≤ x) && decide (x ≤ 13)) || (decide (0x10 ≤ x) && decide (x ≤ 0x13)) || decide (x = 0xFF)

/-- VCOUNT is 0 or a power of two that divides VFIRST (R350). -/
def shardsOk (first count : Nat) : Bool :=
  decide (count = 0) || (decide (2 ^ ilog2 count = count) && decide (first % count = 0))

/-- Whether the virtual shards of a plan cover 0 to V − 1 as far as this module shows (R352): alone in the list it holds them all,
else its own lie among them. Its members supply shards it holds, and none supplies an element of a shard twice. Free mode
and LA_SUM have no virtual shards (R357, R358). -/
def Plan.coverOk (q : Plan) : Bool :=
  q.free || decide (q.op = opLaSum)
    || ((if q.modules.length = 1 then decide (q.vfirst = 0 ∧ q.vcount = 2 ^ q.log2v) else decide (q.vfirst + q.vcount ≤ 2 ^ q.log2v))
      && (!(q.reduces || decide (q.op = opAllToAll))
        || (q.mems.all (fun m => decide (q.vfirst ≤ m.shard) && decide (m.shard < q.vfirst + q.vcount))
          && decide (q.mems.Pairwise (fun a b => a.shard ≠ b.shard ∨ a.first + a.count ≤ b.first ∨ b.first + b.count ≤ a.first)))))

/-- Whether DST_FMT is one a reduction's root takes (R354). -/
def rootFmt (f : Nat) : Bool := [fFp32, fBf16, fFp16, fW48, fN32].contains f

/-- A collective plan (R350 to R352, R354, R357). -/
def State.planOk (s : State) (p i : Nat) : Bool :=
  let b := s.planOff p i
  let f := fun (o n : Nat) => s.img p (b + o) n
  let q := s.plan p i
  decide (q.op ≤ 6) && decide (q.mode < 8) && fmtValid q.srcFmt && fmtValid q.dstFmt && decide (q.log2v ≤ 18)
    && (!q.reduces || rootFmt q.dstFmt) && decide (q.narrow ≤ 19) && decide (q.pad < if q.op = opAllToAll then 5 else 8)
        && decide (f 7 1 = 0) && decide (f 34 2 = 0) && decide (f 51 1 = 0)
    && decide (f 60 4 = 0) && shardsOk q.vfirst q.vcount && decide (1 ≤ f 56 4) && decide (f 56 4 ≤ 262144)
    && s.tabOk p (f 28 4) (32 * f 32 2) && s.tabOk p (f 36 4) (4 * f 56 4) && s.tabOk p (f 40 4) (16 * f 44 4)
    && (List.range (f 32 2)).all (fun j =>
      let m := f 28 4 + 32 * j
      decide (s.img p (m + 2) 2 = 0) && decide (s.img p (m + 24) 8 = 0) && decide (s.img p m 2 < 2048))
    && (List.range (f 44 4)).all (fun j =>
      let r := f 40 4 + 16 * j
      decide (1 ≤ s.img p r 1) && decide (s.img p r 1 ≤ 4) && stepPortOk (s.img p (r + 2) 1) && decide (s.img p (r + 3) 1 = 0))
    && (!([opAllReduce, opReduceScatter, opAllGather, opBroadcast].contains q.op)
      || q.mems.all (fun m => decide (m.first + m.count ≤ q.elements)))
    && q.coverOk

/-- The collective plan and witness record tables (R350, R406). -/
def State.plansOk (s : State) (p : Nat) : Bool :=
  s.tabOk p (s.img p 44 4) (64 * s.planCount p) && (List.range (s.planCount p)).all (s.planOk p)
    && s.tabOk p (s.img p 48 4) (64 * s.img p 52 2)
    && (List.range (s.img p 52 2)).all (fun i =>
      let w := s.img p 48 4 + 64 * i
      decide (s.img p (w + 56) 1 < 2) && decide (s.img p (w + 57) 7 = 0))

/-- Check 2 of R263; an image that holds a poisoned codeword fails it (log 33). -/
def State.formatOk (s : State) (p : Nat) : Bool :=
  s.headerOk p && (s.poisonAt (s.imgKey p) (s.imgBytes p)).isNone
    && s.tabOk p (s.img p 20 4) 32768 && s.tabOk p (s.img p 24 4) (320 * s.img p 28 2)
    && (List.range 2048).all (s.stationOk p)
    && s.barriersOk p && s.lockstepsOk p && s.plansOk p

/-- Check 3 of R263. -/
def State.stationsOk (s : State) (p : Nat) : Bool :=
  (List.range 2048).all (fun n => decide (s.progWords p n = 0) || (s.parcelFds p).contains (n / 128))

/-- LNK_SW_LAT (R366): the larger of the two link dies' (DESIGN CHOICE, log 34). -/
def State.swLat (s : State) : Nat := max (s.rd (Reg.lnkSwLatTicks 0)) (s.rd (Reg.lnkSwLatTicks 1))

/-- The least GUARD of the lockstep group whose entry lies at `b` (R277, R366). -/
def State.guardMin (s : State) (p b : Nat) : Nat :=
  if s.img p (b + 12) 1 = 0 then
    let fds := ((List.range (s.img p (b + 2) 2)).map (fun j => s.img p (s.img p (b + 4) 4 + 2 * j) 2 / 128)).eraseDups
    if fds.length ≤ 1 then 64 else 256
  else match s.readyPlan p (s.img p b 2) with
    | none => 256
    | some i =>
      let q := s.planOff p i
      256 + 400 * s.img p (q + 48) 1 + 1200 * s.img p (q + 49) 1 + s.swLat * s.img p (q + 50) 1

/-- Check 4 of R263. -/
def State.scheduleOk (s : State) (p : Nat) : Bool :=
  (List.range 2048).all (fun n => decide (s.progWords p n = 0) || decide (s.legEnd p n (s.legCount p n - 1) ≤ s.periodLen p))
    && (List.range (s.img p 40 2)).all (fun i =>
      let b := s.img p 36 4 + 16 * i
      decide (s.guardMin p b ≤ s.img p (b + 8) 4))

/-- The largest shortfall of a declaration among FDs, with the first FD that has it (R264). -/
def shortfall (decl : Nat) (caps : List (Nat × Nat)) : Nat × Nat :=
  caps.foldl (fun b x => if b.1 < decl - x.2 then (decl - x.2, x.1) else b) (0, 0)

/-- Check 5 of R263: the shortfalls of tier-1, tier-2, shared cache and local store, each with its FD (R264, R292). -/
def State.shortfalls (s : State) (p : Nat) : List (Nat × Nat) :=
  let fds := s.parcelFds p
  [shortfall (s.img p 56 8) (fds.map (fun d => (d, s.rd (Reg.fdMemCapT1Mib d) * 2 ^ 20))),
   shortfall (s.img p 64 8) (fds.map (fun d => (d, s.t2Cap d * 2 ^ 20))),
   shortfall (s.img p 72 8) (fds.map (fun d => (d, s.rd (Reg.fdMemCapScKib d) * 2 ^ 10))),
   (s.img p 80 4 - lsBytes, 0)]

/-- The shortfall registers (R286); a shortfall wider than its field is held at all ones. -/
def State.setShort (s : State) (p : Nat) (x : List (Nat × Nat)) : State :=
  let g := fun (i : Nat) => x.getD i (0, 0)
  let c := fun (f : Fld) (v : Nat) => min v (2 ^ f.w - 1)
  let s := (s.wr (Reg.glbTrvShortT1Bytes p) (c (Reg.glbTrvShortT1Bytes p) (g 0).1)).wr (Reg.glbTrvShortT1Fd p) (g 0).2
  let s := (s.wr (Reg.glbTrvShortT2Bytes p) (c (Reg.glbTrvShortT2Bytes p) (g 1).1)).wr (Reg.glbTrvShortT2Fd p) (g 1).2
  let s := (s.wr (Reg.glbTrvShortScBytes p) (c (Reg.glbTrvShortScBytes p) (g 2).1)).wr (Reg.glbTrvShortScFd p) (g 2).2
  s.wr (Reg.glbTrvShortLsBytes p) (c (Reg.glbTrvShortLsBytes p) (g 3).1)

/-- The refusal code of a submitted traverse, 0 for none, and the shortfalls found (R263). `s` has BASE at the image. -/
def State.loadChecks (s : State) (p : Nat) : Nat × Option (List (Nat × Nat)) :=
  let base := s.rd (Reg.glbTrvBaseBase p)
  if base % 4096 ≠ 0 ∨ !s.placed p base 128 ∨ !s.placed p base (max 128 (s.imgBytes p)) then (rfPlacement, none)
  else if !s.formatOk p then (rfFormat, none)
  else if !s.stationsOk p then (rfStations, none)
  else if !s.scheduleOk p then (rfSchedule, none)
  else
    let sh := s.shortfalls p
    (if sh.any (fun x => decide (x.1 ≠ 0)) then rfFootprint else 0, some sh)

/-- STATUS of a queue entry written (R531); `slot` is the address of the byte. -/
def State.tqStatus (s : State) (slot : Option Nat) (v : Nat) : State :=
  match slot with
  | some a => s.hostWrite a [BitVec.ofNat 8 v]
  | none => s

/-- Queue entry STATUS values (R531). -/
def tqDone : Nat := 1
def tqRefused : Nat := 2
def tqNotApplicable : Nat := 3
def tqInvalid : Nat := 4

/-- A parcel enters LOADING (R263, R286, R532). -/
def State.submit (s : State) (l : Loading) : State :=
  let p := l.parcel
  let s := ((s.wr (Reg.glbTrvStatusState p) trvLoading).wr (Reg.glbTrvStatusTag p) l.tag).setShort p []
  { s with loading := s.loading ++ [l] }

/-- SCRATCH of an FD set when a traverse is armed (R307): FP_SC rounded up to 1 MiB, the rest cache. What it then holds
is undefined, but for zeros in a parcel no traverse has used since it was cleared (log 4). A scrub of scratch that stands
beyond its new end begins again (R304; DEDUCED, log 241). -/
def State.setScratch (s : State) (fpSc fd : Nat) : State :=
  let kib := (fpSc + 1048575) / 1048576 * 1024
  let s := (s.wr (Reg.scPartScratchKib fd) kib).wr (Reg.scPartCacheKib fd) (0x17C00 - kib)
  let s := if 32 * kib ≤ Sparse.get (fun _ => 0) s.scrubAt (fd * 4 + 2) then
      { s with scrubAt := Sparse.set (fun _ => 0) s.scrubAt (fd * 4 + 2) 0 }
    else s
  if s.scrUsed.contains fd then
    { s with scrGen := Sparse.set (fun _ => 0) s.scrGen fd (s.freeCtr + 1), freeCtr := s.freeCtr + 1 }
  else { s with scrUsed := keyInsert s.scrUsed fd }

/-- EV_TRAVERSE_ABANDONED (R551). -/
def evTraverseAbandoned : Nat := 0x0025

/-- A parcel's traverse ends at once (R509, R532): its stations stop as they stand and become IDLE; collectives and
whatever lasts only as long as the traverse are dropped. -/
def State.endTraverse (s : State) (p : Nat) : State :=
  let s := (s.parcelStns p).foldl (fun s k => s.updStn k (fun t =>
    { t with
      engq := [], feedq := [], expq := [], holdPass := false, shadowFull := false, waiting := none, active := false,
      ended := false, faulted := false, held := false, holdReq := false, dead := false, chainBuf := none,
      tiles := t.tiles.map (fun x => (x.1, { x.2 with lockedBy := none, expect := 0 })) })) s
  let mine := fun (n : Nat) => decide (s.parcelOf (n / 128) = p)
  let s := { s with
    loading := s.loading.filter (fun l => l.parcel ≠ p)
    chains := s.chains.filter (fun x => !mine x.src)
    sigs := s.sigs.filter (fun x => !mine x.2.1)
    remote := s.remote.filter (fun r => !(mine r.stn && decide (r.stn < 2048)))
    xpQueue := s.xpQueue.filter (fun x => decide (s.parcelOf x.1 ≠ p)) }
  (((s.failReturns p).dropTraverse p).showActive).wr (Reg.glbTrvStatusState p) trvIdle

/-- The parcel enters ARMED (R265, R266, R307). `t` has BASE at the image. -/
def State.arm (t : State) (l : Loading) : State :=
  let p := l.parcel
  let dig := sha384 (t.bytesAt (t.imgKey p) (t.imgBytes p))
  let s := (List.range 6).foldl (fun s w => s.wr (Reg.glbTrvDigestBytes p w) (ofLeBytes ((dig.drop (8 * w)).take 8))) t
  let s := (s.wr (Reg.glbTrvOriginOrigin p) l.origin).wr (Reg.glbTrvStatusState p) trvArmed
  let s := (s.parcelFds p).foldl (fun s fd => s.setScratch (s.img p 72 8) fd) s
  let s := { s.tqStatus l.slot tqDone with lockEnded := s.lockEnded.filter (fun e => decide (e.parcel ≠ p)) }
  if l.abandon.isEmpty then s
  else (l.abandon.foldl (fun s a => s.tqStatus (some a) tqDone) (s.endTraverse p)).raise evTraverseAbandoned p [l.tag]

/-- The traverse is refused (R263). -/
def State.refuse (s : State) (l : Loading) (code : Nat) (sh : Option (List (Nat × Nat))) : State :=
  let p := l.parcel
  let s := match sh with | some x => s.setShort p x | none => s
  let s := (s.wr (Reg.glbTrvStatusState p) trvIdle).wr (Reg.glbTrvStatusRefuse p) code
  let s := s.raise 0x0022 p
    [l.tag, code, (s.reg (Reg.glbTrvShortT1Bytes p).addr).toNat, (s.reg (Reg.glbTrvShortT2Bytes p).addr).toNat,
     (s.reg (Reg.glbTrvShortScBytes p).addr).toNat, s.rd (Reg.glbTrvShortLsBytes p)]
  l.abandon.foldl (fun s a => s.tqStatus (some a) tqNotApplicable) (s.tqStatus l.slot tqRefused)

/-- TRAVERSE_LOADING_END: the checks of R263 finish, and the parcel is ARMED or returns to IDLE. -/
def execTraverseLoadingEnd (p : BitVec 2) (s : State) : Out :=
  .next (match s.loading.find? (fun l => l.parcel = p.toNat) with
    | none => s
    | some l =>
      let s := { s with loading := s.loading.erase l }
      let t := s.wr (Reg.glbTrvBaseBase l.parcel) l.base
      let c := t.loadChecks l.parcel
      if c.1 ≠ 0 then s.refuse l c.1 c.2
      else (t.setShort l.parcel (c.2.getD [])).arm l)

end Sys2Proof.Machine
end

