-- ==== Sys2Proof/Machine/Power.lean ====
section
/-! DEFINITION. Power and temperature (R471 to R494): the two 48 V entries and their disturbances, ride-through and going
down, the caps and the FD voltages, thermal limits, and energy metering. Voltages, currents, energies, temperatures and
what the PKC's model predicts are operands of the commands that bring them. -/

namespace Sys2Proof.Machine

/-! ## Events (R506) -/

def evPwrEntryLost : Nat := 0x4101
def evPwrDisturbance : Nat := 0x0102
def evPwrRideThrough : Nat := 0x4103
def evPwrCapChanged : Nat := 0x0105
def evPwrCapUnmet : Nat := 0x4106
def evPwrLogOvf : Nat := 0x0107
def evFdThermHot : Nat := 0x4108
def evFdThermTrip : Nat := 0x8109
def evPwrEntryRestored : Nat := 0x010C
def evEdgeDieThermHot : Nat := 0x410D

/-- The state with the power state changed. -/
def State.updPwr (s : State) (f : Pwr → Pwr) : State := { s with pwr := f s.pwr }

/-- A number of ticks in µs (R43). -/
def usOf (ticks : Nat) : Nat := ticks / 4000

/-- MV, CURRENT, MIN_MV and LOST of an entry. -/
def fldMv (e : Nat) : Fld := if e = 0 then Reg.pwrInAMv else Reg.pwrInBMv
def fldCurrent (e : Nat) : Fld := if e = 0 then Reg.pwrInACurrent else Reg.pwrInBCurrent
def fldMinMv (e : Nat) : Fld := if e = 0 then Reg.pwrInAMinMv else Reg.pwrInBMinMv
def fldLost (e : Nat) : Fld := if e = 0 then Reg.pwrInALost else Reg.pwrInBLost

/-! ## Disturbance records (R475, R476) -/

/-- A record in the layout of PWR_DIST_H0 and PWR_DIST_H1. -/
def Dist.words (d : Dist) : Nat × Nat :=
  (d.start % 2 ^ 64, d.typ % 16 + d.entry % 4 * 16 + min d.ext (2 ^ 18 - 1) * 2 ^ 14 + min d.dur (2 ^ 32 - 1) * 2 ^ 32)

/-- PWR_DIST_STAT.COUNT and the head record shown. -/
def State.showDist (s : State) : State :=
  let w := match s.pwr.distLog.head? with | some d => d.words | none => (0, 0)
  (((s.wr Reg.pwrDistStatCount s.pwr.distLog.length).wr Reg.pwrDistH0Start w.1).setReg (Reg.pwrDistH1Type).addr (BitVec.ofNat 64 w.2))

/-- A disturbance ends (R476): its record enters the log of 64 or is counted in OVF; the first of a second raises
EV_PWR_DISTURBANCE. -/
def State.distRecord (s : State) (d : Dist) : State :=
  let s := s.updPwr (fun p => { p with recent := (p.recent ++ [d]).drop (p.recent.length + 1 - 8) })
  let s :=
    if s.pwr.distLog.length < 64 then (s.updPwr (fun p => { p with distLog := p.distLog ++ [d] })).showDist
    else
      let first := s.rd Reg.pwrDistStatOvf = 0
      let s := s.inc Reg.pwrDistStatOvf
      if first then s.raise evPwrLogOvf 4 [s.meridian.toNat] else s
  let sec := s.meridian.toNat / 4000000000 + 1
  if s.pwr.distSec = sec then s
  else (s.updPwr (fun p => { p with distSec := sec })).raise evPwrDisturbance 4 [s.meridian.toNat, d.words.1, d.words.2]

/-- PWR_DIST_POP: the head record leaves the log (R476). -/
def execPwrDistPop (s : State) : Out :=
  .next (s.updPwr (fun p => { p with distLog := p.distLog.drop 1 })).showDist

/-! ## Samples (R474 to R476, R491) -/

/-- What an entry is tracked by. -/
def State.entry (s : State) (e : Nat) : EntryTrk := if e = 0 then s.pwr.ea else s.pwr.eb

/-- The state with an entry's tracking replaced. -/
def State.setEntry (s : State) (e : Nat) (t : EntryTrk) : State :=
  s.updPwr (fun p => if e = 0 then { p with ea := t } else { p with eb := t })

/-- Whole mean of some values. -/
def meanOf (l : List Nat) : Nat := if l.isEmpty then 0 else l.foldl (· + ·) 0 / l.length

/-- A run extended by a sample, its extreme by `pick`; a run that begins takes the sample as it is. -/
def Dist.extend (o : Option Dist) (typ entry start v : Nat) (pick : Nat → Nat → Nat) : Dist :=
  match o with
  | some d => { d with dur := d.dur + 1, ext := pick d.ext v }
  | none => ⟨typ, entry, start, 1, v⟩

/-- Record of a run that ended, if it lasted long enough (R475). -/
def State.endRun (s : State) (o : Option Dist) (least : Nat) : State :=
  match o with
  | some d => if least ≤ d.dur then s.distRecord d else s
  | none => s

/-- Records of an entry's loss that ended (R475): a LOSS, which by over-voltage holds the highest sample and is an OVERVOLT too;
8 stands for an over-voltage disconnection that took the last entry, which is a DROPOUT and no LOSS. -/
def State.endLoss (s : State) (o : Option Dist) : State :=
  match o with
  | none => s
  | some d =>
    if d.typ = 7 then (s.distRecord { d with typ := 5 }).distRecord d
    else s.distRecord { d with typ := if d.typ = 8 then 7 else d.typ }

/-- One sample of an entry classified (R475). Below 36 V and above 62 V it may become a loss (R472), which takes
precedence over sags and swells, as these do over transients. -/
def State.classify (s : State) (e mv : Nat) : State :=
  let t := s.entry e
  let now := s.meridian.toNat
  let lost := s.flag (fldLost e)
  let mean := if t.win.isEmpty then mv else meanOf (t.win.map (·.1))
  let dev := if mean ≤ mv then mv - mean else mean - mv
  -- loss
  let under := decide (mv < 36000)
  let ovr := decide (62000 < mv)
  let loss' := match t.loss with
    | some d => if lost ∨ (d.typ = 5 ∧ under) ∨ (d.typ = 7 ∧ ovr)
        then some (Dist.extend t.loss d.typ e now mv (if d.typ = 5 then min else max))
      else if under then some ⟨5, e, now, 1, mv⟩ else if ovr then some ⟨7, e, now, 1, mv⟩ else none
    | none => if lost then none else if under then some ⟨5, e, now, 1, mv⟩ else if ovr then some ⟨7, e, now, 1, mv⟩ else none
  -- sag and swell
  let sagNow := !lost && decide (mv < s.rd Reg.pwrDistCfgSagMv)
  let swellNow := !lost && decide (s.rd Reg.pwrDistCfgSwellMv < mv)
  let sag' := if sagNow then some (Dist.extend t.sag 1 e now mv min) else none
  let swell' := if swellNow then some (Dist.extend t.swell 2 e now mv max) else none
  -- transient
  let transNow := decide (s.rd Reg.pwrDistCfgTransMv < dev)
  let trans' := if transNow then some (Dist.extend t.trans 3 e now dev max) else none
  let longRun := fun (o : Option Dist) => match o with | some d => decide (2 ≤ d.dur) | none => false
  let covered' := transNow && (t.covered || lost || longRun sag' || longRun swell')
  let s := if sagNow then s else s.endRun t.sag 2
  let s := if swellNow then s else s.endRun t.swell 2
  let s := match t.trans with
    | some d => if transNow ∨ t.covered ∨ 9 < d.dur then s else s.distRecord d
    | none => s
  -- ripple
  let n := t.ripN + 1
  let sq := t.ripSum + dev * dev
  let full := decide (n = 1000)
  let lim := s.rd Reg.pwrDistCfgRippleMv
  let over10 := decide (1000 * lim * lim < sq)
  let rms := isqrt (sq / 1000)
  let s := if full ∧ !over10 then s.endRun t.ripple 0 else s
  let ripple' := if !full then t.ripple
    else if over10 then some (match t.ripple with
      | some d => { d with dur := d.dur + 1000, ext := max d.ext rms }
      | none => ⟨4, e, now - 999 * 40000, 1000, rms⟩)
    else none
  s.setEntry e { t with sag := sag', swell := swell', trans := trans', covered := covered', loss := loss', ripple := ripple',
                        ripN := if full then 0 else n, ripSum := if full then 0 else sq }

/-- A sample entered into an entry's window, and the registers of the entry (R504). -/
def State.takeSample (s : State) (e mv cur : Nat) : State :=
  let s := s.classify e mv
  let t := s.entry e
  let w := ((mv, cur) :: t.win).take 100
  let s := s.setEntry e { t with win := w }
  let s := (s.wr (fldMv e) (min (meanOf (w.map (·.1))) 0xFFFF)).wr (fldCurrent e) (meanOf (w.map (·.2)))
  s.wr (fldMinMv e) (min (s.rd (fldMinMv e)) mv)

/-- Mean power of an entry over its window, in units of 10 µW, before division by the samples. -/
def EntryTrk.power (t : EntryTrk) : Nat := if t.win.isEmpty then 0 else (t.win.foldl (fun a x => a + x.1 * x.2) 0) / t.win.length

/-- Energy of one sample added to the meters (R491): a parcel takes its FDs' energy and, by FD count, a share of what
no FD of a parcel used; the last parcel takes what the division leaves. -/
def State.meter (s : State) (inUj : Nat) (dies : List Nat) : State :=
  let m := s.pwr.met
  let dies' := (List.range 20).map (fun d => m.dies.getD d 0 + dies.getD d 0)
  let ein := m.ein + inUj
  let n := parcelCount (s.rd Reg.glbParcelCfgSplit)
  let own := fun p => (s.parcelFds p).foldl (fun a fd => a + dies.getD fd 0) 0
  let fds := fun p => (s.parcelFds p).length
  let total := (List.range n).foldl (fun a p => a + fds p) 0
  let common := inUj - (List.range n).foldl (fun a p => a + own p) 0
  let share := fun p => if total = 0 then 0 else common * fds p / total
  let given := (List.range n).foldl (fun a p => a + share p) 0
  let pars := (List.range 4).map (fun p =>
    m.pars.getD p 0 + (if p < n then own p + share p + (if p + 1 = n then common - given else 0) else 0))
  s.updPwr (fun q => { q with met := { ein := ein, dies := dies', pars := pars, loss := ein - dies'.foldl (· + ·) 0 } })

/-- SUPPLY_SAMPLE: one sample of both entries (R474): mV and 10 mA units, the input and die energies since the last
sample, and the hold-up bank's charge (R477). -/
def execSupplySample (va vb : BitVec 18) (ia ib : BitVec 16) (inUj : BitVec 32) (dieUj : List (BitVec 32)) (charge : BitVec 8)
    (s : State) : Out :=
  .next (if s.down then s
  else
    let s := (s.takeSample 0 va.toNat ia.toNat).takeSample 1 vb.toNat ib.toNat
    let low := min va.toNat vb.toNat
    let s := s.updPwr (fun p => { p with
      sampleAt := s.meridian.toNat
      minA := if p.dropout.isSome then min p.minA va.toNat else va.toNat
      minB := if p.dropout.isSome then min p.minB vb.toNat else vb.toNat
      dropout := p.dropout.map (fun d => { d with dur := d.dur + 1, ext := min d.ext low }) })
    let watts := min ((s.pwr.ea.power + s.pwr.eb.power) / 100000) 0xFFFF
    let s := (s.wr Reg.pwrInputWatts watts).wr Reg.pwrInputPeak (max watts (s.rd Reg.pwrInputPeak))
    (s.wr Reg.pwrHoldChargePct charge.toNat).meter inUj.toNat (dieUj.map (·.toNat)))

/-! ## Voltages and caps (R481 to R486) -/

/-- The caps active now with their SOURCE (R483): limit, host, management, pin, entry loss. -/
def State.caps (s : State) : List (Nat × Nat) :=
  let nz := fun (f : Fld) (src : Nat) => if s.rd f = 0 then [] else [(s.rd f, src)]
  [(2800, 0)] ++ nz Reg.pwrCapHostWatts 1 ++ nz Reg.pwrCapMgtWatts 2
    ++ (if s.flag Reg.pwrCapStatusPin then [(s.rd Reg.pwrCapPinWatts, 3)] else [])
    ++ (if s.flag Reg.pwrInALost || s.flag Reg.pwrInBLost then [(1500, 4)] else [])

/-- Power the FDs of parcel `p` are allowed of a budget (R485), all in units of 10 mW: by FD count, what it leaves beside the
other domains, within PWR_CAP_PARp. -/
def State.parcelShare (s : State) (p budget : Nat) : Nat :=
  let n := parcelCount (s.rd Reg.glbParcelCfgSplit)
  let total := (List.range n).foldl (fun a q => a + (s.parcelFds q).length) 0
  let sh := if total = 0 then 0 else (budget - s.pwr.other * 100) * (s.parcelFds p).length / total
  let par := s.rd (Reg.pwrCapParWatts p) * 100
  if par = 0 then sh else min sh par

/-- The highest step of a model at which the power predicted fits a share. -/
def fitMv (m : List Nat) (share : Nat) : Nat :=
  600 + 5 * ((m.zipIdx.filter (fun x => decide (x.1 * 100 ≤ share))).foldl (fun a x => max a x.2) 0)

/-- Input power that the ramp allows now, in units of 10 mW: what the entries draw and what has been saved up (R484). -/
def State.rampBudget (s : State) : Nat := (s.pwr.ea.power + s.pwr.eb.power) / 1000 + s.pwr.rampBank

/-- The cap voltage of a parcel (R485): the highest step at which the power predicted fits its share of the effective cap; the
highest step of all while nothing has been predicted. Under a ramp it never falls for it, and rises above the present targets
in the control loop alone, as far as the ramp's budget goes (R484; log 128). -/
def State.capNow (s : State) (loop : Bool) (p : Nat) : Nat :=
  match s.pwr.model[p]? with
  | none => 950
  | some [] => 950
  | some m =>
    let hi := fitMv m (s.parcelShare p (s.rd Reg.pwrCapStatusEffective * 100))
    if s.rd Reg.pwrCapRampWPerMs = 0 then hi
    else min hi (max (if loop then fitMv m (s.parcelShare p s.rampBudget) else 600) ((s.parcelFds p).foldl (fun a fd => max a (s.rd (Reg.pwrFdVTargetMv fd))) 600))

/-- The cap voltage of every parcel formed anew, and what it is now (R485). -/
def State.formCaps (s : State) (loop : Bool) : State := s.updPwr (fun p => { p with capV := (List.range 4).map (s.capNow loop) })
def State.capMv (s : State) (p : Nat) : Nat := s.pwr.capV.getD p 950

/-- A voltage in steps of 5 mV, rounded down, from 600 to 950 mV (R481). -/
def mvStep (v : Nat) : Nat := max 600 (min 950 (v / 5 * 5))

/-- The thermal ceiling of an FD (R488, R321). -/
def State.thermCeil (s : State) (fd : Nat) : Nat :=
  900 - (if 1 ≤ s.rd (Reg.pwrFdVTlevel fd) then 50 else 0) -
    (if 2 ≤ s.rd (Reg.t1TempLevel fd) then 60 else if s.rd (Reg.t1TempLevel fd) = 1 then 30 else 0)

/-- The target of one FD and the limit that sets it (R482, R488 to R490); an unmet cap holds it at the floor (R486). -/
def State.target (s : State) (fd : Nat) : Nat × Nat :=
  let p := s.parcelOf fd
  let floor := mvStep (s.rd (Reg.pwrFdVFloorMv fd))
  let cands := [(mvStep (s.rd (Reg.pwrVreqMv p)), 0), (mvStep (s.capMv p), 1), (mvStep (s.thermCeil fd), 2),
      (mvStep (s.pwr.pace.getD fd 950), 3)]
  let best := cands.foldl (fun b c => if c.1 < b.1 then c else b) (cands.headD (0, 0))
  if s.flag (Reg.mgtSbStatActive 3) then (floor, 5)
  else if !s.edgeHot.isEmpty ∨ 2 ≤ s.rd (Reg.pwrFdVTlevel fd) then (floor, 2)
  else if s.pwr.unmet then (floor, 1)
  else if best.1 < floor then (floor, 4)
  else best

/-- CEIL_MV, TARGET_MV and LIMIT of every FD formed anew (R482). -/
def State.retarget (s : State) : State :=
  (List.range 16).foldl (fun s fd =>
    let s := s.wr (Reg.pwrFdVCeilMv fd) (s.thermCeil fd)
    let t := s.target fd
    (s.wr (Reg.pwrFdVTargetMv fd) t.1).wr (Reg.pwrFdVLimit fd) t.2) s

/-- The effective cap formed anew (R483); a change sets the targets at once (R486) and raises EV_PWR_CAP_CHANGED at most
once per 100 ms. -/
def State.refreshCap (s : State) : State :=
  let old := s.rd Reg.pwrCapStatusEffective
  let cs := s.caps
  let best := (cs.map (fun c => (max 1200 c.1, c.2))).foldl (fun b c => if c.1 < b.1 then c else b) (2800, 0)
  let s := ((s.wr Reg.pwrCapStatusEffective best.1).wr Reg.pwrCapStatusSource best.2).wr Reg.pwrCapStatusClamped
    (if cs.any (fun c => decide (c.1 < 1200)) then 1 else 0)
  let now := s.meridian.toNat
  if old = best.1 then s
  else
    let s := s.updPwr (fun p => { p with capFell := if best.1 < old then some now else none, unmet := p.unmet && decide (best.1 < old) })
    let s := (s.formCaps false).retarget
    if s.pwr.capTime ≠ 0 ∧ now < s.pwr.capTime - 1 + 400000000 then s
    else (s.updPwr (fun p => { p with capTime := now + 1 })).raise evPwrCapChanged 4 [now, best.1, best.2]

/-- CAP_CONTROL_LOOP: the PKC's loop of 10 µs (R481, R484 to R486): the input power, the power outside the FDs, each
parcel's predicted FD power at 600 mV + 5 mV · i, and each FD's pace ceiling, floor and measured voltage. While the ramp keeps
every target from rising, what it allows is saved up; an unmet cap lasts until the input power falls below it. -/
def execCapControlLoop (watts other : BitVec 16) (model : List (List (BitVec 16)))
    (fds : List (BitVec 10 × BitVec 10 × BitVec 10)) (s : State) : Out :=
  .next (if s.down then s
  else
    let s := s.updPwr (fun p => { p with
      other := other.toNat
      model := model.map (fun m => m.map (·.toNat))
      pace := fds.map (fun (x : BitVec 10 × BitVec 10 × BitVec 10) => x.1.toNat)
      rampBank := p.rampBank + s.rd Reg.pwrCapRampWPerMs
      unmet := p.unmet && decide (s.rd Reg.pwrCapStatusEffective ≤ watts.toNat) })
    let s := (List.range 16).foldl (fun s fd => match fds[fd]? with
      | some x => (s.wr (Reg.pwrFdVFloorMv fd) x.2.1.toNat).wr (Reg.pwrFdVActualMv fd) x.2.2.toNat
      | none => s) s
    let old := (List.range 16).map (fun fd => s.rd (Reg.pwrFdVTargetMv fd))
    let s := (s.formCaps true).retarget
    let rose := (List.range 16).any (fun fd => decide (old.getD fd 0 < s.rd (Reg.pwrFdVTargetMv fd)))
    let s := if rose || !(List.range 16).any (fun fd => decide (s.rd (Reg.pwrFdVLimit fd) = 1)) then
        s.updPwr (fun p => { p with rampBank := 0 }) else s
    match s.pwr.capFell with
    | none => s
    | some t =>
      if watts.toNat ≤ s.rd Reg.pwrCapStatusEffective then s.updPwr (fun p => { p with capFell := none })
      else if s.meridian.toNat < t + 4000000
        ∨ (List.range 16).any (fun fd => decide (s.rd (Reg.pwrFdVTargetMv fd) ≠ mvStep (s.rd (Reg.pwrFdVFloorMv fd)))) then s
      else (((s.updPwr (fun p => { p with capFell := none, unmet := true })).retarget).inc Reg.pwrCapStatusUnmet).raise evPwrCapUnmet 4
        [s.meridian.toNat, watts.toNat, s.rd Reg.pwrCapStatusEffective])

/-- The cap register that POWER_CAP_WRITE names: HOST, MGT, PIN, RAMP, then PAR0 to PAR3. -/
def capFld (i : Nat) : Fld :=
  match i with
  | 0 => Reg.pwrCapHostWatts
  | 1 => Reg.pwrCapMgtWatts
  | 2 => Reg.pwrCapPinWatts
  | 3 => Reg.pwrCapRampWPerMs
  | n => Reg.pwrCapParWatts (n - 4)

/-- POWER_CAP_WRITE: a cap register written (R483 to R485). -/
def execPowerCapWrite (cap : BitVec 3) (watts : BitVec 16) (s : State) : Out :=
  .next (if s.down then s else ((s.wr (capFld cap.toNat) watts.toNat).refreshCap.formCaps false).retarget)

/-- VOLTAGE_REQUEST_WRITE: PWR_VREQp written (R482). -/
def execVoltageRequestWrite (p : BitVec 2) (mv : BitVec 10) (s : State) : Out :=
  .next (if s.down then s else (s.wr (Reg.pwrVreqMv p.toNat) mv.toNat).retarget)

/-- ENERGY_SNAP: every meter and its sample's meridian time latched (R493). -/
def execEnergySnap (s : State) : Out :=
  let m := s.pwr.met
  let s := ((s.wr Reg.pwrSnapTimeMeridian s.pwr.sampleAt).wr Reg.pwrEnergyInUj m.ein).wr Reg.pwrEnergyLossUj m.loss
  let s := (List.range 20).foldl (fun s d => s.wr (Reg.pwrEnergyDieUj d) (m.dies.getD d 0)) s
  .next ((List.range 4).foldl (fun s p => s.wr (Reg.pwrEnergyParUj p) (m.pars.getD p 0)) s)

/-- REPAIR_RECORD_METER_WRITE: the meters written into the repair record (R515). -/
def execRepairRecordMeterWrite (s : State) : Out := .next (s.updPwr (fun p => { p with saved := p.met }))

/-! ## Entries (R472, R473, R477) -/

/-- Whether an entry feeds the module: not lost, or the one that ended a dropout (R473). -/
def State.feeds (s : State) (e : Nat) : Bool := !s.flag (fldLost e) || decide (s.pwr.alone = some e)

/-- ENTRY_LOSS: entry 0 A, 1 B or 2 both lost, for cause 0 under-voltage, 1 over-voltage or 2 a converter fault (R472).
With none left a dropout begins. -/
def execEntryLoss (entry cause : BitVec 2) (s : State) : Out :=
  let es : List Nat := (if entry = 0 then [0] else if entry = 1 then [1] else if entry = 2 then [0, 1] else []).filter s.feeds
  let now := s.meridian.toNat
  .next (if s.down ∨ s.flag Reg.pwrHoldRiding ∨ es.isEmpty then s
  else
    let was := fun e => s.flag (fldLost e)
    let begun : List Dist := es.map (fun e => match (s.entry e).loss with
      | some d => d
      | none => ⟨5, e, now, 0, ((s.entry e).win.head?.map (·.1)).getD 0⟩)
    let ovr := es.all (fun e => !s.feeds (1 - e) || es.contains (1 - e))
    let s := es.foldl (fun s e =>
      let t := s.entry e
      let d : Dist := match t.loss with
        | some d => d
        | none => ⟨5, e, now, 0, (t.win.head?.map (·.1)).getD 0⟩
      let d := { d with typ := if cause = 1 then 7 else d.typ }
      (s.wr (fldLost e) 1).setEntry e { t with
        sag := none, swell := none
        loss := if was e then t.loss else if !ovr then some d else if cause = 1 then some { d with typ := 8 } else none }) s
    let s := s.updPwr (fun p => { p with alone := none })
    if ovr then
      let d : Dist := ⟨6, 2, begun.foldl (fun m d => max m d.start) 0,
        begun.foldl (fun m d => min m d.dur) (2 ^ 32), begun.foldl (fun m d => min m d.ext) (2 ^ 18 - 1)⟩
      ((s.updPwr (fun p => { p with dropout := some d, rideAt := now })).wr Reg.pwrHoldRiding 1).refreshCap
    else (es.foldl (fun s e => s.raise evPwrEntryLost 4 [now, e, cause.toNat]) s).refreshCap)

/-- ENTRY_RESTORE: a lost entry that has stayed within 40 to 60 V for 100 ms returns to full service (R473), unless its
converter's segment is isolated (R545). -/
def execEntryRestore (entry : BitVec 1) (s : State) : Out :=
  let e := entry.toNat
  .next (if s.down ∨ s.flag Reg.pwrHoldRiding ∨ !s.flag (fldLost e) ∨ bitOf (s.rd Reg.mgtI2cStatIsolated) (e + 1) then s
  else
    let t := s.entry e
    let s := (s.wr (fldLost e) 0).updPwr (fun p => { p with alone := if p.alone = some e then none else p.alone })
    let s := (s.setEntry e { t with loss := none }).endLoss t.loss
    (s.raise evPwrEntryRestored 4 [s.meridian.toNat, e]).refreshCap)

/-- RIDE_THROUGH_END: an entry above 40 V for 100 µs ends the dropout and carries the load alone (R473, R477). -/
def execRideThroughEnd (entry : BitVec 1) (s : State) : Out :=
  .next (if s.down ∨ !s.flag Reg.pwrHoldRiding then s
  else
    let len := usOf (s.meridian.toNat - s.pwr.rideAt)
    let o := s.pwr.dropout
    let s := s.updPwr (fun p => { p with dropout := none, alone := some entry.toNat })
    let s := ((s.wr Reg.pwrHoldRiding 0).wr Reg.pwrHoldLastUs (min len 0xFFFF)).inc Reg.pwrHoldRides
    let s := s.endRun o 0
    (s.raise evPwrRideThrough 4 [s.meridian.toNat, len]).refreshCap)

/-! ## Going down (R478, R479) -/

/-- Bytes 0 to 27 of the tag's identity (R547): "TID1", GLB_ID, the serial number. -/
def tagIdentity : List Byte :=
  [0x54, 0x49, 0x44, 0x31] ++ leBytes 8 (regDefault Reg.glbIdId.addr).toNat ++ (List.range 16).map Config.serialByte

/-- Bytes of the tag that nothing has written: the capability container, the NDEF message and the identity of R547, and
zero elsewhere. -/
def tagDefault (a : Nat) : Byte :=
  if a < 8 then ([0xE2, 0x43, 0x00, 0x01, 0x00, 0x00, 0x04, 0x00] : List Byte).getD a 0
  else if a < 0x400 then Config.ndefByte a
  else if a < 0x420 then (tagIdentity ++ leBytes 4 (crc32 tagIdentity).toNat).getD (a - 0x400) 0
  else 0

/-- A byte of the NFC tag. The service log holds the last module-fatal records as the PKC lays them out. -/
def State.tagByte (s : State) (a : Nat) : Byte :=
  if 0x900 ≤ a ∧ a < 0x1000 then Config.serviceLayout s.fatalLog (a - 0x900) else Sparse.get tagDefault s.tag a

/-- Bytes of the NFC tag. -/
def State.tagRead (s : State) (a n : Nat) : List Byte := (List.range n).map (fun i => s.tagByte (a + i))

/-- The tag with bytes written. -/
def State.tagWrite (s : State) (a : Nat) (bs : List Byte) : State :=
  { s with tag := bs.zipIdx.foldl (fun t x => Sparse.set tagDefault t (a + x.2) x.1) s.tag }

/-- The last-gasp record (R479). -/
def State.lastGasp (s : State) (cause detect : Nat) : List Byte :=
  let now := s.meridian.toNat
  let old := s.tagRead 0x800 256
  let seq := if old.take 4 = [0x4C, 0x47, 0x52, 0x31] then ofLeBytes ((old.drop 6).take 2) + 1 else 1
  let running := (List.range 4).foldl (fun m p => if s.rd (Reg.glbTrvStatusState p) = trvRunning then m + 2 ^ p else m) 0
  let dist := ((List.range 8).map (fun i => match s.pwr.recent[i]? with
    | some d => leBytes 8 d.words.1 ++ leBytes 8 d.words.2
    | none => List.replicate 16 0)).flatten
  let body : List Byte := [0x4C, 0x47, 0x52, 0x31, 1, BitVec.ofNat 8 cause] ++ leBytes 2 seq
    ++ leBytes 4 (s.rd Reg.glbModuleNumModule + 2 ^ 31 * s.rd Reg.glbModuleNumValid)
    ++ leBytes 8 detect ++ leBytes 8 now ++ leBytes 2 (min s.pwr.minA 0xFFFF) ++ leBytes 2 (min s.pwr.minB 0xFFFF)
    ++ leBytes 2 (min (usOf (now - detect)) 0xFFFF) ++ [BitVec.ofNat 8 running, 0]
    ++ leBytes 8 s.pwr.met.ein ++ ((List.range 4).map (fun p => leBytes 8 (s.pwr.met.pars.getD p 0))).flatten ++ dist ++ List.replicate 48 0
  body ++ leBytes 4 (crc32 body).toNat

/-- Disturbances still in progress are recorded with the duration they have reached (R476). -/
def State.closeDist (s : State) : State :=
  let s := [0, 1].foldl (fun s e =>
    let t := s.entry e
    let s := ((s.endRun t.sag 2).endRun t.swell 2).endRun t.ripple 0
    let s := match t.trans with | some d => if t.covered ∨ 9 < d.dur then s else s.distRecord d | none => s
    if s.flag (fldLost e) then s.endLoss t.loss else s) s
  s.endRun s.pwr.dropout 0

/-- Scratch, tier-1 and tier-2 lose their contents with their power (R478, log 4). -/
def State.losePower (s : State) : State :=
  { s with
    scrGen := (List.range 48).foldl (fun g i => Sparse.set (fun _ => 0) g i (s.freeCtr + 1)) s.scrGen
    freeCtr := s.freeCtr + 1 }

/-- Power loss announced in a CTRL flit (R478): on a torus port to its partner, with the next SEQ; on an uplink to each peer of
an open context, with the frame's. -/
def State.announceLoss (s : State) (cause k : Nat) : State :=
  if !s.portUp k then s
  else if isUplink k then
    (((s.ctxs.filter (fun c => c.plane = planeOf k)).map (·.peer)).eraseDups).foldl (fun s m =>
      s.txFrame (planeOf k) m 7 [TxFlit.msg 7 1 m 0 0 [cause] []] false) s
  else (s.inc (Reg.lnkTxFlitsCount k)).dealFlit k ((s.port k).txSeq, TxFlit.msg 7 1 (s.rd (Reg.lnkStatusPartner k)) 0 0 [cause] [])

/-- The module goes down: everything stops, each port announces the power loss, the last-gasp record is written to the
tag unless segment 0 is isolated (R545), and nothing answers until the next cold reset (R478, R479). -/
def State.goDown (s : State) (cause : Nat) : State :=
  if s.down then s
  else
    let detect := if cause = 1 then s.pwr.rideAt else s.meridian.toNat
    let s := s.closeDist
    let rec' := s.lastGasp cause detect
    let s := (List.range 16).foldl (fun s k =>
      if s.portUp k then (s.announceLoss cause k).wr (Reg.lnkStatusState k) lnkDown else s) s
    let s := s.refClock false
    let s := (List.range 4).foldl (fun s p => if s.rd (Reg.glbTrvStatusState p) = trvIdle then s else s.endTraverse p) s
    let s := if bitOf (s.rd Reg.mgtI2cStatIsolated) 0 then s else (s.tagWrite 0x800 rec').send ⟨.tagAccess, [0x800, 256, 1], rec'⟩
    { s.losePower with down := true, rstKind := 0, ports := [], ctxs := [], ctxWait := [], fab := { s.fab with unrouted := [] }, hostLinkDown := true }

/-- GO_DOWN: the module goes down for cause 1, a dropout that outlasted the bank, 2, a converter fault, or 3, a
thermal trip of an edge die (R478, R479). -/
def execGoDown (cause : BitVec 2) (s : State) : Out :=
  .next (if cause = 0 ∨ (cause = 1 ∧ !s.flag Reg.pwrHoldRiding) then s else s.goDown cause.toNat)

/-! ## Temperatures (R321, R322, R488, R489) -/

/-- Every station of a parcel's traverse stopped as under R214. -/
def State.holdParcel (s : State) (p : Nat) : State :=
  let s := (s.parcelStns p).foldl (fun s q =>
    s.updStn q (fun t =>
      if !t.active || t.faulted || t.held then t
      else if t.waiting.isSome then { t with waiting := none, held := true }
      else { t with holdReq := true })) s
  if s.rd (Reg.glbTrvStatusState p) = trvRunning then s.wr (Reg.glbTrvStatusState p) trvHeld else s

/-- A list of stopped FDs after a reading: a stop ends once the temperature has been below the release point and the
parcel has been reset (R322, R488); FD + 16 notes the reset. -/
def coolTrip (l : List Nat) (fd : Nat) (cool : Bool) : List Nat :=
  if cool && l.contains (fd + 16) then keyErase (keyErase l fd) (fd + 16) else l

/-- The same after a reset of the parcel. -/
def resetTrip (l : List Nat) (fd : Nat) (cool : Bool) : List Nat :=
  if !l.contains fd then l else if cool then keyErase (keyErase l fd) (fd + 16) else keyInsert l (fd + 16)

/-- FD_THERMAL_SAMPLE: an FD's junction is read (R488). -/
def execFdThermalSample (fd : BitVec 4) (temp : BitVec 8) (s : State) : Out :=
  let n := fd.toNat
  let old := s.rd (Reg.pwrFdVTlevel n)
  let lvl := thermLevel [100, 110, 120] old temp.toNat
  .next (if s.down then s
  else
    let s := ((s.wr (Reg.pwrFdVTj n) temp.toNat).wr (Reg.pwrFdVTlevel n) lvl)
    let s := { s with fdTrip := coolTrip s.fdTrip n (temp.toNat < 90) }
    let det := [s.meridian.toNat, n, temp.toNat, lvl]
    let s := if old < lvl ∧ lvl < 3 then s.raise evFdThermHot (s.parcelOf n) det else s
    let s := if old < 3 ∧ lvl = 3 then
        ({ s with fdTrip := keyInsert (keyErase s.fdTrip (n + 16)) n }.raise evFdThermTrip (s.parcelOf n) det).holdParcel (s.parcelOf n)
      else s
    s.retarget)

/-- A tier-1 stack stops at its trip: what it holds is not kept, and reads as free bytes from then on (R321,
R322, log 4); poison marks stay (DEDUCED, log 234). -/
def State.tripStack (s : State) (n : Nat) : State :=
  { s with
    memTrip := keyInsert (keyErase s.memTrip (n + 16)) n
    scrGen := Sparse.set (fun _ => 0) s.scrGen (16 + n) (s.freeCtr + 1)
    freeCtr := s.freeCtr + 1 }

/-- STACK_THERMAL_SAMPLE: a tier-1 stack's sensor is read (R321, R322). -/
def execStackThermalSample (fd : BitVec 4) (temp : BitVec 8) (s : State) : Out :=
  let n := fd.toNat
  let old := s.rd (Reg.t1TempLevel n)
  let lvl := thermLevel [85, 95, 105] old temp.toNat
  .next (if s.down then s
  else
    let s := ((s.wr (Reg.t1TempTemp n) temp.toNat).wr (Reg.t1TempLevel n) lvl).wr (Reg.t1TempMax n)
        (max temp.toNat (s.rd (Reg.t1TempMax n)))
    let s := { s with memTrip := coolTrip s.memTrip n (temp.toNat < 85) }
    let det := [s.meridian.toNat, n, temp.toNat]
    let s := if old < 1 ∧ 1 ≤ lvl then s.raise (fdCode evMemThermWarn n) (s.parcelOf n) det else s
    let s := if old < 2 ∧ 2 ≤ lvl then s.raise (fdCode evMemThermHot n) (s.parcelOf n) det else s
    let s := if old < 3 ∧ lvl = 3 then
        ((s.tripStack n).raise (fdCode evMemThermTrip n) (s.parcelOf n) det).holdParcel (s.parcelOf n)
      else s
    s.retarget)

/-- EDGE_DIE_THERMAL_SAMPLE: the junction of LD0, LD1, IG0 or IG1 is read (R489); the half rate of its engines is timing. -/
def execEdgeDieThermalSample (die : BitVec 2) (temp : BitVec 8) (s : State) : Out :=
  let d := 16 + die.toNat
  .next (if s.down then s
  else if 115 ≤ temp.toNat then s.goDown 3
  else if 105 ≤ temp.toNat ∧ !s.edgeHot.contains d then
    ({ s with edgeHot := keyInsert s.edgeHot d }.raise evEdgeDieThermHot 4 [s.meridian.toNat, d, temp.toNat]).retarget
  else if temp.toNat < 102 then { s with edgeHot := keyErase s.edgeHot d }.retarget
  else s)

end Sys2Proof.Machine
end

