-- ==== Sys2Proof/Machine/AuMath.lean ====
section
/-! DEFINITION. What the adjustment unit computes (R374 to R391): commands, slots, moments, updates, working copies,
clipping and norms. -/

namespace Sys2Proof.Machine

/-! ## Commands (R378) -/

/-- A command's fields. -/
structure AuCmd where
  op : Nat
  flags : Nat
  fmt : Nat
  scale : Nat
  step : Nat
  params : Nat
  done : Nat
  ctr : Nat
  rsv : Nat
  base : Nat
  grad : Nat
  wc : Nat
  wsa : Nat
  jb : Nat
  hyp : Nat
  ibase : Nat
  deriving DecidableEq, Repr

/-- The command that 64 bytes spell. -/
def auCmdOf (bs : List Byte) : AuCmd :=
  let u := fun (o n : Nat) => ofLeBytes ((bs.drop o).take n)
  { op := u 0 1, flags := u 1 1, fmt := u 2 1, scale := u 3 1, step := u 4 4, params := u 8 4, done := u 12 2, ctr := u 14 1,
    rsv := u 15 1, base := u 16 8, grad := u 24 8, wc := u 32 8, wsa := u 40 8, jb := u 48 4, hyp := u 52 4, ibase := u 56 8 }

def auAdamw : Nat := 1
def auSgdm : Nat := 2
def auNormsq : Nat := 3
def auMasksync : Nat := 4
def auRefresh : Nat := 5
def auRollback : Nat := 6
def auSnapcopy : Nat := 7
def auSnapend : Nat := 8

def AuCmd.compact (c : AuCmd) : Bool := bitOf c.flags 0
/-- Whether the working copy is a plat: under SPARSE, and for MASKSYNC always (R390, R391). -/
def AuCmd.sparse (c : AuCmd) : Bool := bitOf c.flags 1 || decide (c.op = auMasksync)
def AuCmd.sr (c : AuCmd) : Bool := bitOf c.flags 2
def AuCmd.clipped (c : AuCmd) : Bool := bitOf c.flags 3
def AuCmd.snap (c : AuCmd) : Bool := bitOf c.flags 4
def AuCmd.smode (c : AuCmd) : Nat := c.scale % 4
def AuCmd.group (c : AuCmd) : Nat := 32 * 2 ^ (c.scale / 4 % 4)
def AuCmd.slot (c : AuCmd) : Nat := if c.compact then 6208 else 12288
def AuCmd.blocks (c : AuCmd) : Nat := (c.params + 1023) / 1024
/-- Commands that write a working copy. -/
def AuCmd.writesWc (c : AuCmd) : Bool := [auAdamw, auSgdm, auMasksync, auRefresh].contains c.op
/-- Commands that use the journal. -/
def AuCmd.journals (c : AuCmd) : Bool := c.writesWc || decide (c.op = auRollback)

/-- Causes of AU_FAULT (R399). -/
def auReserved : Nat := 1
def auFormat : Nat := 2
def auAddress : Nat := 3
def auStation : Nat := 4
def auOverrun : Nat := 5
def auJournal : Nat := 6
def auPoison : Nat := 7
def auDigest : Nat := 8

/-! ## Places -/

/-- A descriptor of bytes at an offset of an FD's window, for the operations that read plats. -/
def State.auDesc (s : State) (fd off : Nat) : Desc :=
  { num := 0, base := s.ownModule * 2 ^ 46 + dieKey fd off, ext := [], stride := [], padb := [], pada := [], layout := 0,
    fmt := 0, pad := 0,
    padConst := 0, zeroPoint := 0, zpEn := false, group := 0, scaled := false, scaleDesc := 0, redAxis := 0, survey := true }

/-- The place a plat's reader names when no station reads. -/
def auLoc (fd : Nat) : Loc := ⟨fd, 0, 0⟩

/-- The plat header at an offset. -/
def State.auPlat (s : State) (fd off : Nat) : PlatHdr := platHdrOf (s.natAt (dieKey fd off) 64)

/-- Accepted slots of a plat by parameter index: (index, row, slot). -/
def State.auSlots (s : State) (fd off : Nat) : List (Nat × Nat × Nat) :=
  let h := s.auPlat fd off
  (List.range h.rows).flatMap (fun r => (s.platSlots (auLoc fd) (s.auDesc fd off) h r).map (fun x => (r * h.k + x.1, r, x.2)))

/-- Whether `n` bytes at an offset of the FD's window lie in one of its regions: no hole, and of tier-2 the parcel's capacity
(R288, R379). -/
def State.auIn (s : State) (fd off n al : Nat) : Bool :=
  decide (off % al = 0) && !s.addrBad fd off n .read true
    && (decide (regionOf fd off ≠ .t2) || decide (off + n ≤ t2Base + s.t2Cap fd * 2 ^ 20))

/-- The same for tier-2 alone. -/
def State.auInT2 (s : State) (fd off n al : Nat) : Bool :=
  decide (off % al = 0) && decide (t2Base ≤ off) && decide (off + n ≤ t2Base + s.t2Cap fd * 2 ^ 20)

/-- The same for a scratch offset. -/
def State.auInSc (s : State) (fd off n al : Nat) : Bool := decide (off % al = 0) && decide (off + n ≤ s.scratch fd)

/-- Whether the whole plat at an offset lies in the window and its header is one, aligned to 64 bytes (R133, R134, R379). -/
def State.auPlatIn (s : State) (fd off : Nat) : Bool :=
  s.auIn fd off 64 64 && !(s.auPlat fd off).bad && (s.auPlat fd off).fmtOk && s.auIn fd off (s.auPlat fd off).size 1

/-- Offset of journal codeword `c`, copy A (R380). -/
def State.jrnl (s : State) (fd c : Nat) : Nat := t2Base + s.rd (Reg.auJrnlBase fd) + 512 * c

/-- Bytes of a dense working copy of `n` values. -/
def wcBytes (fmt n : Nat) : Nat := (n + contElems fmt - 1) / contElems fmt * contBytes fmt

/-- Working-copy formats (R378). -/
def wcFmt (f : Nat) : Bool := [fInt8, fInt4, fFp4, fE2m3, fE3m2, fE4m3, fE5m2, fBf16, fFp16].contains f

/-- The check of a command before it touches memory (R379): its cause, 0 for none. -/
def State.auCheck (s : State) (fd : Nat) (c : AuCmd) : Nat :=
  if c.op = 0 ∨ 8 < c.op ∨ 32 ≤ c.flags ∨ 32 ≤ c.fmt ∨ 16 ≤ c.scale ∨ c.smode = 1 ∨ c.scale / 4 = 3 ∨ 16 ≤ c.ctr ∨ c.rsv ≠ 0 then auReserved
  else if c.writesWc ∧ (!wcFmt c.fmt ∨ (c.smode ≠ 0 ∧ !fmtScalable c.fmt)) then auFormat
  else if c.done ≠ 0xFFFF ∧ (2048 ≤ c.done ∨ s.parcelOf (c.done / 128) ≠ s.parcelOf fd) then auStation
  else if c.journals ∧ c.blocks ≠ 0 ∧
      (let lo := s.jrnl fd (c.jb / 64)
       let hi := s.jrnl fd ((c.jb + c.blocks - 1) / 64) + 288
       lo % 512 ≠ 0 ∨ t2Base + s.t2Top fd < hi) then auAddress
  else if c.writesWc ∧ (!s.auInT2 fd c.base (2 * c.blocks * c.slot) 4096
      ∨ (if c.sparse then !s.auPlatIn fd c.wc else !s.auIn fd c.wc (wcBytes c.fmt c.params) (fmtAlign c.fmt))
      ∨ (c.smode ≠ 0 ∧ !s.auIn fd c.wsa ((c.params + c.group - 1) / c.group) 1)) then auAddress
  else if (c.op = auAdamw ∨ c.op = auSgdm ∨ c.op = auNormsq)
      ∧ (if c.sparse then !s.auPlatIn fd c.grad else !s.auIn fd c.grad (4 * c.params) 4) then auAddress
  else if (c.op = auAdamw ∨ c.op = auSgdm) ∧ !s.auInSc fd c.hyp 64 64 then auAddress
  else if c.op = auNormsq ∧ !s.auInSc fd c.wc 32 32 then auAddress
  else if c.op = auSnapcopy ∧ !s.auIn fd c.grad c.params 1 then auAddress
  else if c.sparse ∧ c.writesWc ∧ (s.auPlat fd c.wc).fmt ≠ c.fmt then auFormat
  else if c.sparse ∧ (c.op = auAdamw ∨ c.op = auSgdm ∨ c.op = auNormsq) ∧ (s.auPlat fd c.grad).fmt ≠ fFp32 then auFormat
  else if c.sparse ∧ (c.op = auAdamw ∨ c.op = auSgdm) ∧ (s.auPlat fd c.grad).digest ≠ (s.auPlat fd c.wc).digest then auDigest
  else 0

/-! ## Arithmetic (R386, R388) -/

/-- a / b, correctly rounded to FP32. -/
def f32Div (a b : Nat) : Nat :=
  match f32Val a, f32Val b with
  | .nan, _ => f32Nan
  | _, .nan => f32Nan
  | .inf _, .inf _ => f32Nan
  | .inf x, .fin y _ _ => f32Of (.inf (x != y))
  | .fin x _ _, .inf y => f32Of (.fin (x != y) 0 0)
  | .fin x m e, .fin y m' e' =>
    if m' = 0 then (if m = 0 then f32Nan else f32Of (.inf (x != y)))
    else if m = 0 then f32Of (.fin (x != y) 0 0)
    else
      let n := m * 2 ^ 100
      match sticky (n / m') (decide (n % m' = 0)) (e - e' - 100) with
      | .fin _ q k => f32Of (.fin (x != y) q k)
      | v => f32Of v

/-- One parameter updated (R386): master, m and v from the record `h`, the gradient and the clip factor. -/
def auUpdate (op : Nat) (h : List Nat) (clip grad w m v : Nat) : Nat × Nat × Nat :=
  let p := fun i => h.getD i 0
  let g := f32Mul grad clip
  let m1 := f32Fma (p 1) m (f32Mul (p 2) g)
  let nlr := f32Neg (p 0)
  if op = auAdamw then
    let v1 := f32Fma (p 3) v (f32Mul (p 4) (f32Mul g g))
    let d := f32Div (f32Mul m1 (p 7)) (f32Add (vfunc vfSqrt (f32Mul v1 (p 8))) (p 5))
    (f32Fma nlr (f32Fma (p 6) w d) w, m1, v1)
  else (f32Fma nlr (f32Fma (p 6) w m1) w, m1, v)

/-- The clip factor of an LA192 sum without N (R388): min(1.0, MAXNORM / √S). -/
def auClip (maxNorm : Nat) (la : LA) : Nat :=
  let s := f32Of (.fin (decide (la.l.toInt < 0)) la.l.toInt.natAbs (-112))
  if s % 2 ^ 31 = 0 then 0x3F800000 else f32MinMax false 0x3F800000 (f32Div maxNorm (vfunc vfSqrt s))

/-- The norm's sum of some gradient elements (R389). -/
def auNorm (gs : List Nat) : LA :=
  gs.foldl (fun a g => match f32Val g with
    | .fin _ m e => let t := promote ((m * m : Nat) : Int) (2 * e); a.addTerm t.1 t.2 false
    | _ => a.addTerm 0 false true) LA.zero

/-! ## Slots (R374, R375) -/

/-- The words of a block of FP32. -/
def wordsOf (bs : List Byte) : List Nat := (List.range (bs.length / 4)).map (fun i => ofLeBytes ((bs.drop (4 * i)).take 4))

/-- A compact moment decoded exactly. -/
def momentOf (b e : Nat) : Nat :=
  match scaleExp e with
  | some x => f32Of ((decodeVal fE4m3 0 b).scale x)
  | none => f32Nan

/-- A slot's master, m and v, 1,024 words each. -/
def slotWords (compact : Bool) (bs : List Byte) : List Nat × List Nat × List Nat :=
  if compact then
    let b := fun o => (bs.getD o 0).toNat
    (wordsOf (bs.take 4096),
     (List.range 1024).map (fun i => momentOf (b (4096 + i)) (b (6144 + i / 128))),
     (List.range 1024).map (fun i => momentOf (b (5120 + i)) (b (6152 + i / 128))))
  else (wordsOf (bs.take 4096), wordsOf ((bs.drop 4096).take 4096), wordsOf ((bs.drop 8192).take 4096))

/-- Moments encoded as QUANT under CEIL, E4M3, RNE and group 128 encodes them (R375): bytes and scales. -/
def momentBytes (ws : List Nat) : List Byte × List Byte :=
  let gs := (List.range 8).map (fun g => (ws.drop (128 * g)).take 128)
  let xs := gs.map (fun g => chooseExp 3 fE4m3 (g.map f32Val))
  ((gs.zip xs).flatMap (fun p => p.1.map (fun w => BitVec.ofNat 8 (cvtElem fE4m3 0 (some p.2) (f32Val w) rndRne 0 true).raw)),
   xs.map (fun x => BitVec.ofNat 8 (x + 127).toNat))

/-- A slot's bytes. -/
def slotBytes (compact : Bool) (w m v : List Nat) : List Byte :=
  if compact then
    let a := momentBytes m
    let b := momentBytes v
    w.flatMap (leBytes 4) ++ a.1 ++ b.1 ++ a.2 ++ b.2 ++ List.replicate 48 0
  else w.flatMap (leBytes 4) ++ m.flatMap (leBytes 4) ++ v.flatMap (leBytes 4)

/-! ## The journal (R380, R381) -/

/-- A journal codeword's two copies compared and repaired: a poisoned copy from the other, B from A where they differ. -/
def State.jFix (s : State) (fd c : Nat) : State :=
  let a := dieKey fd (s.jrnl fd c)
  let b := a + 256
  if (s.poisonAt a 32).isSome then
    if (s.poisonAt b 32).isSome then s else s.writeMem a (s.bytesAt b 32)
  else if (s.poisonAt b 32).isSome ∨ s.bytesAt a 32 ≠ s.bytesAt b 32 then s.writeMem b (s.bytesAt a 32)
  else s

/-- The journal codeword; none when both copies are poisoned. -/
def State.jWord (s : State) (fd c : Nat) : Option Nat :=
  let a := dieKey fd (s.jrnl fd c)
  let b := a + 256
  if (s.poisonAt a 32).isSome then
    if (s.poisonAt b 32).isSome then none else some (s.natAt b 32)
  else some (s.natAt a 32)

/-- A journal codeword with entry `k` replaced. -/
def jSet (word k e : Nat) : Nat := word - word / 16 ^ k % 16 * 16 ^ k + e % 16 * 16 ^ k

/-! ## Working copies (R387, R390, R391) -/

/-- The group exponents of block `j`, whose values are given as (index, value) pairs: group and X. A group without an accepted
value has amax 0 (R68). -/
def auExps (c : AuCmd) (j : Nat) (vals : List (Nat × FVal)) : List (Nat × Int) :=
  let n := min 1024 (c.params - 1024 * j)
  ((List.range ((n + c.group - 1) / c.group)).map (fun i => 1024 * j / c.group + i)).map (fun g =>
    (g, chooseExp c.smode c.fmt ((vals.filter (fun x => x.1 / c.group = g)).map (fun x => x.2))))

/-- One value converted for the working copy. -/
def State.auCvt (s : State) (fd : Nat) (c : AuCmd) (exps : List (Nat × Int)) (i : Nat) (v : FVal) : Nat :=
  let x : Int := if c.smode = 0 then 0 else ((exps.find? (fun e => e.1 = i / c.group)).map (fun e => e.2)).getD 0
  let u := (rngBlock (s.rd (Reg.auRngSeedSeed fd)) (s.rd (Reg.auRngStreamStream fd) + c.step) (c.ibase + i)).1 / 2 ^ 48
  (cvtElem c.fmt 0 (some x) v (if c.sr then rndSr else rndRne) u true).raw

/-- The value bits of the slots of block `j`'s groups in the working copy's plat, given the encodings of its accepted slots by
parameter index: +0 in a dropped slot (R152), and nothing beside them changed (R384). -/
def State.auPlatWrites (s : State) (fd : Nat) (c : AuCmd) (j : Nat) (encs : List (Nat × Nat)) : List (Nat × Byte) :=
  let k := auLoc fd
  let d := s.auDesc fd c.wc
  let h := s.auPlat fd c.wc
  let acc := s.auSlots fd c.wc
  let val := fun (r i : Nat) =>
    match acc.find? (fun x => decide (x.2 = (r, i))) with
    | some x => ((encs.find? (fun e => e.1 = x.1)).map (·.2)).getD (s.platVal k d h r i)
    | none => 0
  let slots : List (Nat × Nat) := (List.range h.rows).flatMap (fun r =>
    (s.platRowSlots k d h r).zipIdx.flatMap (fun g => if (r * h.k + g.2 * h.g) / 1024 = j then g.1.map (fun i => (r, i)) else []))
  let put := fun (w : Nat) (x : Nat × Nat) =>
    (let b := (h.valPos x.1 x.2).2
     w - bitsAt w b (fmtBits h.fmt) * 2 ^ b + val x.1 x.2 % 2 ^ fmtBits h.fmt * 2 ^ b)
  let at_ := fun (x : Nat × Nat) => s.dkey k d (h.valPos x.1 x.2).1
  ((slots.map at_).eraseDups).flatMap (fun key =>
    spread key (leBytes (contBytes h.fmt) ((slots.filter (fun x => at_ x = key)).foldl put (s.natAt key (contBytes h.fmt)))))

/-- The working copy and scales of block `j` written from its values by parameter index (R382 step 5). -/
def State.auStoreWc (s : State) (fd : Nat) (c : AuCmd) (j : Nat) (vals : List (Nat × FVal)) : State :=
  let exps := if c.smode = 0 then [] else auExps c j vals
  let encs := vals.map (fun (x : Nat × FVal) => (x.1, s.auCvt fd c exps x.1 x.2))
  let ws : List (Nat × Byte) :=
    if c.sparse then s.auPlatWrites fd c j encs
    else
      let per := contElems c.fmt
      let cb := contBytes c.fmt
      let n := min 1024 (c.params - 1024 * j)
      (List.range ((n + per - 1) / per)).flatMap (fun q =>
        spread (dieKey fd (c.wc + (1024 * j / per + q) * cb))
          (leBytes cb ((List.range per).foldl (fun a t =>
            a + ((encs.find? (fun x => x.1 = 1024 * j + q * per + t)).map (fun x => x.2 % 2 ^ fmtBits c.fmt)).getD 0 * 2 ^
                (fmtBits c.fmt * t)) 0)))
  let ss := exps.map (fun (e : Nat × Int) => (dieKey fd (c.wsa + e.1), BitVec.ofNat 8 (e.2 + 127).toNat))
  s.storeAll (.engine fd) (s.parcelOf fd) (ws ++ ss)

end Sys2Proof.Machine
end

