-- ==== Sys2Proof/Machine/Au.lean ====
section
/-! DEFINITION. The adjustment unit's commands (R377 to R393) and snapshots (R395, R396). A command that runs over blocks
carries out R382's writes one after another: each named command of this family says how many of them, so an interruption
may fall between any two. -/

namespace Sys2Proof.Machine

def evAuStepSkipped : Nat := 0x1070
def evAuNonfinite : Nat := 0x1071
def evAuPoison : Nat := 0x9072
def evAuJournalLost : Nat := 0x9073
def evAuQueueOver : Nat := 0x9074
def evAuCmdInvalid : Nat := 0x9075
def evSnapshotDone : Nat := 0x0030
def evSnapshotMissed : Nat := 0x0031

/-- GLB_SNAP_CTLp.STATE (R400). -/
def snArmed : Nat := 1
def snCopying : Nat := 2
def snShipping : Nat := 3
def snDone : Nat := 4
def snMissed : Nat := 5

/-- What the adjustment unit of an FD runs. -/
def State.auRun (s : State) (fd : Nat) : AuRun := Sparse.get (fun _ => AuRun.idle) s.au fd

/-- The state with it replaced. -/
def State.setAu (s : State) (fd : Nat) (r : AuRun) : State := { s with au := Sparse.set (fun _ => AuRun.idle) s.au fd r }

/-- An event of an adjustment unit (R401). -/
def State.auEvent (s : State) (fd code pos step : Nat) : State :=
  s.raise (fdCode code fd) (s.parcelOf fd) [s.meridian.toNat, pos, step]

/-- The adjustment unit enters HELD (R377, R379, R381, R393). -/
def State.auHold (s : State) (fd cause code pos step : Nat) : State :=
  let s := ((((s.wr (Reg.auQstatHeld fd) 1).wr (Reg.auQstatBusy fd) 0).wr (Reg.auFaultCause fd) cause).wr (Reg.auFaultValid fd) 1).wr
    (Reg.auFaultEntry fd) pos
  (s.setAu fd AuRun.idle).auEvent fd code pos step

/-- Poison found: the block is counted and the unit held (R393). -/
def State.auPoisoned (s : State) (fd pos step : Nat) : State :=
  (s.inc (Reg.auPoisonSkipCount fd)).auHold fd auPoison evAuPoison pos step

/-- A parcel's snapshot is missed (R396). -/
def State.snapMissed (s : State) (p : Nat) : State :=
  (s.wr (Reg.glbSnapCtlState p) snMissed).raise evSnapshotMissed p [s.meridian.toNat, s.rd (Reg.glbSnapCtlStep p)]

/-- Whether a parcel's snapshot takes what its adjustment units append (R395). -/
def State.snapOpen (s : State) (p : Nat) : Bool :=
  decide (s.rd (Reg.glbSnapCtlState p) = snArmed) || decide (s.rd (Reg.glbSnapCtlState p) = snCopying)

/-- A record appended to an FD's snapshot area: a header, then regions given by key and length, each destination codeword
poisoned that takes a poisoned byte (R298, R395); beyond the stride the copy stops (R396). A closed snapshot takes nothing
(R395). -/
def State.snapAppend (s : State) (fd : Nat) (hdr : List Byte) (parts : List (Nat × Nat)) : State :=
  let p := s.parcelOf fd
  let len := s.rd (Reg.auSnapLenBytes fd)
  let n := parts.foldl (fun a x => a + x.2) hdr.length
  if !s.snapOpen p ∨ s.snapClosed.contains fd then s
  else if s.rd (Reg.glbSnapStrideBytes p) < len + n then s.snapMissed p
  else
    let a := dieKey fd (t2Base + s.rd (Reg.auSnapBaseBase fd) + len)
    let w := parts.foldl (fun (w : List (Nat × Byte) × List Nat × Nat) x =>
      (let c := s.rawCopy x.1 w.2.2 x.2
       (w.1 ++ c.1, w.2.1 ++ c.2, w.2.2 + x.2))) (spread a hdr, [], a + hdr.length)
    (((s.storeP (.engine fd) p w.1 w.2.1).1).wr (Reg.auSnapLenBytes fd) (len + n)).wr (Reg.glbSnapCtlState p) snCopying

/-! ## Taking a command (R377, R379) -/

/-- Whether a later step arrives while the armed one is still open (R396). -/
def State.snapStep (s : State) (fd step : Nat) : State :=
  let p := s.parcelOf fd
  if s.snapOpen p ∧ !s.snapClosed.contains fd ∧ s.rd (Reg.glbSnapCtlStep p) < step then s.snapMissed p else s

/-- A checked command begins: the hyperparameter record is read, and under CLIP the sum of R388. -/
def State.auBegin (s : State) (fd pos : Nat) (bs : List Byte) : State :=
  let c := auCmdOf bs
  let upd := decide (c.op = auAdamw) || decide (c.op = auSgdm)
  let hk := dieKey fd (scBase + c.hyp)
  let h := if upd then wordsOf (s.bytesAt hk 64) else []
  let norm := h.getD 10 0 + 2 ^ 32 * h.getD 11 0
  let nk := dieKey fd (scBase + norm)
  if upd ∧ (s.poisonAt hk 64).isSome then s.auPoisoned fd pos c.step
  else if upd ∧ c.clipped ∧ !s.auInSc fd norm 32 32 then s.auHold fd auAddress evAuCmdInvalid pos c.step
  else if upd ∧ c.clipped ∧ (s.poisonAt nk 32).isSome then s.auPoisoned fd pos c.step
  else
    let s := ((s.wr (Reg.auQstatHead fd) (pos + 1)).wr (Reg.auQstatBusy fd) 1).snapStep fd c.step
    let la := LA.decode (s.natAt nk 32)
    if upd ∧ c.clipped ∧ la.n then
      ((s.inc (Reg.auSkippedCount fd)).auEvent fd evAuStepSkipped pos c.step).setAu fd ⟨bs, pos, h, 0, c.blocks + 1, 0, false⟩
    else s.setAu fd ⟨bs, pos, h, if upd ∧ c.clipped then auClip (h.getD 9 0) la else 0x3F800000, 0, 0, false⟩

/-- AU_COMMAND_TAKE: the unit of `fd`, told of the tail, takes the next ring entry and checks it. -/
def execAuCommandTake (fd : BitVec 4) (s : State) : Out :=
  let n := fd.toNat
  let head := s.rd (Reg.auQstatHead n)
  let tail := s.rd (Reg.auQtailOffset n)
  let size := 2 ^ (max 4 (min 12 (s.rd (Reg.auQcfgLog2Entries n))))
  let tk := dieKey n (scBase + tail)
  let entry := s.rd (Reg.auQcfgRing n) + head % size * 64
  let ek := dieKey n (scBase + entry)
  let d := (s.natAt tk 4 + 2 ^ 32 - head) % 2 ^ 32
  .next (if s.down ∨ s.fdStopped n ∨ s.flag (Reg.auQstatHeld n) ∨ s.flag (Reg.auQstatBusy n)
      ∨ !s.auInSc n tail 8 8 then s
    else if (s.poisonAt tk 8).isSome then s.auPoisoned n head 0
    else if d = 0 then s
    else if size < d then s.auHold n auOverrun evAuQueueOver head 0
    else if !s.auInSc n entry 64 64 then s.auHold n auAddress evAuCmdInvalid head 0
    else if (s.poisonAt ek 64).isSome then s.auPoisoned n head 0
    else
      let bs := s.bytesAt ek 64
      let c := auCmdOf bs
      let cause := s.auCheck n c
      if cause ≠ 0 then s.auHold n cause evAuCmdInvalid head c.step else s.auBegin n head bs)

/-! ## Completion -/

/-- What a snapshot keeps of a finished update (R395): the command, its working copy and its scales. -/
def State.snapUpdate (s : State) (fd : Nat) (r : AuRun) : State :=
  let c := auCmdOf r.cmd
  let p := s.parcelOf fd
  if !c.snap ∨ !([auAdamw, auSgdm, auMasksync].contains c.op) ∨ c.step ≠ s.rd (Reg.glbSnapCtlStep p) ∨ !s.snapOpen p then s
  else
    let n := if c.sparse then (s.auPlat fd c.wc).size else wcBytes c.fmt c.params
    let m := if c.smode = 0 then 0 else (c.params + c.group - 1) / c.group
    s.snapAppend fd r.cmd [(dieKey fd c.wc, n), (dieKey fd c.wsa, m)]

/-- A command has completed: its station is signalled (R379). -/
def State.auDone (s : State) (fd : Nat) : State :=
  let c := auCmdOf (s.auRun fd).cmd
  let s := ((s.inc (Reg.auCmdsCount fd)).wr (Reg.auQstatBusy fd) 0).setAu fd AuRun.idle
  if c.done = 0xFFFF then s else { s with sigs := s.sigs ++ [(0xFFFF, c.done, c.ctr, 1)] }

/-! ## Blocks (R382 to R385, R390, R391) -/

/-- The gradient encodings of block `j` by parameter index (R382 step 1). -/
def State.auGrads (s : State) (fd : Nat) (c : AuCmd) (j : Nat) : List (Nat × Nat) :=
  if c.sparse then
    let h := s.auPlat fd c.grad
    let ok := (s.auSlots fd c.wc).map (fun (x : Nat × Nat × Nat) => x.1)
    ((s.auSlots fd c.grad).filter (fun x => decide (x.1 / 1024 = j) && decide (x.1 < c.params) && ok.contains x.1)).map (fun x =>
      (x.1, s.platVal (auLoc fd) (s.auDesc fd c.grad) h x.2.1 x.2.2))
  else (List.range (min 1024 (c.params - 1024 * j))).map (fun i => (1024 * j + i, s.natAt (dieKey fd (c.grad + 4 * (1024 * j + i))) 4))

/-- Whether what block `j` reads of a plat is poisoned: its header, and of the rows its parameters lie in the metadata, and
the values if `vals`. -/
def State.auPlatPoison (s : State) (fd off : Nat) (c : AuCmd) (j : Nat) (vals : Bool) : Bool :=
  let h := s.auPlat fd off
  let hi := min (1024 * (j + 1)) c.params
  (s.poisoned ((dieKey fd off, 64) :: (List.range h.rows).flatMap (fun r =>
    let a := max (1024 * j) (r * h.k)
    let b := min hi ((r + 1) * h.k)
    if a < b then s.platSpans (auLoc fd) (s.auDesc fd off) h vals false [(a - r * h.k, b - a)] r else []))).isSome

/-- Whether what block `j` reads of the gradient is poisoned (R393). -/
def State.auGradBad (s : State) (fd : Nat) (c : AuCmd) (j : Nat) : Bool :=
  if c.sparse then s.auPlatPoison fd c.grad c j true
  else (s.poisonAt (dieKey fd (c.grad + 4096 * j)) (4 * min 1024 (c.params - 1024 * j))).isSome

/-- A compact slot's moments: a group of 128 none of whose entries `touched` says is updated keeps its encodings and scale from
the current slot (R374, R375, R390; DEDUCED, log 240). -/
def keepGroups (touched : Nat → Bool) (raw new : List Byte) : List Byte :=
  new.zipIdx.map (fun x =>
    let i := x.2
    let g := if i < 4096 then 8 else if i < 6144 then (i - 4096) % 1024 / 128 else if i < 6160 then (i - 6144) % 8 else 8
    if g < 8 && !touched g then raw.getD i 0 else x.1)

/-- The new slot of block `j` (R386, R390, R391) from the bytes of the current one. -/
def State.auNew (s : State) (fd : Nat) (r : AuRun) (c : AuCmd) (raw : List Byte) : List Byte :=
  let old := slotWords c.compact raw
  let j := r.j
  let n := min 1024 (c.params - 1024 * j)
  let gs := if c.op = auMasksync then [] else s.auGrads fd c j
  let ok := if c.op = auMasksync then (s.auSlots fd c.wc).map (fun (x : Nat × Nat × Nat) => x.1) else []
  let new := (List.range 1024).map (fun i =>
    let w := old.1.getD i 0
    let m := old.2.1.getD i 0
    let v := old.2.2.getD i 0
    if n ≤ i then (w, m, v)
    else if c.op = auMasksync then (if ok.contains (1024 * j + i) then (w, m, v) else (0, 0, 0))
    else match gs.find? (fun g => g.1 = 1024 * j + i) with
      | some g => auUpdate c.op r.hyp r.clip g.2 w m v
      | none => (w, m, v))
  let bs := slotBytes c.compact (new.map (fun x => x.1)) (new.map (fun x => x.2.1)) (new.map (fun x => x.2.2))
  if !c.compact then bs
  else
    let fresh := fun (i : Nat) => decide (i < n) &&
      (if c.op = auMasksync then !ok.contains (1024 * j + i) else gs.any (fun g => g.1 = 1024 * j + i))
    keepGroups (fun g => (List.range 128).any (fun i => fresh (128 * g + i))) raw bs

/-- Offset of slot `z` of block `j`. -/
def AuCmd.slotAt (c : AuCmd) (j z : Nat) : Nat := c.base + (2 * j + z) * c.slot

/-- The values block `j`'s working copy is formed from, by parameter index (R387, R391). -/
def State.auVals (s : State) (fd : Nat) (c : AuCmd) (j cur : Nat) : List (Nat × FVal) :=
  let w := (slotWords false (s.bytesAt (dieKey fd (c.slotAt j cur)) 4096)).1
  let inBlock := fun (i : Nat) => decide (i / 1024 = j) && decide (i < c.params)
  if c.op = auMasksync then
    let h := s.auPlat fd c.wc
    ((s.auSlots fd c.wc).filter (fun (x : Nat × Nat × Nat) => inBlock x.1)).map (fun x =>
      let v := decodeVal c.fmt 0 (s.platVal (auLoc fd) (s.auDesc fd c.wc) h x.2.1 x.2.2)
      (x.1, if c.smode = 0 then v
        else match scaleExp (s.byteAt (dieKey fd (c.wsa + x.1 / c.group))).toNat with
          | some e => v.scale e
          | none => .nan))
  else if c.sparse then
    ((s.auSlots fd c.wc).filter (fun (x : Nat × Nat × Nat) => inBlock x.1)).map (fun x => (x.1, f32Val (w.getD (x.1 % 1024) 0)))
  else (List.range (min 1024 (c.params - 1024 * j))).map (fun i => (1024 * j + i, f32Val (w.getD i 0)))

/-- The shadow message of a block whose commit is done (R456, R457): to the peer of its stripe, with the current slot, in
the compact layout where R457 asks for it. -/
def State.sendShadow (s : State) (fd : Nat) (c : AuCmd) (j cur : Nat) : State :=
  let q := c.jb + j
  let mode := s.rd (Reg.fdShdCfgMode fd)
  let k := q % 8
  if (mode ≠ 1 ∧ mode ≠ 2) ∨ s.rd (Reg.fdShdCfgBlocks fd) ≤ q then s
  else
    let raw := s.bytesAt (dieKey fd (c.slotAt j cur)) c.slot
    let small := c.compact || decide (mode = 2)
    let w := slotWords c.compact raw
    let body := if small ∧ !c.compact then slotBytes true w.1 w.2.1 w.2.2 else raw
    let s := if Sparse.get (fun _ => 0) s.shdStep fd = c.step + 1 then s
      else { s with shdStep := Sparse.set (fun _ => 0) s.shdStep fd (c.step + 1) }.wr (Reg.fdShdStatAcked fd) 0
    if !s.flag (Reg.fdShdPeerValid fd k) then s
    else
      let hd := leBytes 4 s.ownModule ++ [BitVec.ofNat 8 fd, if small then 2 else 1, 0, 0] ++ leBytes 8 c.step ++ leBytes 4 q
        ++ leBytes 4 (s.rd (Reg.fdShdCfgBlocks fd)) ++ List.replicate 8 0
      s.sendFrom fd 0 (TxFlit.msg 5 6 (s.rd (Reg.fdShdPeerModule fd k)) fd (s.parcelOf fd) [] (hd ++ body)) (flitsFor (32 + body.length))

/-- The block in hand moved to the next of its writes, and the next block taken in hand. -/
def State.auPut (s : State) (fd p : Nat) : State := s.setAu fd { s.auRun fd with phase := p }
def State.auSkip (s : State) (fd j : Nat) : State := s.setAu fd { s.auRun fd with j := j + 1, phase := 0 }

/-- What the unit writes into the other slot of a block whose current slot is at `sk` (R386, R391). -/
def State.auSlot (s : State) (fd : Nat) (r : AuRun) (c : AuCmd) (cur sk : Nat) : State :=
  let nf := if c.op = auMasksync then 0
    else ((s.auGrads fd c r.j).filter (fun (g : Nat × Nat) => (f32Val g.2).nonfinite)).length
  let bs := s.auNew fd r c (s.bytesAt sk c.slot)
  let s := (s.writeMem (dieKey fd (c.slotAt r.j (1 - cur))) bs).inc (Reg.auNonfinCount fd) nf
  let s := if nf = 0 ∨ r.nonfin then s
    else (s.setAu fd { s.auRun fd with nonfin := true }).auEvent fd evAuNonfinite r.pos c.step
  s.auPut fd 1

/-- The next write for a block whose journal codeword is `word`, its copies at `ck`. -/
def State.auBlock (s : State) (fd : Nat) (r : AuRun) (c : AuCmd) (q ck word : Nat) : State :=
  let e := word / 16 ^ (q % 64) % 16
  let cur := e % 2
  let write := fun (s : State) (e' : Nat) => s.writeMem ck (leBytes 32 (jSet word (q % 64) e'))
  let sk := dieKey fd (c.slotAt r.j cur)
  if r.phase = 1 then
    let done := if c.op = auMasksync then 0 else if c.sparse then (s.auGrads fd c r.j).length else min 1024 (c.params - 1024 * r.j)
    ((write s (1 - cur + 2 + c.step % 4 * 4)).inc (Reg.auParamsDoneCount fd) done).auPut fd 2
  else if r.phase = 3 then (s.auStoreWc fd c r.j (s.auVals fd c r.j cur)).auPut fd 4
  else if r.phase = 4 then (write s (cur + e / 4 * 4)).auPut fd 5
  else if c.op = auRollback then
    if e / 4 = c.step % 4 then (write s (1 - cur + 2 + (c.step + 3) % 4 * 4)).auPut fd 2 else s.auSkip fd r.j
  else if c.op = auRefresh then
    if e / 2 % 2 = 0 then s.auSkip fd r.j
    else if (s.poisonAt sk 4096).isSome then s.auPoisoned fd r.pos c.step
    else s.auPut fd 3
  else if (s.poisonAt sk c.slot).isSome ∨ (c.op ≠ auMasksync ∧ s.auGradBad fd c r.j)
      ∨ (c.sparse ∧ s.auPlatPoison fd c.wc c r.j (decide (c.op = auMasksync))) then s.auPoisoned fd r.pos c.step
  else s.auSlot fd r c cur sk

/-- The next of R382's writes for the block in hand. -/
def State.auPhase (s : State) (fd : Nat) : State :=
  let r := s.auRun fd
  let c := auCmdOf r.cmd
  let q := c.jb + r.j
  let ck := dieKey fd (s.jrnl fd (q / 64))
  if c.blocks ≤ r.j then (if c.blocks < r.j then s else s.snapUpdate fd r).auDone fd
  else if r.phase = 2 ∨ r.phase = 5 then
    -- copy B follows copy A
    let s := s.writeMem (ck + 256) (s.bytesAt ck 32)
    if r.phase = 5 then (s.sendShadow fd c r.j (ofLeBytes (s.bytesAt ck 32) / 16 ^ (q % 64) % 2)).auSkip fd r.j
    else if c.op = auRollback then s.auSkip fd r.j else s.auPut fd 3
  else
    match s.jWord fd (q / 64) with
    | none => s.auHold fd auJournal evAuJournalLost r.pos c.step
    | some word => (s.jFix fd (q / 64)).auBlock fd r c q ck word

/-- Up to `n` of those writes, until the command completes or the unit is held; none while the FD is stopped (R321, R488). -/
def State.auPhases (s : State) (fd op : Nat) : Nat → State
  | 0 => s
  | n + 1 => if s.fdStopped fd ∨ (s.auRun fd).cmd = [] ∨ (auCmdOf (s.auRun fd).cmd).op ≠ op then s else State.auPhases (s.auPhase fd) fd op n

/-- ADAMW: the next `n` writes of the AdamW command the unit of `fd` runs (R382, R386). -/
def execAdamw (fd : BitVec 4) (n : BitVec 32) (s : State) : Out := .next (s.auPhases fd.toNat auAdamw n.toNat)

/-- SGDM: the next `n` writes of the SGD command the unit runs. -/
def execSgdm (fd : BitVec 4) (n : BitVec 32) (s : State) : Out := .next (s.auPhases fd.toNat auSgdm n.toNat)

/-- MASKSYNC: the next `n` writes of the mask change the unit runs (R391). -/
def execMasksync (fd : BitVec 4) (n : BitVec 32) (s : State) : Out := .next (s.auPhases fd.toNat auMasksync n.toNat)

/-- REFRESH: the next `n` writes of the refresh the unit runs (R384). -/
def execRefresh (fd : BitVec 4) (n : BitVec 32) (s : State) : Out := .next (s.auPhases fd.toNat auRefresh n.toNat)

/-- ROLLBACK: the next `n` writes of the rollback the unit runs (R385). -/
def execRollback (fd : BitVec 4) (n : BitVec 32) (s : State) : Out := .next (s.auPhases fd.toNat auRollback n.toNat)

/-- Whether the unit runs a command of this operation, its FD not stopped (R321, R488). -/
def State.auRuns (s : State) (fd op : Nat) : Bool :=
  !s.fdStopped fd && decide ((s.auRun fd).cmd ≠ []) && decide ((auCmdOf (s.auRun fd).cmd).op = op)

/-- NORMSQ: the exact squares added into the sum (R389). -/
def execNormsq (fd : BitVec 4) (s : State) : Out :=
  let n := fd.toNat
  let r := s.auRun n
  let c := auCmdOf r.cmd
  .next (if !s.auRuns n auNormsq then s
  else
    let size := if c.sparse then (s.auPlat n c.grad).size else 4 * c.params
    if (s.poisonAt (dieKey n c.grad) size).isSome then s.auPoisoned n r.pos c.step
    else
      let gs : List Nat :=
        if c.sparse then (s.auSlots n c.grad).map (fun x => s.platVal (auLoc n) (s.auDesc n c.grad) (s.auPlat n c.grad) x.2.1 x.2.2)
        else (List.range c.params).map (fun i => s.natAt (dieKey n (c.grad + 4 * i)) 4)
      let s := (State.atomicRun (.engine n) n 9 1 c.wc (leBytes 32 (auNorm gs).encode) (s, none)).1
      s.auDone n)

/-- SNAPCOPY: a region appended to the snapshot area (R395). -/
def execSnapcopy (fd : BitVec 4) (s : State) : Out :=
  let n := fd.toNat
  let c := auCmdOf (s.auRun n).cmd
  .next (if !s.auRuns n auSnapcopy then s
  else (if c.step = s.rd (Reg.glbSnapCtlStep (s.parcelOf n)) then s.snapAppend n [] [(dieKey n c.grad, c.params)] else s).auDone n)

/-- SNAPEND: the FD's snapshot is closed; with every FD's, STATE becomes SHIPPING (R395, R396). -/
def execSnapend (fd : BitVec 4) (s : State) : Out :=
  let n := fd.toNat
  let p := s.parcelOf n
  let c := auCmdOf (s.auRun n).cmd
  .next (if !s.auRuns n auSnapend then s
  else
    let s :=
      if s.snapOpen p ∧ c.step = s.rd (Reg.glbSnapCtlStep p) then
        let s := { s with snapClosed := keyInsert s.snapClosed n }
        if (s.parcelFds p).all (fun f => s.snapClosed.contains f) then s.wr (Reg.glbSnapCtlState p) snShipping else s
      else s
    s.auDone n)

/-! ## Snapshots (R395, R396) -/

/-- GLB_SNAP_CTLp written: STEP, and 1 in ARM, where the write reaches it, arms it. While a snapshot is under way a write that
reaches ARM is discarded, STEP with it (DEDUCED, log 232). -/
def State.snapArm (s : State) (p step : Nat) (arm reach : Bool) : State :=
  if reach ∧ (s.snapOpen p ∨ s.rd (Reg.glbSnapCtlState p) = snShipping) then s
  else
    let s := s.wr (Reg.glbSnapCtlStep p) step
    let s := if reach then s.wr (Reg.glbSnapCtlArm p) (if arm then 1 else 0) else s
    if !arm then s
    else
      let s := (s.parcelFds p).foldl (fun s fd => s.wr (Reg.auSnapLenBytes fd) 0) (s.wr (Reg.glbSnapCtlState p) snArmed)
      { s with snapClosed := s.snapClosed.filter (fun f => decide (s.parcelOf f ≠ p)) }

/-- SNAP_ARM: a write of ARM (R395). -/
def execSnapArm (p : BitVec 2) (step : BitVec 32) (s : State) : Out := .next (s.snapArm p.toNat step.toNat true true)

/-- An FD's snapshot area sent to its place (R396): within the module and through the host aperture it is written there; to
another module it goes as a message on VC 6. -/
def State.shipArea (s : State) (q fd : Nat) : State :=
  let k := dieKey fd (t2Base + s.rd (Reg.auSnapBaseBase fd))
  let n := s.rd (Reg.auSnapLenBytes fd)
  let a := s.rd (Reg.glbSnapDestAddr q) + fd * s.rd (Reg.glbSnapStrideBytes q)
  if n = 0 then s
  else if keyRemote (s.keyOf a) then
    (s.passMesh fd (16 + s.edgeLd (addrModule a) (addrDie a)) (addrOff a)).routeFlits
      (collFlits (TxFlit.msg 6 7 (addrModule a) (addrDie a) q [a, n] [])
        (streamPayloads ((List.range n).map (fun i => (s.byteAt (k + i), (s.poisonAt (k + i) 1).isSome)))))
  else
    let w := s.rawCopy k (s.keyOf a) n
    (s.storeP (.engine fd) q w.1 w.2).1

/-- SNAPSHOT_SHIP_DONE: every FD n has sent its area to DEST + n × STRIDE (R396). -/
def execSnapshotShipDone (p : BitVec 2) (s : State) : Out :=
  let q := p.toNat
  .next (if s.rd (Reg.glbSnapCtlState q) ≠ snShipping then s
  else
    let fds := s.parcelFds q
    let total := fds.foldl (fun a fd => a + s.rd (Reg.auSnapLenBytes fd)) 0
    let s := fds.foldl (fun s fd => s.shipArea q fd) s
    ((s.wr (Reg.glbSnapBytesBytes q) total).wr (Reg.glbSnapCtlState q) snDone).raise evSnapshotDone q
      [s.meridian.toNat, s.rd (Reg.glbSnapCtlStep q), total])

/-- Adjustment units that leave HELD (R532): with `skip`, past the entry they were held on. -/
def State.auRelease (s : State) (fd : Nat) (skip : Bool) : State :=
  if !s.flag (Reg.auQstatHeld fd) then s
  else
    let s := (s.wr (Reg.auFaultValid fd) 0).wr (Reg.auQstatHeld fd) 0
    if skip then s.wr (Reg.auQstatHead fd) (s.rd (Reg.auFaultEntry fd) + 1) else s

/-- The unit of an FD stops at the end of its parcel's activity (R509). -/
def State.auStop (s : State) (fd : Nat) : State := (s.wr (Reg.auQstatBusy fd) 0).setAu fd AuRun.idle

end Sys2Proof.Machine
end

