-- ==== Sys2Proof/Machine/FaultTol.lean ====
section
/-! DEFINITION. Station errors, restakes, field dies retired and stations returned to service (R443 to R455). -/

namespace Sys2Proof.Machine

def evRestakeFailed : Nat := 0x9081
def evFdRetired : Nat := 0x9082

/-- Physical stations of an FD that stand by as spares: unmapped and not failed (R29). -/
def State.spares (s : State) (fd : Nat) : List Nat :=
  (List.range 136).filter (fun p => (s.logOf fd p).isNone && !s.failed.any (fun x => decide (x.1 = fd) && decide (x.2.1 = p)))

/-- A physical station counted as failed; `l` is the logical station it held, 255 for a spare (R29, R446). -/
def State.countFailed (s : State) (fd p l : Nat) : State :=
  let s := s.wr (Reg.fdStatusFailed fd) (s.rd (Reg.fdStatusFailed fd) + 1)
  let s := s.wr (Reg.fdStatusSparesLeft fd) (s.rd (Reg.fdStatusSparesLeft fd) - 1)
  { s with failed := s.failed ++ [(fd, p, l)] }

/-- A station's own leg gave up on the die transposer: it waits for it no more. -/
def State.leaveXp (s : State) (k : Loc) : State := { s with xpQueue := s.xpQueue.filter (fun x => decide (x ≠ (k.fd, k.key))) }

/-- The chain transfers on their way but for the first `n` to station `m`: those that a log sent again. -/
def dropAgain (m : Nat) : Nat → List ChainXfer → List ChainXfer
  | 0, l => l
  | _ + 1, [] => []
  | n + 1, x :: t => if x.dest = m then dropAgain m n t else x :: dropAgain m (n + 1) t

/-- A return ends in failure (R455). -/
def State.returnFails (s : State) (r : ReturnRun) : State :=
  ({ s with returns := s.returns.filter (· ≠ r) }.wr (Reg.fdReturnCtlState r.fd) 3).raise (fdCode evReturnFailed r.fd) (s.parcelOf r.fd)
    [s.meridian.toNat, r.phys]

/-- The local store of a logical station cleared, poison included. -/
def State.clearStore (s : State) (fd log : Nat) : State :=
  let lo := lsKey fd log 0
  { s with mem := Sparse.dropRange s.mem lo (lo + lsBytes)
           poison := s.poison.filter (fun c => decide (c < lo / 32) || decide ((lo + lsBytes) / 32 ≤ c)) }

/-- What the FD keeps outside a station, put back into it from the last leg barrier on (R446 steps 3 to 5, R447): its
record, signal counts, the inbound writes, and the chain transfers as arrivals, each once however often legs are repeated
(R448). -/
def State.replay445 (s : State) (k : Loc) (r : BarRec) : State :=
  let l := s.lst k.num
  let s := s.loadRecord k (s.parcelOf k.fd) r
  let s := (List.range 16).foldl (fun s c => s.wr (Reg.stnSg k.b c) (min (Sparse.get (fun _ => 0) l.sigRcv c) (2 ^ 32 - 1))) s
  let s := l.inlog.foldl (fun s e => match e with
    | .write off bs pz => s.putBytes (lsKey k.fd k.log off) bs pz
    | _ => s) s
  let xs := l.inlog.filterMap (fun e => match e with | .chain x => some x | _ => none)
  { s with chains := xs ++ dropAgain k.num l.rechain s.chains }.updLst k.num (fun l => { l with
    repeating := true, repCount := [], mkRep := [], rechain := xs.length, wrote := [] })

/-- A station restaked onto a spare (R446): one that has ended, or has faulted, repeats from its last record too; one of no
traverse has none and is only mapped. The repeated leg counts as a leg of its own for R76: the spare starts with the
event flags clear and raises the leg's events again (log 247, DESIGN CHOICE). -/
def State.restakeOn (s : State) (k : Loc) (q : Nat) : State :=
  let t := s.stn k
  let l := s.lst k.num
  let kept := [0xC10, 0xC18, 0xC20].map (fun o => (o, s.reg (k.b + o)))
  let rs : Restake := match l.restake with
    | some o => { o with phys := k.phys, spare := q, time := s.meridian }
    | none => ⟨k.phys, q, s.meridian, s.legOf k, s.periodOf k, 0⟩
  let pos := s.reg (k.b + 0x10)
  let per := s.reg (k.b + 0xC00)
  let s := (s.inc (Reg.fdRstkStatRestakes k.fd)).countFailed k.fd k.phys k.log
  let s := s.wr (Reg.fdStnMapPhys k.fd (k.log / 8) (k.log % 8)) q
  let n : Loc := { k with phys := q }
  let s := kept.foldl (fun s x => s.setReg (n.b + x.1) x.2) s
  let s := { s with stns := Sparse.erase s.stns k.key }.leaveXp k
  let s := s.clearStore k.fd k.log
  match t.active || t.ended, l.barrec with
  | true, some r =>
    let s := s.setStnAt n.key { Stn.idle with active := true, held := t.held || t.faulted, holdReq := t.holdReq }
    let s := s.replay445 n r
    ((s.updLst k.num (fun l => { l with restake := some rs })).restakeAt n false).settle
  | _, _ =>
    let s := (s.setReg (n.b + 0x10) pos).setReg (n.b + 0xC00) per
    let s := s.setStnAt n.key { Stn.idle with active := t.active, ended := t.ended, faulted := t.faulted, held := t.held }
    (s.updLst k.num (fun l => { l with restake := some rs })).restakeAt n false

/-- A station stopped for good, HELD: its port releases nothing further (R442, R449, R451). -/
def State.stopDead (s : State) (k : Loc) : State :=
  (s.updStn k (fun t => { t with waiting := none, held := t.active, holdReq := false, dead := t.active })).leaveXp k

/-- A station error without a spare left: the station ends, its FD asked to retire (R451). -/
def State.noSpare (s : State) (k : Loc) : State :=
  let s := s.stopDead k
  if s.retireReq.any (fun r => r.1 = k.fd) then s else { s with retireReq := s.retireReq ++ [(k.fd, k.log)] }

/-- A station error with spare `q`: a restake, or its failure where the leg cannot be repeated (R445, R446). -/
def State.onSpare (s : State) (k : Loc) (closing : Bool) (q : Nat) : State :=
  if (s.stn k).active ∧ (s.unrep k.fd k.log ∨ closing) then
    (((s.stopDead k).inc (Reg.fdRstkStatEscalated k.fd)).raise (fdCode evRestakeFailed k.fd) (s.parcelOf k.fd)
      [s.meridian.toNat, k.phys, k.num]).holdParcel (s.parcelOf k.fd)
  else s.restakeOn k q

/-- A station error in the station that holds a logical one (R446, R449, R451). `closing`: it was found while the
barrier record was being written. -/
def State.stnError (s : State) (k : Loc) (closing : Bool) : State :=
  let s := s.inc (Reg.fdRstkStatErrors k.fd)
  if (s.spares k.fd).isEmpty then s.noSpare k else s.onSpare k closing ((s.spares k.fd).headD 0)

/-- An idle spare fails (R29, R443). -/
def State.spareFails (s : State) (fd p : Nat) : State :=
  if (s.spares fd).contains p then s.countFailed fd p 255 else s

/-- An error in physical station `p` of an FD, whatever it holds. -/
def State.physError (s : State) (fd p : Nat) (closing : Bool) : State :=
  if s.down ∨ s.flag (Reg.fdStatusRetired fd) ∨ 136 ≤ p then s
  else match s.logOf fd p with
    | some l => s.stnError ⟨fd, l, p⟩ closing
    | none =>
      match s.returns.find? (fun r => decide (r.fd = fd) && decide (r.phys = p)) with
      | some r => (s.inc (Reg.fdRstkStatErrors fd)).returnFails r
      | none => s.spareFails fd p

/-- STATION_ERROR: a check of R443 fails in physical station `phys` of `fd`. -/
def execStationError (fd : BitVec 4) (phys : BitVec 8) (closing : Bool) (s : State) : Out :=
  .next (s.physError fd.toNat phys.toNat closing)

/-- Whether physical station `p` of an FD executes a shadow run (R455). -/
def State.shadows (s : State) (fd p : Nat) : Bool :=
  decide (s.rd (Reg.fdReturnCtlState fd) = 2) && s.returns.any (fun r => decide (r.fd = fd) && decide (r.phys = p) && r.log.isSome)

/-- WATCHDOG_TIMEOUT: no handshake for 100 µs in a station that runs, or shadows one, and does not wait (R443, R455). -/
def execWatchdogTimeout (fd : BitVec 4) (phys : BitVec 8) (s : State) : Out :=
  .next (if s.stateOf fd.toNat phys.toNat = stRunning ∨ s.shadows fd.toNat phys.toNat then s.physError fd.toNat phys.toNat false else s)

/-- An uncorrectable error that `t`, an access of state `s`, found in the codeword of key `k`: in a local store, where it held no
poison and an instruction of the station's current leg has written it, it is a station error (R443). -/
def State.storeError (s t : State) (k : Nat) : State :=
  match regionOf (k / 2 ^ 41) (k % 2 ^ 41) with
  | .ls l _ =>
    match s.locate (k / 2 ^ 41 * 128 + l) with
    | some q =>
      if (s.stn q).active && !s.cwPoison (k / 32) && t.cwPoison (k / 32) && (s.lst q.num).wrote.contains (k / 32) then
        t.physError q.fd q.phys false
      else t
    | none => t
  | _ => t

/-- MEM_READ_REQUEST: a read by FD `fd` of the line at `addr` (R309, R310, R317), and what the error it finds in a local store
leads to (R443). -/
def execMemReadRequest (fd : BitVec 4) (addr : BitVec 64) (errs : List (BitVec 8)) (s : State) : Out :=
  .next (s.storeError (s.memRead fd addr errs) (s.keyOf addr.toNat))

/-- MEM_WRITE_REQUEST: a write of FD `fd`, or of an edge die, to bytes of one line (R299, R311, R317), and what the error it
finds in a local store leads to (R443). -/
def execMemWriteRequest (fd : BitVec 5) (addr : BitVec 64) (data : List Byte) (errs : List (BitVec 8)) (s : State) : Out :=
  .next (s.storeError (s.memWrite fd addr data errs) (s.keyOf addr.toNat))

/-- SPARE_SELF_TEST: an idle spare's self-test ends (R443). -/
def execSpareSelfTest (fd : BitVec 4) (phys : BitVec 8) (ok : Bool) (s : State) : Out :=
  .next (if ok ∨ s.down ∨ s.flag (Reg.fdStatusRetired fd.toNat) then s else s.spareFails fd.toNat phys.toNat)

/-! ## Retirement (R451 to R453) -/

/-- Tier-1 of an FD reads as poison from now on (R453). -/
def State.loseT1 (s : State) (fd : Nat) : State :=
  (List.range 64).foldl (fun s ch => s.loseAs (fd, 0, ch)) (if s.flag (Reg.t1RedirectUsed fd) then s.loseAs (fd, 2, 0) else s)

/-- An FD retired (R451): out of service, its map empty; the cause, 1 spares exhausted or 2 tier-1 reserve exhausted, and the
time recorded. `l`: the logical station left without a home, 255 for none. -/
def State.retireFd (s : State) (n cause l : Nat) : State :=
  let p := s.parcelOf n
  let s := (List.range 128).foldl (fun s l => s.wr (Reg.fdStnMapPhys n (l / 8) (l % 8)) 0xFF) s
  let s := ((s.wr (Reg.fdStatusRetired n) 1).wr (Reg.fdStatusEnabled n) 0)
  let s := ((s.wr (Reg.fdRetireInfoCause n) cause).wr (Reg.fdRetireInfoMemAvail n) (if cause = 1 then 1 else 0)).wr
    (Reg.fdRetireTimeMeridian n) s.meridian.toNat
  let s := if s.rd (Reg.glbTrvStatusState p) = trvRunning then s.wr (Reg.glbTrvStatusState p) trvHeld else s
  s.raise (fdCode evFdRetired n) p [s.meridian.toNat, n, cause, l]

/-! ## Return to service (R455) -/

/-- FD_RETURN_CTL written with START: a failed station begins its self-test. -/
def State.returnStart (s : State) (fd phys : Nat) : State :=
  let st := s.rd (Reg.fdReturnCtlState fd)
  if s.down ∨ st = 1 ∨ st = 2 ∨ s.flag (Reg.fdStatusRetired fd) then s
  else
    let s := s.wr (Reg.fdReturnCtlPhys fd) phys
    if s.failed.any (fun x => decide (x.1 = fd) && decide (x.2.1 = phys)) then
      { s with returns := s.returns ++ [({ fd := fd, phys := phys, log := none, period := 0, leg := 0 } : ReturnRun)] }.wr
          (Reg.fdReturnCtlState fd) 1
    else s

/-- RETURN_START (R455 step 1). -/
def execReturnStart (fd : BitVec 4) (phys : BitVec 8) (s : State) : Out := .next (s.returnStart fd.toNat phys.toNat)

/-- RETURN_TEST_DONE: the self-test ends (R455 step 2). A station that had stood by as a spare stands by again. -/
def execReturnTestDone (fd : BitVec 4) (ok : Bool) (s : State) : Out :=
  let n := fd.toNat
  .next (match s.returns.find? (fun r => decide (r.fd = n) && r.log.isNone) with
  | none => s
  | some r =>
    if !ok then s.returnFails r
    else match s.failed.find? (fun x => decide (x.1 = n) && decide (x.2.1 = r.phys)) with
      | none => s.returnFails r
      | some f =>
        if f.2.2 = 255 then
          let s := { s with returns := s.returns.filter (· ≠ r), failed := s.failed.erase f }
          let s := s.wr (Reg.fdStatusFailed n) (s.rd (Reg.fdStatusFailed n) - 1)
          let s := s.wr (Reg.fdStatusSparesLeft n) (s.rd (Reg.fdStatusSparesLeft n) + 1)
          (s.wr (Reg.fdReturnCtlState n) 0).raise (fdCode evStationReturned n) (s.parcelOf n) [s.meridian.toNat, r.phys, 255]
        else { s with returns := s.returns.map (fun x => if x = r then { r with log := some f.2.2 } else x) })

end Sys2Proof.Machine
end

