-- ==== Sys2Proof/Machine/AuSnap.lean ====
section
/-! DEFINITION. Shadows, shadow pulls and lost peers (R456 to R464). -/

namespace Sys2Proof.Machine

def evPullDone : Nat := 0x1085
def evPullFailed : Nat := 0x5086

/-- Bytes of a slot in a shadow's mode (R374, R457). -/
def shdSlot (mode : Nat) : Nat := if mode = 2 then 6208 else 12288

/-- The area that serves an owner (R458). -/
def State.shdServes (s : State) (fd owner : Nat) : Option Nat :=
  (List.range 8).find? (fun k => s.flag (Reg.fdShdServedValid fd k) && decide (s.rd (Reg.fdShdServedModule fd k) = owner))

/-- Key of generation `g` of area `k` (R458). -/
def State.shdGen (s : State) (fd k g : Nat) : Nat :=
  dieKey fd (t2Base + s.rd (Reg.fdShdLandBase fd) + k * s.rd (Reg.fdShdLstrideStride fd) + g * (s.rd (Reg.fdShdLstrideStride fd) / 2))

/-- A generation header (R458). -/
def shdHeader (owner fd mode complete step blocks : Nat) : List Byte :=
  leBytes 4 owner ++ [BitVec.ofNat 8 fd, BitVec.ofNat 8 mode, BitVec.ofNat 8 complete, 0] ++ leBytes 8 step ++ leBytes 4 blocks
    ++ List.replicate 44 0

/-- Blocks of stripe `k` among `blocks` (R458). -/
def shdCount (blocks k : Nat) : Nat := (blocks - k + 7) / 8

/-- A message of another module crosses the mesh from its link die to FD `fd` (R22). -/
def State.fromModule (s : State) (m fd : Nat) : State := s.passMesh (16 + s.edgeLd m fd) fd 0

/-- SHADOW_MESSAGE_RECEIVE: a block of an owner's shadow arrives at its peer's FD (R457, R458); a module without a number
accepts none (R35). A stripe once whole stays so: a block sent again is written, counts no more, and is acknowledged again
(DESIGN CHOICE, log 273). -/
def execShadowMessageReceive (fd : BitVec 4) (owner : BitVec 18) (mode : BitVec 2) (step : BitVec 64) (q blocks : BitVec 32)
    (slot : List Byte) (s : State) : Out :=
  let n := fd.toNat
  .next (if !s.flag Reg.glbModuleNumValid then s else match s.shdServes n owner.toNat with
  | none => (s.fromModule owner.toNat n).inc (Reg.fdShdStatReject n)
  | some k =>
    let s := s.fromModule owner.toNat n
    let a := s.shdGen n k (step.toNat % 2)
    let old := s.bytesAt a 64
    let same := decide (old.take 16 = (shdHeader owner.toNat n mode.toNat (ofLeBytes ((old.drop 6).take 1)) step.toNat 0).take 16)
    let all := shdCount blocks.toNat (q.toNat % 8)
    let got := min all ((if same then ofLeBytes ((old.drop 16).take 4) else 0) + 1)
    let full := decide (got = all)
    let s := s.writeMem (a + 64 + q.toNat / 8 * shdSlot mode.toNat) (slot.take (shdSlot mode.toNat))
    let s := s.writeMem a (shdHeader owner.toNat n mode.toNat (if full then 1 else 0) step.toNat got)
    if full then s.sendFrom n 0 (TxFlit.msg 5 6 owner.toNat n (s.parcelOf n) [q.toNat % 8, step.toNat] []) 1 else s)

/-- SHADOW_ACK_RECEIVE: the peer of stripe `k` holds its whole stripe of a step (R459). -/
def execShadowAckReceive (fd : BitVec 4) (k : BitVec 3) (step : BitVec 32) (s : State) : Out :=
  let n := fd.toNat
  let s := s.fromModule (s.rd (Reg.fdShdPeerModule n k.toNat)) n
  .next (if Sparse.get (fun _ => 0) s.shdStep n ≠ step.toNat + 1 then s
  else
    let m := s.rd (Reg.fdShdStatAcked n) ||| 2 ^ k.toNat
    let s := s.wr (Reg.fdShdStatAcked n) m
    if m ≠ 255 ∨ (s.flag (Reg.fdShdStatValid n) ∧ s.rd (Reg.fdShdStatDoneStep n) = step.toNat) then s
    else
      let s := (s.wr (Reg.fdShdStatDoneStep n) step.toNat).wr (Reg.fdShdStatValid n) 1
      if s.rd (Reg.fdShdDoneStation n) = 0xFFFF then s
      else { s with sigs := s.sigs ++ [(0xFFFF, s.rd (Reg.fdShdDoneStation n), s.rd (Reg.fdShdDoneCtr n), 1)] })

/-! ## Pulls (R463, R464) -/

/-- What an FD's pull has so far. -/
def State.pull (s : State) (fd : Nat) : PullRun := Sparse.get (fun _ => ⟨[], [], 0⟩) s.pulls fd

/-- The state with it replaced. -/
def State.setPull (s : State) (fd : Nat) (r : PullRun) : State := { s with pulls := Sparse.set (fun _ => ⟨[], [], 0⟩) s.pulls fd r }

/-- A pull fails (R464). -/
def State.pullFails (s : State) (fd : Nat) : State :=
  ((s.wr (Reg.fdShdPullState fd) 4).setPull fd ⟨[], [], 0⟩).raise (fdCode evPullFailed fd) (s.parcelOf fd)
    [s.meridian.toNat, s.rd (Reg.fdShdPullOwner fd), s.rd (Reg.fdShdPullStep fd)]

/-- A request of a pull sent to every peer: for its newest complete step, or for a step's stripe. -/
def State.pullAsk (s : State) (fd : Nat) (args : List Nat) : State :=
  (List.range 8).foldl (fun s k =>
    s.sendFrom fd 0 (TxFlit.msg 5 6 (s.rd (Reg.fdShdPeerModule fd k)) fd (s.parcelOf fd) ([s.rd (Reg.fdShdPullOwner fd), k] ++ args) []) 1) s

/-- FD_SHD_PULL written with START (R463). A STEP other than 0 imposes the job's r. -/
def State.pullStart (s : State) (fd owner step : Nat) : State :=
  let s := ((s.wr (Reg.fdShdPullOwner fd) owner).wr (Reg.fdShdPullStep fd) step).setPull fd ⟨[], [], step⟩
  let s := s.wr (Reg.fdShdPullState fd) 1
  if (List.range 8).all (fun k => s.flag (Reg.fdShdPeerValid fd k)) then s.pullAsk fd [0] else s.pullFails fd

/-- SHD_PULL_START (R463). -/
def execShdPullStart (fd : BitVec 4) (owner : BitVec 18) (step : BitVec 32) (s : State) : Out :=
  .next (if s.down then s else s.pullStart fd.toNat owner.toNat step.toNat)

/-- The complete generations of an owner here: generation, mode and step (R458). -/
def State.shdComplete (s : State) (fd k owner : Nat) : List (Nat × Nat × Nat) :=
  (List.range 2).filterMap (fun g =>
    let h := s.bytesAt (s.shdGen fd k g) 64
    let u := fun (o n : Nat) => ofLeBytes ((h.drop o).take n)
    if u 0 4 = owner ∧ u 4 1 = fd ∧ u 6 1 = 1 then some (g, u 5 1, u 8 8) else none)

/-- PULL_REQUEST_RECEIVE: a spare asks this FD for the newest complete generation of an owner's stripe, or, with a step, for
that generation itself (R463, R464); a module without a number answers none (R35). -/
def execPullRequestReceive (fd : BitVec 4) (module owner : BitVec 18) (stripe : BitVec 3) (step : Option (BitVec 64)) (s : State) : Out :=
  let n := fd.toNat
  let gens := match s.shdServes n owner.toNat with
    | some k => (s.shdComplete n k owner.toNat).map (fun g => (k, g))
    | none => []
  .next (if !s.flag Reg.glbModuleNumValid then s else
  let s := s.fromModule module.toNat n
  match step with
  | none =>
    let best := gens.foldl (fun m g => max m (g.2.2.2 + 1)) 0
    s.sendFrom n 0 (TxFlit.msg 5 6 module.toNat n (s.parcelOf n) [stripe.toNat, best] []) 1
  | some r =>
    match gens.find? (fun g => g.2.2.2 = r.toNat) with
    | some g =>
      let a := s.shdGen n g.1 g.2.1
      let size := ofLeBytes (s.bytesAt (a + 16) 4) * shdSlot g.2.2.1
      s.sendFrom n 0 (TxFlit.msg 5 6 module.toNat n (s.parcelOf n) [stripe.toNat, r.toNat + 1, g.2.2.1] (s.bytesAt (a + 64) size))
          (flitsFor size)
    | none => s.sendFrom n 0 (TxFlit.msg 5 6 module.toNat n (s.parcelOf n) [stripe.toNat, 0] []) 1)

/-- PULL_RESPONSE_RECEIVE: the peer of a stripe names its newest complete step, or has none; from eight the resume step is
formed and the stripes are asked for (R463). -/
def execPullResponseReceive (fd : BitVec 4) (stripe : BitVec 3) (step : Option (BitVec 64)) (s : State) : Out :=
  let n := fd.toNat
  let s := s.fromModule (s.rd (Reg.fdShdPeerModule n stripe.toNat)) n
  .next (if s.rd (Reg.fdShdPullState n) ≠ 1 then s
  else match step with
  | none => s.pullFails n
  | some r =>
    let p := s.pull n
    let ans := (p.answers.filter (fun a => a.1 ≠ stripe.toNat)) ++ [(stripe.toNat, r.toNat)]
    let s := s.setPull n { p with answers := ans }
    if ans.length < 8 then s
    else
      let least := ans.foldl (fun m a => min m a.2) r.toNat
      let r := if p.imposed = 0 then least else p.imposed
      ((s.wr (Reg.fdShdPullStep n) r).wr (Reg.fdShdPullState n) 2).pullAsk n [1, r])

/-- The journal of a pulled range (R464): slot 0 current, PENDING, the step, in both copies. -/
def State.pullJournal (s : State) (fd blocks r : Nat) : State :=
  (List.range ((blocks + 63) / 64)).foldl (fun s c =>
    let a := dieKey fd (s.jrnl fd c)
    let w := (List.range (min 64 (blocks - 64 * c))).foldl (fun w k => jSet w k (2 + r % 4 * 4)) ((s.jWord fd c).getD 0)
    ((s.jFix fd c).writeMem a (leBytes 32 w)).writeMem (a + 256) (leBytes 32 w)) s

/-- PULL_STRIPE_RECEIVE: a stripe of generation r arrives, or its peer lacks it (R464). -/
def execPullStripeReceive (fd : BitVec 4) (stripe : BitVec 3) (ok : Bool) (mode : BitVec 2) (data : List Byte) (s : State) : Out :=
  let n := fd.toNat
  let k := stripe.toNat
  let s := s.fromModule (s.rd (Reg.fdShdPeerModule n k)) n
  .next (if s.rd (Reg.fdShdPullState n) ≠ 2 then s
  else if !ok then s.pullFails n
  else
    let blocks := s.rd (Reg.fdShdCfgBlocks n)
    let z := shdSlot mode.toNat
    let s := (List.range (shdCount blocks k)).foldl (fun s i =>
      s.writeMem (dieKey n (t2Base + s.rd (Reg.fdShdAreaBase n) + 2 * (8 * i + k) * z)) ((data.drop (i * z)).take z)) s
    let got := keyInsert (s.pull n).got k
    let s := s.setPull n { s.pull n with got := got }
    if got.length < 8 then s
    else
      let r := s.rd (Reg.fdShdPullStep n)
      (((s.pullJournal n blocks r).wr (Reg.fdShdPullState n) 3).setPull n ⟨[], [], 0⟩).raise (fdCode evPullDone n) (s.parcelOf n)
        [s.meridian.toNat, s.rd (Reg.fdShdPullOwner n), r])

/-! ## Lost peers (R462) -/

/-- GLB_PEER_CTLp written with DISCARD: what the parcel still holds towards a lost module is dropped, requests that waited for
the tracker and flits that no route reached among it. -/
def State.peerDiscard (s : State) (p module : Nat) : State :=
  if s.rd (Reg.glbTrvStatusState p) ≠ trvIdle then s.raise evParcelBusy p [s.meridian.toNat, (Reg.glbPeerCtlModule p).addr]
  else
    let s := s.wr (Reg.glbPeerCtlModule p) module
    { s with
      remote := s.remote.filter (fun r => !(decide (r.parcel = p) && decide (addrModule r.addr = module)))
      fab := { s.fab with
        stalled := s.fab.stalled.filter (fun r => !(decide (r.parcel = p) && decide (addrModule r.addr = module)))
        unrouted := s.fab.unrouted.filter (fun f => !(decide (f.src = 16) && decide (f.parcel = p) && decide (f.peer = module))) }
      readyHeld := s.readyHeld.filter (fun r => !(decide (r.2.1 = p) && decide (r.2.2.2.2.1 = module)))
      colls := s.colls.filter (fun c => !(decide (c.parcel = p) && (s.planModules p c.plan).contains module)) }.showActive

/-- PEER_DISCARD (R462). -/
def execPeerDiscard (p : BitVec 2) (module : BitVec 18) (s : State) : Out :=
  .next (if s.down then s else s.peerDiscard p.toNat module.toNat)

end Sys2Proof.Machine
end

