-- ==== Sys2Proof/Machine/Pixel.lean ====
section
/-! DEFINITION. The pixel pipeline, the audio mix and the tokens of an ingest sample (R429 to R434), over the frames a
decoder gives. -/

namespace Sys2Proof.Machine

/-- One display frame (R424 to R427), every sample in 10-bit units: width and height, whether it was coded interlaced
and its top field comes first, its chroma (0 4:2:0, 1 4:2:2, 2 none), whether it is concealed, and its planes by rows. -/
structure DecFrame where
  w : Nat
  h : Nat
  interlaced : Bool
  topFirst : Bool
  chroma : Nat
  concealed : Bool
  y : List (List Nat)
  cb : List (List Nat)
  cr : List (List Nat)
  deriving DecidableEq, Repr, Inhabited

/-- What a clip comes to (R422 to R429): its display frames in order, their times in 90 kHz units from the first PTS and that
PTS, the matrix and whether full range that the stream signals, the tool its decoder rejected, whether its chosen video stream
has a stream_type no decoder accepts, what ING_TS_ERR counts (SYNC, CC, TEI, SCRAMBLED, PSI_CRC), the audio channels as FP32
(1, 2, or 6 in the order L, R, C, LFE, Ls, Rs), and for each frame the audio sample nearest its time. -/
structure DecClip where
  frames : List DecFrame
  times : List Int
  origin : Nat
  matrix : Option Nat
  full : Bool
  rejected : Option VTool
  noStream : Bool
  tsErr : List Nat
  audio : List (List Nat)
  audAt : List Nat
  deriving DecidableEq, Repr, Inhabited

/-- A clip that yields nothing. -/
def DecClip.none' : DecClip := ⟨[], [], 0, none, false, none, false, [], [], []⟩

/-- A plane of samples. -/
abbrev Plane := List (List Nat)

/-- Sample (x, y) of a plane, the nearest edge sample outside it. -/
def Plane.at (p : Plane) (x y : Nat) : Nat :=
  let r := p.getD (min y (p.length - 1)) []
  r.getD (min x (r.length - 1)) 0

/-- A plane of size w × h from its samples. -/
def Plane.make (w h : Nat) (f : Nat → Nat → Nat) : Plane := (List.range h).map (fun y => (List.range w).map (fun x => f x y))

/-- The interpolation of stage 5 between a sample and the next at coordinate `s` in 1/256 units, of `n` samples (R430). -/
def lerp (n : Nat) (s : Int) (f : Nat → Nat) : Nat :=
  let c := (max 0 (min s (((n - 1) * 256 : Nat) : Int))).toNat
  let i := c / 256
  let t := c % 256
  (f i * (256 - t) + f (min (i + 1) (n - 1)) * t + 128) / 256

/-- One plane deinterlaced (R431): the first field in time is kept; of the other, samples that hardly moved. `prev` is the
same plane of the previous frame. -/
def deinterlace (top : Bool) (thresh : Nat) (prev : Option Plane) (p : Plane) : Plane :=
  let h := p.length
  let w := (p.headD []).length
  let parity := if top then 0 else 1
  Plane.make w h (fun x y =>
    if y % 2 = parity then p.at x y
    else
      let above := if y = 0 then p.at x (y + 1) else p.at x (y - 1)
      let below := if h ≤ y + 1 then above else p.at x (y + 1)
      let mean := (above + below + 1) / 2
      let v := p.at x y
      let ref := match prev with | some q => q.at x y | none => mean
      let m := if ref ≤ v then v - ref else ref - v
      if m ≤ thresh then v else mean)

/-- A chroma plane brought to luma resolution (R430 stage 2): 4:2:0 and 4:2:2. -/
def upsample (chroma w h : Nat) (p : Plane) : Plane :=
  let ch := p.length
  let cw := (p.headD []).length
  let hor := Plane.make w ch (fun x y => lerp cw ((x : Int) * 128) (fun i => p.at i y))
  if chroma = 0 then Plane.make w h (fun x y => lerp ch ((y : Int) * 128 - 64) (fun i => hor.at x i)) else hor

/-- Kr and Kb of a matrix code in units of 10^−4 (R432). -/
def matrixK (m : Nat) : Int × Int := if m = 1 then (2990, 1140) else if m = 3 then (2627, 593) else (2126, 722)

/-- A coefficient n / d rounded to a multiple of 2^−14. -/
def coeff (n d : Int) : Int := (2 * n * 16384 + d) / (2 * d)

/-- RGB in units of 2^−14 of full range 0 to 1,023, from Y′CbCr (R432). -/
def toRgb (m : Nat) (full : Bool) (y cb cr : Nat) : Int × Int × Int :=
  let k := matrixK m
  let kg := 10000 - k.1 - k.2
  let yr : Int := if full then 1023 else 876
  let cs : Int := if full then 1023 else 896
  let l := coeff 1023 yr * ((y : Int) - (if full then 0 else 64))
  let u := (cb : Int) - 512
  let v := (cr : Int) - 512
  (l + coeff (2 * (10000 - k.1) * 1023) (10000 * cs) * v,
   l - coeff (2 * (10000 - k.2) * k.2 * 1023) (kg * 10000 * cs) * u - coeff (2 * (10000 - k.1) * k.1 * 1023) (kg * 10000 * cs) * v,
   l + coeff (2 * (10000 - k.2) * 1023) (10000 * cs) * u)

/-- A sum in units of 2^−`sh` rounded, offset and held within 0 to 1,023. -/
def clamp10 (v : Int) (sh : Nat) (off : Int) : Nat := (max 0 (min 1023 ((v + 2 ^ (sh - 1)) / 2 ^ sh + off))).toNat

/-- One pixel in the output space (R432): 0 RGB, 1 YCbCr, 2 luma. -/
def outPixel (space m : Nat) (full : Bool) (rgb : Int × Int × Int) : List Nat :=
  let yr : Int := if full then 1023 else 876
  let yo : Int := if full then 0 else 64
  if space = 0 then
    let c := fun (x : Int) => if full then clamp10 x 14 0 else clamp10 (coeff 876 1023 * x) 28 64
    [c rgb.1, c rgb.2.1, c rgb.2.2]
  else
    let k := matrixK m
    let kg := 10000 - k.1 - k.2
    let cs : Int := if full then 1023 else 896
    let row := fun (a b c : Int × Int) => coeff a.1 a.2 * rgb.1 + coeff b.1 b.2 * rgb.2.1 + coeff c.1 c.2 * rgb.2.2
    let d : Int := 10000 * 1023
    let y := clamp10 (row (k.1 * yr, d) (kg * yr, d) (k.2 * yr, d)) 28 yo
    if space = 2 then [y]
    else
      let db := 2 * (10000 - k.2) * 1023
      let dr := 2 * (10000 - k.1) * 1023
      [y, clamp10 (row (-k.1 * cs, db) (-kg * cs, db) ((10000 - k.2) * cs, db)) 28 512,
       clamp10 (row ((10000 - k.1) * cs, dr) (-kg * cs, dr) (-k.2 * cs, dr)) 28 512]

/-- A mid-grey frame (R427, R428). -/
def greyFrame (w h : Nat) : DecFrame :=
  let p := Plane.make w h (fun _ _ => 512)
  ⟨w, h, false, true, 2, true, p, [], []⟩

/-- What the pipeline takes from the job (R414, R417). -/
structure PixJob where
  deint : Nat
  thresh : Nat
  space : Nat
  inMat : Nat
  outMat : Nat
  fullOut : Bool
  cropW : Nat
  cropH : Nat
  outW : Nat
  outH : Nat
  x0 : Nat
  y0 : Nat
  flip : Bool
  deriving DecidableEq, Repr

/-- Whether a frame is deinterlaced (R431). -/
def PixJob.deints (j : PixJob) (f : DecFrame) : Bool := decide (j.deint = 2) || (decide (j.deint = 0) && f.interlaced)

/-- Channel planes of one frame after stages 1 to 6 (R430). -/
def PixJob.run (j : PixJob) (matrix : Nat) (full : Bool) (prev : Option DecFrame) (f : DecFrame) : List Plane :=
  let de := fun (sel : DecFrame → Plane) =>
    if j.deints f then deinterlace f.topFirst j.thresh (prev.map sel) (sel f) else sel f
  let y : Plane := de (fun g => g.y)
  let cb : Plane := if f.chroma = 2 then [] else upsample f.chroma f.w f.h (de (fun g => g.cb))
  let cr : Plane := if f.chroma = 2 then [] else upsample f.chroma f.w f.h (de (fun g => g.cr))
  let outMat := if j.outMat = 0 then matrix else j.outMat
  let pix := fun (x' y' : Nat) =>
    let u := if f.chroma = 2 then 512 else cb.at x' y'
    let v := if f.chroma = 2 then 512 else cr.at x' y'
    outPixel j.space outMat j.fullOut (toRgb matrix full (y.at x' y') u v)
  let crop := (List.range j.cropH).map (fun cy => (List.range j.cropW).map (fun cx =>
    pix (min (j.x0 + cx) (f.w - 1)) (min (j.y0 + cy) (f.h - 1))))
  let n := if j.space = 2 then 1 else 3
  (List.range n).map (fun c =>
    let p : Plane := crop.map (fun r => r.map (fun px => px.getD c 0))
    let co := fun (o out src : Nat) => (((2 * o + 1) * src * 256 / (2 * out) : Nat) : Int) - 128
    let hor := Plane.make j.outW j.cropH (fun ox y' => lerp j.cropW (co ox j.outW j.cropW) (fun i => p.at i y'))
    let ver := Plane.make j.outW j.outH (fun x' oy => lerp j.cropH (co oy j.outH j.cropH) (fun i => hor.at x' i))
    if j.flip then ver.map List.reverse else ver)

/-- One output value (R433). -/
def outValue (fmt mean invstd v : Nat) (div : Nat → Nat → Nat) : Nat :=
  if fmt = fUint8 then min 255 ((v + 2) / 4)
  else
    let x := div (f32Of (.fin false v 0)) (f32Of (.fin false 1023 0))
    (convert fmt 0 (f32Val (f32Mul (f32Sub x mean) invstd)) rndRne 0 true).raw

/-- The audio of one sample (R429): `n` samples of `ch` channels from index `at0`, interleaved, FP32. -/
def audioMix (src : List (List Nat)) (ch at0 n : Nat) : List Nat :=
  let s := fun (c i : Nat) => (src.getD c []).getD i 0
  let half := 0x3F000000
  let k := 0x3F350481
  let g := 0x3ED41206
  (List.range n).flatMap (fun t =>
    let i := at0 + t
    let lr : Nat × Nat :=
      if src.length = 1 then (s 0 i, s 0 i)
      else if src.length = 2 then (s 0 i, s 1 i)
      else
        let side := fun (a b : Nat) => f32Mul g (f32Add (f32Add a (f32Mul k (s 2 i))) (f32Mul k b))
        (side (s 0 i) (s 4 i), side (s 1 i) (s 5 i))
    if (src.getD 0 []).length ≤ i then List.replicate ch 0
    else if ch = 2 then [lr.1, lr.2]
    else if src.length = 1 then [s 0 i] else [f32Mul half (f32Add lr.1 lr.2)])

end Sys2Proof.Machine
end

