-- ==== Sys2Proof/Machine/Demux.lean ====
section
/-! DEFINITION. Clips before their pixels (R422 to R431): transport packets, program tables and PES packets, the units of
elementary streams, which streams the decoders accept, concealment, and the times of frames and audio. What the decoding
standards make of a stream's units is the free values `Config.pictures` and `Config.soundOf` (log 6). -/

namespace Sys2Proof.Machine

/-- Bytes of a clip: none where a read failed (R439). -/
abbrev Gappy := List (Option Byte)

/-- `n` bytes of a piece from `o` on, most significant first; none where one is missing. -/
def gField (l : Gappy) (o n : Nat) : Option Nat :=
  let x := (l.drop o).take n
  if x.length = n ∧ x.all Option.isSome then some (ofBeBytes (x.map (fun b => b.getD 0))) else none

/-! ## Transport packets (R415, R422) -/

/-- Bytes of a packet in its container, and of the prefix before its sync byte. -/
def tsSize (cont : Nat) : Nat × Nat := if cont = 1 then (192, 4) else if cont = 2 then (204, 0) else (188, 0)

/-- Whether a packet with its sync byte begins here. -/
def tsSync (z : Nat × Nat) (l : Gappy) : Bool := decide (l.getD z.2 none = some (0x47 : Byte))

/-- The packets of a clip and the times sync was lost: a missing sync byte is sought, byte by byte, until three consecutive
packets show it (R422). `n` bounds the steps. -/
def tsPackets (z : Nat × Nat) : Nat → Bool → Gappy → List Gappy × Nat
  | 0, _, _ => ([], 0)
  | n + 1, locked, l =>
    if l.length < z.1 then ([], 0)
    else if locked then
      if tsSync z l then (let r := tsPackets z n true (l.drop z.1); ((l.drop z.2).take 188 :: r.1, r.2))
      else (let r := tsPackets z n false l; (r.1, r.2 + 1))
    else if tsSync z l && tsSync z (l.drop z.1) && tsSync z (l.drop (2 * z.1)) then tsPackets z n true l
    else tsPackets z n false (l.drop 1)

/-- A transport packet (ISO/IEC 13818-1): PID, payload_unit_start_indicator, continuity_counter, discontinuity_indicator, whether it
has a payload, and the payload; transport_error_indicator and transport_scrambling_control. -/
structure TsPkt where
  pid : Nat
  start : Bool
  cc : Nat
  disc : Bool
  pay : Bool
  data : Gappy
  tei : Bool
  scr : Bool
  deriving DecidableEq, Repr

/-- A packet read; none when its header did not come. -/
def tsParse (l : Gappy) : Option TsPkt :=
  match gField l 1 1, gField l 2 1, gField l 3 1 with
  | some a, some b, some c =>
    let ad := if bitOf c 5 then 1 + (gField l 4 1).getD 0 else 0
    some ⟨a % 32 * 256 + b, bitOf a 6, c % 16, decide (1 < ad) && bitOf ((gField l 5 1).getD 0) 7, bitOf c 4,
      if bitOf c 4 then l.drop (4 + ad) else [], bitOf a 7, decide (c / 64 ≠ 0)⟩
  | _, _, _ => none

/-- Packets in order with whether a gap lies before each in its PID, and how many continuity discontinuities that no
discontinuity_indicator signals (R422). `last` is the last counter of each PID and whether its packet has been repeated; a
packet sent twice is taken once. -/
def ccScan : List TsPkt → Sparse Nat → List (TsPkt × Bool) × Nat
  | [], _ => ([], 0)
  | p :: t, last =>
    let v := Sparse.get (fun _ => 0) last p.pid
    let c := (v - 1) / 2
    let put := fun (rep : Bool) => Sparse.set (fun _ => 0) last p.pid (1 + 2 * p.cc + (if rep then 1 else 0))
    if p.pid = 0x1FFF then ccScan t last
    else if v ≠ 0 ∧ p.pay ∧ p.cc = c ∧ v % 2 = 1 ∧ !p.disc then ccScan t (put true)
    else
      let bad := decide (v ≠ 0) && !p.disc && decide (p.cc ≠ if p.pay then (c + 1) % 16 else c)
      let r := ccScan t (put false)
      ((p, bad) :: r.1, r.2 + (if bad then 1 else 0))

/-! ## Program tables -/

/-- One bit of the CRC-32 of a section (ISO/IEC 13818-1), most significant first. -/
def psiBit (x : Nat) : Nat := (if x / 2 ^ 31 % 2 = 1 then (2 * x) ^^^ 0x04C11DB7 else 2 * x) % 2 ^ 32

/-- The CRC-32 of a section: 0 over one that is whole. -/
def psiCrc (bs : List Byte) : Nat :=
  bs.foldl (fun c b => (List.range 8).foldl (fun x _ => psiBit x) (c ^^^ (b.toNat * 2 ^ 24))) 0xFFFFFFFF

/-- The sections that a run of payload bytes holds, up to one that is not all there; `n` bounds them. -/
def cutSections : Nat → Gappy → List (List Byte)
  | 0, _ => []
  | n + 1, l =>
    match gField l 0 1, gField l 1 2 with
    | some 0xFF, _ => []
    | some _, some x =>
      let len := 3 + x % 4096
      let b := l.take len
      if b.length = len ∧ b.all Option.isSome then b.map (fun v => v.getD 0) :: cutSections n (l.drop len) else []
    | _, _ => []

/-- The sections of a PID from its packets: a start packet's pointer ends the section before, a gap drops it. -/
def sectionsOf (ps : List (TsPkt × Bool)) : List (List Byte) :=
  let r := ps.foldl (fun (acc : List (List Byte) × Option Gappy) x =>
    let cur := if x.2 then none else acc.2
    if x.1.start then
      let n := (gField x.1.data 0 1).getD 0
      let done := match cur with | some c => cutSections 64 (c ++ (x.1.data.drop 1).take n) | none => []
      (acc.1 ++ done, some (x.1.data.drop (1 + n)))
    else (acc.1, cur.map (· ++ x.1.data))) ([], none)
  r.1 ++ (match r.2 with | some c => cutSections 64 c | none => [])

/-- A number in a section. -/
def secField (b : List Byte) (o n : Nat) : Nat := ofBeBytes ((b.drop o).take n)

/-- Programmes of a PAT section: number and PMT PID. -/
def patEntries (b : List Byte) : List (Nat × Nat) :=
  (List.range ((b.length - 12) / 4)).map (fun i => (secField b (8 + 4 * i) 2, secField b (10 + 4 * i) 2 % 2 ^ 13))

/-- A stream of a PMT: stream_type, PID, and whether an AV01 registration descriptor goes with it. -/
structure TsStream where
  type : Nat
  pid : Nat
  av1 : Bool
  deriving DecidableEq, Repr

/-- Whether descriptors hold a registration of AV01; `n` bounds them. -/
def hasAv01 : Nat → List Byte → Bool
  | 0, _ => false
  | n + 1, b =>
    if b.length < 2 then false
    else (decide (secField b 0 1 = 5) && decide ((b.drop 2).take 4 = [0x41, 0x56, 0x30, 0x31])) || hasAv01 n (b.drop (2 + secField b 1 1))

/-- The streams of a PMT section, in order; `n` bounds them. -/
def pmtStreams : Nat → List Byte → List TsStream
  | 0, _ => []
  | n + 1, b =>
    if b.length < 5 then []
    else
      let len := secField b 3 2 % 4096
      ⟨secField b 0 1, secField b 1 2 % 2 ^ 13, hasAv01 64 ((b.drop 5).take len)⟩ :: pmtStreams n (b.drop (5 + len))

/-- The streams of a whole PMT section. -/
def pmtOf (b : List Byte) : List TsStream :=
  let info := secField b 10 2 % 4096
  pmtStreams 256 ((b.take (b.length - 4)).drop (12 + info))

/-- The first valid PMT of a programme (0: the first of the PAT), and the sections whose CRC failed (R415, R422). -/
def pmtFind (program : Nat) (ps : List (TsPkt × Bool)) : Option (List TsStream) × Nat :=
  let pats := (sectionsOf (ps.filter (fun x => x.1.pid = 0))).filter (fun b => decide (secField b 0 1 = 0))
  let good := pats.filter (fun b => psiCrc b = 0)
  let progs := (good.flatMap patEntries).filter (fun e => decide (e.1 ≠ 0) && (decide (program = 0) || decide (e.1 = program)))
  match progs.head? with
  | none => (none, pats.length - good.length)
  | some e =>
    let ms := (sectionsOf (ps.filter (fun x => x.1.pid = e.2))).filter (fun b => decide (secField b 0 1 = 2))
    let ok := ms.filter (fun b => psiCrc b = 0)
    ((ok.find? (fun b => decide (secField b 3 2 = e.1))).map pmtOf, pats.length - good.length + (ms.length - ok.length))

/-! ## PES packets -/

/-- The PES packets of a PID: bytes, a missing one where the decoder is told of a gap (R422). -/
def pesOf (ps : List (TsPkt × Bool)) : List Gappy :=
  let r := ps.foldl (fun (acc : List Gappy × Option Gappy) x =>
    let cur := if x.2 then acc.2.map (· ++ [none]) else acc.2
    if x.1.start then (acc.1 ++ cur.toList, some x.1.data) else (acc.1, cur.map (· ++ x.1.data))) ([], none)
  r.1 ++ r.2.toList

/-- PTS of a PES packet in 90 kHz units. -/
def pesPts (l : Gappy) : Option Nat :=
  match gField l 7 1, gField l 9 1, gField l 10 2, gField l 12 2 with
  | some f, some a, some b, some c => if bitOf f 7 then some (a / 2 % 8 * 2 ^ 30 + b / 2 * 2 ^ 15 + c / 2) else none
  | _, _, _, _ => none

/-- What a PES packet carries. -/
def pesData (l : Gappy) : Gappy := l.drop (9 + (gField l 8 1).getD 0)

/-! ## Elementary streams (R423) -/

/-- A start-code stream's units, each from after a start code to the next; `n` bounds the bytes. -/
def startUnits : Nat → Option Gappy → Gappy → List Gappy
  | 0, cur, _ => (cur.map List.reverse).toList
  | n + 1, cur, l =>
    match l with
    | [] => (cur.map List.reverse).toList
    | b :: t =>
      if gField l 0 3 = some 1 then (cur.map List.reverse).toList ++ startUnits n (some []) (l.drop 3)
      else startUnits n (cur.map (b :: ·)) t

/-- A leb128 number: its value and its bytes; `n` bounds them. -/
def leb128 : Nat → Gappy → Option (Nat × Nat)
  | 0, _ => none
  | n + 1, l =>
    match gField l 0 1 with
    | none => none
    | some b => if b < 128 then some (b, 1) else (leb128 n (l.drop 1)).map (fun r => (b % 128 + 128 * r.1, r.2 + 1))

/-- OBUs of a low-overhead stream: those whose size can be read; the rest is one unit. -/
def obuUnits : Nat → Gappy → List Gappy
  | 0, _ => []
  | n + 1, l =>
    if l.isEmpty then []
    else match gField l 0 1 with
      | none => [l]
      | some h =>
        let o := if bitOf h 2 then 2 else 1
        match (if bitOf h 1 then leb128 8 (l.drop o) else none) with
        | none => [l]
        | some x => let z := o + x.2 + x.1; l.take z :: obuUnits n (l.drop z)

/-- VP9 frames, each preceded by its length in 4 bytes, little-endian. -/
def vp9Units : Nat → Gappy → List Gappy
  | 0, _ => []
  | n + 1, l =>
    let x := l.take 4
    if l.isEmpty then []
    else if x.length = 4 ∧ x.all Option.isSome then
      let z := ofLeBytes (x.map (fun b => b.getD 0))
      (l.drop 4).take z :: vp9Units n (l.drop (4 + z))
    else [l]

/-- The units of an elementary stream of a codec (R423). -/
def esUnits (codec : Nat) (l : Gappy) : List Gappy :=
  if codec = 3 then obuUnits l.length l else if codec = 4 then vp9Units l.length l else startUnits (l.length + 1) none l

/-! ## What the decoders accept (R422, R424, R429) -/

/-- The codec of a stream_type that a decoder of R424 accepts. -/
def codecOf (t : TsStream) : Option Nat :=
  if t.type = 0x02 then some 0 else if t.type = 0x1B then some 1 else if t.type = 0x24 then some 2
  else if t.type = 0x06 ∧ t.av1 then some 3 else none

/-- Whether a stream is video: stream types of ISO/IEC 13818-1 (PRESUMED, log 265). -/
def isVideo (t : TsStream) : Bool :=
  (codecOf t).isSome || [0x01, 0x10, 0x1E, 0x1F, 0x20, 0x21, 0x28, 0x29, 0x2A, 0x33, 0x42, 0xD1, 0xEA].contains t.type

/-- Whether a stream_type may carry supported audio: MPEG-1, AAC in ADTS, AC-3 (PRESUMED, log 265). -/
def isAudio (t : TsStream) : Bool := [0x03, 0x04, 0x0F, 0x81].contains t.type

/-- Whether a decoder accepts a picture's profile, level, tier, depth and chroma (R424). -/
def picAccepted (codec : Nat) (p : DecPic) : Bool :=
  let depths := decide (8 ≤ p.depth) && decide (p.depth ≤ 10)
  match codec with
  | 0 => [VProfile.main, .p422].contains p.profile && decide (p.level ≤ 4) && decide (p.depth = 8) && decide (p.chroma < 2)
  | 1 => [VProfile.constrainedBaseline, .main, .high, .high422].contains p.profile && decide (p.level ≤ 52) && depths && decide (p.chroma < 2)
  | 2 => [VProfile.main, .main10, .main42210].contains p.profile && decide (p.level ≤ 51) && !p.highTier && depths && decide (p.chroma < 2)
  | 3 => decide (p.profile = .main) && decide (p.level ≤ 51) && depths && (decide (p.chroma = 0) || decide (p.chroma = 2))
  | 4 => [VProfile.vp9p0, .vp9p2].contains p.profile && decide (p.level ≤ 51) && depths && decide (p.chroma = 0)
  | _ => false

/-- What makes a picture undecodable: the first tool rejected, or a profile, level, depth or chroma beyond the table (R424). -/
def picReject (codec : Nat) (p : DecPic) : Option VTool :=
  match p.tools.find? (VTool.of codec) with
  | some t => some t
  | none => if picAccepted codec p then none else some .beyond

/-- Whether the audio decoders take a stream (R429). -/
def soundOk (a : DecSound) : Bool :=
  [SKind.layer2, .aacLc, .ac3].contains a.kind && decide (0 < a.rate) && decide (0 < a.chans.length) && decide (a.chans.length ≤ 6)

/-! ## Frames -/

/-- The difference of two PTS, whose 33 bits wrap. -/
def ptsDiff (a b : Nat) : Int :=
  let d : Nat := (a + 2 ^ 33 - b % 2 ^ 33) % 2 ^ 33
  if d < 2 ^ 32 then (d : Int) else (d : Int) - 2 ^ 33

/-- A plane in 10-bit units: 8-bit samples shifted left by 2 (R430). -/
def tenBit (depth : Nat) (p : List (List Nat)) : List (List Nat) := p.map (fun r => r.map (fun v => v % 2 ^ depth * 2 ^ (10 - depth)))

/-- A picture as a display frame: interlaced as R431 has it. -/
def frameOf (codec : Nat) (p : DecPic) : DecFrame :=
  { w := p.w, h := p.h
    interlaced := (decide (codec = 0) && !p.progressive) || (decide (codec = 1) && p.fields)
    topFirst := p.topFirst, chroma := p.chroma, concealed := false
    y := tenBit p.depth p.y, cb := tenBit p.depth p.cb, cr := tenBit p.depth p.cr }

/-- Whether a picture decodes exactly: no syntax error, no missing reference, and no gap in a unit it depends on (R427). -/
def isExact (units : List Gappy) (p : DecPic) : Bool :=
  p.valid && p.deps.all (fun i => (units.getD i [none]).all Option.isSome)

/-- Frames in display order with those that do not decode exactly concealed: a copy of the last exact one, or mid-grey (R427). -/
def conceal (units : List Gappy) (codec : Nat) : Option DecFrame → List DecPic → List DecFrame
  | _, [] => []
  | last, p :: t =>
    if isExact units p then frameOf codec p :: conceal units codec (some (frameOf codec p)) t
    else { (match last with | some f => f | none => greyFrame p.w p.h) with concealed := true } :: conceal units codec last t

/-- Pictures in decoding order with their PTS: a packet's belongs to the first picture that begins in it. -/
def withPts (pts : List (Option Nat)) : Option Nat → List DecPic → List (DecPic × Option Nat)
  | _, [] => []
  | last, p :: r => (p, if last = some p.unit then none else pts.getD p.unit none) :: withPts pts (some p.unit) r

/-- Times of pictures in 90 kHz units from the first PTS: a picture's own, or that of the picture before plus one period
(R422). -/
def picTimes (first : Nat) : Int → List (DecPic × Option Nat) → List (Int × DecPic)
  | _, [] => []
  | t, p :: r =>
    let now := match p.2 with | some v => ptsDiff v first | none => t
    (now, p.1) :: picTimes first (now + (p.1.period : Nat)) r

/-- A picture put in its place by a time, behind those of equal time. -/
def putByTime {α : Type} (x : Int × α) : List (Int × α) → List (Int × α)
  | [] => [x]
  | y :: t => if x.1 < y.1 then x :: y :: t else y :: putByTime x t

/-- Pictures in the order of their times. -/
def byTime {α : Type} (l : List (Int × α)) : List (Int × α) := l.foldl (fun acc x => putByTime x acc) []

/-- The sample of `n` at `rate` whose time is nearest `t`, ties to the earlier; both times in 90 kHz units (R429). -/
def nearestSample (n rate : Nat) (t : Int) : Nat :=
  (max 0 (min ((2 * t * rate + 90000 - 1) / 180000) ((n : Int) - 1))).toNat

/-- A stream of units decoded, PTS given with each unit (R424 to R427): the frames up to what makes it undecodable, their times,
the matrix and range that the first picture signals, and what was rejected. What a rejected tool makes undecodable yields no
frame (DEDUCED, log 266). -/
def decodeUnits (codec : Nat) (units : List Gappy) (pts : List (Option Nat)) : DecClip :=
  let pics := Config.pictures codec units
  let ok := pics.takeWhile (fun p => (picReject codec p).isNone)
  let first := (pts.findSome? id).getD 0
  let shown := byTime (picTimes first 0 ((byTime ((withPts pts none ok).map (fun p => ((p.1.order : Int), p)))).map (·.2)))
  { frames := conceal units codec none (shown.map (·.2))
    times := shown.map (·.1), origin := first
    matrix := (ok.head?).bind (·.matrix), full := ((ok.head?).bind (·.full)).getD false
    rejected := (pics.find? (fun p => (picReject codec p).isSome)).bind (picReject codec)
    noStream := false, tsErr := [], audio := [], audAt := [] }

/-- The audio of a PID given with its frames (R429): the channels, and for each frame the nearest sample. -/
def addSound (d : DecClip) (t : TsStream) (ps : List (TsPkt × Bool)) : DecClip :=
  let pes := pesOf (ps.filter (fun x => x.1.pid = t.pid))
  let a := Config.soundOf t.type (pes.map pesData)
  if !soundOk a then d
  else
    let at0 := match (pes.map pesPts).findSome? id with | some v => ptsDiff v d.origin | none => 0
    let n := (a.chans.getD 0 []).length
    { d with audio := a.chans, audAt := d.times.map (fun x => nearestSample n a.rate (x - at0)) }

/-- A transport stream demultiplexed and decoded (R415, R422, R424). -/
def decodeTs (cont codec program vpid apid : Nat) (bytes : Gappy) : DecClip :=
  let pk := tsPackets (tsSize cont) (2 * bytes.length + 2) true bytes
  let hs := pk.1.filterMap tsParse
  let clear := hs.filter (fun p => !p.tei && !p.scr)
  let sc := ccScan clear []
  let pm := pmtFind program sc.1
  let errs := [pk.2, sc.2, (hs.filter (·.tei)).length, (hs.filter (fun p => !p.tei && p.scr)).length, pm.2]
  let streams := pm.1.getD []
  let video := if vpid = 0x1FFF then streams.find? isVideo else streams.find? (fun t => t.pid = vpid)
  let none' := { DecClip.none' with tsErr := errs }
  let pick : Option (Nat × Nat) := match video with
    | some t => (codecOf t).map (fun c => (t.pid, if codec = 0xFF then c else codec))
    | none => if vpid = 0x1FFF ∨ codec = 0xFF then none else some (vpid, codec)
  match pick with
  | none => { none' with noStream := video.isSome }
  | some (pid, c) =>
    let pes := pesOf (sc.1.filter (fun x => x.1.pid = pid))
    let d := { decodeUnits c (pes.map pesData) (pes.map pesPts) with tsErr := errs }
    let sound := if apid = 0 then none else if apid = 0x1FFF then streams.find? isAudio
      else streams.find? (fun t => decide (t.pid = apid) && isAudio t)
    match sound with
    | some t => addSound d t sc.1
    | none => d

/-- What a clip decodes to, by its container, codec, programme and PIDs (R415, R422, R423). -/
def decodeClip (sel : List Nat) (bytes : Gappy) : DecClip :=
  if sel.getD 0 0 = 3 then
    let u := esUnits (sel.getD 1 0) bytes
    decodeUnits (sel.getD 1 0) u (u.map (fun _ => none))
  else decodeTs (sel.getD 0 0) (sel.getD 1 0) (sel.getD 2 0) (sel.getD 3 0) (sel.getD 4 0) bytes

end Sys2Proof.Machine
end

