-- ==== Sys2Proof/Machine/Ingest.lean ====
section
/-! DEFINITION. Video ingest (R414 to R441): jobs and their checks, the shuffle, steps, samples and the NVMe root port. -/

namespace Sys2Proof.Machine

def evIngStreamErr : Nat := 0x2250
def evIngNvmeErr : Nat := 0x6251
def evIngNvmeLost : Nat := 0xA252
def evIngJobInvalid : Nat := 0xA253
def evIngEpochLimit : Nat := 0x2254

/-- ING_JOB_CTLq.STATE. -/
def ingIdle : Nat := 0
def ingRunning : Nat := 1
def ingStopping : Nat := 2
def ingHeld : Nat := 3

/-- The job of a parcel. -/
def State.job (s : State) (q : Nat) : IngJob := Sparse.get (fun _ => IngJob.idle) s.ing q

/-- The state with it replaced. -/
def State.setJob (s : State) (q : Nat) (j : IngJob) : State := { s with ing := Sparse.set (fun _ => IngJob.idle) s.ing q j }

/-- A descriptor field of `n` bytes at offset `o` (R414). -/
def IngJob.f (j : IngJob) (o n : Nat) : Nat := ofLeBytes ((j.desc.drop o).take n)

def IngJob.clips (j : IngJob) : Nat := j.f 8 8
def IngJob.first (j : IngJob) : Nat := j.f 16 8
def IngJob.gb (j : IngJob) : Nat := j.f 24 4
def IngJob.sampleFirst (j : IngJob) : Nat := j.f 28 4
def IngJob.samples (j : IngJob) : Nat := j.f 32 4
def IngJob.frames (j : IngJob) : Nat := j.f 36 1
def IngJob.fstride (j : IngJob) : Nat := j.f 37 1
def IngJob.patch (j : IngJob) : Nat := j.f 38 1
def IngJob.tpatch (j : IngJob) : Nat := j.f 39 1
def IngJob.outFmt (j : IngJob) : Nat := j.f 52 1
def IngJob.nbuf (j : IngJob) : Nat := j.f 104 1
def IngJob.chans (j : IngJob) : Nat := if j.f 48 1 % 4 = 2 then 1 else 3

/-- Bytes of one sample's tokens, and of one sample's audio, each rounded up to 64 (R434). -/
def IngJob.sbytes (j : IngJob) : Nat :=
  (j.frames * j.f 44 2 * j.f 46 2 * j.chans * (fmtBits j.outFmt / 8) + 63) / 64 * 64
def IngJob.abytes (j : IngJob) : Nat := (j.f 60 4 * j.f 116 1 * 4 + 63) / 64 * 64

/-- The regions of a step buffer as offset and size (R434). -/
def IngJob.regions (j : IngJob) : List (Nat × Nat) :=
  [(0, j.samples * j.sbytes), (j.f 108 4, j.samples * 32), (j.f 112 4, if j.f 60 4 = 0 then 0 else j.samples * j.abytes)]

/-- Whether an address lies in tier-1 or tier-2 of an FD of a parcel (R414). -/
def State.ingBuf (s : State) (q a : Nat) : Bool :=
  decide (addrModule a = s.ownModule) && (s.parcelFds q).contains (addrDie a)
    && (match regionOf (addrDie a) (addrOff a) with | .t1 => true | .t2 => true | _ => false)

/-- Whether an address lies in the scratch of an FD of the module (R414). -/
def State.ingScratch (s : State) (a : Nat) : Bool :=
  decide (addrModule a = s.ownModule)
    && (match regionOf (addrDie a) (addrOff a) with | .sc b => decide (b + 8 ≤ s.scratch (addrDie a)) | _ => false)

/-- The checks of a descriptor in byte order: the offset of each field and whether it offends (R414, R434). -/
def State.ingChecks (s : State) (q : Nat) (j : IngJob) : List (Nat × Bool) :=
  let out := decide (fmtBits j.outFmt = 8) || decide (fmtBits j.outFmt = 16)
  let rs := j.regions
  let overlap := rs.zipIdx.any (fun a => rs.zipIdx.any (fun b =>
    decide (a.2 < b.2) && decide (a.1.2 ≠ 0) && decide (b.1.2 ≠ 0)
      && decide (a.1.1 < b.1.1 + b.1.2) && decide (b.1.1 < a.1.1 + a.1.2)))
  let ovr := rs.any (fun a => decide (a.2 ≠ 0) && decide (j.f 96 8 < a.1 + a.2))
  [(0, decide (j.f 0 8 % 64 ≠ 0)),
   (8, decide (j.clips = 0) || decide (2 ^ 40 < j.clips)),
   (24, decide (j.gb = 0) || decide (2 ^ 24 < j.gb)),
   (28, decide (j.gb ≤ j.sampleFirst)),
   (32, decide (j.samples = 0) || decide (4096 < j.samples) || decide (j.gb < j.sampleFirst + j.samples)),
   (36, decide (j.frames = 0) || decide (64 < j.frames) || (decide (j.tpatch ≠ 0) && decide (j.frames % j.tpatch ≠ 0))),
   (37, decide (j.fstride = 0)),
   (38, !([8, 16, 32].contains j.patch)),
   (39, !([1, 2, 4].contains j.tpatch)),
   (40, decide (j.f 40 2 < 16) || decide (8192 < j.f 40 2)),
   (42, decide (j.f 42 2 < 16) || decide (8192 < j.f 42 2)),
   (44, decide (j.f 44 2 = 0) || decide (j.f 40 2 < j.f 44 2) || decide (j.f 44 2 % j.patch ≠ 0)),
   (46, decide (j.f 46 2 = 0) || decide (j.f 42 2 < j.f 46 2) || decide (j.f 46 2 % j.patch ≠ 0)),
   (48, decide (j.f 48 1 % 4 = 3) || decide (128 ≤ j.f 48 1)),
   (49, decide (3 ≤ j.f 49 1)),
   (50, decide (1023 < j.f 50 2)),
   (52, !([fUint8, fE4m3, fBf16, fFp16].contains j.outFmt)),
   (53, decide (4 ≤ j.f 53 1)),
   (54, decide (j.f 54 2 ≠ 0)),
   (88, decide (j.f 88 8 % 4096 ≠ 0) || !s.ingBuf q (j.f 88 8)),
   (96, decide (j.f 96 8 % 4096 ≠ 0)),
   (104, decide (j.nbuf < 2) || decide (16 < j.nbuf)),
   (105, decide (16 ≤ j.f 105 1)),
   (106, decide (2048 ≤ j.f 106 2) && decide (j.f 106 2 ≠ 0xFFFF)),
   (108, decide (j.f 108 4 % 64 ≠ 0) || (out && (overlap || ovr))),
   (112, decide (j.f 112 4 % 64 ≠ 0) || (decide (j.f 60 4 = 0) && decide (j.f 112 4 ≠ 0))),
   (116, decide (j.f 116 1 = 0) || decide (2 < j.f 116 1)),
   (117, decide (j.f 117 3 ≠ 0)),
   (120, decide (j.f 120 8 % 8 ≠ 0) || !s.ingScratch (j.f 120 8)),
   (144, decide (j.f 144 48 ≠ 0))]

/-- EV_FW_ACTIVATED and EV_FW_ROLLBACK (R551). -/
def evFwActivated : Nat := 0x0403
def evFwRollback : Nat := 0x4404

/-- Running SVNs as the running images have them (R578): of ingest, the lower of the two dies'. -/
def State.showRun (s : State) : State :=
  let svn := fun (c : Nat) (r : Option Nat) => r.map (fun a => (s.fw.imgs.getD (2 * c + a) FwImg.none').svn)
  let pkc := (svn 0 (s.fw.run.getD 0 none)).getD 0
  let ing := match svn 1 (s.fw.run.getD 1 none), svn 1 (s.fw.run.getD 2 none) with
    | some a, some b => min a b
    | some a, none => a
    | none, some b => b
    | none, none => 0
  (s.wr Reg.secSvnPkcRun pkc).wr Reg.secSvnIngRun ing

/-- VERSION of an image as event detail (R543). -/
def versionWords (x : FwImg) : List Nat := (List.range 4).map (fun i => ofLeBytes ((x.version.drop (8 * i)).take 8))

/-- Links of the storage root port: one, or four where it is bifurcated (R438, R583). -/
def State.nvmeLinks (s : State) : List Nat := List.range (if s.igd.bifurcated then 4 else 1)

/-- The root port's firmware finds the NVMe controllers, at most 16, and numbers them from 0 in bus order (R438). -/
def State.nvmeEnumerate (s : State) : State :=
  if s.fw.run.getD 2 none = none then s
  else { s with igd := { s.igd with nvme := min 16 (Config.nvmeCount s.nvmeLinks.length) } }

/-- The ingest dies change to an activated image once no ingest job runs; one that fails to start leaves the component on
its previous image (R543). -/
def State.ingSwap (s : State) : State :=
  match s.fw.pend with
  | none => s
  | some ok =>
    if (List.range 4).any (fun q =>
        decide (s.rd (Reg.ingJobCtlState 0 q) = ingRunning ∨ s.rd (Reg.ingJobCtlState 0 q) = ingStopping)) then s
    else
      let a := s.fw.active.getD 1 0
      let x := s.fw.imgs.getD (2 + a) FwImg.none'
      if ok then
        ({ s with fw := { s.fw with run := [s.fw.run.getD 0 none, some a, some a], pend := none } }.nvmeEnumerate.showRun).raise evFwActivated
            4 (2 :: versionWords x)
      else ({ s with fw := { s.fw with active := [s.fw.active.getD 0 0, 1 - a], pend := none } }).raise evFwRollback 4 [2]

/-- START (R420): the descriptor is checked; the job runs, or is HELD at its first offending field, or at 0xFF where an
ingest die runs without firmware (R563). A descriptor that another module holds is asked for first: the job stays IDLE until
its bytes are here and INGEST_STEP_BEGIN finds them (DESIGN CHOICE, log 269). -/
def State.ingStart (s : State) (q : Nat) : State :=
  let s := s.ingSwap
  let a := s.rd (Reg.ingJobAddrAddr 0 q)
  let need := [(s.keyOf a, 192)]
  let noFw := decide (s.fw.run.getD 1 none = none) || decide (s.fw.run.getD 2 none = none)
  if s.rd (Reg.ingJobCtlState 0 q) ≠ ingIdle then s.inc (Reg.ingJobStatDiscard 0 q)
  else if !noFw && decide (a % 64 = 0) && !s.remoteHere need then
    (s.askRemote 18 0xFFFF 0 0 q need).setJob q { IngJob.idle with starting := true }
  else
    let j : IngJob := { IngJob.idle with desc := s.bytesAt (s.keyOf a) 192 }
    let s := (s.dropRemote need).setJob q IngJob.idle
    let bad := if noFw then some 0xFF else if a % 64 ≠ 0 then some 0 else ((s.ingChecks q j).find? (fun x => x.2)).map (fun x => x.1)
    match bad with
    | some o => ((s.wr (Reg.ingJobCtlState 0 q) ingHeld).wr (Reg.ingJobCtlErrOff 0 q) o).raise evIngJobInvalid q [s.meridian.toNat, q, o]
    | none => ((s.wr (Reg.ingJobCtlState 0 q) ingRunning).wr (Reg.ingJobCtlErrOff 0 q) 0).setJob q { j with step := j.first }

/-- INGEST_START: START written for parcel `q` (R420). -/
def execIngestStart (q : BitVec 2) (s : State) : Out := .next (if s.down then s else s.ingStart q.toNat)

/-! ## The shuffle (R416, R417) -/

/-- One pass of the Feistel network. -/
def shufflePass (k0 k1 e half x : Nat) : Nat :=
  let r := (List.range 6).foldl (fun (lr : Nat × Nat) r =>
    (lr.2, lr.1 ^^^ ((rngBlock k0 (k1 + e * 256 + r) lr.2).1 % 2 ^ half))) (x / 2 ^ half, x % 2 ^ half)
  r.1 * 2 ^ half + r.2

/-- Cycle walking, at most as often as the domain has elements. -/
def shuffleWalk (k0 k1 e half n : Nat) : Nat → Nat → Nat
  | 0, x => x
  | t + 1, x => let y := shufflePass k0 k1 e half x; if y < n then y else shuffleWalk k0 k1 e half n t y

/-- The clip of position `q` of epoch `e` among `n` (R416). -/
def clipPerm (k0 k1 n e q : Nat) : Nat :=
  let b := max 2 (if n ≤ 1 then 0 else ilog2 (n - 1) + 1)
  let b := b + b % 2
  shuffleWalk k0 k1 e (b / 2) n (2 ^ b) q

/-- D_k of R417: w0[63:32] drawn at index `p`. -/
def IngJob.draw (j : IngJob) (p k : Nat) : Nat :=
  (rngBlock (j.f 128 8) ((j.f 136 8 ^^^ 2 ^ 63) + k) p).1 / 2 ^ 32

/-- Global position of local sample `b` of a step. -/
def IngJob.pos (j : IngJob) (step b : Nat) : Nat := step * j.gb + j.sampleFirst + b

/-- The clip of a position. -/
def IngJob.clip (j : IngJob) (p : Nat) : Nat := clipPerm (j.f 128 8) (j.f 136 8) j.clips (p / j.clips) (p % j.clips)

/-! ## Clips (R415) -/

/-- A clip table entry's 64 bytes. -/
def State.clipEntry (s : State) (j : IngJob) (c : Nat) : List Byte := s.bytesAt (s.keyOf (j.f 0 8 + 64 * c)) 64

/-- A field of an entry. -/
def ent (e : List Byte) (o n : Nat) : Nat := ofLeBytes ((e.drop o).take n)

/-- Whether an entry breaks R415. -/
def clipBad (e : List Byte) : Bool :=
  let cont := ent e 1 1
  let codec := ent e 2 1
  decide (2 ≤ ent e 0 1) || decide (4 ≤ cont) || (decide (5 ≤ codec) && decide (codec ≠ 0xFF)) || decide (16 ≤ ent e 3 1)
    || decide (ent e 30 2 ≠ 0) || decide (ent e 36 28 ≠ 0)
    || (decide (codec = 0xFF) && decide (cont = 3)) || (decide (codec = 4) && decide (cont < 3))

/-- What selects a clip's streams. -/
def clipSel (e : List Byte) : List Nat := [ent e 1 1, ent e 2 1, ent e 24 2, ent e 26 2, ent e 28 2]

/-! ## Decode contexts (R437) -/

/-- Decode contexts in use on an ingest die (R440). -/
def State.igInUse (s : State) (d : Nat) : Nat :=
  ((List.range 4).flatMap (fun q => (s.job q).ctx.filter (fun b => (b + 1) % 2 = d))).length

/-- Samples of a job's step that wait for a decode context on a die: IG1 decodes those of even number, IG0 the others
(R421). -/
def State.igWaits (s : State) (q d : Nat) : List Nat :=
  (s.job q).left.filter (fun b => decide ((b + 1) % 2 = d) && !(s.job q).ctx.contains b)

/-- Weight of a parcel on an ingest die: ING_PARCEL_SHARE, or its FDs under AUTO (R437); a weight of 0 counts as 1 (DESIGN
CHOICE, log 219). -/
def State.igWeight (s : State) (d q : Nat) : Nat :=
  max 1 (if s.flag (Reg.ingParcelShareAuto d) then (s.parcelFds q).length else s.rd (Reg.ingParcelShareWeight d q))

/-- Share of the 128 contexts of a die that a job may hold while another waits (R437), among the jobs whose step is in
progress; rounded down, at least one (DESIGN CHOICE, log 229). -/
def State.igShare (s : State) (d q : Nat) : Nat :=
  let w := ((List.range 4).filter (fun x => (s.job x).busy)).foldl (fun n x => n + s.igWeight d x) 0
  max 1 (128 * s.igWeight d q / max 1 w)

/-- Contexts that job `q` may hold on die `d` now. -/
def State.igLimit (s : State) (d q : Nat) : Nat :=
  if (List.range 4).any (fun x => decide (x ≠ q) && !(s.igWaits x d).isEmpty) then s.igShare d q else 128

/-- Contexts a job holds above its limit are given up, the latest first: those samples wait again (R437). -/
def State.igTrim (s : State) (d q : Nat) : State :=
  let j := s.job q
  let here := j.ctx.filter (fun b => (b + 1) % 2 = d)
  if here.length ≤ s.igLimit d q then s
  else s.setJob q { j with ctx := j.ctx.filter (fun b => !(here.drop (s.igLimit d q)).contains b) }

/-- Whether every byte of a sample's clip is here. -/
def State.sampleHere (s : State) (q b : Nat) : Bool :=
  let j := s.job q
  let e := s.clipEntry j (j.clip (j.pos j.step b))
  if clipBad e then true
  else if ent e 0 1 = 1 then s.remoteHere [(s.keyOf (ent e 8 8), ent e 16 8)]
  else j.reads.all (fun r => decide (r.b ≠ b) || decide (r.len ≤ r.have'.length))

/-- Whether a sample's clip is a transport stream, whose programme a die holds open while it decodes it (R422). -/
def State.opensProgramme (s : State) (q b : Nat) : Bool :=
  let j := s.job q
  let e := s.clipEntry j (j.clip (j.pos j.step b))
  !clipBad e && decide (ent e 1 1 < 3)

/-- Programmes an ingest die holds open, across all jobs (R422). -/
def State.igOpen (s : State) (d : Nat) : Nat :=
  ((List.range 4).flatMap (fun q => (s.job q).ctx.filter (fun b => decide ((b + 1) % 2 = d) && s.opensProgramme q b))).length

/-- The first of a job's waiting samples that a die may take: a transport stream only below 64 open programmes (R422). -/
def State.igHead (s : State) (q d : Nat) : Option Nat :=
  (s.igWaits q d).find? (fun b => decide (s.igOpen d < 64) || !s.opensProgramme q b)

/-- One context of a die given by deficit round robin to a job that waits (R437). A sample whose clip is all here is decoded
and its context free again at once (DESIGN CHOICE, log 229). -/
def State.igGrant (s : State) (d : Nat) : State :=
  if 128 ≤ s.igInUse d then s
  else
    let held := fun (q : Nat) => ((s.job q).ctx.filter (fun b => (b + 1) % 2 = d)).length
    let ready := fun (i : Nat) => (s.igHead (i - 4 * d) d).isSome && decide (held (i - 4 * d) < s.igLimit d (i - 4 * d))
    match drr (4 * d) 4 ready (fun i => s.igWeight d (i - 4 * d)) 9 (4 * d + Sparse.get (fun _ => 0) s.igd.turn d) s.igd.deficit with
    | none => s
    | some x =>
      let q := x.1 - 4 * d
      let s := { s with igd := { s.igd with turn := Sparse.set (fun _ => 0) s.igd.turn d q, deficit := x.2 } }
      let j := s.job q
      match s.igHead q d with
      | none => s
      | some b => if s.sampleHere q b then s.setJob q { j with left := j.left.erase b } else s.setJob q { j with ctx := j.ctx ++ [b] }

/-- The contexts of a die dealt again: samples whose clips are all here leave theirs, and those that wait take the free
ones. -/
def State.igDealDie (s : State) (d : Nat) : State :=
  let s := (List.range 4).foldl (fun s q =>
    (s.job q).ctx.foldl (fun s b =>
      if s.sampleHere q b then s.setJob q { s.job q with left := (s.job q).left.erase b, ctx := (s.job q).ctx.erase b } else s) s) s
  let s := (List.range 4 ++ List.range 4).foldl (fun s q => s.igTrim d q) s
  ((List.range 4).flatMap (fun q => s.igWaits q d)).foldl (fun s _ => s.igGrant d) s

/-- The contexts of both dies dealt again. -/
def State.igDeal (s : State) : State := (s.igDealDie 0).igDealDie 1

/-! ## Steps (R419, R421, R439) -/

/-- Bytes of a step's clips that other modules hold. -/
def State.ingNeeds (s : State) (j : IngJob) : List (Nat × Nat) :=
  (List.range j.samples).filterMap (fun b =>
    let e := s.clipEntry j (j.clip (j.pos j.step b))
    if clipBad e ∨ ent e 0 1 ≠ 1 ∨ !keyRemote (s.keyOf (ent e 8 8)) then none else some (s.keyOf (ent e 8 8), ent e 16 8))

/-- Clip table entries of a step that another module holds. -/
def State.ingTab (s : State) (j : IngJob) : List (Nat × Nat) :=
  ((List.range j.samples).map (fun b => (s.keyOf (j.f 0 8 + 64 * j.clip (j.pos j.step b)), 64))).filter (fun x => keyRemote x.1)

/-- What a job had asked other modules for is given up, or done with: a descriptor, a step's table entries and clips. -/
def State.ingDrop (s : State) (q : Nat) : State :=
  let j := s.job q
  if s.rd (Reg.ingJobCtlState 0 q) = ingIdle ∧ !j.starting then s
  else
    ({ s with remote := s.remote.filter (fun r => !(decide (r.stn = 0xFFFF) && decide (r.parcel = q) && !r.isWrite)) } : State).dropRemote
      (if j.starting then [(s.keyOf (s.rd (Reg.ingJobAddrAddr 0 q)), 192)] else s.ingTab j ++ (if j.busy then s.ingNeeds j else []))

/-- The job of a parcel ended at once (R420, R509). -/
def State.ingEnd (s : State) (q : Nat) : State :=
  (((s.ingDrop q).wr (Reg.ingJobCtlState 0 q) ingIdle).setJob q IngJob.idle).igDeal.ingSwap

/-- STOP (R420, R440): at the next step boundary; at once where none is in progress, and from HELD. -/
def State.ingStop (s : State) (q : Nat) : State :=
  let st := s.rd (Reg.ingJobCtlState 0 q)
  if st = ingHeld ∨ (st = ingRunning ∧ !(s.job q).busy) then s.ingEnd q
  else if st = ingRunning then s.wr (Reg.ingJobCtlState 0 q) ingStopping
  else if (s.job q).starting then s.ingEnd q
  else s

/-- INGEST_STOP (R420). -/
def execIngestStop (q : BitVec 2) (s : State) : Out := .next (if s.down then s else s.ingStop q.toNat)

/-- Whether the step a job is at has a position, its own or another module's, in epoch 2^55 (R416). -/
def IngJob.epochEnd (j : IngJob) : Bool := decide (2 ^ 55 ≤ (j.step * j.gb + (j.gb - 1)) / j.clips)

/-- INGEST_STEP_BEGIN: the next step of a job begins when its buffer has been released (R419); epoch 2^55 and a lost
controller hold the job (R416, R439). NVMe clips are asked for, and decode contexts dealt (R437). A START that waits for a
descriptor goes on once its bytes are here, and the entries of a clip table that another module holds are asked for first
(DESIGN CHOICE, log 269). -/
def execIngestStepBegin (q : BitVec 2) (s : State) : Out :=
  let q := q.toNat
  let j := s.job q
  let done := j.step - j.first
  let credit := s.natAt (s.keyOf (j.f 120 8)) 8
  .next (if s.down then s
  else if j.starting then s.ingStart q
  else if s.rd (Reg.ingJobCtlState 0 q) ≠ ingRunning ∨ j.busy ∨ credit + j.nbuf < done + 1 then s
  else if j.epochEnd then
    ((s.wr (Reg.ingJobCtlState 0 q) ingHeld).raise evIngEpochLimit q [s.meridian.toNat, q, j.step]).ingSwap
  else if !s.remoteHere (s.ingTab j) then s.askRemote 18 0xFFFF 0 0 q (s.ingTab j)
  else
    let es := (List.range j.samples).map (fun b => (b, s.clipEntry j (j.clip (j.pos j.step b))))
    let nv := es.filter (fun (x : Nat × List Byte) => !clipBad x.2 && decide (ent x.2 0 1 = 0))
    if nv.any (fun (x : Nat × List Byte) => s.flag ⟨(Reg.ingNvmeStatLost 1).addr, 16 + ent x.2 3 1, 1⟩)
        then (s.wr (Reg.ingJobCtlState 0 q) ingHeld).ingSwap
    else
      let s := nv.foldl (fun s x => s.send ⟨.nvmeRead, [q, x.1, ent x.2 3 1, ent x.2 4 4, ent x.2 8 8, ent x.2 16 8], []⟩) s
      let s := s.askRemote 18 0xFFFF 0 0 q (s.ingNeeds j)
      (s.setJob q { j with
        busy := true
        reads := nv.map (fun (x : Nat × List Byte) => (⟨x.1, ent x.2 3 1, ent x.2 16 8, [], 0⟩ : IngRead))
        left := List.range j.samples, ctx := [] }).igDeal)

/-- EV_ING_NVME_ERR, at most once per second (R439). -/
def State.nvmeErr (s : State) (q c : Nat) : State :=
  if s.igd.errTime ≠ 0 ∧ s.meridian.toNat < s.igd.errTime - 1 + 4000000000 then s
  else { s with igd := { s.igd with errTime := s.meridian.toNat + 1 } }.raise (evIngNvmeErr + 0x100) q [s.meridian.toNat, q, c]

/-- NVME_READ_COMPLETE: the next piece of a sample's clip is read, or fails; a failed Read is repeated twice and then leaves
a gap of its length (R439). IG1 forwards the bytes of samples of odd number to IG0 (R421), along column 0, the bytes
having no address for R23 to choose by (DESIGN CHOICE, log 231). -/
def execNvmeReadComplete (q : BitVec 2) (b : BitVec 12) (ok : Bool) (len : BitVec 32) (data : List Byte) (s : State) : Out :=
  let q := q.toNat
  let j := s.job q
  .next (match j.reads.find? (fun r => decide (r.b = b.toNat) && decide (r.have'.length < r.len)) with
  | none => s
  | some r =>
    let put := fun (s : State) (r' : IngRead) => s.setJob q { j with reads := j.reads.map (fun x => if x = r then r' else x) }
    if ok then (put (if r.b % 2 = 1 then s.passMesh 19 18 0 else s) { r with have' := r.have' ++ data.map some, tries := 0 }).igDeal
    else if r.tries < 2 then
      (put s { r with tries := r.tries + 1 }).send ⟨.nvmeRead, [q, r.b, r.ctrl, r.have'.length, len.toNat], []⟩
    else
      (((put s { r with have' := r.have' ++ List.replicate (min len.toNat (r.len - r.have'.length)) none, tries := 0 }).inc
          (Reg.ingNvmeStatReadErr 1)).nvmeErr q r.ctrl).igDeal)

/-- NVME_CONTROLLER_LOST: a controller fails or its link goes down: jobs that read from it are held at their next step
boundary, and what was still to be read from it is a gap (R439). -/
def execNvmeControllerLost (ctrl : BitVec 4) (s : State) : Out :=
  let c := ctrl.toNat
  .next (if s.flag ⟨(Reg.ingNvmeStatLost 1).addr, 16 + c, 1⟩ then s
  else
    let s := s.wr ⟨(Reg.ingNvmeStatLost 1).addr, 16 + c, 1⟩ 1
    let qs := (List.range 4).filter (fun q => (s.job q).reads.any (fun r => r.ctrl = c))
    let s := qs.foldl (fun s q =>
      let j := s.job q
      s.setJob q { j with
        hold := true
        reads := j.reads.map (fun r => if r.ctrl = c
            then { r with have' := r.have' ++ List.replicate (r.len - r.have'.length) none } else r) }) s
    let s := s.igDeal
    if qs.isEmpty then s.raise (evIngNvmeLost + 0x100) 4 [s.meridian.toNat, c]
    else qs.foldl (fun s q => s.raise (evIngNvmeLost + 0x100) q [s.meridian.toNat, q, c]) s)

/-! ## Samples (R426 to R435) -/

/-- What one sample comes to: header bytes, token bytes, audio bytes, and what it adds to the counters: frames decoded,
BAD, EMPTY, BAD_CLIP; ING_TS_ERR; the number of the tool its decoder rejected, or 0 where it only concealed frames. -/
structure IngOut where
  header : List Byte
  tokens : List Byte
  audio : List Byte
  frames : Nat
  bad : Bool
  empty : Bool
  badClip : Bool
  tsErr : List Nat
  err : Option Nat
  deriving DecidableEq, Repr

/-- One sample produced from what its clip decodes to. -/
def IngJob.sample (j : IngJob) (p clip frameCount : Nat) (badClip : Bool) (d : DecClip) : IngOut :=
  let empty := badClip || d.noStream || d.frames.isEmpty
  let span := (j.frames - 1) * j.fstride
  let f0 := j.draw p 0 * max 1 (frameCount - span) / 2 ^ 32
  let cw := j.f 40 2
  let ch := j.f 42 2
  let n := d.frames.length
  let grey := greyFrame cw ch
  let fr := fun (i : Nat) => if empty then grey else d.frames.getD (min i (n - 1)) grey
  let w := (fr f0).w
  let h := (fr f0).h
  let random := decide (j.f 53 1 % 2 = 1)
  let org := fun (k size crop : Nat) => if size < crop then 0 else if random then j.draw p k * (size - crop + 1) / 2 ^ 32
      else (size - crop) / 2
  let flip := decide (j.f 53 1 / 2 % 2 = 1) && decide (j.draw p 3 < j.f 56 4)
  let col := j.f 48 1
  let x0 := org 1 w cw
  let y0 := org 2 h ch
  let pj : PixJob :=
    { deint := j.f 49 1, thresh := j.f 50 2, space := col % 4, inMat := col / 4 % 4, outMat := col / 16 % 4,
      fullOut := decide (col / 64 % 2 = 1),
      cropW := cw, cropH := ch, outW := j.f 44 2, outH := j.f 46 2, x0 := x0, y0 := y0, flip := flip }
  let signalled := d.matrix.getD (1 + Config.unsignalledMatrix clip % 3)
  let mat := if pj.inMat ≠ 0 then pj.inMat else signalled
  let pj := { pj with outMat := if pj.outMat ≠ 0 then pj.outMat else d.matrix.getD mat }
  let idx := (List.range j.frames).map (fun i => f0 + i * j.fstride)
  let planes := idx.map (fun i => pj.run mat d.full (if i = 0 ∨ empty then none else some (fr (i - 1))) (fr i))
  let c := j.chans
  let pt := j.patch
  let tt := j.tpatch
  let vals := (List.range (j.frames / tt)).flatMap (fun tf => (List.range (pj.outH / pt)).flatMap (fun py =>
    (List.range (pj.outW / pt)).flatMap (fun px => (List.range tt).flatMap (fun t => (List.range pt).flatMap (fun y =>
      (List.range pt).flatMap (fun x => (List.range c).map (fun k =>
        outValue j.outFmt (j.f (64 + 4 * k) 4) (j.f (76 + 4 * k) 4)
          (Plane.at ((planes.getD (tf * tt + t) []).getD k []) (px * pt + x) (py * pt + y)) f32Div)))))))
  let short := !empty && decide (n < f0 + span + 1)
  let conc := if empty then 0 else (idx.filter (fun i => (fr i).concealed)).length
  let deint := idx.any (fun i => pj.deints (fr i))
  let flags := (if 0 < conc then 1 else 0) + (if short then 2 else 0) + (if empty then 4 else 0)
    + (if flip then 8 else 0) + (if deint then 16 else 0)
  let audio := if j.f 60 4 = 0 then [] else
    if empty ∨ d.audio.isEmpty then List.replicate (j.f 60 4 * j.f 116 1) 0
    else audioMix d.audio (j.f 116 1) (d.audAt.getD (min f0 (d.audAt.length - 1)) 0) (j.f 60 4)
  { header := leBytes 8 p ++ leBytes 8 clip ++ leBytes 4 f0 ++ leBytes 2 x0 ++ leBytes 2 y0 ++ [BitVec.ofNat 8 flags, 0, 0, 0]
      ++ leBytes 4 conc
    tokens := vals.flatMap (leBytes (fmtBits j.outFmt / 8))
    audio := audio.flatMap (leBytes 4)
    frames := if empty then 0 else min n (f0 + span + 1)
    bad := decide (0 < conc)
    empty := empty
    badClip := badClip || d.noStream
    tsErr := d.tsErr
    err := match d.rejected with
      | some t => some t.num
      | none => if d.frames.any (fun f => f.concealed) then some 0 else none }

/-- Sample `b` of the step in progress. -/
def State.ingSample (s : State) (j : IngJob) (b : Nat) : Nat × IngOut :=
  let p := j.pos j.step b
  let c := j.clip p
  let e := s.clipEntry j c
  let bytes := if clipBad e then [] else if ent e 0 1 = 1 then (s.bytesAt (s.keyOf (ent e 8 8)) (ent e 16 8)).map some
    else match j.reads.find? (fun r => r.b = b) with | some r => r.have' | none => []
  (c, j.sample p c (ent e 32 4) (clipBad e) (if clipBad e then DecClip.none' else decodeClip (clipSel e) bytes))

/-- ING_TS_ERR of an ingest die raised (R422). -/
def State.countTs (s : State) (d : Nat) (es : List Nat) : State :=
  ((((s.inc (Reg.ingTsErrSync d) (es.getD 0 0)).inc (Reg.ingTsErrCc d) (es.getD 1 0)).inc (Reg.ingTsErrTei d) (es.getD 2 0)).inc
    (Reg.ingTsErrScrambled d) (es.getD 3 0)).inc (Reg.ingTsErrPsiCrc d) (es.getD 4 0)

/-- One sample of a step written and counted (R427, R428, R434). -/
def State.ingPut (s : State) (q b : Nat) : State :=
  let j := s.job q
  let x := s.ingSample j b
  let o := x.2
  let die := if b % 2 = 0 then 1 else 0
  let base := s.keyOf (j.f 88 8 + (j.step - j.first) % j.nbuf * j.f 96 8)
  let ws := spread (base + b * j.sbytes) o.tokens ++ spread (base + j.f 108 4 + 32 * b) o.header
    ++ (if j.f 60 4 = 0 then [] else spread (base + j.f 112 4 + b * j.abytes) o.audio)
  let s := s.storeAll (.engine (18 + die)) q ws
  let s := (((s.inc (Reg.ingJobStatFrames 0 q) o.frames).inc (Reg.ingJobBadBad 0 q) (if o.bad then 1 else 0)).inc
    (Reg.ingJobBadEmpty 0 q) (if o.empty then 1 else 0)).inc (Reg.ingJobStatBadClip 0 q) (if o.badClip then 1 else 0)
  let s := s.countTs die o.tsErr
  match o.err with
  | none => s
  | some t =>
    if j.errClips.contains x.1 then s
    else (s.setJob q { s.job q with errClips := keyInsert j.errClips x.1 }).raise (evIngStreamErr + 0x100 * die) q
        [s.meridian.toNat, q, x.1, t]

/-- Whether a consumer already waits for the job's signal (R419). -/
def State.ingAwaited (s : State) (j : IngJob) : Bool :=
  match s.locate (j.f 106 2) with
  | some k => match (s.stn k).waiting with | some (.sig c _) => decide (c = j.f 105 1) | _ => false
  | none => false

/-- INGEST_STEP_COMPLETE: every byte of the step's clips is here and every sample has had its decode context (R437); its samples
are decoded, tokenised and visible, and its signal is sent (R419). Clips not here yet are asked for again. -/
def execIngestStepComplete (q : BitVec 2) (s : State) : Out :=
  let q := q.toNat
  let s := if s.down then s else s.igDeal
  let j := s.job q
  .next (if s.down ∨ !j.busy ∨ j.reads.any (fun r => decide (r.have'.length < r.len)) then s
  else if !s.remoteHere (s.ingNeeds j) then s.askRemote 18 0xFFFF 0 0 q (s.ingNeeds j)
  else if !j.left.isEmpty then s
  else
    let late := s.ingAwaited j
    let s := (List.range j.samples).foldl (fun s b => s.ingPut q b) s
    let s := (s.wr (Reg.ingJobStepStep 0 q) j.step).inc (Reg.ingJobStatBehind 0 q) (if late then 1 else 0)
    let s := if j.f 106 2 = 0xFFFF then s else { s with sigs := s.sigs ++ [(0xFFFF, j.f 106 2, j.f 105 1, 1)] }
    if s.rd (Reg.ingJobCtlState 0 q) = ingStopping then s.ingEnd q
    else
      let s := s.ingDrop q
      let s := s.setJob q { s.job q with step := j.step + 1, busy := false, hold := false, reads := [], left := [], ctx := [] }
      let s := s.igDeal
      if j.hold then (s.wr (Reg.ingJobCtlState 0 q) ingHeld).ingSwap else s)

/-! ## Retirement (R451) -/

/-- FD_RETIRE: the stations of the traverse have reached a leg barrier, and an FD without spares, or without its tier-1
reserve, is retired (R451, R302); under AUTO the decode contexts are dealt again (R437). -/
def execFdRetire (fd : BitVec 4) (s : State) : Out :=
  let n := fd.toNat
  let p := s.parcelOf n
  .next (match s.retireReq.find? (fun r => r.1 = n) with
  | none => s
  | some r =>
    if !(s.parcelStns p).all (fun k => !(s.stn k).active || (s.stn k).held || (s.stn k).ended || (s.stn k).faulted) then s
    else
      let cause := if r.2 = 255 then 2 else 1
      let s := (s.returns.filter (fun x => x.fd = n)).foldl State.returnFails { s with retireReq := s.retireReq.filter (fun x => x.1 ≠ n) }
      ((if cause = 2 then s.loseT1 n else s).retireFd n cause r.2).igDeal)

end Sys2Proof.Machine
end

