-- ==== Sys2Proof/Machine/Clear.lean ====
section
/-! DEFINITION. What resets and clearings share (R494, R509, R514, R567): registers returned to their Reset column, the
memories and caches of FDs zeroed, a parcel's activity ended, its energy meter latched. -/

namespace Sys2Proof.Machine

/-- Registers returned to their Reset column (R10), but for the bits that `keep` names for an address. -/
def State.resetRegs (s : State) (keep : Nat → BitVec 64) : State :=
  let f := fun (e : Nat × BitVec 64) => (e.1, (e.2 &&& keep e.1) ||| (regDefault e.1 &&& ~~~(keep e.1)))
  { s with regs := (s.regs.map f).filter (fun (e : Nat × BitVec 64) => decide (e.2 ≠ regDefault e.1)) }

/-- All 64 bits. -/
def allBits : BitVec 64 := BitVec.allOnes 64

/-- Bits of the register at FD block offset `o` that a reset of the FD does not return to their Reset column (R514): the
"Per module" fields, what the repair record holds (R515), and what the FD's sensors read now. -/
def fdKeep (o : Nat) : BitVec 64 :=
  if o = 0 then 0x3FFFFFF
  else if 0x100 ≤ o ∧ o < 0x180 then allBits
  else if o = 0x1000 then 0xFFFF
  else if o = 0x1110 ∨ o = 0x1118 ∨ o = 0x1930 ∨ o = 0x1938 then allBits
  else if o = 0x1120 then 0x3FF
  else if o = 0x1190 then 0x1FFF
  else 0

/-- The FD whose block holds a BAR0 offset. -/
def fdOfAddr (a : Nat) : Option Nat := if 0x1000000 ≤ a ∧ a < 0x2000000 then some ((a - 0x1000000) / 0x100000) else none

/-- What a reset of the FDs `fds` keeps of BAR0: everything elsewhere, and `fdKeep` of their blocks. -/
def keepFds (fds : List Nat) (a : Nat) : BitVec 64 :=
  match fdOfAddr a with
  | some fd => if fds.contains fd then fdKeep ((a - 0x1000000) % 0x100000) else allBits
  | none => allBits

/-- Memories of an FD (R288): which of a key's regions is meant. -/
inductive Clears
  | t1
  | t2
  | shared
  | stores
  deriving DecidableEq, Repr

/-- Whether a key lies in one of the memories `cs` of one of the FDs `fds`. -/
def clearsKey (fds : List Nat) (cs : List Clears) (k : Nat) : Bool :=
  fds.contains (k / 2 ^ 41) && (match regionOf (k / 2 ^ 41) (k % 2 ^ 41) with
    | .t1 => cs.contains .t1
    | .t2 => cs.contains .t2
    | .sc _ => cs.contains .shared
    | .ls _ _ => cs.contains .stores
    | _ => false)

/-- Whether a channel entry of `lostChan` names a channel that no longer answers (R302, R303). -/
def State.chanGone (s : State) (c : Nat × Nat × Nat) : Bool :=
  if c.2.1 = 0 then
    decide (s.rd (Reg.t1PcRetiredMask c.1) / 2 ^ c.2.2 % 2 = 1)
      && !(s.flag (Reg.t1RedirectUsed c.1) && decide (s.rd (Reg.t1RedirectPc c.1) = c.2.2))
  else if c.2.1 = 2 then false
  else decide (s.rd (Reg.t2StatusRetired c.1) / 2 ^ c.2.2 % 2 = 1)

/-- Memories written to zero with valid check bits, which removes their poison (R514); a channel that no longer answers
stays poisoned. -/
def State.zeroMem (s : State) (fds : List Nat) (cs : List Clears) : State :=
  let tier := fun (n : Nat) => cs.contains (if n = 0 then Clears.t1 else Clears.t2)
  { s with
    mem := s.mem.filter (fun (e : Nat × Byte) => !clearsKey fds cs e.1)
    poison := s.poison.filter (fun c => !clearsKey fds cs (c * 32))
    lostChan := s.lostChan.filter (fun c => !(fds.contains c.1 && tier c.2.1) || s.chanGone c)
    scrGen := s.scrGen.filter (fun (e : Nat × Nat) =>
      !(cs.contains .shared && fds.contains e.1) && !(cs.contains .t1 && decide (16 ≤ e.1) && fds.contains (e.1 - 16))
        && !(cs.contains .t2 && decide (32 ≤ e.1) && fds.contains (e.1 - 32)))
    scrUsed := if cs.contains .shared then s.scrUsed.filter (fun n => !fds.contains n) else s.scrUsed }

/-- Memory writes already issued that wait at FDs' directories, or at their dies, completed before those are dropped (R509). -/
def State.landWrites (s : State) (fds : List Nat) : State :=
  let held := (s.dir.filter (fun (e : Nat × List DirEnt) => fds.contains e.1)).flatMap (fun e => e.2.flatMap (fun x => x.write.toList ++ x.queue))
  let asked := s.readWait.filter (fun r => fds.contains r.die || fds.contains (r.key / 2 ^ 41))
  ((held ++ asked).filter (·.isWrite)).foldl (fun s r => s.putBytes r.key r.data r.poison) s

/-- The lines of FDs' shared caches dropped, and their directories (R309, R310, R514). -/
def State.dropLines (s : State) (fds : List Nat) : State :=
  let mine := fun (fd line : Nat) => fds.contains fd || fds.contains (line * 128 / 2 ^ 41)
  { s with
    dir := s.dir.filter (fun (e : Nat × List DirEnt) => !fds.contains e.1)
    copies := s.copies.filter (fun c => !mine c.fd c.line)
    grants := s.grants.filter (fun c => !mine c.fd c.line)
    snoops := s.snoops.filter (fun c => !mine c.2.1 c.1)
    snoopAns := s.snoopAns.filter (fun c => !mine c.2 c.1)
    notices := s.notices.filter (fun c => !mine c.2.1 c.1)
    evictAcks := s.evictAcks.filter (fun c => !mine c.2 c.1)
    readWait := s.readWait.filter (fun r => !mine r.die (r.key / 128))
    fab := { s.fab with dirWait := s.fab.dirWait.filter (fun r => !mine r.die (r.key / 128)) } }

/-- What FDs hold beside registers and memories dropped: station state, barrier records and inbound logs, adjustment
units, shadows and pulls, poison logs, returns and pending retirements (R514, R567). -/
def State.dropFds (s : State) (fds : List Nat) : State :=
  let mine := fun (n : Nat) => fds.contains n
  { s with
    stns := s.stns.filter (fun (e : Nat × Stn) => !mine (e.1 / 256))
    lsts := s.lsts.filter (fun (e : Nat × Lst) => !mine (e.1 / 128))
    au := s.au.filter (fun (e : Nat × AuRun) => !mine e.1)
    snapClosed := s.snapClosed.filter (fun n => !mine n)
    shdStep := s.shdStep.filter (fun (e : Nat × Nat) => !mine e.1)
    pulls := s.pulls.filter (fun (e : Nat × PullRun) => !mine e.1)
    poisonLog := s.poisonLog.filter (fun (e : Nat × List PoisonEnt) => !mine e.1)
    returns := s.returns.filter (fun r => !mine r.fd)
    retireReq := s.retireReq.filter (fun r => !mine r.1)
    xpQueue := s.xpQueue.filter (fun r => !mine r.1)
    scrubAt := s.scrubAt.filter (fun (e : Nat × Nat) => !mine (e.1 / 4))
    eccTime := s.eccTime.filter (fun (e : Nat × Nat) => !mine (e.1 / 4)) }

/-- FDs cleared as R567 says; `wipe` zeroes their tiers too (R568). -/
def State.clearFds (s : State) (fds : List Nat) (wipe : Bool) : State :=
  let s := s.zeroMem fds ([.shared, .stores] ++ (if wipe then [.t1, .t2] else []))
  ((s.dropLines fds).dropFds fds).resetRegs (keepFds fds)

/-- A parcel's energy meter latched and begun again (R494). -/
def State.latchParcel (s : State) (p : Nat) : State :=
  let s := (s.wr (Reg.pwrEnergyFinalUj p) (s.pwr.met.pars.getD p 0)).wr (Reg.pwrFinalTimeMeridian p) s.meridian.toNat
  s.updPwr (fun w => { w with met := { w.met with pars := w.met.pars.set p 0 } })

/-- A parcel's activity ended (R509): its traverse, adjustment units, ingest job and snapshot, its requests to other
modules and its collective contexts. -/
def State.stopParcel (s : State) (p : Nat) : State :=
  let s := (s.endTraverse p).ingEnd p
  let s := (s.parcelFds p).foldl (fun s fd => s.auStop fd) s
  let s := { s with
    remote := s.remote.filter (fun r => r.parcel ≠ p)
    fab := { s.fab with stalled := s.fab.stalled.filter (fun r => r.parcel ≠ p) }
    pulls := s.pulls.filter (fun (e : Nat × PullRun) => decide (s.parcelOf e.1 ≠ p))
    lockEnded := s.lockEnded.filter (fun e => decide (e.parcel ≠ p))
    snapClosed := s.snapClosed.filter (fun fd => decide (s.parcelOf fd ≠ p)) }
  s.wr (Reg.glbSnapCtlState p) 0

/-- A reset write discarded (R508). -/
def State.discardReset (s : State) : State := s.inc Reg.glbResetCauseDiscard

/-- Whether a reset in progress covers all of parcel `p` (R508): a cold or a warm one, or the parcel's own. -/
def State.underReset (s : State) (p : Nat) : Bool := decide (s.rstKind ≠ 0) || s.rstParcels.contains p

/-- Whether a parcel is IDLE (R286): no traverse loading or loaded. -/
def State.trvIdleAt (s : State) (p : Nat) : Bool := decide (s.rd (Reg.glbTrvStatusState p) = trvIdle)

/-- Whether every parcel is IDLE. -/
def State.allIdle (s : State) : Bool := (List.range 4).all s.trvIdleAt

/-- EV_PARCEL_BUSY raised for the parcel concerned, or 4 for none (R39). -/
def State.parcelBusy (s : State) (p : Nat) : State := s.raise evParcelBusy p []

/-- A queue set's registers, rings and held events returned to reset (R511, R514). -/
def State.resetSet (s : State) (f : Nat) : State :=
  let mine := fun (a : Nat) => decide (0x501000 + f * 0x1000 ≤ a) && decide (a < 0x502000 + f * 0x1000)
  { (s.resetRegs (fun a => if mine a then 0 else allBits)) with
    ringSig := s.ringSig.filter (fun (e : Nat × RingSig) => decide (e.1 / 4 ≠ f))
    ringSeq := s.ringSeq.filter (fun (e : Nat × Nat) => decide (e.1 / 4 ≠ f)) }

/-- Held events of a set discarded. -/
def State.dropHeld (s : State) (f : Nat) : State :=
  { s with evHeld := s.evHeld.filter (fun e => decide (e.1 ≠ f)), evLost := s.evLost.filter (fun (e : Nat × Nat) => decide (e.1 ≠ f)),
           evAwait := keyErase s.evAwait f }

end Sys2Proof.Machine
end

