-- ==== Sys2Proof/Machine/Rot.lean ====
section
/-! DEFINITION. ECDSA P-384 signature verification as FIPS 186-5 defines it (R553; PRESUMED, the spec names the standard
and does not reproduce it, log 38): the RoT's engine for tokens and images. -/

namespace Sys2Proof.Machine

/-- The field's prime, and the order and constants of the curve y² = x³ − 3x + b with base point (gx, gy). -/
def p384 : Nat := 2 ^ 384 - 2 ^ 128 - 2 ^ 96 + 2 ^ 32 - 1
def p384Order : Nat :=
  0xFFFFFFFFFFFFFFFFFFFFFFFFFFFFFFFFFFFFFFFFFFFFFFFFC7634D81F4372DDF581A0DB248B0A77AECEC196ACCC52973
def p384B : Nat :=
  0xB3312FA7E23EE7E4988E056BE3F82D19181D9C6EFE8141120314088F5013875AC656398D8A2ED19D2A85C8EDD3EC2AEF
def p384Gx : Nat :=
  0xAA87CA22BE8B05378EB1C71EF320AD746E1D3B628BA79B9859F741E082542A385502F25DBF55296C3A545E3872760AB7
def p384Gy : Nat :=
  0x3617DE4A96262C6F5D9E98BF9292DC29F8F41DBD289A147CE9DA3113B5F0B8C00A60B1CE1D7E819D7A431D7C90EA0E5F

/-- `a` to the power `e` modulo `m`, for `e` below 2^k. -/
def powMod (m : Nat) : Nat → Nat → Nat → Nat
  | 0, _, _ => 1 % m
  | k + 1, a, e => let h := powMod m k (a * a % m) (e / 2); if e % 2 = 1 then h * a % m else h

/-- The inverse modulo a prime (0 for 0). -/
def invMod (m a : Nat) : Nat := powMod m 384 (a % m) (m - 2)

/-- The sum of two points; none is the point at infinity. -/
def ecAdd (a b : Option (Nat × Nat)) : Option (Nat × Nat) :=
  match a, b with
  | none, x => x
  | x, none => x
  | some (x1, y1), some (x2, y2) =>
    if x1 = x2 ∧ (y1 + y2) % p384 = 0 then none
    else
      let l := if x1 = x2 then (3 * x1 * x1 + p384 - 3) * invMod p384 (2 * y1) % p384
        else (y2 + p384 - y1) * invMod p384 (x2 + p384 - x1) % p384
      let x3 := (l * l + 2 * p384 - x1 - x2) % p384
      some (x3, (l * (x1 + p384 - x3) + p384 - y1) % p384)

/-- A point multiplied by `e`, for `e` below 2^k. -/
def ecMul : Nat → Option (Nat × Nat) → Nat → Option (Nat × Nat)
  | 0, _, _ => none
  | k + 1, q, e => let h := ecMul k (ecAdd q q) (e / 2); if e % 2 = 1 then ecAdd h q else h

/-- Whether a signature, r then s of 48 bytes big-endian, over a SHA-384 digest verifies under a public key, x then y
(R561, R572). -/
def ecdsaOk (key digest sig : List Byte) : Bool :=
  let x := ofBeBytes (key.take 48)
  let y := ofBeBytes ((key.drop 48).take 48)
  let r := ofBeBytes (sig.take 48)
  let t := ofBeBytes ((sig.drop 48).take 48)
  let e := ofBeBytes digest
  decide (x < p384) && decide (y < p384) && decide ((y * y) % p384 = (x * x * x + (p384 - 3) * x + p384B) % p384)
    && decide (0 < r) && decide (r < p384Order) && decide (0 < t) && decide (t < p384Order)
    && (let w := invMod p384Order t
        match ecAdd (ecMul 384 (some (p384Gx, p384Gy)) (e * w % p384Order)) (ecMul 384 (some (x, y)) (r * w % p384Order)) with
        | some (px, _) => decide (px % p384Order = r)
        | none => false)

end Sys2Proof.Machine
end

