-- ==== Sys2Proof/Machine/Security.lean ====
section
/-! DEFINITION. Security Functions (R552 to R579): nonces, unlock tokens, grants, lifecycle, security versions, tenant
clearing and the test port's part of them. -/

namespace Sys2Proof.Machine

/-- Events of R579. -/
def evTokenAccepted : Nat := 0x0302
def evTokenRejected : Nat := 0x0303
def evGrantEnded : Nat := 0x0304
def evSecLifecycle : Nat := 0x0305
def evSvnCommitted : Nat := 0x0306
def evBootFallback : Nat := 0x4307
def evClearDone : Nat := 0x0308
def evRotSelftestFail : Nat := 0xC309

/-- Lifecycle states (R559). -/
def lcManufacturing : Nat := 0
def lcOwned : Nat := 1
def lcField : Nat := 2
def lcDecommissioned : Nat := 3

/-- TOKEN_RESULT values (R578). -/
def trAccepted : Nat := 1
def trFormat : Nat := 2
def trRevoked : Nat := 3
def trSignature : Nat := 4
def trNonce : Nat := 5
def trIdentity : Nat := 6
def trScope : Nat := 7
def trBusy : Nat := 8

/-- The state with its security state changed. -/
def State.updSec (s : State) (f : Sec → Sec) : State := { s with sec := f s.sec }

/-- Whether the RoT serves: the module is up and the RoT not in its error state (R556). -/
def State.rotServes (s : State) : Bool := !s.down && !s.flag Reg.secStatusRotError

/-- Whether a scope is open (R573): by a grant, or without one in MANUFACTURING; none in DECOMMISSIONED (R559). -/
def State.scopeOpen (s : State) (bit : Nat) : Bool :=
  let lc := s.rd Reg.secStatusLifecycle
  if lc = lcManufacturing then true
  else if lc = lcDecommissioned then false
  else decide (0 < Sparse.get (fun _ => 0) s.sec.grants bit)

/-- SEC_GRANTS as the open grants make it: SCOPE, and the seconds until the last of them ends. -/
def State.showGrants (s : State) : State :=
  (s.wr Reg.secGrantsScope (s.sec.grants.foldl (fun a (e : Nat × Nat) => a + 2 ^ e.1) 0)).wr Reg.secGrantsRemainS
    (s.sec.grants.foldl (fun a (e : Nat × Nat) => max a e.2) 0)

/-- Every grant ends (R556, R576). -/
def State.endGrants (s : State) : State :=
  if s.sec.grants.isEmpty then s
  else ((s.updSec (fun x => { x with grants := [], signers := [] })).showGrants).raise evGrantEnded 4 []

/-! ## Nonces and tokens (R571 to R575) -/

/-- A fresh nonce in SEC_NONCE0 to SEC_NONCE3 (R571). -/
def State.nonceReq (s : State) : State :=
  if !s.rotServes then s
  else
    let bs := (List.range 32).map (Config.rotByte s.sec.nonceNo)
    let s := (List.range 4).foldl (fun s i => s.wr (Reg.secNonceBytes i) (ofLeBytes ((bs.drop (8 * i)).take 8))) s
    s.updSec (fun x => { x with nonce := some bs, nonceNo := x.nonceNo + 1 })

/-- NONCE_REQ: a write of SEC_CTL.NONCE_REQ. -/
def execNonceReq (s : State) : Out := .next s.nonceReq

/-- NONCE_EXPIRY: ten minutes have passed since the nonce was given (R571). -/
def execNonceExpiry (s : State) : Out := .next (s.updSec (fun x => { x with nonce := none }))

/-- The token and key windows as written (R578). -/
def State.tokenBytes (s : State) : List Byte := (List.range 28).flatMap (fun i => leBytes 8 (s.rd (Reg.secTokenData i)))
def State.tokenKey (s : State) : List Byte := (List.range 12).flatMap (fun i => leBytes 8 (s.rd (Reg.secTokenKeyData i)))

/-- SUBMIT: the token goes to verification and the nonce is consumed; BUSY while one is verified or refused (R574, R575). -/
def State.tokenSubmit (s : State) : State :=
  if !s.rotServes then s
  else if s.sec.verifying.isSome || s.sec.refused then s.wr Reg.secStatusTokenResult trBusy
  else s.updSec (fun x => { x with verifying := some (s.tokenBytes, s.tokenKey, x.nonce), nonce := none })

/-- TOKEN_SUBMIT: a write of SEC_CTL.SUBMIT. -/
def execTokenSubmit (s : State) : Out := .next s.tokenSubmit

/-- Bytes `o` to `o + n − 1` of a token or header as a number. -/
def le (b : List Byte) (o n : Nat) : Nat := ofLeBytes ((b.drop o).take n)

/-- Whether all of `n` bytes from `o` on are zero. -/
def zeros (b : List Byte) (o n : Nat) : Bool := decide (le b o n = 0)

/-- The one-shot scopes DECOMMISSION and REVOKE (R573). -/
def oneShot (scope : Nat) : Bool := decide (scope / 64 % 4 ≠ 0)

/-- Check 1 of R574. -/
def tokenFormatOk (t : List Byte) : Bool :=
  let scope := le t 8 8
  let dur := le t 16 4
  decide (le t 0 4 = 0x314B5455) && decide (le t 4 1 = 1) && zeros t 7 1 && zeros t 20 4 && zeros t 104 24
    && decide (scope < 256)
    && (if oneShot scope then decide (dur = 0) && (decide (scope = 64) || decide (scope = 128))
        else decide (1 ≤ dur) && decide (dur ≤ 86400))

/-- The fused slot that a signer's KEY_SLOT names, if there is one, and whether it is revoked (R557). -/
def State.slotOf (s : State) (signer slot : Nat) : Option (Nat × Bool) :=
  if 3 < slot then none
  else if signer = 1 then some (slot, bitOf (s.rd Reg.secKeysErfRevoked) slot)
  else if signer = 2 then some (4 + slot, bitOf (s.rd Reg.secKeysOwnerRevoked) slot)
  else none

/-- Whether an unrevoked slot holds the digest of a key (R557). -/
def State.keyOk (s : State) (signer slot : Nat) (key : List Byte) : Bool :=
  match s.slotOf signer slot with
  | some (i, false) => decide (sha384 key = Config.slotDigest i)
  | _ => false

/-- Check 6 of R574: signer, lifecycle, policy and parcel state allow every scope of the token (R573). -/
def State.scopeOk (s : State) (signer scope : Nat) : Bool :=
  let lc := s.rd Reg.secStatusLifecycle
  decide (lc ≠ lcDecommissioned)
    && (decide (lc ≠ lcManufacturing) || oneShot scope)
    && (decide (signer = 2) || decide (lc = lcManufacturing) || s.flag Reg.secKeysVendorOk)
    && (decide (signer = 1) || decide (scope / 16 % 4 = 0))
    && (!bitOf scope 5 || (s.allIdle && decide (s.numVfs = 0)))
    && (!bitOf scope 6 || s.allIdle)

/-- TOKEN_RESULT of a token, the first check that fails deciding (R574). -/
def State.tokenResult (s : State) (t key : List Byte) (nonce : Option (List Byte)) : Nat :=
  let signer := le t 5 1
  let slot := le t 6 1
  if !tokenFormatOk t then trFormat
  else if !s.keyOk signer slot key then trRevoked
  else if !ecdsaOk key (sha384 (t.take 128)) ((t.drop 128).take 96) then trSignature
  else if nonce ≠ some ((t.drop 24).take 32) then trNonce
  else if (t.drop 56).take 48 ≠ Config.deviceId then trIdentity
  else if !s.scopeOk signer (le t 8 8) then trScope
  else trAccepted

/-- A scope opened for `d` seconds, or until its later end (R576). -/
def grant (g : Sparse Nat) (bit d : Nat) : Sparse Nat := Sparse.set (fun _ => 0) g bit (max d (Sparse.get (fun _ => 0) g bit))

/-- What an accepted token does (R573, R574): grants opened, slots revoked, or decommissioning begun. -/
def State.acceptToken (s : State) (signer slot scope dur : Nat) : State :=
  if bitOf scope 6 then s.updSec (fun x => { x with decom := true })
  else if bitOf scope 7 then
    let f := if signer = 1 then Reg.secKeysErfRevoked else Reg.secKeysOwnerRevoked
    s.wr f (s.rd f ||| (2 ^ slot - 1))
  else if scope = 0 then s
  else
    let bits := (List.range 6).filter (bitOf scope)
    ((s.updSec (fun x => { x with
      grants := bits.foldl (fun g b => grant g b dur) x.grants
      signers := bits.foldl (fun g b => Sparse.set (fun _ => 0) g b signer) x.signers })).wr Reg.secGrantsSigner signer).showGrants

/-- TOKEN_VERIFICATION_DONE: the token submitted has been checked (R574, R575). -/
def execTokenVerificationDone (s : State) : Out :=
  .next (match s.sec.verifying with
    | none => s
    | some (t, key, nonce) =>
      if !s.rotServes then s
      else
        let res := s.tokenResult t key nonce
        let s := (s.updSec (fun x => { x with verifying := none })).wr Reg.secStatusTokenResult res
        let det := [le t 5 1, le t 6 1, le t 8 8, res]
        if res = trAccepted then
          let s := (s.updSec (fun x => { x with failRun := 0 })).wr Reg.secStatusTokenFails 0
          (s.acceptToken (le t 5 1) (le t 6 1) (le t 8 8) (le t 16 4)).raise evTokenAccepted 4 det
        else
          let s := s.inc Reg.secStatusTokenFails
          let s := s.updSec (fun x =>
            if x.failRun + 1 < 16 then { x with failRun := x.failRun + 1 } else { x with failRun := 0, refused := true })
          s.raise evTokenRejected 4 det)

/-- TOKEN_LOCKOUT_END: the 60 s in which SUBMIT is refused have passed (R575). -/
def execTokenLockoutEnd (s : State) : Out := .next (s.updSec (fun x => { x with refused := false }))

/-- GRANT_EXPIRY: the RoT's oscillator has counted `sec` more seconds, and the grants whose time has run out end (R574,
R576). -/
def execGrantExpiry (sec : BitVec 32) (s : State) : Out :=
  let left := (s.sec.grants.map (fun (e : Nat × Nat) => (e.1, e.2 - sec.toNat))).filter (fun (e : Nat × Nat) => decide (0 < e.2))
  let ended := decide (left.length < s.sec.grants.length)
  let s := (s.updSec (fun x => { x with
    grants := left, signers := x.signers.filter (fun (e : Nat × Nat) => left.any (fun (g : Nat × Nat) => g.1 = e.1)) })).showGrants
  .next (if ended then s.raise evGrantEnded 4 [] else s)

/-- RELOCK: every grant ends (R576). -/
def execRelock (s : State) : Out := .next (if s.down then s else s.endGrants)

/-! ## Lifecycle, versions and lock -/

/-- DECOMMISSION: an accepted token carried out (R560): memories zeroed, then the secrets, then the fuse. -/
def execDecommission (s : State) : Out :=
  .next (if !s.sec.decom || s.down then s
  else
    let fds := List.range 16
    let s := (s.zeroMem fds [.t1, .t2, .shared, .stores]).dropLines fds
    let s := s.updSec (fun x => { x with decom := false, nonce := none, verifying := none, grants := [], signers := [] })
    let s := ((s.showGrants).wr Reg.secStatusLifecycle lcDecommissioned).wr Reg.glbStartStatusReady 0
    s.raise evSecLifecycle 4 [])

/-- SEC_CTL.SVN_COMMIT (R564). -/
def State.svnCommit (s : State) : State :=
  let pkc := max (s.rd Reg.secSvnPkcFused) (s.rd Reg.secSvnPkcRun)
  let ing := max (s.rd Reg.secSvnIngFused) (s.rd Reg.secSvnIngRun)
  if !s.rotServes || (decide (pkc = s.rd Reg.secSvnPkcFused) && decide (ing = s.rd Reg.secSvnIngFused)) then s
  else ((s.wr Reg.secSvnPkcFused pkc).wr Reg.secSvnIngFused ing).raise evSvnCommitted 4 []

/-- SVN_COMMIT: fused SVNs raised to those that run (R564). -/
def execSvnCommit (s : State) : Out := .next s.svnCommit

/-- SEC_CTL.TO_FIELD (R559): ignored outside OWNED; the fuse is blown now and the state follows at the next cold reset. -/
def State.toField (s : State) : State :=
  if !s.rotServes || decide (s.rd Reg.secStatusLifecycle ≠ lcOwned) || s.sec.toField then s
  else (s.updSec (fun x => { x with toField := true })).raise evSecLifecycle 4 []

/-- TO_FIELD. -/
def execToField (s : State) : Out := .next s.toField

/-- SEC_LOCK_WRITE: a write of SEC_LOCK; a 0 is ignored (R578). -/
def execSecLockWrite (lock : Bool) (s : State) : Out := .next (if s.down || !lock then s else s.wr Reg.secLockLock 1)

/-- ROT_SELFTEST_FAILURE: a test of the RoT fails in service (R556). -/
def execRotSelftestFailure (s : State) : Out :=
  .next (if !s.rotServes then s
  else
    let s := s.updSec (fun x => { x with nonce := none, verifying := none })
    (((s.wr Reg.secStatusApproved 0).wr Reg.secStatusRotError 1).endGrants).raise evRotSelftestFail 4 [])

/-! ## Tenant clearing (R567, R568) -/

/-- Parcels marked as clearing, or no longer, and GLB_PARCEL_CFG.CLEARING with them. -/
def State.setClearing (s : State) (p : Nat) (on : Bool) : State :=
  let b := s.rd Reg.secTenantClearBusy
  let s := s.wr Reg.secTenantClearBusy (if on then b ||| 2 ^ p else b &&& (15 - 2 ^ p))
  s.wr Reg.glbParcelCfgClearing (if s.rd Reg.secTenantClearBusy = 0 then 0 else 1)

/-- What clearing does beyond the parcel's FDs (R567): held events, collective contexts, the ingest job, translations of
its function, the energy meter. -/
def State.clearParcel (s : State) (p : Nat) (fds : List Nat) (wipe : Bool) : State :=
  let s := ((((s.stopParcel p).landWrites fds)).latchParcel p).dropHeld p
  { s with atc := s.atc.filter (fun e => decide (e.1 ≠ p + 1)) }.clearFds fds wipe

/-- TENANT_CLEAR: a write of SEC_TENANT_CLEAR (R568). A bit of a parcel that does not exist, or is clearing already, does
nothing. -/
def execTenantClear (mask : BitVec 4) (wipe : Bool) (s : State) : Out :=
  .next (if s.down then s
  else (List.range 4).foldl (fun s p =>
    if !bitOf mask.toNat p || !s.parcelExists p || s.clearing p then s
    else if !s.trvIdleAt p then s.parcelBusy p
    else (s.clearParcel p (s.parcelFds p) wipe).setClearing p true) s)

/-- TENANT_CLEAR_DONE: the clearing of a parcel ends (R568). -/
def execTenantClearDone (p : BitVec 2) (s : State) : Out :=
  let n := p.toNat
  .next (if !s.clearing n || s.sec.splitNew.contains n then s else (s.setClearing n false).raise evClearDone n [])

end Sys2Proof.Machine
end

