-- ==== Sys2Proof/Machine/Parcel.lean ====
section
/-! DEFINITION. GLB_PARCEL_CFG and GLB_MODULE_NUM (R34 to R41), the write lock (R16) and the count of writes the arbiter
discards (R537, R538). -/

namespace Sys2Proof.Machine

/-- EV_LOCKED_WRITE (R16) and EV_PARCEL_READY (R40). -/
def evLockedWrite : Nat := 0x0301
def evParcelReady : Nat := 0x0011

/-- FUNC of GLB_ARB_STATUS (R538). -/
def Req.func (q : Req) : Nat :=
  match q with
  | .pf => 0
  | .vf p => 1 + p.toNat
  | .mgt => 0xF

/-- A write of `q` to BAR0 offset `a` discarded and counted (R537, R538). -/
def State.arbDiscard (s : State) (q : Req) (cls a : Nat) (v : BitVec 64) : State :=
  let s := ((s.inc Reg.glbArbStatusCount).wr Reg.glbArbStatusLoser (if q = .mgt then 2 else 1)).wr Reg.glbArbStatusClass cls
  ((s.wr Reg.glbArbStatusFunc (Req.func q)).wr Reg.glbArbStatusOffset a).setReg Reg.glbArbValueValue.addr v

/-- Every Chirax port that is enabled drops back to training (R35), a port that was coming up or retraining too. -/
def State.trainPorts (s : State) : State :=
  (List.range 16).foldl (fun s k => if !s.flag (Reg.lnkCfgEnable k) then s else (s.takeDown k lnkTrain).toTrain k) s

/-- A write of GLB_MODULE_NUM (R16, R34, R35): `w` is what was written, zero in a half the write does not reach, which is what a
discarded write leaves in GLB_ARB_VALUE (R538); `v` has the register's own bits there. -/
def State.moduleNumWrite (s : State) (q : Req) (w v : BitVec 64) : State :=
  let valid := Reg.glbModuleNumValid.extract v
  if s.flag Reg.secLockLock then s.raise evLockedWrite 4 []
  else if s.flag Reg.glbModuleNumValid ∧ valid = 1 then
    if Reg.glbModuleNumModule.extract v ≠ s.rd Reg.glbModuleNumModule then s.arbDiscard q 2 Reg.glbModuleNumValid.addr w else s
  else
    let was := s.flag Reg.glbModuleNumValid
    let s := s.plainWrite Reg.glbModuleNumValid.addr v
    if was then s.trainPorts else s

/-- MODULE_NUM_WRITE: GLB_MODULE_NUM written by the physical function or by management; in the BAR0 of a virtual function
it is not there (R527). -/
def execModuleNumWrite (q : Req) (v : BitVec 64) (s : State) : Out :=
  .next (if s.down then s else match q with
    | .vf _ => s
    | _ => s.moduleNumWrite q v v)

/-- Parcels whose set of FDs differs under another SPLIT (R39), by their numbers under it. -/
def splitMoved (old new : Nat) : List Nat :=
  (List.range 4).filter (fun p => decide (p < parcelCount new) &&
    !(decide (p < parcelCount old) && decide (parcelFdsOf old p = parcelFdsOf new p)))

/-- Whether a parcel has a traverse queued or running (R39): one loading or loaded, or entries of its work queue not yet
taken. -/
def State.busyParcel (s : State) (p : Nat) : Bool :=
  !s.trvIdleAt p || decide (s.rd (Reg.hifTqDbTail p 0) ≠ s.rd (Reg.hifTqHeadHead p 0))

/-- A write of SPLIT (R39, R40): the affected parcels are latched and cleared, and the division is the new one. Parcels an
earlier clearing still prepares go on being prepared where this write does not move them. -/
def State.splitWrite (s : State) (new : Nat) : State :=
  let old := s.rd Reg.glbParcelCfgSplit
  let gone := splitMoved new old
  if new = old then s
  else match gone.find? s.busyParcel with
    | some p => s.parcelBusy p
    | none =>
      let s := gone.foldl (fun s p => s.clearParcel p (parcelFdsOf old p) false) s
      let fds := gone.flatMap (parcelFdsOf old)
      let s := { s with fdUnreach := (fds.filter (fun fd => s.flag (Reg.fdStatusRetired fd))).foldl keyInsert s.fdUnreach }
      let s := ((s.wr Reg.glbParcelCfgSplit new).formCaps false).retarget
      let s := s.updSec (fun x => { x with splitNew := x.splitNew.filter (fun p => !gone.contains p) ++ splitMoved old new })
      let s := gone.foldl (fun s p => s.setClearing p false) s
      (splitMoved old new).foldl (fun s p => s.setClearing p true) s

/-- PARCEL_CFG_WRITE: GLB_PARCEL_CFG written by the physical function or by management, any other write being discarded
(R38, R39). -/
def execParcelCfgWrite (q : Req) (split : BitVec 3) (s : State) : Out :=
  .next (if s.down then s else match q with
    | .vf _ => s
    | _ => s.splitWrite split.toNat)

/-- PARCEL_CLEARING_END: the clearing that a write of SPLIT began ends (R40, R568). -/
def execParcelClearingEnd (s : State) : Out :=
  let new := s.sec.splitNew
  .next (if new.isEmpty then s
  else
    let s := (new.foldl (fun s p => s.setClearing p false) s).updSec (fun x => { x with splitNew := [] })
    let s := s.wr Reg.glbParcelCfgCount (parcelCount (s.rd Reg.glbParcelCfgSplit))
    new.foldl (fun s p => (s.raise evClearDone p []).raise evParcelReady p []) s)

end Sys2Proof.Machine
end

