-- ==== Sys2Proof/Machine/Host.lean ====
section
/-! DEFINITION. The host's side of the module (R507, R510, R511, R525 to R536): ownership of the queue sets, traverse
queues and their commands, event rings, BAR2, resets of the link and of functions. -/

namespace Sys2Proof.Machine

/-- The queue set of a function: 4 is the physical function's. -/
def Req.set (q : Req) : Nat :=
  match q with
  | .vf p => p.toNat
  | _ => 4

/-- Whether a requester reaches queue set `f` (R41, R527, R529): the PF its own set and those of parcels without a virtual
function; VF p its own while SR-IOV enables it and its parcel exists; management as the PF (R544). -/
def State.ownsSet (s : State) (q : Req) (f : Nat) : Bool :=
  match q with
  | .vf p => decide (f = p.toNat) && decide (f < s.numVfs) && s.parcelExists f
  | _ => decide (f = 4) || decide (s.numVfs ≤ f ∧ f < 4)

/-! ## Traverse queues (R530, R531) -/

/-- LOG2_ENTRIES of a traverse queue, limited to 4–12 (R550). -/
def State.tqLog2 (s : State) (p q : Nat) : Nat := min 12 (max 4 (s.rd (Reg.hifTqCfgLog2Entries p q)))

/-- A doorbell rung (R530): accepted when TAIL is neither behind the previous one nor more than the ring ahead of HEAD. A
queue that is not enabled has no doorbell. -/
def State.doorbell (s : State) (p q tail : Nat) : State :=
  let hd := s.rd (Reg.hifTqHeadHead p q)
  let d := (tail + 2 ^ 16 - hd) % 2 ^ 16
  let prev := (s.rd (Reg.hifTqDbTail p q) + 2 ^ 16 - hd) % 2 ^ 16
  if !s.flag (Reg.hifTqCfgEnable p q) then s
  else if d ≤ 2 ^ s.tqLog2 p q ∧ prev ≤ d then s.wr (Reg.hifTqDbTail p q) tail
  else s.inc (Reg.hifTqCfgBadDb p q)

/-- Host address of the entry at the head of a queue. -/
def State.tqSlot (s : State) (p q : Nat) : Nat :=
  s.rd (Reg.hifTqBaseAddr p q) + s.rd (Reg.hifTqHeadHead p q) % 2 ^ s.tqLog2 p q * 64

/-- Whether the module may take entries of a parcel's queues: started and not resetting, in standby or clearing (R40, R518,
R568), with the link up, and with an entry there. -/
def State.tqReady (s : State) (p q : Nat) : Bool :=
  s.flag Reg.glbStartStatusReady && !s.down && decide (s.rstKind = 0) && !s.rstParcels.contains p && !s.flag Reg.glbLpCtlStandby
    && !s.hostLinkDown && s.parcelExists p && !s.clearing p && s.flag (Reg.hifTqCfgEnable p q)
    && decide (s.rd (Reg.hifTqDbTail p q) ≠ s.rd (Reg.hifTqHeadHead p q))

/-- Commands of a queue entry (R531). -/
def opSubmit : Nat := 0x01
def opAbandon : Nat := 0x10
def opResume : Nat := 0x11
def opResumeBarrier : Nat := 0x12
def opAuRelease : Nat := 0x13

/-- Whether an entry of queue `q` completes with INVALID (R531). -/
def State.tqBad (s : State) (p q : Nat) (e : List Byte) : Bool :=
  let op := le e 0 1
  if !zeros e 25 39 then true
  else if op = opSubmit then decide (q ≠ 0) || !zeros e 2 2 || !zeros e 24 1
  else if op = opAuRelease then
    decide (q ≠ 1) || !zeros e 8 16 || decide (1 < le e 24 1) || decide (2 ^ (s.parcelFds p).length ≤ le e 2 2)
  else if op = opAbandon ∨ op = opResume ∨ op = opResumeBarrier then
    decide (q ≠ 1) || !zeros e 2 2 || !zeros e 8 16 || !zeros e 24 1
  else true

/-- The head entry of a queue taken: HEAD advances (R530). -/
def State.tqTake (s : State) (p q : Nat) : State :=
  (s.noteAts p (s.tqSlot p q)).wr (Reg.hifTqHeadHead p q) (s.rd (Reg.hifTqHeadHead p q) + 1)

/-- Invalid entries at the head completed (R531); `n` bounds them. -/
def State.tqSweep (p q : Nat) : Nat → State → State
  | 0, s => s
  | n + 1, s =>
    if s.tqReady p q && s.tqBad p q (s.hostRead (s.tqSlot p q) 64) then
      State.tqSweep p q n ((s.tqStatus (some (s.tqSlot p q + 1)) tqInvalid).tqTake p q)
    else s

/-- The same for every queue, once the module has started (R518). -/
def State.tqSweepAll (s : State) : State := (List.range 4).foldl (fun s p => State.tqSweep p 1 4096 (State.tqSweep p 0 4096 s)) s

/-- The valid entry at the head of a queue, once the invalid ones before it are completed, if its OP is `op`. -/
def State.tqHead (s : State) (p q op : Nat) : State × Option (List Byte) :=
  let s := State.tqSweep p q 4096 s
  let e := s.hostRead (s.tqSlot p q) 64
  (s, if s.tqReady p q && decide (le e 0 1 = op) then some e else none)

/-- TQ_DOORBELL: the owner of a parcel's queue set writes a tail (R529, R530). Invalid entries complete at once. -/
def execTqDoorbell (req : Req) (p : BitVec 2) (q : BitVec 1) (tail : BitVec 16) (s : State) : Out :=
  .next (if s.down || s.hostLinkDown || decide (req = .mgt) || !s.ownsSet req p.toNat then s
  else State.tqSweep p.toNat q.toNat 4096 (s.doorbell p.toNat q.toNat tail.toNat))

/-- FDs of a parcel unparked (R517). -/
def State.unpark (s : State) (fd : Nat) : State :=
  (s.wr ⟨Reg.glbLpCtlPark.addr, fd, 1⟩ 0).wr (Reg.fdStatusParked fd) 0

/-- SUBMIT: the entry at the head of the work queue is taken once its parcel is IDLE and no tier-2 is re-forming (R303,
R532); parked FDs leave that state (R517). -/
def execSubmit (p : BitVec 2) (s : State) : Out :=
  let n := p.toNat
  .next (match s.tqHead n 0 opSubmit with
    | (s, none) => s
    | (s, some e) =>
      if !s.trvIdleAt n || (s.parcelFds n).any (fun fd => s.flag (Reg.t2StatusReform fd)) then s
      else
        let slot := s.tqSlot n 0 + 1
        let s := (s.parcelFds n).foldl State.unpark (s.tqTake n 0)
        State.tqSweep n 0 4096 (s.submit
          { parcel := n, tag := le e 4 4, base := le e 8 8, origin := le e 16 8, slot := some slot, abandon := [] }))

/-- A control command taken: its effect and the STATUS it writes. -/
def State.tqControl (s : State) (p op : Nat) (act : List Byte → Nat → State → State × Option Nat) : State :=
  match s.tqHead p 1 op with
  | (s, none) => s
  | (s, some e) =>
    let slot := s.tqSlot p 1 + 1
    let r := act e slot (s.tqTake p 1)
    State.tqSweep p 1 4096 (match r.2 with | some st => r.1.tqStatus (some slot) st | none => r.1)

/-- ABANDON: the parcel's traverse ends; during LOADING, when LOADING ends (R532). -/
def execAbandon (p : BitVec 2) (s : State) : Out :=
  let n := p.toNat
  .next (s.tqControl n opAbandon (fun _ slot s =>
    if s.trvIdleAt n then (s, some tqNotApplicable)
    else if s.rd (Reg.glbTrvStatusState n) = trvLoading then
      ({ s with loading := s.loading.map (fun l => if l.parcel = n then { l with abandon := l.abandon ++ [slot] } else l) }, none)
    else
      let tag := s.trvTag n
      ((s.endTraverse n).raise evTraverseAbandoned n [tag], some tqDone)))

/-- Whether a traverse only waits to be abandoned: a station of it is stopped for good, or it names stations of a retired FD
(R449, R451, R452; DEDUCED, log 272). -/
def State.mustAbandon (s : State) (p : Nat) : Bool :=
  (s.parcelStns p).any (fun k => (s.stn k).dead)
    || (List.range 16).any (fun fd => s.flag (Reg.fdStatusRetired fd) && (List.range 128).any (fun l => decide (s.progWords p (fd * 128 + l) ≠ 0)))

/-- Held stations continue and the traverse runs (R532). -/
def State.goAgain (s : State) (p : Nat) : State :=
  let s := (s.parcelStns p).foldl (fun s k => s.updStn k (fun t => { t with held := false, holdReq := false })) s
  (s.wr (Reg.glbTrvStatusState p) trvRunning).settle

/-- RESUME: faulted stations re-issue, after a TRAP from the next word; held ones continue (R532). -/
def execResume (p : BitVec 2) (s : State) : Out :=
  let n := p.toNat
  .next (s.tqControl n opResume (fun _ _ s =>
    let fs := (s.parcelStns n).filter (fun k => (s.stn k).faulted)
    let late := (s.parcelStns n).any (fun k => s.flag (Reg.stnFaultLate k.b) && s.flag (Reg.stnFaultValid k.b))
    if s.rd (Reg.glbTrvStatusState n) ≠ trvHeld ∨ late ∨ s.mustAbandon n then (s, some tqNotApplicable)
    else
      let s := fs.foldl (fun s k =>
        let s := if s.rd (Reg.stnFaultCause k.b) = fcTrap then s.advance k else s
        (s.wr (Reg.stnFaultValid k.b) 0).updStn k (fun t => { t with faulted := false })) s
      (s.goAgain n, some tqDone)))

/-- RESUME_BARRIER: each faulted station repeats its legs from its last barrier record, its tiles clear as after every barrier
(R211) and nothing of the faulted leg left in it; held ones continue (R454, R532). -/
def execResumeBarrier (p : BitVec 2) (s : State) : Out :=
  let n := p.toNat
  .next (s.tqControl n opResumeBarrier (fun _ _ s =>
    let fs := (s.parcelStns n).filter (fun k => (s.stn k).faulted)
    if s.rd (Reg.glbTrvStatusState n) ≠ trvHeld ∨ s.mustAbandon n ∨ fs.any (fun k => s.unrep k.fd k.log || (s.lst k.num).barrec.isNone) then
      (s, some tqNotApplicable)
    else
      let s := fs.foldl (fun s k =>
        match (s.lst k.num).barrec with
        | none => s
        | some r =>
          let s := (s.wr (Reg.stnFaultValid k.b) 0).updStn k (fun t => { t with
            faulted := false, engq := [], feedq := [], expq := [], holdPass := false, shadowFull := false, waiting := none,
            tiles := [], slab := none, chainBuf := none })
          let s := s.leaveXp k
          s.replay445 k r) s
      (s.goAgain n, some tqDone)))

/-- AU_RELEASE: each AU named that is in HELD leaves it (R532). -/
def execAuRelease (p : BitVec 2) (s : State) : Out :=
  let n := p.toNat
  .next (s.tqControl n opAuRelease (fun e _ s =>
    let named := ((s.parcelFds n).zipIdx.filter (fun x => bitOf (le e 2 2) x.2)).map (·.1)
    let held := named.filter (fun fd => s.flag (Reg.auQstatHeld fd))
    if held.isEmpty then (s, some tqNotApplicable)
    else (held.foldl (fun s fd => s.auRelease fd (decide (le e 24 1 = 1))) s, some tqDone)))

/-! ## Event rings (R533 to R536) -/

/-- A ring may signal again once its holdoff has passed and the host has written HEAD; records that came meanwhile are
signalled at once (R536). -/
def State.rearm (s : State) (f r : Nat) : State :=
  let x := Sparse.get (fun _ => RingSig.ready) s.ringSig (f * 4 + r)
  if !(x.pending && x.heldOff && x.headWritten) then s
  else
    let s := { s with ringSig := Sparse.set (fun _ => RingSig.ready) s.ringSig (f * 4 + r) RingSig.ready }
    if s.rd (Reg.hifEvqStatTail f r) = s.rd (Reg.hifEvqHeadHead f r) then s else s.signalRing f r

/-- A ring's signal state changed. -/
def State.updRing (s : State) (f r : Nat) (g : RingSig → RingSig) : State :=
  let x := g (Sparse.get (fun _ => RingSig.ready) s.ringSig (f * 4 + r))
  { s with ringSig := Sparse.set (fun _ => RingSig.ready) s.ringSig (f * 4 + r) x }

/-- HIF_EVQ_HEAD written: room in the ring, and held events follow in order (R535, R536). -/
def State.evqHead (s : State) (f r hd : Nat) : State :=
  let s := s.wr (Reg.hifEvqHeadHead f r) hd
  let x := Sparse.get (fun _ => RingSig.ready) s.ringSig (f * 4 + r)
  let s := if x.pending then s.updRing f r (fun x => { x with headWritten := true }) else s
  State.drainHeld f 512 (s.rearm f r)

/-- EVQ_HEAD_WRITE: the owner of a set reports what it has consumed. -/
def execEvqHeadWrite (req : Req) (f : BitVec 3) (r : BitVec 2) (hd : BitVec 16) (s : State) : Out :=
  .next (if s.down || !s.ownsSet req f.toNat then s else s.evqHead f.toNat r.toNat hd.toNat)

/-- MSI-X vectors of the function that owns a set (R526). -/
def State.vectors (s : State) (f : Nat) : Nat := if s.owner f = 0 then 2048 else 512

/-- HIF_EVQ_CFG written: with a VECTOR beyond the function's table, ENABLE keeps its value (R536). Once a ring is enabled,
the set's held events are delivered (R510). -/
def State.evqCfg (s : State) (f r : Nat) (v : BitVec 64) : State :=
  let a := (Reg.hifEvqCfgEnable f r).addr
  let en := s.rd (Reg.hifEvqCfgEnable f r)
  let s := s.plainWrite a v
  let s := if s.vectors f ≤ (Reg.hifEvqCfgVector f r).extract v then s.wr (Reg.hifEvqCfgEnable f r) en else s
  if s.flag (Reg.hifEvqCfgEnable f r) then State.drainHeld f 512 { s with evAwait := keyErase s.evAwait f } else s

/-- EVQ_CFG_WRITE: the owner of a set writes the configuration of one of its rings. -/
def execEvqCfgWrite (req : Req) (f : BitVec 3) (r : BitVec 2) (v : BitVec 64) (s : State) : Out :=
  .next (if s.down || !s.ownsSet req f.toNat then s else s.evqCfg f.toNat r.toNat v)

/-- MSIX_HOLDOFF_EXPIRY: HOLDOFF_US has passed since a ring's last signal (R536). -/
def execMsixHoldoffExpiry (f : BitVec 3) (r : BitVec 2) (s : State) : Out :=
  .next (if !(Sparse.get (fun _ => RingSig.ready) s.ringSig (f.toNat * 4 + r.toNat)).pending then s
  else (s.updRing f.toNat r.toNat (fun x => { x with heldOff := true })).rearm f.toNat r.toNat)

/-! ## BAR2 (R528) -/

/-- Whether a parcel's stores, shared-cache bytes and readback objects are closed to a requester (R521, R573): to another
function, and to the PF and management where a virtual function serves the parcel, unless a grant opens them. -/
def State.rbClosed (s : State) (q : Req) (p : Nat) : Bool :=
  match q with
  | .vf v => decide (p ≠ v.toNat) || decide (s.numVfs ≤ p)
  | _ => decide (p < s.numVfs) && !s.scopeOpen p

/-- Whether a read of a key gives zeros: a store or shared-cache byte closed to the requester, or a store that is being
cleared (R179, R521). -/
def State.hostBlind (s : State) (q : Req) (k : Nat) : Bool :=
  let p := s.parcelOf (k / 2 ^ 41)
  match regionOf (k / 2 ^ 41) (k % 2 ^ 41) with
  | .sc _ | .atomic _ _ => s.rbClosed q p
  | .ls _ _ => s.rbClosed q p || s.clearing p
  | _ => false

/-- A function's number in a completion: 0 the PF, 1 + p VF p. -/
def Req.fn (q : Req) : Nat :=
  match q with
  | .vf p => 1 + p.toNat
  | _ => 0

/-- A BAR2 access at offset `off` (R528): `data` empty for a read of `len` bytes. It enters the mesh at IG0
(R22; DEDUCED, log 244). A read of a stopped stack is unsupported (R321; log 261). The window has its largest size, and a base is
not held to alignment (R526; DESIGN CHOICE, log 280). -/
def State.bar2 (s : State) (q : Req) (off len : Nat) (data : List Byte) : State :=
  let f := Req.set q
  let fail := s.send ⟨.completion, [Req.fn q, 1], []⟩
  let n := if data.isEmpty then len else data.length
  let a := (s.rd (Reg.hifBar2BaseAddr f) + off) % 2 ^ 64
  let who := match q with | .vf p => some p.toNat | _ => none
  let k := s.keyOf a
  if n = 0 then s
  else if !s.ownsSet q f || decide (f < 4 ∧ 2 ^ 38 < off + n) then fail
  else if (s.spanCheck who (if data.isEmpty then .read else .write) a n).isSome then fail
  else if !data.isEmpty && !keyRemote k && s.inImage k n then fail
  else if keyRemote k then s.sendRemote ⟨18, hostStn (Req.fn q), 0, 0, f, a, n, false, !data.isEmpty, data, false⟩
  else if s.hostBlind q k then
    (if data.isEmpty then s.send ⟨.completion, [Req.fn q, 0], List.replicate n 0⟩
     else if s.clearing (s.parcelOf (k / 2 ^ 41)) then s else (s.wroteRun .host f k data false).settle)
  else if data.isEmpty && s.stackStopped k then fail
  else if data.isEmpty then
    (s.noteRead 18 f k n).send ⟨.completion, [Req.fn q, if (s.poisonAt k n).isSome then 2 else 0], s.bytesAt k n⟩
  else (s.wroteRun .host f k data false).settle

/-- BAR2_ACCESS: a host function reads `len` bytes, or writes `data`, at an offset of its BAR2. -/
def execBar2Access (req : Req) (off : BitVec 40) (len : BitVec 13) (data : List Byte) (s : State) : Out :=
  .next (if s.down || s.hostLinkDown || decide (req = .mgt) then s else s.bar2 req off.toNat len.toNat data)

/-! ## Resets of the link and of functions (R507, R510, R511) -/

/-- A host-link reset (R507, R510): the endpoint and the HIF block return to reset; held events stay, and new ones are held
until each set's rings are set up again. -/
def State.linkReset (s : State) : State :=
  if s.hostLinkDown then s
  else
    let s := (List.range 5).foldl State.resetSet (s.inc Reg.glbResetCausePerst)
    { s with hostLinkDown := true, evAwait := [0, 1, 2, 3, 4], numVfs := 0, atc := [] }

/-- HOST_LINK_DOWN: the PCIe link leaves L0 for Detect. -/
def execHostLinkDown (s : State) : Out := .next s.linkReset

/-- HOST_LINK_RESTORED: the link is in L0 again with bus mastering; it cannot be while PERST_N is asserted (R510, R546). -/
def execHostLinkRestored (s : State) : Out :=
  .next (if s.down || s.flag (Reg.mgtSbStatActive 2) then s
  else (List.range 5).foldl (fun s f => State.drainHeld f 512 s) { s with hostLinkDown := false })

/-- A function's interface state reset: a set it owns; held events stay until its rings are set up again (R511, R514). -/
def State.flrSet (s : State) (f : Nat) : State :=
  let s := s.resetSet f
  if s.heldOf f = 0 then s else { s with evAwait := keyInsert s.evAwait f }

/-- FLR_PF: the PF's interface state returns to reset, and nothing else; every parcel goes on (R511). A cold or warm reset in
progress covers it (R508; DEDUCED, log 242). -/
def execFlrPf (s : State) : Out :=
  .next (if s.down then s
  else if s.rstKind ≠ 0 then s.discardReset
  else
    let mine := (List.range 5).filter (s.ownsSet .pf)
    { (mine.foldl State.flrSet s) with atc := s.atc.filter (fun e => decide (e.1 ≠ 0)) })

/-- FLR_VF: virtual function p's interface state returns to reset and its parcel's activity ends (R511), unless a reset in
progress covers both (R508; DEDUCED, log 242). -/
def execFlrVf (p : BitVec 2) (s : State) : Out :=
  let n := p.toNat
  .next (if s.down || decide (s.numVfs ≤ n) then s
  else if s.underReset n then s.discardReset
  else
    let s := if s.parcelExists n then s.stopParcel n else s
    { (s.flrSet n) with atc := s.atc.filter (fun e => decide (e.1 ≠ n + 1)) })

/-- SRIOV_VF_ENABLE: the host enables VFs 0 to n − 1 and no others; TotalVFs is 4 (R525, R529). -/
def execSriovVfEnable (n : BitVec 3) (s : State) : Out :=
  .next (if s.down || s.hostLinkDown || decide (4 < n.toNat) then s
  else { s with numVfs := n.toNat, atc := s.atc.filter (fun e => decide (e.1 ≤ n.toNat)) })

/-- ATS_INVALIDATE_REQUEST: translations of a function for `count` pages from `page` on are forgotten, and the request is
answered (R525). -/
def execAtsInvalidateRequest (fn : BitVec 3) (page : BitVec 52) (count : BitVec 52) (s : State) : Out :=
  .next (if s.down || s.hostLinkDown then s
  else
    { s with atc := s.atc.filter (fun e => decide (e.1 ≠ fn.toNat) || decide (e.2 < page.toNat)
        || decide (page.toNat + count.toNat ≤ e.2)) }.send
      ⟨.completion, [fn.toNat, 0], []⟩)

end Sys2Proof.Machine
end

