-- ==== Sys2Proof/Machine/Uplink.lean ====
section
/-! DEFINITION. Uplinks: frames, end-to-end contexts and pauses (R329, R343 to R348, R364). -/

namespace Sys2Proof.Machine

/-- MER_STATUS.STATE codes (R505). -/
def merFree : Nat := 0
def merAcquiring : Nat := 1
def merLocked : Nat := 2
def merHoldover : Nat := 3

/-- Frames of a context sent again from a sequence number on; while its VC is paused they are owed (R346, R347). -/
def State.putAgain (s : State) (c : Ctx) (seq : Nat) : State :=
  if s.planeSends c.plane c.vc then
    (c.unacked.drop (c.unacked.findIdx (fun x => x.1 = seq))).foldl (fun s x => s.putFrame c x) (s.setCtx { c with owed := none })
  else s.setCtx { c with owed := some seq }

/-- The frame without flits by which a context acknowledges what it has received, or asks for what it expects (R346). -/
def Ctx.replyArgs (c : Ctx) (nak : Bool) : List Nat :=
  if nak then [c.plane, c.peer, c.vc, c.rxSeq, 0, 1] else [c.plane, c.peer, c.vc, 0, 0, 0, (c.rxSeq + 2 ^ 32 - 1) % 2 ^ 32]

/-- It, sent; while the VC is paused it is owed, a NAK before an acknowledgement (R347). -/
def State.replyCtx (s : State) (c : Ctx) (nak : Bool) : State :=
  if s.planeSends c.plane c.vc then (s.setCtx { c with reply := none }).send ⟨.frame, c.replyArgs nak, []⟩
  else s.setCtx { c with reply := some (nak || c.reply == some true) }

/-- What every context of a plane owes sent again, then its replies, then the waiting flits offered again (R340). -/
def State.flushPlane (s : State) (plane : Nat) : State :=
  let s := (s.ctxs.filter (fun c => c.plane = plane)).foldl (fun s c =>
    match c.owed with | some seq => s.putAgain c seq | none => s) s
  let s := (s.ctxs.filter (fun c => c.plane = plane)).foldl (fun s c =>
    match c.reply with | some nak => s.replyCtx c nak | none => s) s
  s.flushUplink plane

/-- An uplink that is up reads UP_SYNC while the meridian is LOCKED, and UP_UNSYNC otherwise (R503). -/
def State.showUplink (s : State) (k : Nat) : State :=
  if !s.portUp k then s
  else if s.rd Reg.merStatusState = merLocked then ((s.wr (Reg.lnkStatusState k) lnkUpSync).releasePort k).flushPlane (planeOf k)
  else s.wr (Reg.lnkStatusState k) lnkUpUnsync

/-- Every uplink shown as the meridian's STATE has it. -/
def State.showUplinks (s : State) : State := [6, 7, 14, 15].foldl (fun s k => s.showUplink k) s

/-- The plane that takes the traffic of a plane whose uplink is down (R343): the next in the order 0, 1, 2, 3, 0 that is
up. -/
def State.nextPlane (s : State) (plane : Nat) : Option Nat :=
  ((List.range 3).map (fun i => (plane + 1 + i) % 4)).find? (fun q => s.portUp (uplinkPort q))

/-- The flits of a plane's contexts, and those that wait for one there, move to plane `q`, where the latter are offered; without
one they are held (R329, R343). A context with nothing to send stays until it closes (R346). -/
def State.moveCtxs (s : State) (plane : Nat) (q : Option Nat) : State :=
  match q with
  | none => s.holdLost
  | some q =>
    let s := { s with ctxWait := s.ctxWait.map (fun (x : Nat × TxFlit) => if x.1 = plane then (q, x.2) else x) }
    ((s.ctxs.filter (fun c => decide (c.plane = plane) && !(c.unacked.isEmpty && c.wait.isEmpty))).foldl (fun s (c : Ctx) =>
      { s with ctxs := s.ctxs.filter (· ≠ c) }.showCtxs.txFrame q c.peer c.vc (c.unacked.flatMap
          (fun (x : Nat × List TxFlit) => x.2) ++ c.wait) true) s).offerCtxs

/-- UPLINK_UP: the uplink of a plane has four lanes (R329); EV_LINK_UNSYNC when it comes up UP_UNSYNC (R373, R503). Traffic held on planes whose uplinks are down moves to it, and so
do flits that no route reached (R343, R364). -/
def execUplinkUp (plane : BitVec 2) (s : State) : Out :=
  let k := uplinkPort plane.toNat
  .next (if s.portUp k ∨ !s.flag (Reg.lnkCfgEnable k) ∨ !s.flag Reg.glbModuleNumValid then s
    else
      let s := ((s.wr (Reg.lnkStatusLanes k) 15).wr (Reg.lnkStatusState k) lnkUpUnsync).portEvent evPortUp k
      let s := (s.showUplink k).flushPlane plane.toNat
      let s := if s.rd (Reg.lnkStatusState k) = lnkUpUnsync then s.portEvent evLinkUnsync k else s
      let held := (List.range 4).filter (fun p => !s.portUp (uplinkPort p))
      (held.foldl (fun s p => s.moveCtxs p (some plane.toNat)) s).reroute)

/-- The uplink of a plane stops, its STATE `st`: its contexts' flits move to the next plane that is up (R329, R343). -/
def State.uplinkStops (s : State) (plane st : Nat) : State :=
  let k := uplinkPort plane
  let old := s
  let s := (s.wr (Reg.lnkStatusState k) st).wr (Reg.lnkStatusLanes k) 0
  (s.moveCtxs plane (s.nextPlane plane)).tellLost old

/-- The uplink of a plane goes down (R329, R373). -/
def State.uplinkFails (s : State) (plane : Nat) : State :=
  (s.portEvent evPortDown (uplinkPort plane)).uplinkStops plane lnkDown

/-- LNK_CFG.ENABLE written (R332, R333, R372): from 0 to 1 a port enters TRAIN, a miswired one included; 0 disables it. -/
def State.enablePort (s : State) (n : Nat) (en : Bool) : State :=
  let was := s.flag (Reg.lnkCfgEnable n)
  let s := s.wr (Reg.lnkCfgEnable n) (if en then 1 else 0)
  if en ∧ !was then s.toTrain n
  else if !en ∧ was then
    (if isUplink n then s.uplinkStops (planeOf n) lnkDisabled else s.takeDown n lnkDisabled).updPort n (fun p => { p with noLane := false })
  else s

/-- PORT_ENABLE: a write of LNK_CFG.ENABLE (R333). -/
def execPortEnable (k : BitVec 4) (en : Bool) (s : State) : Out := .next (s.enablePort k.toNat en)

/-- UPLINK_DOWN: the uplink of a plane fails (R329, R343). -/
def execUplinkDown (plane : BitVec 2) (s : State) : Out :=
  .next (if s.portUp (uplinkPort plane.toNat) then s.uplinkFails plane.toNat else s)

/-! ## Lanes (R329, R330) -/

/-- What a second in which lane `l` of port `n` showed `uncorr` uncorrectable FEC codewords, or lost block lock, leads to. A
torus lane is retired above UNCORR_MAX and leaves the deal, its flits replayed; with no lane left the port goes down,
from HELLO or a retrain too (R330). An uplink goes down when a lane fails (R329). -/
def State.laneShows (s : State) (n l uncorr : Nat) (lockLost : Bool) : State :=
  let s := s.inc (Reg.lnkFecUncorr n) uncorr
  if !lockLost ∧ uncorr ≤ s.rd (Reg.lnkCfgUncorrMax n) then s
  else if isUplink n then (if s.portUp n then s.uplinkFails (planeOf n) else s)
  else if bitOf (s.rd (Reg.lnkStatusRetired n)) l then s
  else
    let s := (s.wr ⟨(Reg.lnkStatusRetired n).addr, 8 + l, 1⟩ 1).wr ⟨(Reg.lnkStatusLanes n).addr, 4 + l, 1⟩ 0
    let s := s.portEvent evLaneRetired n
    let live := s.portUp n || (s.port n).retrain || decide (s.rd (Reg.lnkStatusState n) = lnkHello)
    if live ∧ s.rd (Reg.lnkStatusLanes n) = 0 then s.portFails n
    else if !s.portUp n then s
    else match (s.port n).unacked.head? with
      | some x => s.replay n x.1
      | none => s

/-- LANE_RETIRE: over a second lane `lane` of a port has shown `uncorr` uncorrectable FEC codewords, or lost block lock (R330).
How many it corrected in that second the command does not say: LNK_FEC.CORR rises by a free number (R372; log 202). -/
def execLaneRetire (k : BitVec 4) (lane : BitVec 2) (uncorr : BitVec 32) (lockLost : Bool) (s : State) : Out :=
  let n := k.toNat
  .next ((s.free.2.laneShows n lane.toNat uncorr.toNat lockLost).inc (Reg.lnkFecCorr n) (s.free.1 % 2 ^ 32))

/-! ## Frames (R344 to R348) -/

/-- The MAC address of a module on a plane (R345), by the registers of the plane's link die. -/
def State.macOf (s : State) (m plane : Nat) : Nat := s.rd (Reg.lnkMacBaseBase (plane / 2)) * 2 ^ 20 + m * 4 + plane

/-- A number of `n` bytes of a frame, most significant first. -/
def beField (f : List Byte) (o n : Nat) : Nat := ofBeBytes ((f.drop o).take n)

/-- Whether a received frame passes the filter of R348 and is laid out as R344 has it. -/
def State.frameOk (s : State) (plane : Nat) (f : List Byte) : Bool :=
  let n := f.length
  decide (36 ≤ n) && decide ((crc32 (f.take (n - 4))).toNat = field f (n - 4) 4)
    && decide (beField f 0 6 = s.macOf s.ownModule plane) && decide (beField f 12 2 = 0x8100)
    && decide (beField f 16 2 = s.rd (Reg.lnkEtypeType (plane / 2))) && decide (field f 18 1 = 1)
    && decide (n = 36 + 256 * field f 19 1)

/-- Frames up to an acknowledged E2E_SEQ leave a context; progress ends the run of retransmissions (R346), and collectives that
waited for them go on (R367). -/
def State.ackCtx (s : State) (plane peer vc seq : Nat) : State :=
  match s.ctx plane peer vc with
  | none => s
  | some c =>
    match c.unacked.findIdx? (fun x => x.1 = seq) with
    | some i => ((s.setCtx { c with unacked := c.unacked.drop (i + 1), tries := 0 }).flushUplink plane).collAcked
    | none => s

/-- An NAK of R346: the E2E_SEQ a context expects. Whether a round trip has passed since the last is not stated in any unit,
and is free (log 222). -/
def State.nakCtx (s : State) (c : Ctx) : State :=
  let nak := fun (s : State) => s.replyCtx { c with nakSent := true } true
  if !c.nakSent then nak s
  else if s.free.1 % 2 = 1 then nak s.free.2
  else s.free.2

/-- UPLINK_FRAME_RECEIVE: a frame arrives on a plane's uplink (R344 to R348). A frame that fails the filter is discarded and
counted; the frame with the next E2E_SEQ of its context is accepted and acknowledged, and its flits that pass their
CRC are taken, the others counted in CRC_ERR (R335, R338); any other is discarded, the first of a round trip answered
with a NAK. What waits on the plane is offered again when E2E_CREDIT returns window (DEDUCED, log 223); a frame of a new peer
that finds no context free is dropped. -/
def execUplinkFrameReceive (plane : BitVec 2) (f : List Byte) (s : State) : Out :=
  let q := plane.toNat
  let k := uplinkPort q
  .next (if !s.portUp k then s
    else if !s.frameOk q f then s.inc (Reg.lnkRxDiscardFilter (q / 2))
    else
      let src := (beField f 6 6 - s.macOf 0 q) / 4
      let vc := beField f 14 2 / 2 ^ 13
      match s.openCtx q src vc with
      | (s, none) => s
      | (s, some c) =>
        let s := s.ackCtx q src vc (field f 24 4)
        let s := if 8 ≤ field f 28 2 then s.flushUplink q else s
        if field f 20 4 ≠ c.rxSeq then (match s.ctx q src vc with | some c => s.nakCtx c | none => s)
        else
          let s := match s.ctx q src vc with
            | some c => s.setCtx { c with rxSeq := (c.rxSeq + 1) % 2 ^ 32, nakSent := false }
            | none => s
          let s := (chunks 256 (field f 19 1) (f.drop 32)).foldl (fun s x =>
            if flitOk x then (s.inc (Reg.lnkRxFlitsCount k)).takeFlit x else s.inc (Reg.lnkReplayCrcErr k)) s
          match s.ctx q src vc with | some c => s.replyCtx c false | none => s)

/-- Whether a collective waits on a module. -/
def State.collWaits (s : State) (r : CollRun) (peer : Nat) : Bool :=
  ((s.plan r.parcel r.plan).steps.zipIdx).any (fun x => decide (x.1.peer = peer ∧ x.1.action ≠ 4) && !r.steps.contains x.2)

/-- A context's frames sent again from a sequence number on (R346, R364). Once twenty in a row have failed its peer is lost, and
what waits on it holds; EV_COLL_PEER_LOST also when that is no collective. -/
def State.resend (s : State) (c : Ctx) (seq : Nat) : State :=
  if c.tries < 20 then s.putAgain { c with tries := c.tries + 1 } seq
  else if c.tries = 20 then
    let s := s.setCtx { c with tries := 21 }
    let rs := s.colls.filter (fun r => s.collWaits r c.peer)
    if rs.isEmpty then
      match c.unacked.head?.bind (fun (x : Nat × List TxFlit) => x.2.head?) with
      | some f => s.peerLost f.die f.parcel c.peer
      | none => s
    else rs.foldl (fun s r => s.collLost r c.peer) s
  else s

/-- E2E_NAK_RECEIVE: a peer's NAK with the E2E_SEQ it expects (R346). -/
def execE2eNakReceive (plane : BitVec 2) (peer : BitVec 18) (vc : BitVec 3) (seq : BitVec 32) (s : State) : Out :=
  .next (match s.ctx plane.toNat peer.toNat vc.toNat with
    | none => s
    | some c =>
      match c.unacked.findIdx? (fun x => x.1 = seq.toNat) with
      | none => s
      | some i =>
        let c' := { c with unacked := c.unacked.drop i, tries := if i = 0 then c.tries else 0 }
        ((s.setCtx c').resend c' seq.toNat).collAcked)

/-- E2E_RTO_EXPIRY: RTO passes without progress; the oldest unacknowledged frame and those after it are sent again
(R346). -/
def execE2eRtoExpiry (plane : BitVec 2) (peer : BitVec 18) (vc : BitVec 3) (s : State) : Out :=
  .next (match s.ctx plane.toNat peer.toNat vc.toNat with
    | none => s
    | some c => match c.unacked.head? with | some x => s.resend c x.1 | none => s)

/-- E2E_CONTEXT_CLOSE: 10 ms without traffic close a context whose frames are all acknowledged; a transfer that waited
for a context takes its place (R346), the others wait on uncounted. -/
def execE2eContextClose (plane : BitVec 2) (peer : BitVec 18) (vc : BitVec 3) (s : State) : Out :=
  .next (match s.ctx plane.toNat peer.toNat vc.toNat with
    | none => s
    | some c =>
      if !c.unacked.isEmpty ∨ !c.wait.isEmpty then s
      else
        { s with ctxs := s.ctxs.filter (· ≠ c) }.showCtxs.offerCtxs)

/-- PFC_FRAME_RECEIVE: the VC of each priority with its enable bit is paused on that uplink alone for its quanta; zero
quanta end its pause (R347). -/
def execPfcFrameReceive (plane : BitVec 2) (enable : BitVec 8) (quanta : BitVec 128) (s : State) : Out :=
  let k := uplinkPort plane.toNat
  .next ((s.updPort k (fun p =>
    { p with paused := BitVec.ofNat 8 ((List.range 8).foldl (fun m v =>
        m + (if (if enable.getLsbD v then decide (quanta.toNat / 2 ^ (16 * v) % 2 ^ 16 ≠ 0) else p.paused.getLsbD v)
          then 2 ^ v else 0)) 0) })).flushPlane
    plane.toNat)

/-- PFC_PAUSE_EXPIRY: a paused VC's quanta have passed (R347). -/
def execPfcPauseExpiry (plane : BitVec 2) (vc : BitVec 3) (s : State) : Out :=
  .next ((s.updPort (uplinkPort plane.toNat) (fun p => { p with paused := p.paused &&& ~~~(1#8 <<< vc.toNat) })).flushPlane plane.toNat)

/-- PAUSE_FRAME_RECEIVE: an 802.3x PAUSE frame is discarded and counted (R347). -/
def execPauseFrameReceive (plane : BitVec 2) (s : State) : Out := .next (s.inc (Reg.lnkRxDiscardPause (plane.toNat / 2)))

end Sys2Proof.Machine
end

