-- ==== Sys2Proof/Machine/MeridianT.lean ====
section
/-! DEFINITION. Meridian time (R44, R495 to R503): the reference, the servo that steps or slews, stamps and
resynchronisation rounds, PTP, and the windows of STN_PACE. A tick of the meridian is a tick of this model's clock, so a
slew changes only how long ticks last outside and what offsets later exchanges bring. -/

namespace Sys2Proof.Machine

def evMerLocked : Nat := 0x0201
def evMerHoldover : Nat := 0x4202
def evMerStepped : Nat := 0x0203
def evMerOffsetHigh : Nat := 0x4204
def evLinkResynced : Nat := 0x0205

/-- The state with the meridian state changed. -/
def State.updMer (s : State) (f : Mer → Mer) : State := { s with mer := f s.mer }

/-- Whether any parcel has a traverse ARMED or RUNNING (R495, R498). -/
def State.merBound (s : State) : Bool :=
  (List.range 4).any (fun p => decide (s.rd (Reg.glbTrvStatusState p) = trvArmed) || decide (s.rd (Reg.glbTrvStatusState p) = trvRunning))

/-- Whether the servo may step (R498). -/
def State.mayStep (s : State) : Bool := s.flag Reg.merCtlStepEn && !s.merBound

/-- The slew rate that a register asks for, within the limits of R502, 1 to 1,000 ppm (DEDUCED, log 276). -/
def slewRate (ppm : Nat) : Nat := max 1 (min 1000 ppm)

/-- The meridian stepped to a value (R498). -/
def State.stepMeridian (s : State) (v : BitVec 64) : State :=
  let old := s.meridian
  let s := ({ s with meridian := v }.updMer (fun m => { m with slewLeft := 0, slewAcc := 0 })).inc Reg.merStepsSteps
  (s.raise evMerStepped 4 [v.toNat, old.toNat]).ppsEdge

/-- OFFSET_PS: reference less meridian, held within its 32 bits. -/
def State.setRefOffset (s : State) (o : Int) : State :=
  s.wr Reg.merStatusOffsetPs (max (-(2 ^ 31)) (min (2 ^ 31 - 1) o) % (2 ^ 32 : Nat)).toNat

/-- One exchange with the active reference, which lies `o` ps ahead of the meridian: the servo steps where it may and
else slews at `ppm` if `slew` (R498, R503); 16 exchanges in a row within the guard lock it (R499). -/
def State.discipline (s : State) (o : Int) (ppm : Nat) (slew : Bool) : State :=
  let s := s.setRefOffset o
  let n := o.tdiv 250
  let s :=
    if s.mayStep then (if n = 0 then s else s.stepMeridian (s.meridian + BitVec.ofInt 64 n))
    else if slew then s.updMer (fun m => { m with slewLeft := o, slewPpm := slewRate ppm, slewAcc := 0 })
    else s
  if s.rd Reg.merStatusState ≠ merAcquiring then s
  else if offGuard < o.natAbs then s.updMer (fun m => { m with lockCnt := 0 })
  else if s.mer.lockCnt + 1 < 16 then s.updMer (fun m => { m with lockCnt := m.lockCnt + 1 })
  else (((s.updMer (fun m => { m with lockCnt := 0 })).wr Reg.merStatusState merLocked).raise evMerLocked 4 [s.meridian.toNat]).showUplinks

/-- The port that disciplines the module under LINK (R496): PORT, or ALT_PORT while PORT is down. -/
def State.merPort (s : State) : Option Nat :=
  if s.rd Reg.merCtlSrc ≠ 2 then none
  else if s.portUp (s.rd Reg.merCtlPort) then some (s.rd Reg.merCtlPort)
  else if s.rd Reg.merCtlAltPort ≠ 15 ∧ s.portUp (s.rd Reg.merCtlAltPort) then some (s.rd Reg.merCtlAltPort)
  else none

/-- The module's own stamps of an exchange, when its flit left and when the partner's came, sent to the partner in a CTRL flit
(R497; log 275). -/
def State.sendStamps (s : State) (k : Nat) (t1 t4 : BitVec 64) : State :=
  s.txMsg k [TxFlit.msg 7 1 (s.rd (Reg.lnkStatusPartner k)) 0 0 [t1.toNat, t4.toNat] []]

/-- MERIDIAN_STAMP_EXCHANGE: the stamps of one exchange with the partner of torus port `k`, `t1` and `t4` this module's own, which it
sends to the partner (R497, R503). -/
def execMeridianStampExchange (k : BitVec 4) (t1 t2 t3 t4 : BitVec 64) (s : State) : Out :=
  let n := k.toNat
  .next (if isUplink n ∨ !s.portUp n then s
  else
    let o := s.stampOffset n t1 t2 t3 t4
    let s := (s.sendStamps n t1 t4).setOffset n o
    let s :=
      if s.rd (Reg.lnkStatusState n) ≠ lnkUpSync then s
      else if o.natAbs ≤ offGuard then s.updPort n (fun p => { p with high := 0 })
      else if (s.port n).high + 1 < 3 then s.updPort n (fun p => { p with high := p.high + 1 })
      else
        ((((s.wr (Reg.lnkStatusState n) lnkUpUnsync).inc (Reg.merPortOffResyncs n)).updPort n
          (fun p => { p with high := 0, batch := 0, batchBad := false, rounds := 0 })).raise evMerOffsetHigh 4 [s.meridian.toNat, n])
    if s.merPort = some n then (s.wr Reg.merStatusPortActive n).discipline o (s.rd Reg.merServoSlewPpm) true else s)

/-- RESYNC_ROUND: one exchange of an unsynchronised port (R503). Rounds come in batches of 16; `Port.rounds` is 1 once the
first batch has ended. -/
def execResyncRound (k : BitVec 4) (t1 t2 t3 t4 : BitVec 64) (s : State) : Out :=
  let n := k.toNat
  .next (if isUplink n ∨ s.rd (Reg.lnkStatusState n) ≠ lnkUpUnsync then s
  else
    let o := s.stampOffset n t1 t2 t3 t4
    let s := (s.sendStamps n t1 t4).setOffset n o
    let q := s.port n
    let bad := q.batchBad || decide (offGuard < o.natAbs)
    let full := decide (q.batch + 1 = 16)
    let s := s.updPort n (fun p => { p with
      batch := if full then 0 else p.batch + 1
      batchBad := if full then false else bad
      rounds := if full then 1 else p.rounds })
    let s := if s.merPort = some n then
        (s.wr Reg.merStatusPortActive n).discipline o (s.rd Reg.merServoResyncPpm) ((s.port n).rounds = 1)
      else s
    if full ∧ !bad then
      (((s.wr (Reg.lnkStatusState n) lnkUpSync).updPort n (fun p => { p with rounds := 0 })).raise evLinkResynced 4
          [s.meridian.toNat, n]).releasePort n
    else s)

/-- MER_SET_WRITE: the meridian is set, or the write is discarded and counted (R498). -/
def execMerSetWrite (v : BitVec 64) (s : State) : Out :=
  .next (if s.mayStep then s.stepMeridian v else s.inc Reg.merStepsDiscard)

/-- The plane PTP uses: PTP_PLANE, then the others in the order of R343 (R496). -/
def State.ptpPlane (s : State) : Option Nat :=
  ((List.range 4).map (fun i => (s.rd Reg.merCtlPtpPlane + i) % 4)).find? (fun q => s.portUp (uplinkPort q))

/-- A PTP frame to the unicast master, tagged with VID at PCP 7 (R500): the message's type and what it says. -/
def State.ptpSend (s : State) (plane typ : Nat) (rest : List Nat) : State :=
  s.send ⟨.frame, [plane, 0x88F7, 7, s.rd (Reg.lnkUplinkCfgVid (plane / 2)), s.rd Reg.merPtpMacMac, s.rd Reg.merPtpCfgDomain, typ] ++ rest, []⟩

/-- Unicast negotiation (R500, IEEE 1588 Clause 16.1): while PTP is the reference, Sync messages at 2^LOG_SYNC s and Delay_Resp
messages are asked of the master in Signaling messages (log 277). -/
def State.ptpNegotiate (s : State) : State :=
  match (if s.rd Reg.merCtlSrc = 3 then s.ptpPlane else none) with
  | some plane => [0, 9].foldl (fun s m => s.ptpSend plane 12 [m, s.rd Reg.merPtpCfgLogSync]) s
  | none => s

/-- MER_CTL_WRITE (R496): LINK on an uplink or on 0xF is discarded; a new reference is acquired; REF_OUT_EN
starts and stops the 10 MHz output (R501). -/
def execMerCtlWrite (v : BitVec 64) (s : State) : Out :=
  let src := Reg.merCtlSrc.extract v
  let port := Reg.merCtlPort.extract v
  .next (if src = 2 ∧ isUplink port then s
  else
    let moved := s.rd Reg.merCtlSrc ≠ src ∨ (src = 2 ∧ (s.rd Reg.merCtlPort ≠ port ∨ s.rd Reg.merCtlAltPort ≠ Reg.merCtlAltPort.extract v))
    let s := (s.refClock (Reg.merCtlRefOutEn.extract v == 1)).setReg Reg.merCtlSrc.addr (v &&& 0x3FFF)
    if moved then
      let s := (s.wr Reg.merStatusSrcActive src).wr Reg.merStatusState (if src = 0 then merFree else merAcquiring)
      let s := s.wr Reg.merStatusPortActive (s.merPort.getD 0)
      (s.updMer (fun m => { m with lockCnt := 0, slewLeft := 0, slewAcc := 0, sync := none, delay := none })).showUplinks.ptpNegotiate
    else s)

/-- The rising edge of MER_PPS accepted by its filter (R546): the filtered level is active. No command brings its fall, so the
edge also says that the input was released before it (DEDUCED, log 278). -/
def State.ppsAccept (s : State) : State :=
  ({ s with sbIn := Sparse.set (fun _ => SbIn.idle) s.sbIn 4 { raw := true, last := s.meridian.toNat + 1, passed := false } }.wr
    (Reg.mgtSbStatActive 4) 1).wr (Reg.mgtSbStatStuck 4) 0

/-- MER_PPS_EDGE: an accepted edge of MER_PPS, whose cable delayed it by MER_REF_DELAY, marks a meridian value that is a
multiple of one second (R496, R546). -/
def execMerPpsEdge (s : State) : Out :=
  let s := s.ppsAccept
  let second : Int := 1000000000000
  let r := ((s.meridian.toNat : Int) * 250 - toSigned 32 (s.rd Reg.merRefDelayPs)) % second
  let o := if 2 * r ≤ second then -r else second - r
  .next (if s.rd Reg.merCtlSrc = 1 then s.discipline o (s.rd Reg.merServoSlewPpm) true else s)

/-- The active reference is lost: HOLDOVER (R499). -/
def State.loseReference (s : State) : State :=
  if s.rd Reg.merStatusState = merAcquiring ∨ s.rd Reg.merStatusState = merLocked then
    (((s.updMer (fun m => { m with lockCnt := 0, slewLeft := 0, slewAcc := 0 })).wr Reg.merStatusState merHoldover).raise evMerHoldover 4
      [s.meridian.toNat]).showUplinks
  else s

/-- MER_REFERENCE_LOSS: the active reference is lost (R499). -/
def execMerReferenceLoss (s : State) : Out := .next s.loseReference

/-- MER_REFERENCE_RETURN: the reference is back (R499); a PTP master is asked again. -/
def execMerReferenceReturn (s : State) : Out :=
  .next (if s.rd Reg.merStatusState = merHoldover then
    ((s.updMer (fun m => { m with lockCnt := 0 })).wr Reg.merStatusState merAcquiring).ptpNegotiate
  else s)

/-! ## PTP (R500) -/

/-- PTP time as the meridian counts it. -/
def State.ptpTicks (s : State) (sec : BitVec 48) (ns : BitVec 32) : BitVec 64 :=
  BitVec.ofNat 64 (sec.toNat * 4000000000 + ns.toNat * 4 + s.rd Reg.merEpochOffTicks)

/-- PTP_SYNC: a Sync of the unicast master, timestamped at the PCS. -/
def execPtpSync (mac : BitVec 48) (domain : BitVec 8) (seq : BitVec 16) (s : State) : Out :=
  .next (if s.rd Reg.merCtlSrc ≠ 3 ∨ mac.toNat ≠ s.rd Reg.merPtpMacMac ∨ domain.toNat ≠ s.rd Reg.merPtpCfgDomain ∨ s.ptpPlane.isNone then s
  else s.updMer (fun m => { m with sync := some (seq.toNat, s.meridian) }))

/-- PTP_FOLLOW_UP: the precise origin time of the Sync; the module answers with a Delay_Req. -/
def execPtpFollowUp (seq : BitVec 16) (sec : BitVec 48) (ns : BitVec 32) (s : State) : Out :=
  .next (match s.mer.sync, s.ptpPlane with
    | some (q, t2), some plane =>
      if q ≠ seq.toNat then s
      else
        (s.updMer (fun m => { m with sync := none, delay := some (q, s.ptpTicks sec ns, t2, s.meridian) })).ptpSend plane 1 [q]
    | _, _ => s)

/-- PTP_DELAY_RESP: the master's receipt time of the Delay_Req completes the exchange. -/
def execPtpDelayResp (seq : BitVec 16) (sec : BitVec 48) (ns : BitVec 32) (s : State) : Out :=
  .next (match s.mer.delay with
    | some (q, t1, t2, t3) =>
      if q ≠ seq.toNat then s
      else
        let t4 := s.ptpTicks sec ns
        let o : Int := -(((t2 - t1).toInt - (t4 - t3).toInt) * 250 / 2)
        (s.updMer (fun m => { m with delay := none })).discipline o (s.rd Reg.merServoSlewPpm) true
    | none => s)

/-! ## Pace (R44) -/

/-- PACE_WINDOW_END: a meridian µs ends in which physical station `phys` of `fd` completed some handshakes, and whether it
executed throughout. PACE averages the last 16; PACE_MIN follows it over 16 whole ones. -/
def execPaceWindowEnd (fd : BitVec 4) (phys : BitVec 8) (handshakes : BitVec 16) (whole : Bool) (s : State) : Out :=
  let key := stnKey fd.toNat phys.toNat
  let b := stnBase fd.toNat phys.toNat
  .next (if 136 ≤ phys.toNat then s
  else
    let h := ((handshakes.toNat * 2 + (if whole then 1 else 0)) :: (s.stnAt key).paceHist).take 16
    let pace := (h.foldl (fun a x => a + x / 2) 0) / 16
    let s := (s.setStnAt key { s.stnAt key with paceHist := h }).wr (Reg.stnPacePace b) (min pace 0xFFFF)
    if h.length = 16 ∧ h.all (fun x => decide (x % 2 = 1)) then s.wr (Reg.stnPacePaceMin b) (min pace (s.rd (Reg.stnPacePaceMin b))) else s)

end Sys2Proof.Machine
end

