-- ==== Sys2Proof/Machine/Sidebands.lean ====
section
/-! DEFINITION. The sideband inputs and their filter (R483, R490, R546). Inputs are numbered as MGT_SB_STATk: 0 HALT_N, 1
PWR_CAP_N, 2 PERST_N, 3 THERM_ALERT_N, 4 MER_PPS; a level is given as whether it is the active one. -/

namespace Sys2Proof.Machine

/-- EV_SIDEBAND_STUCK (R551) and EV_THERM_ALERT (R490). -/
def evSidebandStuck : Nat := 0x4401
def evThermAlert : Nat := 0x410B

/-- 10 µs in ticks. -/
def sbLockout : Nat := 40000

/-- The filter state of an input. -/
def State.sb (s : State) (i : Nat) : SbIn := Sparse.get (fun _ => SbIn.idle) s.sbIn i

/-- The filter state of an input set. -/
def State.setSb (s : State) (i : Nat) (x : SbIn) : State := { s with sbIn := Sparse.set (fun _ => SbIn.idle) s.sbIn i x }

/-- Whether an input's last accepted change is less than 10 µs old. -/
def State.sbLocked (s : State) (i : Nat) : Bool :=
  decide ((s.sb i).last ≠ 0) && decide (s.meridian.toNat + 1 < (s.sb i).last + sbLockout)

/-- A change accepted, with what the input does (R546). -/
def State.sbAccept (s : State) (i : Nat) (v : Bool) : State :=
  let s := s.setSb i { raw := v, last := s.meridian.toNat + 1, passed := false }
  let s := s.wr (Reg.mgtSbStatActive i) (if v then 1 else 0)
  let s := if v then s else s.wr (Reg.mgtSbStatStuck i) 0
  if i = 0 then s.settle
  else if i = 1 then (s.wr Reg.pwrCapStatusPin (if v then 1 else 0)).refreshCap.retarget
  else if i = 2 then (if v then s.linkReset else s)
  else if i = 3 then (if v then s.retarget.raise evThermAlert 4 [s.meridian.toNat] else s.retarget)
  else s

/-- Whether the filters run: from step 3 of the start-up sequence on (R585). -/
def State.sbRuns (s : State) : Bool := !s.down && decide (s.rstKind ≠ 2)

/-- An input changes to level `v`, which holds for 1 µs if `held` (R546): a shorter pulse is counted, a change within 10 µs
of the last is passed over and counted. Before the filters run only the level is there (R585; DEDUCED,
log 243). -/
def State.sbChange (s : State) (i : Nat) (v held : Bool) : State :=
  if !s.sbRuns then (if held then s.setSb i { s.sb i with raw := v } else s)
  else if !held then s.inc (Reg.mgtSbStatGlitch i)
  else if s.sbLocked i then (s.setSb i { s.sb i with raw := v, passed := true }).inc (Reg.mgtSbStatCollapse i)
  else if s.flag (Reg.mgtSbStatActive i) = v then s.setSb i { s.sb i with raw := v }
  else s.sbAccept i v

/-- At the end of the 10 µs the level that stands is taken (R546). -/
def State.sbSettle (s : State) (i : Nat) : State :=
  if !s.sbRuns || s.sbLocked i || (s.sb i).raw = s.flag (Reg.mgtSbStatActive i) then s else s.sbAccept i (s.sb i).raw

/-- The filters start (R585): a level held before takes effect as if it had just been accepted. -/
def State.sbStart (s : State) : State :=
  (s.sbIn.map (fun (e : Nat × SbIn) => e.1)).foldl (fun s i =>
    if (s.sb i).raw = s.flag (Reg.mgtSbStatActive i) then s
    else (if i = 2 then { s with hostLinkDown := false } else s).sbAccept i (s.sb i).raw) s

/-- HALT_N_CHANGE (R546): HALT_N is asserted or released. -/
def execHaltNChange (active held : Bool) (s : State) : Out := .next (s.sbChange 0 active held)

/-- PWR_CAP_N_CHANGE (R483): PWR_CAP_N is asserted or released. -/
def execPwrCapNChange (active held : Bool) (s : State) : Out := .next (s.sbChange 1 active held)

/-- PERST_N_CHANGE (R507): PERST_N is asserted or released. -/
def execPerstNChange (active held : Bool) (s : State) : Out := .next (s.sbChange 2 active held)

/-- THERM_ALERT_N_CHANGE (R490): THERM_ALERT_N is asserted or released. -/
def execThermAlertNChange (active held : Bool) (s : State) : Out := .next (s.sbChange 3 active held)

/-- SIDEBAND_HELD_10S: an input has been active for 10 s (R546); a PPS input so held is a reference lost (R499). -/
def execSidebandHeld10s (i : BitVec 3) (s : State) : Out :=
  let n := i.toNat
  .next (if s.down || decide (4 < n) || !s.flag (Reg.mgtSbStatActive n) || s.flag (Reg.mgtSbStatStuck n) then s
  else
    let s := (s.wr (Reg.mgtSbStatStuck n) 1).raise evSidebandStuck 4 [n]
    if n = 4 ∧ s.rd Reg.merCtlSrc = 1 then s.loseReference else s)

end Sys2Proof.Machine
end

