-- ==== Sys2Proof/Machine/ResetR.lean ====
section
/-! DEFINITION. Resets, low-power states and start-up (R507 to R520, R563, R570). -/

namespace Sys2Proof.Machine

/-- Events of R520 and R480. -/
def evParcelResetDone : Nat := 0x0012
def evStartComplete : Nat := 0x0013
def evLastGaspFound : Nat := 0x0104

/-- KIND and SOURCE of GLB_RESET_CAUSE (R513). -/
def kindPower : Nat := 1
def kindCold : Nat := 2
def kindWarm : Nat := 3
def kindGasp : Nat := 4
def srcHardware : Nat := 0
def srcThermal : Nat := 3
def srcOf (q : Req) : Nat := if q = .mgt then 2 else 1

/-! ## What each reset keeps of BAR0 (R514) -/

/-- Offset in a link die's or ingest die's block. -/
def edgeOff (a : Nat) : Nat := a % 0x100000

/-- Kept by a cold reset: "Per module" fields, lane retirements, what the repair record holds, and strapped bits. -/
def coldKeep (a : Nat) : BitVec 64 :=
  if a < 0x100000 then 0
  else if a < 0x200000 then (if 0x1002E0 ≤ a ∧ a < 0x100320 then allBits else 0)
  else if a < 0x300000 then 0
  else if a = 0x300000 then 0x3
  else if a = 0x300040 then 0x3F3F
  else if a = 0x300048 then 0x3FF
  else if a = 0x400000 then 0x7F
  else match fdOfAddr a with
    | some _ => let o := (a - 0x1000000) % 0x100000
                if o = 0x1120 then 0 else if o = 0 then 0x1FFFFFF else fdKeep o
    | none =>
      if 0x2000000 ≤ a ∧ a < 0x2200000 then
        (if 0x10000 ≤ edgeOff a ∧ edgeOff a < 0x18000 ∧ edgeOff a % 0x1000 = 8 then 0xF00 else 0)
      else if 0x2200000 ≤ a ∧ a < 0x2400000 then (if edgeOff a = 0x18 then 1 else 0)
      else 0

/-- Kept by a warm reset: also the module number, the power, meridian, security, management and tag blocks but for the counters of the
last two, the ports' configuration, and which SSDs are present. -/
def warmKeep (a : Nat) : BitVec 64 :=
  if a < 0x400 then
    (if a = 0x10 ∨ a = 0x40 ∨ a = 0x48 then allBits else if a = 0x38 then 0xFFFF0000 else 0)
  else if a < 0x100000 then 0
  else if a = (Reg.mgtSmbStatTimeouts).addr then 0
  else if a = (Reg.mgtI2cStatClears).addr then ~~~(Reg.mgtI2cStatClears).mask
  else if 0x400040 ≤ a ∧ a < 0x400068 then 0xFFFF
  else if a = (Reg.nfcStatusRfDenied).addr then ~~~(Reg.nfcStatusRfDenied).mask
  else if a < 0x500000 then allBits
  else if a < 0x600000 then 0
  else if a < 0x1000000 then allBits
  else match fdOfAddr a with
    | some _ => fdKeep ((a - 0x1000000) % 0x100000)
    | none =>
      let o := edgeOff a
      if 0x2000000 ≤ a ∧ a < 0x2200000 then
        (if 0x10000 ≤ o ∧ o < 0x18000 then (if o % 0x1000 = 0 then allBits else if o % 0x1000 = 8 then 0xF00 else 0) else 0)
      else if 0x2200000 ≤ a ∧ a < 0x2400000 then (if o = 0x18 then 1 else if o = 0x20 then 0xFFFFFFFF else 0)
      else allBits

/-- Kept by a reset of parcel `p` with the FDs `fds`: what is not its own. -/
def parcelKeep (p : Nat) (fds : List Nat) (a : Nat) : BitVec 64 :=
  if 0x400 + p * 0x100 ≤ a ∧ a < 0x500 + p * 0x100 then 0
  else if 0x2200000 ≤ a ∧ a < 0x2400000 ∧ 0x100 + p * 0x40 ≤ edgeOff a ∧ edgeOff a < 0x140 + p * 0x40 then 0
  else if a = 0x2000030 ∨ a = 0x2100030 ∨ a = 0x2200000 ∨ a = 0x2300000 then ~~~(BitVec.ofNat 64 (0xFF * 2 ^ (8 * p)))
  else keepFds fds a

/-- Kept of FD `fd`'s block by a reset of the physical stations `ps` (R512) or by standby: all but the state of R192 and
STN_FAULT. -/
def stnStateOff (o : Nat) : Bool :=
  (decide (0x10 ≤ o) && decide (o < 0x38)) || isStateReg o || isRngReg o

/-! ## Module-wide resets -/

/-- FDs whose tier-2 has a sub-channel to leave out re-form (R303): the range in service shrinks. -/
def State.reform (s : State) (fd : Nat) : State :=
  if !s.flag (Reg.t2StatusReform fd) then s
  else
    let m := 0xFF &&& (0xFF ^^^ s.rd (Reg.t2StatusRetired fd))
    ({ s with t2Set := Sparse.set (fun _ => 0xFF) s.t2Set fd m }).wr (Reg.t2StatusInService fd) (maskBits m 8).length

/-- Retired FDs of a list whose parcel is reset: their memory no longer answers (R453). -/
def State.cutRetired (s : State) (fds : List Nat) : State :=
  { s with fdUnreach := (fds.filter (fun fd => s.flag (Reg.fdStatusRetired fd))).foldl keyInsert s.fdUnreach }

/-- Stops by temperature after a reset of their parcel (R322, R488). -/
def State.resetTrips (s : State) (fds : List Nat) : State :=
  let f := fds.foldl (fun l fd => resetTrip l fd (decide (s.rd (Reg.pwrFdVTj fd) < 90))) s.fdTrip
  let m := fds.foldl (fun l fd => resetTrip l fd (decide (s.rd (Reg.t1TempTemp fd) < 85))) s.memTrip
  { s with fdTrip := f, memTrip := m }

/-- NVME_PERST_N of each link driven high or low; the resets of links not in use stay low (R583). -/
def State.nvmePerst (s : State) (high : Bool) : State :=
  if s.igd.released = high then s
  else s.nvmeLinks.foldl (fun s j => s.send ⟨.sideOut, [16 + j, if high then 1 else 0], []⟩)
      { s with igd := { s.igd with released := high } }

/-- NVME_REFCLK of each link in use starts to run, from step 4 of start-up on (R583, R518; DEDUCED, log 230). -/
def State.nvmeClocks (s : State) : State :=
  if s.igd.clocks then s
  else s.nvmeLinks.foldl (fun s j => s.send ⟨.sideOut, [20 + j, 1], []⟩) { s with igd := { s.igd with clocks := true } }

/-- The last-gasp record in the tag, if its CRC is valid (R479, R480). -/
def State.gaspRecord (s : State) : Option (List Byte) :=
  let b := s.tagRead 0x800 256
  if b.take 4 = [0x4C, 0x47, 0x52, 0x31] ∧ (crc32 (b.take 252)).toNat = le b 252 4 then some b else none

/-- The parcel meters latched for a cold reset (R515): after a command from what they read; after a loss of power from the
last-gasp record; with none, from the repair record, the time of which the spec does not give (free, log 40). -/
def State.latchCold (s : State) (kind : Nat) : State :=
  let ps := (List.range 4).filter s.parcelExists
  let put := fun (s : State) (p uj t : Nat) => (s.wr (Reg.pwrEnergyFinalUj p) uj).wr (Reg.pwrFinalTimeMeridian p) t
  if kind = kindCold then ps.foldl (fun s p => put s p (s.pwr.met.pars.getD p 0) s.meridian.toNat) s
  else match (if kind = kindGasp then s.gaspRecord else none) with
    | some b => ps.foldl (fun s p => put s p (le b (44 + 8 * p) 8) (le b 20 8)) s
    | none => ps.foldl (fun s p => let x := s.free; put x.2 p (s.pwr.saved.pars.getD p 0) x.1) s

/-- A cold reset begins (R507, R514, R518): the module as after reset, but for what the repair record, the fuses, the tag,
the firmware store and the world outside hold. -/
def State.coldReset (s : State) (kind source : Nat) : State :=
  let s := ((((s.refClock false).endGrants).latchCold kind).resetTrips (List.range 16)).nvmePerst false
  let s := (List.range 16).foldl State.reform s
  let s := s.resetRegs coldKeep
  let met := s.pwr.saved
  let ein := match (if kind = kindGasp then s.gaspRecord else none) with
    | some b => le b 36 8
    | none => met.ein
  let met := { met with ein := ein, pars := List.replicate 4 0 }
  let hold := s.sec.tap = .extest || s.sec.tap = .extestPulse || s.sec.tap = .extestTrain
  let sec := { Sec.idle with nonceNo := s.sec.nonceNo, tap := s.sec.tap, decom := s.sec.decom }
  let pins := s.sbIn.map (fun (e : Nat × SbIn) => (e.1, { e.2 with last := 0, passed := false }))
  let t : State := { State.reset with
    pending := s.pending, regs := s.regs, hostMem := s.hostMem, outbox := s.outbox, freeCtr := s.freeCtr, tag := s.tag
    fatalLog := s.fatalLog, fdTrip := s.fdTrip, memTrip := s.memTrip, failed := s.failed, t2Set := s.t2Set,
    lostChan := s.lostChan.filter s.chanGone
    pwr := { Pwr.idle with met := met, saved := met }, sec := sec, fw := { s.fw with upd := 0, table := [], image := [] }
    sbIn := pins.filter (fun (e : Nat × SbIn) => decide (e.2 ≠ SbIn.idle)), down := hold
    hostLinkDown := (s.sb 2).raw, igd := { IgDie.idle with bifurcated := s.flag (Reg.ingNvmeCfgBifurcate 1) } }
  let t := if s.sec.toField ∧ t.rd Reg.secStatusLifecycle = lcOwned then t.wr Reg.secStatusLifecycle lcField else t
  let t := t.cutRetired (List.range 16)
  (t.wr Reg.glbResetCauseKind kind).wr Reg.glbResetCauseSource source

/-- A warm reset begins (R507, R514): every die but the PKC and RoT. -/
def State.warmReset (s : State) (source : Nat) : State :=
  let fds := List.range 16
  let s := s.endGrants.nvmePerst false
  let ps := (List.range 4).filter s.parcelExists
  let s := ps.foldl (fun s p => (s.stopParcel p).latchParcel p) s
  let s := (((s.landWrites fds).zeroMem fds [.shared, .stores]).dropLines fds).dropFds fds
  let s := (((s.resetRegs warmKeep).wr Reg.secTenantClearBusy 0).updSec (fun x => { x with splitNew := [] })).cutRetired fds
  let s := s.resetTrips fds
  let s := { s with
    ports := [], ctxs := [], ctxWait := [], remote := [], remoteBuf := [], colls := [], ready := [], readyHeld := [], lockEnded := []
    edgeSeq := [], edgeRun := [], dramTry := [], chains := [], sigs := [], evOnce := [], ringSig := [], ringSeq := [], evHeld := []
    evLost := [], evAwait := [], numVfs := 0, atc := [], fab := Fab.idle, rstKind := 3, rstParcels := []
    igd := { s.igd with turn := [], deficit := [], nvme := 0, errTime := 0 } }
  (s.wr Reg.glbResetCauseKind kindWarm).wr Reg.glbResetCauseSource source

/-- GLB_RESET.COLD and .WARM written by the PF or management (R508, R513). -/
def State.askCold (s : State) (q : Req) : State := if s.rstKind = 2 then s.discardReset else s.coldReset kindCold (srcOf q)
def State.askWarm (s : State) (q : Req) : State := if s.rstKind ≠ 0 then s.discardReset else s.warmReset (srcOf q)

/-- Whether a requester may write COLD and WARM (R513). -/
def Req.wide (q : Req) : Bool :=
  match q with
  | .vf _ => false
  | _ => true

/-- RESET_COLD: a write of GLB_RESET.COLD. -/
def execResetCold (req : Req) (s : State) : Out := .next (if s.down || !Req.wide req then s else s.askCold req)

/-- RESET_WARM: a write of GLB_RESET.WARM. -/
def execResetWarm (req : Req) (s : State) : Out := .next (if s.down || !Req.wide req then s else s.askWarm req)

/-- WARM_RESET_END: the dies resume and the ports train (R507), and the resets of the storage links are released (R583). -/
def execWarmResetEnd (s : State) : Out := .next (if s.rstKind ≠ 3 then s else ({ s with rstKind := 0 }.trainPorts).nvmePerst true)

/-- COLD_RESET: power is applied (R507): after a last-gasp sequence, or afresh, as after a start-up that did not get through. -/
def execColdReset (s : State) : Out :=
  let hold := s.sec.tap = .extest || s.sec.tap = .extestPulse || s.sec.tap = .extestTrain
  .next (if s.down && !hold && decide (s.rstKind ≠ 2) then
      s.coldReset kindGasp (match s.gaspRecord with | some b => if le b 5 1 = 3 then srcThermal else srcHardware | none => srcHardware)
    else s.coldReset kindPower srcHardware)

/-! ## Parcel and station resets -/

/-- A parcel reset begins (R507, R509, R514); FDs that retirement took out of the parcel no longer answer (R453). -/
def State.parcelReset (s : State) (p : Nat) : State :=
  let fds := s.parcelFds p
  let all := parcelFdsOf (s.rd Reg.glbParcelCfgSplit) p
  let s := (s.stopParcel p).landWrites fds
  let ref := fds.filter (fun fd => s.flag (Reg.t2StatusReform fd))
  let s := ref.foldl State.reform s
  let s := ((s.zeroMem fds [.shared, .stores]).zeroMem ref [.t2]).dropLines fds
  let s := ((s.dropFds fds).resetRegs (parcelKeep p fds)).resetSet p
  let s := ((s.dropHeld p).cutRetired all).resetTrips fds
  { s with rstParcels := keyInsert s.rstParcels p, atc := s.atc.filter (fun e => decide (e.1 ≠ p + 1)) }

/-- GLB_RESET.PARCEL written (R508, R513): a virtual function's bits but its own are discarded, and so is a bit whose reset
runs already. -/
def State.askParcel (s : State) (q : Req) (mask : Nat) : State :=
  (List.range 4).foldl (fun s p =>
    let mine := match q with | .vf v => decide (p = v.toNat) && decide (p < s.numVfs) | _ => true
    if !bitOf mask p || !mine || !s.parcelExists p then s
    else if s.underReset p then s.discardReset
    else s.parcelReset p) s

/-- RESET_PARCEL: a write of GLB_RESET.PARCEL. -/
def execResetParcel (req : Req) (mask : BitVec 4) (s : State) : Out := .next (if s.down then s else s.askParcel req mask.toNat)

/-- PARCEL_RESET_COMPLETE: a parcel's reset ends, re-forming of tier-2 included (R303, R520). -/
def execParcelResetComplete (p : BitVec 2) (s : State) : Out :=
  let n := p.toNat
  .next (if !s.rstParcels.contains n then s
  else
    let s := (s.parcelFds n).foldl (fun s fd => s.wr (Reg.t2StatusReform fd) 0) { s with rstParcels := keyErase s.rstParcels n }
    s.raise evParcelResetDone n [])

/-- A station's state of R192, but for its local store, returned to reset; STN_FAULT cleared; IDLE (R512). -/
def State.resetStation (s : State) (k : Loc) : State :=
  let mine := fun (a : Nat) => decide (k.b ≤ a) && decide (a < k.b + 0x1000) && stnStateOff (a - k.b)
  (s.resetRegs (fun a => if mine a then 0 else allBits)).updStn k (fun t =>
    { Stn.idle with evClamp := t.evClamp, evNonfin := t.evNonfin, evTermLim := t.evTermLim, evMeta := t.evMeta,
                    paceHist := t.paceHist })

/-- FD_STN_RESETm written: stations 64m + k of the mask, unless the parcel is not IDLE (R512) or is itself being reset
(R508). -/
def State.stnReset (s : State) (fd m mask : Nat) : State :=
  let p := s.parcelOf fd
  if mask = 0 then s
  else if s.underReset p then s.discardReset
  else if !s.trvIdleAt p then s.parcelBusy p
  else (List.range 64).foldl (fun s i =>
    if !bitOf mask i then s
    else match s.locate (fd * 128 + 64 * m + i) with
      | some k => s.resetStation k
      | none => s) s

/-- STATION_RESET: a write of FD_STN_RESETm. -/
def execStationReset (fd : BitVec 4) (m : BitVec 1) (mask : BitVec 64) (s : State) : Out :=
  .next (if s.down then s else s.stnReset fd.toNat m.toNat mask.toNat)

/-! ## Low-power states (R516, R517) -/

/-- A PARK bit written: an FD parks while its parcel is IDLE, else the bit stays 0 and EV_PARCEL_BUSY is raised. -/
def State.park (s : State) (fd : Nat) (on : Bool) : State :=
  let bit : Fld := ⟨Reg.glbLpCtlPark.addr, fd, 1⟩
  if !on then s.unpark fd
  else if s.flag bit then s
  else if !s.trvIdleAt (s.parcelOf fd) then s.parcelBusy (s.parcelOf fd)
  else (s.wr bit 1).wr (Reg.fdStatusParked fd) 1

/-- LP_PARK: a write of PARK bit `fd`. -/
def execLpPark (fd : BitVec 4) (on : Bool) (s : State) : Out := .next (if s.down then s else s.park fd.toNat on)

/-- STANDBY written (R514, R517): station state, stores and shared caches are lost and the ports go down; leaving it, the
ports train. -/
def State.standby (s : State) (on : Bool) : State :=
  let was := s.flag Reg.glbLpCtlStandby
  if on = was then s
  else if !on then (s.wr Reg.glbLpCtlStandby 0).trainPorts
  else if !s.allIdle then s.parcelBusy (((List.range 4).find? (fun p => !s.trvIdleAt p)).getD 4)
  else
    let fds := List.range 16
    let s := ((s.landWrites fds).zeroMem fds [.shared, .stores]).dropLines fds
    let s := s.resetRegs (fun a => match fdOfAddr a with
      | some _ =>
        let o := (a - 0x1000000) % 0x100000
        if 0x20000 ≤ o ∧ stnStateOff ((o - 0x20000) % 0x1000) then 0 else allBits
      | none => allBits)
    let s := { s with stns := [], lsts := [] }
    let s := (List.range 16).foldl (fun s k => if s.portUp k then s.takeDown k lnkDown else s) s
    s.wr Reg.glbLpCtlStandby 1

/-- LP_STANDBY: a write of STANDBY. -/
def execLpStandby (on : Bool) (s : State) : Out := .next (if s.down then s else s.standby on)

/-! ## Start-up (R480, R518, R563) -/

/-- Whether the RoT accepts the image in slot `i` (0, 1 PKC A and B; 2, 3 ingest A and B): `good` has its bit set when
digest and signatures verify; version and keys are checked against the fuses now (R562, R563). -/
def State.imageOk (s : State) (good : Nat) (i : Nat) : Bool :=
  let x := s.fw.imgs.getD i FwImg.none'
  x.present && bitOf good i && decide ((if i < 2 then s.rd Reg.secSvnPkcFused else s.rd Reg.secSvnIngFused) ≤ x.svn)
    && !bitOf (s.rd Reg.secKeysErfRevoked) x.erf
    && (!s.flag Reg.secKeysOwnerCosign || (match x.owner with | some o => !bitOf (s.rd Reg.secKeysOwnerRevoked) o | none => false))

/-- The slot a component (0 PKC, 1 ingest) starts from: the last activated, else the other (R563). -/
def State.bootSlot (s : State) (good c : Nat) : Option Nat :=
  let a := s.fw.active.getD c 0
  if s.imageOk good (2 * c + a) then some a
  else if s.imageOk good (2 * c + (1 - a)) then some (1 - a)
  else none

/-- A physical station that fails its self-test at start is counted, and the FD's lowest spare takes its logical station (R29,
R518); an FD without a spare left is retired at once (R451; DEDUCED, log 238). -/
def State.failsAtStart (s : State) (fd p : Nat) : State :=
  if 136 ≤ p ∨ s.flag (Reg.fdStatusRetired fd) ∨ s.failed.any (fun x => decide (x.1 = fd) && decide (x.2.1 = p)) then s
  else match s.logOf fd p, s.spares fd with
    | none, _ => s.countFailed fd p 255
    | some l, q :: _ => (s.countFailed fd p l).wr (Reg.fdStnMapPhys fd (l / 8) (l % 8)) q
    | some l, [] => s.retireFd fd 1 l

/-- The last-gasp record reported once (R480). -/
def State.reportGasp (s : State) : State :=
  match s.gaspRecord with
  | none => s
  | some b =>
    if le b 35 1 ≠ 0 then s
    else
      let body := b.take 35 ++ [1] ++ (b.drop 36).take 216
      (s.raise evLastGaspFound 4 [le b 5 1, le b 6 2, le b 20 8]).tagWrite 0x800 (body ++ leBytes 4 (crc32 body).toNat)

/-- START_UP_COMPLETE: the start-up of R518 runs to its end. `rotOk`: the RoT's tests pass (R556); `good`: which stored
images verify (R563); `fails`: stations that fail their self-test. Without a PKC image the module does not start, and a
decommissioned one stops after step 3 (R559). -/
def execStartUpComplete (rotOk : Bool) (good : BitVec 4) (fails : List (BitVec 4 × BitVec 8)) (s : State) : Out :=
  .next (if s.rstKind ≠ 2 || s.down then s
  else if !rotOk then { (s.wr Reg.secStatusRotError 1) with down := true }
  else match s.bootSlot good.toNat 0 with
    | none => { s with down := true }
    | some a =>
      let ing := s.bootSlot good.toNat 1
      let fellP := decide (a ≠ s.fw.active.getD 0 0)
      let fellI := match ing with | some x => decide (x ≠ s.fw.active.getD 1 0) | none => false
      let s := { s with fw := { s.fw with run := [some a, ing, ing] } }
      let s := ((s.showRun).wr Reg.secStatusApproved 1).wr Reg.glbStartStatusPkc 1
      let s := ((s.reportGasp).refreshCap.retarget).sbStart
      let s := if fellP then s.raise evBootFallback 4 [1] else s
      if s.rd Reg.secStatusLifecycle = lcDecommissioned then { s with rstKind := 0 }
      else
        let s := fails.foldl (fun s x => s.failsAtStart x.1.toNat x.2.toNat) s
        let s := if fellI then s.raise evBootFallback 4 [2] else s
        let s := (List.range 16).foldl (fun s fd => s.wr (Reg.t2StatusReform fd) 0) s
        let s := (s.nvmeClocks.nvmePerst true).nvmeEnumerate
        let s := ((s.wr Reg.glbStartStatusMesh 1).wr Reg.glbStartStatusT1 1).wr Reg.glbStartStatusT2 1
        let s := ({ s with rstKind := 0 }.wr Reg.glbStartStatusReady 1).trainPorts
        (s.raise evStartComplete 4 [s.rd Reg.glbResetCauseKind, s.rd Reg.glbResetCauseSource]).tqSweepAll)

/-! ## The test port (R570) -/

/-- Instructions that hold the module in cold reset. -/
def TapInst.holds (i : TapInst) : Bool :=
  match i with
  | .extest | .extestPulse | .extestTrain => true
  | _ => false

/-- TAP_INSTRUCTION_SELECT: a test-port instruction is selected. One that reaches the debug access port acts as BYPASS
unless the port is open. -/
def execTapInstructionSelect (i : TapInst) (s : State) : Out :=
  let j := if i = .debug ∧ !s.scopeOpen 5 then .bypass else i
  let was := TapInst.holds s.sec.tap
  let t := s.updSec (fun x => { x with tap := j })
  .next (if TapInst.holds j && !was || was && !TapInst.holds j then t.coldReset kindCold srcHardware else t)

end Sys2Proof.Machine
end

