-- ==== Sys2Proof/Machine/Nfc.lean ====
section
/-! DEFINITION. The NFC tag: wired accesses, their session lock, and RF requests (R547 to R549). -/

namespace Sys2Proof.Machine

/-- EV_NFC_WRITE_FAIL (R551). -/
def evNfcWriteFail : Nat := 0x4601

/-- ERR of NFC_STATUS (R549). -/
def nfcDenied : Nat := 1
def nfcRange : Nat := 2
def nfcFail : Nat := 3

/-- The session state changed, and LOCK and BUSY with it. -/
def State.setNfc (s : State) (x : Nfc) : State :=
  ({ s with nfc := x }.wr Reg.nfcStatusLock (if x.lock.isSome then 1 else 0)).wr Reg.nfcStatusBusy (if x.waiting.isEmpty then 0 else 1)

/-- Why an access of `n` bytes at `a` is refused (R547, R549): 0 if it is not. The PF and management read all but what is
the PKC's alone, and write the owner area. -/
def nfcRefuse (a n : Nat) (write : Bool) : Nat :=
  if 0x2000 < a + n then nfcRange
  else if write then (if 0x1000 ≤ a then 0 else nfcDenied)
  else if 0x400 ≤ a then 0 else nfcDenied

/-- Bytes of the data window. -/
def State.nfcWindow (s : State) (n : Nat) : List Byte :=
  ((List.range 32).flatMap (fun i => leBytes 8 (s.rd (Reg.nfcDataData i)))).take n

/-- An access under an open session; `ok`: what a write left reads back as written. If not, what the tag then holds is
free (log 41). The lock stays only with KEEP (R548). -/
def State.nfcAccess (s : State) (v : BitVec 64) (ok : Bool) : State :=
  let a := Reg.nfcCtlAddr.extract v / 4 * 4
  let n := 4 * (Reg.nfcCtlLen.extract v + 1)
  let write := decide (Reg.nfcCtlWrite.extract v = 1)
  let s :=
    if bitOf (s.rd Reg.mgtI2cStatIsolated) 0 then
      (let s := s.wr Reg.nfcStatusErr nfcFail; if write then s.raise evNfcWriteFail 4 [] else s)
    else if !write then
      (List.range 32).foldl (fun s i =>
        if 8 * i < n then s.wr (Reg.nfcDataData i) (ofLeBytes (s.tagRead (a + 8 * i) (min 8 (n - 8 * i)))) else s) (s.wr Reg.nfcStatusErr 0)
    else if ok then (s.wr Reg.nfcStatusErr 0).tagWrite a (s.nfcWindow n)
    else
      let x := s.free
      ((x.2.tagWrite a ((List.range n).map (fun i => BitVec.ofNat 8 (x.1 / 2 ^ (8 * i))))).wr Reg.nfcStatusErr nfcFail).raise
          evNfcWriteFail 4 []
  if Reg.nfcCtlKeep.extract v = 1 then s else s.setNfc { s.nfc with lock := none, gap := true }

/-- A wired access begins: in the session that is open, or in a new one; after a lock it waits 10 ms (R548). -/
def State.nfcStart (s : State) (v : BitVec 64) (ok : Bool) : State :=
  if s.nfc.lock.isSome then s.nfcAccess v ok
  else if s.nfc.gap then s.setNfc { s.nfc with waiting := s.nfc.waiting ++ [v] }
  else (s.setNfc { s.nfc with lock := some s.meridian.toNat }).nfcAccess v ok

/-- NFC_CTL written with GO (R549). While an access waits, another GO does nothing. -/
def State.nfcGo (s : State) (v : BitVec 64) (ok : Bool) : State :=
  let s := s.plainWrite Reg.nfcCtlAddr.addr v
  let err := nfcRefuse (Reg.nfcCtlAddr.extract v / 4 * 4) (4 * (Reg.nfcCtlLen.extract v + 1)) (decide (Reg.nfcCtlWrite.extract v = 1))
  if !s.nfc.waiting.isEmpty then s
  else if err ≠ 0 then s.wr Reg.nfcStatusErr err
  else s.nfcStart v ok

/-- NFC_GO: NFC_CTL is written with GO set; `ok`: a write reads back as written. -/
def execNfcGo (v : BitVec 64) (ok : Bool) (s : State) : Out := .next (if s.down then s else s.nfcGo v ok)

/-- NFC_SESSION_EXPIRY: 50 ms have passed since the session opened (R548). -/
def execNfcSessionExpiry (s : State) : Out :=
  .next (if s.nfc.lock.isNone then s else s.setNfc { s.nfc with lock := none, gap := true })

/-- NFC_LOCK_GAP_END: 10 ms have passed since a lock ended; a waiting access opens a new one (R548). -/
def execNfcLockGapEnd (ok : Bool) (s : State) : Out :=
  .next (if !s.nfc.gap then s
  else
    let ws := s.nfc.waiting
    let s := s.setNfc { s.nfc with gap := false, waiting := ws.drop 1 }
    match ws.head? with
    | none => s
    | some v => s.nfcStart v ok)

/-- RF_REQUEST: an RF reader reads or writes 4-byte blocks (R547, R548), and the field stays on or not. The tag answers with
the module unpowered too; while a RoT that failed its start-up tests holds the module, only its static areas answer (R556;
DEDUCED, log 279). -/
def execRfRequest (block : BitVec 16) (count : BitVec 12) (write : Bool) (data : List Byte) (field : Bool) (s : State) : Out :=
  let a := 4 * block.toNat
  let n := 4 * count.toNat
  let w := if write then 1 else 0
  let s := if s.down then s else s.wr Reg.nfcStatusRfField (if field then 1 else 0)
  .next (if s.down && s.flag Reg.secStatusRotError && (write || decide (0x800 < a + n)) then s
  else if s.nfc.lock.isSome && !s.down then (s.inc Reg.nfcStatusRfDenied).send ⟨.tagAccess, [a, n, w, 0x10], []⟩
  else if 0x2000 < a + n then s.send ⟨.tagAccess, [a, n, w, 0x10], []⟩
  else if !write then s.send ⟨.tagAccess, [a, n, 0, 0], s.tagRead a n⟩
  else if a < 0x1000 then s.send ⟨.tagAccess, [a, n, 1, 0x12], []⟩
  else (s.tagWrite a (data.take n)).send ⟨.tagAccess, [a, n, 1, 0], []⟩)

end Sys2Proof.Machine
end

