-- ==== Sys2Proof/Machine/Readback.lean ====
section
/-! DEFINITION. The readback window of a station block (R179, R521 to R523). -/

namespace Sys2Proof.Machine

/-- ERR of STN_RB_STATUS (R522). -/
def rbBusy : Nat := 1
def rbDenied : Nat := 2
def rbRange : Nat := 3

/-- Bytes of LS_SIZE (R170). -/
def objLs : Nat := 0x0C
def objLsPoison : Nat := 0x0D

/-- Size of a readback object (R523); none where the table has no such object. -/
def rbSize (obj : Nat) : Option Nat :=
  if obj = 0x01 then some 4096
  else if 0x02 ≤ obj ∧ obj ≤ 0x05 then some 32768
  else if obj = 0x06 then some 64
  else if obj = 0x08 then some 4096
  else if obj = 0x09 then some 64
  else if obj = 0x0A then some 16384
  else if obj = 0x0B then some 32832
  else if obj = 0x0C then some lsBytes
  else if obj = 0x0D then some (lsBytes / 256)
  else if obj = 0x0E then some 384
  else if obj = 0x0F then some 5632
  else none

/-- Byte `o` of a tile's elements in the order of R100, each an LA192 of 32 bytes (R58). -/
def tileByte (t : Tile) (o : Nat) : Byte := byteOf (Sparse.get (fun _ => LA.zero) t.el (o / 32)).encode (o % 32)

/-- Byte `o` of TILE_META (R523). -/
def tileMetaByte (t : Stn) (o : Nat) : Byte :=
  let x := t.tile (o / 16)
  let i := o % 16
  if i < 4 then byteOf (min x.terms (2 ^ 32 - 1)) i
  else if i = 4 then (if x.tl then 1 else 0)
  else if i = 5 then byteOf x.skip.toNat 0
  else if i = 6 then byteOf x.expect 0
  else if i = 8 ∨ i = 9 then byteOf x.chainId.toNat (i - 8)
  else 0

/-- Byte `o` of ENGQ: the queues MAT, VEC, MOV, SEL, RQD and COL, 8 words each, oldest first (R523). -/
def engqByte (t : Stn) (o : Nat) : Byte :=
  match ((t.engq.filter (fun q => q.eng = o / 64))[o % 64 / 8]?) with
  | some q => byteOf q.word.toNat (o % 8)
  | none => 0

/-- Byte `o` of the last barrier record: its registers in order, then the vector registers, PC, leg and period (R211). -/
def barrecByte (r : BarRec) (o : Nat) : Byte :=
  let n := 8 * r.regs.length
  if o < n then byteOf ((r.regs[o / 8]?).map (·.2.toNat) |>.getD 0) (o % 8)
  else if o < n + 4096 then byteOf (Sparse.get (fun _ => (0 : BitVec 32)) r.vregs ((o - n) / 4)).toNat ((o - n) % 4)
  else if o < n + 4100 then byteOf r.pc (o - n - 4096)
  else if o < n + 4104 then byteOf r.leg (o - n - 4100)
  else if o < n + 4108 then byteOf r.period (o - n - 4104)
  else 0

/-- Byte `o` of FEED: entry s of row queue r at (32r + s) × 8, oldest first (R80, R523). -/
def feedByte (t : Stn) (o : Nat) : Byte :=
  byteOf (((t.feedq.getD (o / 256) []).getD (o % 256 / 8) 0).toNat) (o % 8)

/-- Byte `o` of a listed object of physical station `p` (R523). -/
def State.rbByte (s : State) (fd p obj o : Nat) : Byte :=
  let t := s.stnAt (stnKey fd p)
  let log := s.logOf fd p
  if obj = 0x01 then byteOf (Sparse.get (fun _ => (0 : BitVec 32)) t.vregs (o / 4)).toNat (o % 4)
  else if obj ≤ 0x05 then tileByte (t.tile (obj - 2)) o
  else if obj = 0x06 then tileMetaByte t o
  else if obj = 0x08 then feedByte t o
  else if obj = 0x09 then byteOf (t.expq.getD (o / 2) 0).toNat (o % 2)
  else if obj = 0x0A then
    byteOf (Sparse.get (fun _ => (0 : BitVec 64)) (if o / 8 % 2 = 0 then t.wreg else t.wshadow) (o / 16)).toNat (o % 8)
  else if obj = 0x0B then (match t.chainBuf with | some x => chainByte x o | none => 0)
  else if obj = 0x0C then (match log with | some l => s.byteAt (lsKey fd l o) | none => 0)
  else if obj = 0x0D then
    (match log with
     | some l => BitVec.ofNat 8 ((List.range 8).foldl (fun a i => a + (if s.cwPoison (lsKey fd l (256 * o + 32 * i) / 32)
         then 2 ^ i else 0)) 0)
     | none => 0)
  else if obj = 0x0E then engqByte t o
  else if obj = 0x0F then (match log.bind (fun l => (s.lst (fd * 128 + l)).barrec) with | some r => barrecByte r o | none => 0)
  else 0

/-- Whether an object of an FD's stations is closed to a requester (R521, R573): another parcel's, or a vendor object. -/
def State.rbShut (s : State) (q : Req) (fd obj : Nat) : Bool :=
  if 0x80 ≤ obj then !s.scopeOpen 4 else s.rbClosed q (s.parcelOf fd)

/-- The window and its status set: ERR, SIZE, POISON and the bytes. -/
def State.rbFill (s : State) (b err size : Nat) (poison : Bool) (bytes : List Byte) : State :=
  let s := ((s.wr (Reg.stnRbStatusValid b) 1).wr (Reg.stnRbStatusErr b) err).wr (Reg.stnRbStatusSize b) size
  let s := s.wr (Reg.stnRbStatusPoison b) (if poison then 1 else 0)
  (List.range 32).foldl (fun s i => s.wr (Reg.stnRbDataData b i) (ofLeBytes ((bytes.drop (8 * i)).take 8))) s

/-- A readback of a vendor object: its size and bytes free values (log 39). -/
def State.rbVendor (s : State) (b : Nat) : State :=
  s.free.2.free.2.rbFill b 0 (s.free.1 % 2 ^ 32) false ((List.range 256).map (byteOf s.free.2.free.1))

/-- A readback of object `obj` of `size` bytes from offset `off`, in a station whose STATE is `st`. -/
def State.rbFrom (s : State) (fd p b obj off st size : Nat) : State :=
  if obj ≠ objLs ∧ (st = stRunning ∨ st = stWaiting) then s.rbFill b rbBusy size false []
  else if size ≤ off then s.rbFill b rbRange size false []
  else
    let n := min 256 (size - off)
    let blind := (obj = objLs ∨ obj = objLsPoison) ∧ s.clearing (s.parcelOf fd)
    let bytes := if blind then [] else (List.range n).map (fun i => s.rbByte fd p obj (off + i))
    let poison := decide (obj = objLs) && (match s.logOf fd p with | some l => (s.poisonAt (lsKey fd l off) n).isSome | none => false)
    s.rbFill b 0 size poison bytes

/-- A write of STN_RB_SEL of physical station `p` (R521, R522). What a vendor object holds the spec does not say: its size
and bytes are free (log 39). -/
def State.rbSelect (s : State) (q : Req) (fd p : Nat) (v : BitVec 64) : State :=
  let b := stnBase fd p
  let s := s.plainWrite (Reg.stnRbSelObject b).addr v
  let obj := s.rd (Reg.stnRbSelObject b)
  if s.rbShut q fd obj then s.rbFill b rbDenied ((rbSize obj).getD 0) false []
  else if 0x80 ≤ obj then s.rbVendor b
  else match rbSize obj with
    | none => s.rbFill b rbRange 0 false []
    | some size => s.rbFrom fd p b obj (s.rd (Reg.stnRbSelOffset b) / 256 * 256) (s.stateOf fd p) size

/-- RB_SELECT: STN_RB_SEL of a station block is written (R522). -/
def execRbSelect (req : Req) (fd : BitVec 4) (phys : BitVec 8) (v : BitVec 64) (s : State) : Out :=
  .next (if s.down ∨ 136 ≤ phys.toNat then s else match req with
    | .vf p => if s.parcelOf fd.toNat = p.toNat ∧ p.toNat < s.numVfs then s.rbSelect req fd.toNat phys.toNat v else s
    | _ => s.rbSelect req fd.toNat phys.toNat v)

end Sys2Proof.Machine
end

