-- ==== Sys2Proof/Machine/Bar0.lean ====
section
/-! DEFINITION. BAR0 (R11 to R16, R526, R527, R529, R537, R538, R545): what a requester reads at an offset, what its write
does there, and the arbiter that orders the host's writes and management's. -/

namespace Sys2Proof.Machine

/-! ## Who reaches what -/

/-- Whether virtual function `p` reaches a BAR0 offset (R41, R527). -/
def State.vfReaches (s : State) (p a : Nat) : Bool :=
  decide (p < s.numVfs) && s.parcelExists p &&
    (decide (a = 0) || decide (a = 0x30) || decide (a = 0x38)
     || decide (0x400 + p * 0x100 ≤ a ∧ a < 0x500 + p * 0x100)
     || decide (a = (Reg.pwrVreqMv p).addr) || decide (a = (Reg.pwrEnergyParUj p).addr) || decide (a = (Reg.pwrEnergyFinalUj p).addr)
     || decide (a = (Reg.pwrFinalTimeMeridian p).addr) || decide (a = 0x200000) || decide (a = 0x200010)
     || decide (0x501000 + p * 0x1000 ≤ a ∧ a < 0x502000 + p * 0x1000)
     || (match fdOfAddr a with | some fd => decide (s.parcelOf fd = p) | none => false))

/-- Whether a requester reaches a BAR0 offset at all (R517, R527, R578): in standby only the blocks GLB to HIF answer. -/
def State.reaches (s : State) (q : Req) (a : Nat) : Bool :=
  !s.down && !(s.flag Reg.glbLpCtlStandby && decide (0x600000 ≤ a))
    && (match q with | .vf p => s.vfReaches p.toNat a | _ => true)

/-- The queue set whose registers lie at an offset. -/
def setOfAddr (a : Nat) : Option Nat := if 0x501000 ≤ a ∧ a < 0x506000 then some ((a - 0x501000) / 0x1000) else none

/-! ## Reads -/

/-- The readback window as a requester reads it (R521, R576): closed to it, zeros with ERR set to DENIED. -/
def State.rbRead (s : State) (q : Req) (fd p a : Nat) : BitVec 64 :=
  let b := stnBase fd p
  if s.rbShut q fd (s.rd (Reg.stnRbSelObject b)) && s.flag (Reg.stnRbStatusValid b) then
    (if a = (Reg.stnRbStatusErr b).addr then (Reg.stnRbStatusErr b).deposit (s.reg a) rbDenied else 0)
  else s.reg a

/-- The 64-bit register at a BAR0 offset as a requester reads it; zero where no register lies or its fields are written
only (R13, R14). -/
def State.bar0Reg (s : State) (q : Req) (a : Nat) : BitVec 64 :=
  if !s.reaches q a || (regRowAt a).isNone then 0
  else match fdOfAddr a with
  | some fd =>
    let o := (a - 0x1000000) % 0x100000
    if 0x20000 ≤ o ∧ 0xE08 ≤ (o - 0x20000) % 0x1000 then s.rbRead q fd ((o - 0x20000) / 0x1000) a
    else s.fdBlockRead fd o
  | none =>
    if a = 0x200000 then s.meridian
    else if a = 0x2200010 then (Reg.ingDecStatContexts 0).deposit (s.reg a) (s.igInUse 0)
    else if a = 0x2300010 then (Reg.ingDecStatContexts 1).deposit (s.reg a) (s.igInUse 1)
    else if a = 0x2300020 then
      (Reg.ingNvmeStatPresent 1).deposit (s.reg a) ((List.range s.igd.nvme).foldl (fun n c => if (s.reg a).getLsbD (16 + c) then n else n + 2 ^ c) 0)
    else if 0x300100 ≤ a ∧ a < 0x300260 then 0
    else if 0x2300100 ≤ a ∧ a < 0x2300200 then 0
    else match setOfAddr a with
    | some f =>
      let o := (a - 0x501000) % 0x1000
      if o < 0x40 ∧ (f = 4 ∨ o % 0x20 = 0x10) then 0
      else if 0x100 ≤ o ∧ o < 0x180 ∧ o % 0x20 = 0x18 then (Reg.hifEvqStatHeld f ((o - 0x100) / 0x20)).deposit (s.reg a) (s.heldOf f)
      else s.reg a
    | none => s.reg a

/-- The bits of its register that an access covers: none if it is misaligned, or of 8 or 16 bits (R12). -/
def accMask (x : RegAcc) : BitVec 64 :=
  match x.width with
  | .w64 => if x.addr.toNat % 8 = 0 then allBits else 0
  | .w32 => if x.addr.toNat % 8 = 0 then 0xFFFFFFFF else if x.addr.toNat % 8 = 4 then 0xFFFFFFFF00000000 else 0
  | _ => 0

/-- Bytes of an access. -/
def accBytes (w : AccWidth) : Nat :=
  match w with
  | .w8 => 1
  | .w16 => 2
  | .w32 => 4
  | .w64 => 8

/-- The offset of the register an access touches. -/
def accBase (x : RegAcc) : Nat := x.addr.toNat / 8 * 8

/-- The value of a write in its register's bits. -/
def accVal (x : RegAcc) : BitVec 64 :=
  (if x.width = .w32 ∧ x.addr.toNat % 8 = 4 then x.v <<< 32 else x.v) &&& (accMask x)

/-- The state after a read: RC fields covered by it return to their Reset value (R14, R15). Of a field that a 32-bit read
covers in part, such as STN_LATE_MAX, the half read returns and the other stays, which the spec leaves open (DESIGN
CHOICE, log 227). -/
def State.afterRead (s : State) (q : Req) (a : Nat) (m : BitVec 64) : State :=
  if !s.reaches q a then s
  else match regRowAt a with
  | none => s
  | some r =>
    let c := BitVec.ofNat 64 r.rc &&& m
    if c = 0 then s else s.setReg a ((s.reg a &&& ~~~c) ||| (regDefault a &&& c))

/-- RC_REGISTER_READ: a host function reads a register; RC fields return to their Reset value. -/
def execRcRegisterRead (x : RegAcc) (s : State) : Out :=
  let v := s.bar0Reg x.req (accBase x) &&& (accMask x)
  let bytes := leBytes (accBytes x.width) (if x.width = .w32 ∧ x.addr.toNat % 8 = 4 then v.toNat / 2 ^ 32 else v.toNat)
  .next (if s.down then s
  else (s.afterRead x.req (accBase x) (accMask x)).send
      ⟨if x.req = .mgt then .mgtResponse else .completion, [if x.req = .mgt then 0 else Req.fn x.req, 0], bytes⟩)

/-! ## Writes -/

/-- A register written by its access codes in the bits `m` alone (R14). -/
def State.maskedWrite (s : State) (a : Nat) (v m : BitVec 64) : State :=
  match regRowAt a with
  | none => s
  | some r =>
    let w := BitVec.ofNat 64 r.rw &&& m
    s.setReg a (((s.reg a &&& ~~~w) ||| (v &&& w)) &&& ~~~(v &&& m &&& BitVec.ofNat 64 r.w1c))

/-- The state an outcome carries, or the one it came from. -/
def outState (s : State) (o : Out) : State :=
  match o with
  | .next t => t
  | _ => s

/-- A segment reconnected by its RESTORE bit (R545): the bus clear is repeated first, and `free` has the segments whose data
line it releases. -/
def State.i2cRestore (s : State) (mask free : Nat) : State :=
  (List.range 4).foldl (fun s i =>
    if !bitOf mask i || !bitOf (s.rd Reg.mgtI2cStatIsolated) i then s
    else
      let s := s.inc Reg.mgtI2cStatClears
      if bitOf free i then s.wr ⟨Reg.mgtI2cStatIsolated.addr, i, 1⟩ 0 else s) s

/-- A write in the GLB block. `e` is the value with the register's own bits where the write does not reach. -/
def State.writeGlb (s : State) (q : Req) (a : Nat) (v e m : BitVec 64) : State :=
  if a = 0x10 then s.moduleNumWrite q v e
  else if a = 0x20 then s.splitWrite (Reg.glbParcelCfgSplit.extract e)
  else if a = 0x30 then
    if Reg.glbResetCold.extract v = 1 ∧ Req.wide q then s.askCold q
    else if Reg.glbResetWarm.extract v = 1 ∧ Req.wide q then s.askWarm q
    else s.askParcel q (Reg.glbResetParcel.extract v)
  else if a = 0x38 then (if Req.wide q then s.maskedWrite a v m else s)
  else if a = 0x40 then
    let s := (List.range 16).foldl (fun s fd =>
      if bitOf e.toNat fd = bitOf (s.reg a).toNat fd then s else s.park fd (bitOf e.toNat fd)) s
    (s.standby (bitOf e.toNat 16)).wr Reg.glbLpCtlL1IdleUs (Reg.glbLpCtlL1IdleUs.extract e)
  else if 0x400 ≤ a ∧ a < 0x800 then
    let p := (a - 0x400) / 0x100
    let o := (a - 0x400) % 0x100
    if o = 0x80 then s.snapArm p ((Reg.glbSnapCtlStep p).extract e) (decide ((Reg.glbSnapCtlArm p).extract v = 1))
        (decide (m &&& (Reg.glbSnapCtlArm p).mask ≠ 0))
    else if o = 0xA0 then
      (if !Req.wide q then s
       else if (Reg.glbPeerCtlDiscard p).extract v = 1 then s.peerDiscard p ((Reg.glbPeerCtlModule p).extract e)
       else if s.rd (Reg.glbTrvStatusState p) ≠ trvIdle then s.raise evParcelBusy p [s.meridian.toNat, a]
       else s.maskedWrite a v m)
    else if o = 0x70 ∨ o = 0x78 then (if Req.wide q then s.writeParcelIdle p a e else s)
    else s.maskedWrite a v m
  else s.maskedWrite a v m

/-- A write in the PWR, MER, SEC, MGT or NFC block. A 32-bit write of one half of MER_SET steps to a target whose other half
is zero, which the spec leaves open (DESIGN CHOICE, log 228). -/
def State.writePkc (s : State) (a : Nat) (v e m : BitVec 64) : State :=
  if a = 0x100020 then (if Reg.pwrDistStatPop.extract v = 1 then outState s (execPwrDistPop (s.maskedWrite a v m)) else s.maskedWrite a v m)
  else if 0x100040 ≤ a ∧ a < 0x100080 then ((s.maskedWrite a v m).refreshCap.formCaps false).retarget
  else if 0x100180 ≤ a ∧ a < 0x1001A0 then (s.maskedWrite a v m).retarget
  else if a = 0x100200 then (if Reg.pwrEnergySnapSnap.extract v = 1 then outState s (execEnergySnap s) else s)
  else if a = 0x200008 then outState s (execMerCtlWrite e s)
  else if a = 0x200020 then outState s (execMerSetWrite v s)
  else if a = 0x300008 then (if Reg.secLockLock.extract v = 1 then s.wr Reg.secLockLock 1 else s)
  else if a = 0x300010 then
    let s := if Reg.secCtlNonceReq.extract v = 1 then s.nonceReq else s
    let s := if Reg.secCtlSubmit.extract v = 1 then s.tokenSubmit else s
    let s := if Reg.secCtlRelock.extract v = 1 then s.endGrants else s
    let s := if Reg.secCtlSvnCommit.extract v = 1 then s.svnCommit else s
    if Reg.secCtlToField.extract v = 1 then s.toField else s
  else if a = 0x300050 then
    outState s (execTenantClear (BitVec.ofNat 4 (Reg.secTenantClearParcel.extract v)) (decide (Reg.secTenantClearWipeDram.extract v = 1)) s)
  else if 0x300100 ≤ a ∧ a < 0x300260 then (if (regRowAt a).isSome then s.setReg a ((s.reg a &&& ~~~m) ||| v) else s)
  else if a = 0x400010 then (s.maskedWrite a v m).i2cRestore (Reg.mgtI2cStatRestore.extract v) 15
  else if a = 0x600000 then (if Reg.nfcCtlGo.extract v = 1 then s.nfcGo e true else s.maskedWrite a v m)
  else s.maskedWrite a v m

/-- A write in a queue set (R529, R544, R550): by its owner; management does not write the traverse queue registers. -/
def State.writeSet (s : State) (q : Req) (f a : Nat) (v e m : BitVec 64) : State :=
  let o := (a - 0x501000) % 0x1000
  if !s.ownsSet q f then s
  else if o < 0x40 then
    if q = .mgt ∨ f = 4 then s
    else if o % 0x20 = 0x10
        then (if m &&& 0xFFFF = 0 then s else State.tqSweep f (o / 0x20) 4096 (s.doorbell f (o / 0x20) (e.toNat % 2 ^ 16)))
    else s.maskedWrite a v m
  else if 0x100 ≤ o ∧ o < 0x180 then
    let r := (o - 0x100) / 0x20
    if o % 0x20 = 0x08 then s.evqCfg f r e
    else if o % 0x20 = 0x10 then (if m &&& 0xFFFF = 0 then s else s.evqHead f r (e.toNat % 2 ^ 16))
    else s.maskedWrite a v m
  else s.maskedWrite a v m

/-- FD registers written under the rule of R320 (R320, R323, R399, R468), by their block offset. -/
def idleReg (o : Nat) : Bool :=
  decide (o = 0x1008 ∨ o = 0x1300 ∨ o = 0x1800 ∨ o = 0x1808) || (decide (0x1818 ≤ o) && decide (o ≤ 0x1830)) || decide (o = 0x1900)
    || (decide (0x1A00 ≤ o) && decide (o < 0x1AA0))

/-- MEM_SCRUB_CTL as it is written: a period of 0 is written as 1 (R323). -/
def scrubCtl (fd : Nat) (v m : BitVec 64) : BitVec 64 :=
  [Reg.memScrubCtlT1Hours fd, Reg.memScrubCtlT2Hours fd, Reg.memScrubCtlScMin fd].foldl (fun v f =>
    if f.mask &&& m ≠ 0 ∧ f.extract v = 0 then v ||| BitVec.ofNat 64 (2 ^ f.lo) else v) v

/-- A write in an FD's block. -/
def State.writeFd (s : State) (q : Req) (fd a : Nat) (v e m : BitVec 64) : State :=
  let o := (a - 0x1000000) % 0x100000
  if o < 0x20000 then
    if o = 0x180 ∨ o = 0x188 then s.stnReset fd ((o - 0x180) / 8) v.toNat
    else if o = 0x1210 then
      let s := s.maskedWrite a v m
      if (Reg.memPoisonStatPop fd).extract v = 1 then s.popPoison fd else s
    else if o = 0x1280 then s.maskedWrite a (scrubCtl fd v m) m
    else if idleReg o then s.writeIdle fd a e
    else if o = 0x1928 then
      (if (Reg.fdReturnCtlStart fd).extract v = 1 then s.returnStart fd ((Reg.fdReturnCtlPhys fd).extract e) else s.maskedWrite a v m)
    else if o = 0x1AB0 then
      (if (Reg.fdShdPullStart fd).extract v = 1 then s.pullStart fd ((Reg.fdShdPullOwner fd).extract e) ((Reg.fdShdPullStep fd).extract e)
       else s.maskedWrite a v m)
    else s.maskedWrite a v m
  else
    let p := (o - 0x20000) / 0x1000
    let i := (o - 0x20000) % 0x1000
    let b := stnBase fd p
    if i = 0xE00 then s.rbSelect q fd p e
    else if i = 0 then
      let s := s.stnWrite fd p 0 e
      if (Reg.stnCtlStep b).extract v = 1 then
        (match s.logOf fd p with | some l => outState s (execStnStep (BitVec.ofNat 11 (fd * 128 + l)) s) | none => s)
      else s
    else if isStateReg i || isRngReg i then s.stnWrite fd p i e
    else s.maskedWrite a v m

/-- A write in a link die's or an ingest die's block. -/
def State.writeEdge (s : State) (a : Nat) (v e m : BitVec 64) : State :=
  let o := edgeOff a
  if a < 0x2200000 then
    if 0x10000 ≤ o ∧ o < 0x18000 ∧ o % 0x1000 = 0 then
      let k := (a - 0x2000000) / 0x100000 * 8 + (o - 0x10000) / 0x1000
      let keep := (Reg.lnkCfgEnable k).mask ||| (Reg.lnkCfgRejoin k).mask
      let s := s.maskedWrite a v (m &&& ~~~keep)
      let s := s.enablePort k (decide ((Reg.lnkCfgEnable k).extract e = 1))
      if isUplink k then s else s.rejoin k ((Reg.lnkCfgRejoin k).extract v)
    else s.maskedWrite a v m
  else if 0x100 ≤ o ∧ o < 0x200 then
    if 0x2300000 ≤ a then s
    else if o % 0x40 = 0x08 then
      let p := (o - 0x100) / 0x40
      if (Reg.ingJobCtlStart 0 p).extract v = 1 then s.ingStart p
      else if (Reg.ingJobCtlStop 0 p).extract v = 1 then s.ingStop p
      else s
    else s.maskedWrite a v m
  else if o = 0 then (s.maskedWrite a v m).igDeal
  else s.maskedWrite a v m

/-- What a write of `v`, in the bits `m` of the register at offset `a`, does for a requester that reaches it. -/
def State.bar0Write (s : State) (q : Req) (a : Nat) (v m : BitVec 64) : State :=
  if m = 0 || !s.reaches q a then s
  else match regRowAt a with
  | none => s
  | some r =>
    let e := (v &&& m) ||| (s.reg a &&& ~~~m &&& BitVec.ofNat 64 r.rw)
    match fdOfAddr a, setOfAddr a with
    | some fd, _ => s.writeFd q fd a v e m
    | _, some f => s.writeSet q f a v e m
    | _, _ =>
      if a < 0x100000 then s.writeGlb q a v e m
      else if a < 0x700000 then s.writePkc a v e m
      else s.writeEdge a v e m

/-- A write access applied. -/
def State.writeAcc (s : State) (x : RegAcc) : State := s.bar0Write x.req (accBase x) (accVal x) (accMask x)

/-! ## The arbiter (R537, R538) -/

/-- Class of a register: 0 power and thermal, 1 reset, 2 execution. -/
def arbClass (a : Nat) : Nat :=
  if (0x100000 ≤ a ∧ a < 0x200000) ∨ a = 0x40 then 0
  else if a = 0x30 ∨ a = 0x20 then 1
  else match fdOfAddr a with
    | some _ => if (a - 0x1000000) % 0x100000 = 0x180 ∨ (a - 0x1000000) % 0x100000 = 0x188 then 1 else 2
    | none => 2

/-- Whether a write reaches a register of the module at all. -/
def State.lands (s : State) (x : RegAcc) : Bool := decide ((accMask x) ≠ 0) && s.reaches x.req (accBase x) && (regRowAt (accBase x)).isSome

/-- Two writes of one span, in order of arrival. -/
def State.arbitrate (s : State) (x y : RegAcc) : State :=
  if decide (x.req = .mgt) = decide (y.req = .mgt) then (s.writeAcc x).writeAcc y
  else
    let g := if x.req = .mgt then x else y
    let h := if x.req = .mgt then y else x
    if (accBase x) = (accBase y) ∧ s.lands x ∧ s.lands y then
      let c := arbClass (accBase x)
      let keep := if c = 2 then h else g
      let lost := if c = 2 then g else h
      (s.arbDiscard lost.req c lost.addr.toNat (accVal lost)).writeAcc keep
    else (s.writeAcc g).writeAcc h

/-- REGISTER_WRITE: a write of a BAR0 register, and, if another arrives before the arbiter has applied it, that one too. -/
def execRegisterWrite (x : RegAcc) (y : Option RegAcc) (s : State) : Out :=
  .next (match y with
    | none => s.writeAcc x
    | some y => s.arbitrate x y)

/-! ## Register messages of management (R544) -/

/-- Whether an offset holds a traverse queue register that management does not write. -/
def isTqReg (a : Nat) : Bool :=
  match setOfAddr a with
  | some _ => decide ((a - 0x501000) % 0x1000 < 0x40 ∧ (a - 0x501000) % 0x20 < 0x18)
  | none => false

/-- Whether an offset lies in the readback window of a station that is closed to management. -/
def State.rbWindowShut (s : State) (a : Nat) : Bool :=
  match fdOfAddr a with
  | some fd =>
    let o := (a - 0x1000000) % 0x100000
    decide (0x20000 ≤ o) && decide (o < 0xA8000) && decide (0xF00 ≤ (o - 0x20000) % 0x1000)
      && s.rbShut .mgt fd (s.rd (Reg.stnRbSelObject (stnBase fd ((o - 0x20000) / 0x1000))))
  | none => false

/-- MGT_REG_READ: a vendor message reads a BAR0 register: status 0 done, 1 denied, 2 range. -/
def execMgtRegRead (a : BitVec 32) (s : State) : Out :=
  let n := a.toNat
  .next (if s.down then s.send ⟨.mgtResponse, [1], leBytes 8 0⟩
  else if 0x4000000 ≤ n ∨ n % 8 ≠ 0 then s.send ⟨.mgtResponse, [2], leBytes 8 0⟩
  else if s.rbWindowShut n then s.send ⟨.mgtResponse, [1], leBytes 8 0⟩
  else (s.afterRead .mgt n allBits).send ⟨.mgtResponse, [0], leBytes 8 (s.bar0Reg .mgt n).toNat⟩)

/-- MGT_REG_WRITE: a vendor message writes a BAR0 register. -/
def execMgtRegWrite (a : BitVec 32) (v : BitVec 64) (s : State) : Out :=
  let n := a.toNat
  .next (if s.down then s.send ⟨.mgtResponse, [1], []⟩
  else if 0x4000000 ≤ n ∨ n % 8 ≠ 0 then s.send ⟨.mgtResponse, [2], []⟩
  else if isTqReg n then s.send ⟨.mgtResponse, [1], []⟩
  else (s.bar0Write .mgt n v allBits).send ⟨.mgtResponse, [0], []⟩)

/-! ## The PKC's I²C segments (R545) -/

/-- EV_I2C_SEG_ISOLATED (R551). -/
def evI2cIsolated : Nat := 0x4402

/-- I2C_BUS_CLEAR: the PKC clocks a segment's data line free after a reset of its controller. -/
def execI2cBusClear (s : State) : Out := .next (if s.down then s else s.inc Reg.mgtI2cStatClears)

/-- I2C_SEGMENT_ISOLATE: a segment's data line is still low 35 ms after the first pulse; with segment 1 or 2 the entry
counts as lost (R472). -/
def execI2cSegmentIsolate (seg : BitVec 2) (s : State) : Out :=
  let n := seg.toNat
  .next (if s.down || bitOf (s.rd Reg.mgtI2cStatIsolated) n then s
  else
    let s := (s.wr ⟨Reg.mgtI2cStatIsolated.addr, n, 1⟩ 1).raise evI2cIsolated 4 [n]
    if n = 1 ∨ n = 2 then outState s (execEntryLoss (BitVec.ofNat 2 (n - 1)) 2 s) else s)

/-- I2C_RESTORE: RESTORE bits are written; `free` has the segments whose line the bus clear releases. -/
def execI2cRestore (mask free : BitVec 4) (s : State) : Out := .next (if s.down then s else s.i2cRestore mask.toNat free.toNat)

end Sys2Proof.Machine
end

