-- ==== Sys2Proof/Machine/Mgmt.lean ====
section
/-! DEFINITION. Management's messages over MCTP (R539 to R544, R565): control, PLDM base and monitoring, SPDM. An answer is
an `mctpResponse` of message type, command and completion code. Command and completion codes are those of the standards
that R541 and R542 name, and what those standards define and the spec does not give is free (PRESUMED, log 42). -/

namespace Sys2Proof.Machine

/-- MCTP message types (R541). -/
def mtControl : Nat := 0x00
def mtPldm : Nat := 0x01
def mtSpdm : Nat := 0x05

/-- An answer sent, unless the module is down. -/
def State.answer (s : State) (typ cmd cc : Nat) (data : List Byte) : State :=
  if s.down then s else s.send ⟨.mctpResponse, [typ, cmd, cc], data⟩

/-- `n` free bytes of a standard's answer. -/
def stdBytes (typ cmd : Nat) (args : List Nat) (n : Nat) : List Byte := ((Config.mgtBytes typ cmd args) ++ List.replicate n 0).take n

/-- Completion codes: invalid data, invalid PLDM type, invalid sensor or effecter. -/
def ccInvalid : Nat := 0x02
def ccPldmType : Nat := 0x83
def ccNoSensor : Nat := 0x80

/-- SMBUS_TIMEOUT: the clock has been low for 35 ms; the message in progress is discarded (R540). -/
def execSmbusTimeout (s : State) : Out := .next (if s.down then s else s.inc Reg.mgtSmbStatTimeouts)

/-! ## MCTP control (R541) -/

/-- SET_ENDPOINT_ID: 0 and 0xFF are no endpoint IDs. -/
def execSetEndpointId (eid : BitVec 8) (s : State) : Out :=
  .next (if s.down then s
  else if eid = 0 ∨ eid = 0xFF then s.answer mtControl 0x01 ccInvalid []
  else { s with mgt := { s.mgt with eid := eid.toNat } }.answer mtControl 0x01 0 [eid])

/-- GET_ENDPOINT_ID. -/
def execGetEndpointId (s : State) : Out := .next (s.answer mtControl 0x02 0 [BitVec.ofNat 8 s.mgt.eid])

/-- GET_ENDPOINT_UUID. -/
def execGetEndpointUuid (s : State) : Out := .next (s.answer mtControl 0x03 0 (stdBytes mtControl 0x03 [] 16))

/-- GET_MCTP_VERSION_SUPPORT of a message type. -/
def execGetMctpVersionSupport (typ : BitVec 8) (s : State) : Out :=
  .next (if [0x00, 0x01, 0x05, 0x7E, 0xFF].contains typ.toNat then s.answer mtControl 0x04 0 (stdBytes mtControl 0x04 [typ.toNat] 4)
  else s.answer mtControl 0x04 0x80 [])

/-- GET_MESSAGE_TYPE_SUPPORT: control, PLDM, SPDM, vendor defined (PCI). -/
def execGetMessageTypeSupport (s : State) : Out := .next (s.answer mtControl 0x05 0 [0x00, 0x01, 0x05, 0x7E])

/-- GET_VENDOR_DEFINED_MESSAGE_SUPPORT: PCI vendor 0x1F5C (R544). -/
def execGetVendorDefinedMessageSupport (s : State) : Out := .next (s.answer mtControl 0x06 0 (leBytes 2 0x1F5C))

/-! ## PLDM base and monitoring (R542) -/

/-- Commands of a PLDM type (R542), RequestFirmwareData and PlatformEventMessage, which the module sends, included. -/
def pldmCommands (typ : Nat) : Option (List Nat) :=
  if typ = 0 then some [0x01, 0x02, 0x03, 0x04, 0x05]
  else if typ = 2 then some [0x04, 0x0A, 0x0B, 0x0D, 0x11, 0x21, 0x31, 0x32, 0x50, 0x51]
  else if typ = 5 then some [0x01, 0x02, 0x10, 0x13, 0x14, 0x15, 0x16, 0x17, 0x18, 0x1A, 0x1B, 0x1C, 0x1D]
  else none

/-- A PLDM answer: its type goes above its command. -/
def State.pldm (s : State) (typ cmd cc : Nat) (data : List Byte) : State := s.answer mtPldm (typ * 256 + cmd) cc data

/-- SETTID: 0 and 0xFF are no terminus IDs. -/
def execSettid (tid : BitVec 8) (s : State) : Out :=
  .next (if s.down then s
  else if tid = 0 ∨ tid = 0xFF then s.pldm 0 0x01 ccInvalid []
  else { s with mgt := { s.mgt with tid := tid.toNat } }.pldm 0 0x01 0 [])

/-- GETTID. -/
def execGettid (s : State) : Out := .next (s.pldm 0 0x02 0 [BitVec.ofNat 8 s.mgt.tid])

/-- GETPLDMVERSION of a type. -/
def execGetpldmversion (typ : BitVec 8) (s : State) : Out :=
  .next (if (pldmCommands typ.toNat).isSome then s.pldm 0 0x03 0 (stdBytes mtPldm 0x03 [typ.toNat] 4) else s.pldm 0 0x03 ccPldmType [])

/-- GETPLDMTYPES: 0, 2 and 5. -/
def execGetpldmtypes (s : State) : Out := .next (s.pldm 0 0x04 0 (leBytes 8 0x25))

/-- GETPLDMCOMMANDS of a type, as a mask of 256 bits. -/
def execGetpldmcommands (typ : BitVec 8) (s : State) : Out :=
  .next (match pldmCommands typ.toNat with
    | some cs => s.pldm 0 0x05 0 (leBytes 32 (cs.foldl (fun a c => a + 2 ^ c) 0))
    | none => s.pldm 0 0x05 ccPldmType [])

/-- GETPDRREPOSITORYINFO. -/
def execGetpdrrepositoryinfo (s : State) : Out := .next (s.pldm 2 0x50 0 (stdBytes mtPldm 0x250 [] 40))

/-- GETPDR of a record handle. -/
def execGetpdr (handle : BitVec 32) (s : State) : Out := .next (s.pldm 2 0x51 0 (Config.mgtBytes mtPldm 0x251 [handle.toNat]))

/-- The numeric sensors in the order of R542: input power, voltages and currents of entries A and B, the FD junctions, the
stack temperatures, the input energy. -/
def State.sensor (s : State) (id : Nat) : Option Nat :=
  if id = 0 then some (s.rd Reg.pwrInputWatts)
  else if id = 1 then some (s.rd Reg.pwrInAMv)
  else if id = 2 then some (s.rd Reg.pwrInACurrent)
  else if id = 3 then some (s.rd Reg.pwrInBMv)
  else if id = 4 then some (s.rd Reg.pwrInBCurrent)
  else if id < 21 then some (s.rd (Reg.pwrFdVTj (id - 5)))
  else if id < 37 then some (s.rd (Reg.t1TempTemp (id - 21)))
  else if id = 37 then some s.pwr.met.ein
  else none

/-- GETSENSORREADING of a numeric sensor. -/
def execGetsensorreading (id : BitVec 16) (s : State) : Out :=
  .next (match s.sensor id.toNat with
    | some v => s.pldm 2 0x11 0 (leBytes 8 v)
    | none => s.pldm 2 0x11 ccNoSensor [])

/-- GETSTATESENSORREADINGS: R542 names no state sensor. -/
def execGetstatesensorreadings (s : State) : Out := .next (s.pldm 2 0x21 ccNoSensor [])

/-- SETNUMERICEFFECTERVALUE of effecter 0, PWR_CAP_MGT. -/
def execSetnumericeffectervalue (id v : BitVec 16) (s : State) : Out :=
  .next (if s.down then s
  else if id = 0 then (((s.wr Reg.pwrCapMgtWatts v.toNat).refreshCap.formCaps false).retarget).pldm 2 0x31 0 []
  else s.pldm 2 0x31 ccNoSensor [])

/-- GETNUMERICEFFECTERVALUE. -/
def execGetnumericeffectervalue (id : BitVec 16) (s : State) : Out :=
  .next (if id = 0 then s.pldm 2 0x32 0 (leBytes 2 (s.rd Reg.pwrCapMgtWatts)) else s.pldm 2 0x32 ccNoSensor [])

/-- SETEVENTRECEIVER: events are sent to an endpoint, polled by it, or (`mode` 0) kept; those that wait are sent first. -/
def execSeteventreceiver (mode : BitVec 2) (eid : BitVec 8) (s : State) : Out :=
  .next (if s.down then s
  else if mode = 0 then { s with pldmReceiver := none }.pldm 2 0x04 0 []
  else if mode = 1 then
    let s := { s with pldmReceiver := some (eid.toNat, true) }.pldm 2 0x04 0 []
    s.platQueue.foldl (fun s r => s.send ⟨.platformEvent, [eid.toNat], r⟩) { s with platQueue := [] }
  else { s with pldmReceiver := some (eid.toNat, false) }.pldm 2 0x04 0 [])

/-- POLLFORPLATFORMEVENTMESSAGE: the oldest record that waits, or none. -/
def execPollforplatformeventmessage (s : State) : Out :=
  .next (if s.down then s
  else match s.platQueue with
    | [] => s.pldm 2 0x0B 0 []
    | r :: rest => { s with platQueue := rest }.pldm 2 0x0B 0 r)

/-- EVENTMESSAGEBUFFERSIZE. -/
def execEventmessagebuffersize (n : BitVec 16) (s : State) : Out :=
  .next (if s.down then s else { s with mgt := { s.mgt with evBuf := n.toNat } }.pldm 2 0x0D 0 (leBytes 2 n.toNat))

/-! ## SPDM (R544, R560, R565) -/

/-- Whether SPDM answers a request: the RoT serves, and once decommissioned only GET_VERSION and GET_MEASUREMENTS do. -/
def State.spdmServes (s : State) (dead : Bool) : Bool :=
  s.rotServes && (dead || decide (s.rd Reg.secStatusLifecycle ≠ lcDecommissioned))

/-- An SPDM answer; a request not served gives an error answer. -/
def State.spdm (s : State) (dead : Bool) (cmd : Nat) (data : List Byte) : State :=
  if s.spdmServes dead then s.answer mtSpdm cmd 0 data else s.answer mtSpdm cmd 0xFF []

/-- BODY_DIGEST of the image that die `i` (0 PKC, 1 IG0, 2 IG1) runs; none where it runs none. -/
def State.runDigest (s : State) (i : Nat) : List Byte :=
  let c := if i = 0 then 0 else 1
  match s.fw.run.getD i none with
  | none => []
  | some a => ((s.fw.imgs.getD (2 * c + a) FwImg.none').digest).getD (Config.factoryDigest c)

/-- The alias key's signature of a message (R558). -/
def State.aliasSign (s : State) (msg : List Byte) : List Byte :=
    Config.aliasSign ((s.fw.imgs.getD ((s.fw.run.getD 0 none).getD 0) FwImg.none').digest) msg

/-- A measurement block (R565). -/
def State.measurement (s : State) (i : Nat) : List Byte :=
  if i = 1 then stdBytes mtSpdm 0xE0 [1] 48
  else if i = 2 then s.runDigest 0
  else if i = 3 then s.runDigest 1
  else if i = 4 then s.runDigest 2
  else if i = 5 then leBytes 8 ((s.reg Reg.secStatusLifecycle.addr).toNat % 8) ++ leBytes 8 (s.reg Reg.secLockLock.addr).toNat
    ++ leBytes 8 (s.reg Reg.secKeysErfRevoked.addr).toNat
  else if i = 6 then leBytes 1 (s.rd Reg.secGrantsScope) ++ s.sec.signers.flatMap (fun (e : Nat × Nat) => leBytes 1 e.1 ++ leBytes 1 e.2)
  else if i = 7 then leBytes 8 (s.reg Reg.secSvnPkcFused.addr).toNat
  else if i = 8 then sha384 ((List.range 4).flatMap (fun j => Config.slotDigest (4 + j)))
  else []

/-- GET_VERSION: SPDM 1.3. -/
def execGetVersion (s : State) : Out := .next (s.spdm true 0x84 [0x13])

/-- GET_CAPABILITIES. -/
def execGetCapabilities (s : State) : Out := .next (s.spdm false 0xE1 (stdBytes mtSpdm 0xE1 [] 8))

/-- NEGOTIATE_ALGORITHMS: ECDSA P-384 and SHA-384. -/
def execNegotiateAlgorithms (s : State) : Out := .next (s.spdm false 0xE3 (stdBytes mtSpdm 0xE3 [] 16))

/-- The certificate chain of a slot: 0 ends in the device certificate, 1 in the alias certificate beneath it. -/
def State.certChain (s : State) (slot : Nat) : List Byte :=
  Config.mgtBytes mtSpdm 0x82 (if slot = 0 then [0] else 1 :: (s.runDigest 0).map (·.toNat))

/-- GET_DIGESTS: of the two chains. -/
def execGetDigests (s : State) : Out := .next (s.spdm false 0x81 (sha384 (s.certChain 0) ++ sha384 (s.certChain 1)))

/-- GET_CERTIFICATE: part of a chain. -/
def execGetCertificate (slot : BitVec 1) (off len : BitVec 16) (s : State) : Out :=
  .next (s.spdm false 0x82 (((s.certChain slot.toNat).drop off.toNat).take len.toNat))

/-- CHALLENGE: answered with a signature of the alias key over the chain's digest and the nonce. -/
def execChallenge (slot : BitVec 1) (nonce : List Byte) (s : State) : Out :=
  let h := sha384 (s.certChain slot.toNat)
  .next (s.spdm false 0x83 (h ++ s.aliasSign (h ++ nonce)))

/-- GET_MEASUREMENTS: one block, or all (0xFF), or their number (0); signed with the alias key, or by no key once
decommissioned. -/
def execGetMeasurements (idx : BitVec 8) (nonce : List Byte) (s : State) : Out :=
  let m := if idx = 0 then [8] else if idx = 0xFF then (List.range 8).flatMap (fun i => s.measurement (i + 1)) else s.measurement idx.toNat
  let sig := if s.rd Reg.secStatusLifecycle = lcDecommissioned then [] else s.aliasSign (m ++ nonce)
  .next (s.spdm true 0xE0 (m ++ sig))

end Sys2Proof.Machine
end

