-- ==== Sys2Proof/Machine/Fwup.lean ====
section
/-! DEFINITION. PLDM firmware update (R542, R543, R561, R562): the update's states and the order of its commands are
DSP0267's (PRESUMED, log 42). -/

namespace Sys2Proof.Machine

/-- States of the update. -/
def upIdle : Nat := 0
def upLearn : Nat := 1
def upReady : Nat := 2
def upDownload : Nat := 3
def upVerify : Nat := 4
def upApply : Nat := 5

/-- Completion codes of DSP0267. -/
def ccNotInUpdate : Nat := 0x80
def ccInUpdate : Nat := 0x81
def ccOutOfRange : Nat := 0x82
def ccState : Nat := 0x84
def ccIncomplete : Nat := 0x85

/-- The firmware state changed. -/
def State.updFw (s : State) (f : Fw → Fw) : State := { s with fw := f s.fw }

/-- Why a command that needs update state `st` is refused; 0 if it is not. -/
def State.upRefuse (s : State) (st : Nat) : Nat := if s.fw.upd = st then 0 else if s.fw.upd = upIdle then ccNotInUpdate else ccState

/-- The slot of component `c` (0 PKC, 1 ingest) that an update writes: the one not last activated. -/
def Fw.spare (f : Fw) (c : Nat) : Nat := 1 - f.active.getD c 0

/-- VERSION of an image, 32 bytes. -/
def versionOf (x : FwImg) : List Byte := (x.version ++ List.replicate 32 0).take 32

/-- Active and pending version strings of a component: pending where an image is applied or has still to run. -/
def State.fwVersions (s : State) (c : Nat) : List Byte :=
  let img := fun (a : Nat) => versionOf (s.fw.imgs.getD (2 * c + a) FwImg.none')
  let run := s.fw.run.getD c none
  (match run with | some a => img a | none => List.replicate 32 0)
    ++ (if s.fw.applied.contains c then img (s.fw.spare c)
        else if c = 1 ∧ s.fw.pend.isSome then img (s.fw.active.getD 1 0) else List.replicate 32 0)

/-- QUERYDEVICEIDENTIFIERS: Vendor ID 0x1F5C and Device ID 0x7420 (R525). -/
def execQuerydeviceidentifiers (s : State) : Out := .next (s.pldm 5 0x01 0 (leBytes 2 0x1F5C ++ leBytes 2 0x7420))

/-- GETFIRMWAREPARAMETERS: active and pending versions of components 0x0001 and 0x0002. -/
def execGetfirmwareparameters (s : State) : Out := .next (s.pldm 5 0x02 0 (s.fwVersions 0 ++ s.fwVersions 1))

/-- REQUESTUPDATE. -/
def execRequestupdate (s : State) : Out :=
  .next (if s.down then s
  else if s.fw.upd ≠ upIdle then s.pldm 5 0x10 ccInUpdate []
  else (s.updFw (fun f => { f with upd := upLearn, table := [], applied := [] })).pldm 5 0x10 0 [])

/-- PASSCOMPONENTTABLE: an entry of the table, `last` its end. -/
def execPasscomponenttable (comp : BitVec 16) (last : Bool) (s : State) : Out :=
  let r := s.upRefuse upLearn
  .next (if s.down then s
  else if r ≠ 0 then s.pldm 5 0x13 r []
  else (s.updFw (fun f => { f with table := f.table ++ [comp.toNat], upd := if last then upReady else upLearn })).pldm 5 0x13 0 [])

/-- UPDATECOMPONENT: the transfer of a component of the table begins. -/
def execUpdatecomponent (comp : BitVec 16) (s : State) : Out :=
  let r := s.upRefuse upReady
  .next (if s.down then s
  else if r ≠ 0 then s.pldm 5 0x14 r []
  else if !s.fw.table.contains comp.toNat ∨ comp = 0 ∨ 2 < comp.toNat then s.pldm 5 0x14 ccOutOfRange []
  else (s.updFw (fun f => { f with comp := comp.toNat, image := [], upd := upDownload })).pldm 5 0x14 0 [])

/-- A report the module sends, with its result. -/
def State.fwReport (s : State) (cmd result : Nat) : State := s.pldm 5 cmd result []

/-- TRANSFERCOMPLETE: the image has been transferred, or the transfer failed. -/
def execTransfercomplete (result : BitVec 8) (image : List Byte) (s : State) : Out :=
  .next (if s.down ∨ s.fw.upd ≠ upDownload then s
  else if result = 0 then (s.updFw (fun f => { f with image := image, upd := upVerify })).fwReport 0x16 0
  else (s.updFw (fun f => { f with upd := upReady })).fwReport 0x16 result.toNat)

/-- Whether the RoT accepts an image of component `comp` (R562). -/
def State.imageAccepted (s : State) (comp : Nat) (b : List Byte) : Bool :=
  let h := b.take 512
  let body := b.drop 512
  let flags := le h 7 1
  let dig := sha384 (h.take 96)
  let hasOwner := bitOf flags 0
  s.rotServes && decide (512 ≤ b.length)
    && decide (le h 0 4 = 0x31495746) && decide (le h 4 2 = comp) && decide (flags / 32 = 0) && zeros h 44 4 && zeros h 480 32
    && decide (le h 6 1 < 64) && decide ((if comp = 1 then s.rd Reg.secSvnPkcFused else s.rd Reg.secSvnIngFused) ≤ le h 6 1)
    && decide (le h 40 4 = body.length) && decide ((h.drop 48).take 48 = sha384 body)
    && s.keyOk 1 (flags / 2 % 4) ((h.drop 288).take 96) && ecdsaOk ((h.drop 288).take 96) dig ((h.drop 96).take 96)
    && (!s.flag Reg.secKeysOwnerCosign
        || (hasOwner && s.keyOk 2 (flags / 8 % 4) ((h.drop 384).take 96) && ecdsaOk ((h.drop 384).take 96) dig ((h.drop 192).take 96)))

/-- The image a slot holds once written (R561). -/
def fwImgOf (b : List Byte) : FwImg :=
  { present := true, svn := le b 6 1, version := (b.drop 8).take 32, digest := some ((b.drop 48).take 48), erf := le b 7 1 / 2 % 4
    owner := if bitOf (le b 7 1) 0 then some (le b 7 1 / 8 % 4) else none }

/-- VERIFYCOMPLETE: the RoT has verified the image (R562); one that fails cannot be activated. -/
def execVerifycomplete (s : State) : Out :=
  .next (if s.down ∨ s.fw.upd ≠ upVerify then s
  else if s.imageAccepted s.fw.comp s.fw.image then (s.updFw (fun f => { f with upd := upApply })).fwReport 0x17 0
  else (s.updFw (fun f => { f with upd := upReady, image := [] })).fwReport 0x17 1)

/-- APPLYCOMPLETE: the image is in its component's other slot, or writing it failed. -/
def execApplycomplete (result : BitVec 8) (s : State) : Out :=
  .next (if s.down ∨ s.fw.upd ≠ upApply then s
  else if result ≠ 0 then (s.updFw (fun f => { f with upd := upReady, image := [] })).fwReport 0x18 result.toNat
  else
    let c := s.fw.comp - 1
    (s.updFw (fun f => { f with
      imgs := f.imgs.set (2 * c + f.spare c) (fwImgOf f.image),
      applied := f.applied ++ [c], image := [], upd := upReady })).fwReport 0x18 0)

/-- An applied component activated (R543); `ok`: its image starts. -/
def State.activate (s : State) (c : Nat) (ok : Bool) : State :=
  let a := s.fw.spare c
  if c = 1 then (s.updFw (fun f => { f with active := [f.active.getD 0 0, a], pend := some ok })).ingSwap
  else if ok then
    ((s.updFw (fun f => { f with active := [a, f.active.getD 1 0], run := some a :: f.run.drop 1 })).showRun).raise evFwActivated 4
      (1 :: versionWords (s.fw.imgs.getD a FwImg.none'))
  else s.raise evFwRollback 4 [1]

/-- ACTIVATEFIRMWARE: the applied components change image, and go back to the previous one where the new one does not
start. -/
def execActivatefirmware (starts : BitVec 2) (s : State) : Out :=
  let r := s.upRefuse upReady
  .next (if s.down then s
  else if r ≠ 0 then s.pldm 5 0x1A r []
  else if s.fw.applied.isEmpty then s.pldm 5 0x1A ccIncomplete []
  else
    let cs := [0, 1].filter (fun c => s.fw.applied.contains c)
    (cs.foldl (fun s c => s.activate c (bitOf starts.toNat c))
        (s.updFw (fun f => { f with upd := upIdle, applied := [] }))).pldm 5 0x1A 0 [])

/-- GETSTATUS: the update's state. -/
def execGetstatus (s : State) : Out := .next (s.pldm 5 0x1B 0 [BitVec.ofNat 8 s.fw.upd])

/-- CANCELUPDATECOMPONENT. -/
def execCancelupdatecomponent (s : State) : Out :=
  .next (if s.down then s
  else if s.fw.upd = upDownload ∨ s.fw.upd = upVerify ∨ s.fw.upd = upApply then
    (s.updFw (fun f => { f with upd := upReady, image := [] })).pldm 5 0x1C 0 []
  else s.pldm 5 0x1C (if s.fw.upd = upIdle then ccNotInUpdate else ccState) [])

/-- CANCELUPDATE. -/
def execCancelupdate (s : State) : Out :=
  .next (if s.down then s
  else if s.fw.upd = upIdle then s.pldm 5 0x1D ccNotInUpdate []
  else (s.updFw (fun f => { f with upd := upIdle, table := [], image := [], applied := [] })).pldm 5 0x1D 0 [])

end Sys2Proof.Machine
end

