-- ==== Sys2Proof/Machine/Dispatch.lean ====
section
/-! DEFINITION. One arm per constructor of `Instr`: each calls its own meaning. -/

namespace Sys2Proof.Machine

def exec (i : Instr) (s : State) : Host.Outcome State Fault Refusal :=
  match i with
  | .nop stn f => Sys2Proof.Machine.execNop stn f s
  | .end_ stn f => Sys2Proof.Machine.execEnd stn f s
  | .leg stn f => Sys2Proof.Machine.execLeg stn f s
  | .jmp stn f => Sys2Proof.Machine.execJmp stn f s
  | .loop stn f => Sys2Proof.Machine.execLoop stn f s
  | .select stn f => Sys2Proof.Machine.execSelect stn f s
  | .trap stn f => Sys2Proof.Machine.execTrap stn f s
  | .sli stn f => Sys2Proof.Machine.execSli stn f s
  | .slui stn f => Sys2Proof.Machine.execSlui stn f s
  | .sadd stn f => Sys2Proof.Machine.execSadd stn f s
  | .ssub stn f => Sys2Proof.Machine.execSsub stn f s
  | .smul stn f => Sys2Proof.Machine.execSmul stn f s
  | .slogic stn f => Sys2Proof.Machine.execSlogic stn f s
  | .sshift stn f => Sys2Proof.Machine.execSshift stn f s
  | .sminmax stn f => Sys2Proof.Machine.execSminmax stn f s
  | .sld stn f => Sys2Proof.Machine.execSld stn f s
  | .sst stn f => Sys2Proof.Machine.execSst stn f s
  | .smfs stn f => Sys2Proof.Machine.execSmfs stn f s
  | .smfp stn f => Sys2Proof.Machine.execSmfp stn f s
  | .dld stn f => Sys2Proof.Machine.execDld stn f s
  | .dst stn f => Sys2Proof.Machine.execDst stn f s
  | .dset stn f => Sys2Proof.Machine.execDset stn f s
  | .dadv stn f => Sys2Proof.Machine.execDadv stn f s
  | .dcopy stn f => Sys2Proof.Machine.execDcopy stn f s
  | .dget stn f => Sys2Proof.Machine.execDget stn f s
  | .copy stn f => Sys2Proof.Machine.execCopy stn f s
  | .cvld stn f => Sys2Proof.Machine.execCvld stn f s
  | .tld stn f => Sys2Proof.Machine.execTld stn f s
  | .tst stn f => Sys2Proof.Machine.execTst stn f s
  | .tclr stn f => Sys2Proof.Machine.execTclr stn f s
  | .mpass stn f => Sys2Proof.Machine.execMpass stn f s
  | .melem stn f => Sys2Proof.Machine.execMelem stn f s
  | .chin stn f => Sys2Proof.Machine.execChin stn f s
  | .chout stn f => Sys2Proof.Machine.execChout stn f s
  | .vld stn f => Sys2Proof.Machine.execVld stn f s
  | .vst stn f => Sys2Proof.Machine.execVst stn f s
  | .varith stn f => Sys2Proof.Machine.execVarith stn f s
  | .vfma stn f => Sys2Proof.Machine.execVfma stn f s
  | .vfunc stn f => Sys2Proof.Machine.execVfunc stn f s
  | .vcmp stn f => Sys2Proof.Machine.execVcmp stn f s
  | .vsel stn f => Sys2Proof.Machine.execVsel stn f s
  | .vred stn f => Sys2Proof.Machine.execVred stn f s
  | .vcvt stn f => Sys2Proof.Machine.execVcvt stn f s
  | .vgather stn f => Sys2Proof.Machine.execVgather stn f s
  | .spmm stn f => Sys2Proof.Machine.execSpmm stn f s
  | .spmmT stn f => Sys2Proof.Machine.execSpmmT stn f s
  | .recon stn f => Sys2Proof.Machine.execRecon stn f s
  | .prune stn f => Sys2Proof.Machine.execPrune stn f s
  | .regrow stn f => Sys2Proof.Machine.execRegrow stn f s
  | .fence stn f => Sys2Proof.Machine.execFence stn f s
  | .barrier stn f => Sys2Proof.Machine.execBarrier stn f s
  | .waitmk stn f => Sys2Proof.Machine.execWaitmk stn f s
  | .waitmkMarkReached stn => Sys2Proof.Machine.execWaitmkMarkReached stn s
  | .lockstepMarkComplete p group => Sys2Proof.Machine.execLockstepMarkComplete p group s
  | .signal stn f => Sys2Proof.Machine.execSignal stn f s
  | .signalDelivery source target counter => Sys2Proof.Machine.execSignalDelivery source target counter s
  | .waitsig stn f => Sys2Proof.Machine.execWaitsig stn f s
  | .coll stn f => Sys2Proof.Machine.execColl stn f s
  | .collwait stn f => Sys2Proof.Machine.execCollwait stn f s
  | .lasum stn f => Sys2Proof.Machine.execLasum stn f s
  | .rngset stn f => Sys2Proof.Machine.execRngset stn f s
  | .rand stn f => Sys2Proof.Machine.execRand stn f s
  | .sample stn f => Sys2Proof.Machine.execSample stn f s
  | .quant stn f => Sys2Proof.Machine.execQuant stn f s
  | .digest stn f => Sys2Proof.Machine.execDigest stn f s
  | .engineQueueDispatch stn eng => Sys2Proof.Machine.execEngineQueueDispatch stn eng s
  | .chainTransferArrival dest => Sys2Proof.Machine.execChainTransferArrival dest s
  | .tqDoorbell req p q tail => Sys2Proof.Machine.execTqDoorbell req p q tail s
  | .submit p => Sys2Proof.Machine.execSubmit p s
  | .abandon p => Sys2Proof.Machine.execAbandon p s
  | .resume p => Sys2Proof.Machine.execResume p s
  | .resumeBarrier p => Sys2Proof.Machine.execResumeBarrier p s
  | .auRelease p => Sys2Proof.Machine.execAuRelease p s
  | .traverseLoadingEnd p => Sys2Proof.Machine.execTraverseLoadingEnd p s
  | .traverseStart p => Sys2Proof.Machine.execTraverseStart p s
  | .stnHaltWrite stn halt => Sys2Proof.Machine.execStnHaltWrite stn halt s
  | .stnStep stn => Sys2Proof.Machine.execStnStep stn s
  | .stnStateRegWrite stn off v => Sys2Proof.Machine.execStnStateRegWrite stn off v s
  | .stnRngRegWrite stn off v => Sys2Proof.Machine.execStnRngRegWrite stn off v s
  | .rcRegisterRead x => Sys2Proof.Machine.execRcRegisterRead x s
  | .registerWrite x y => Sys2Proof.Machine.execRegisterWrite x y s
  | .parcelCfgWrite q split => Sys2Proof.Machine.execParcelCfgWrite q split s
  | .parcelClearingEnd => Sys2Proof.Machine.execParcelClearingEnd s
  | .moduleNumWrite q v => Sys2Proof.Machine.execModuleNumWrite q v s
  | .memTrkCfgWrite fd v => Sys2Proof.Machine.execMemTrkCfgWrite fd v s
  | .poisonLogPop fd => Sys2Proof.Machine.execPoisonLogPop fd s
  | .pwrDistPop => Sys2Proof.Machine.execPwrDistPop s
  | .energySnap => Sys2Proof.Machine.execEnergySnap s
  | .powerCapWrite cap watts => Sys2Proof.Machine.execPowerCapWrite cap watts s
  | .voltageRequestWrite p mv => Sys2Proof.Machine.execVoltageRequestWrite p mv s
  | .merSetWrite v => Sys2Proof.Machine.execMerSetWrite v s
  | .merCtlWrite v => Sys2Proof.Machine.execMerCtlWrite v s
  | .resetCold req => Sys2Proof.Machine.execResetCold req s
  | .resetWarm req => Sys2Proof.Machine.execResetWarm req s
  | .resetParcel req mask => Sys2Proof.Machine.execResetParcel req mask s
  | .parcelResetComplete p => Sys2Proof.Machine.execParcelResetComplete p s
  | .stationReset fd m mask => Sys2Proof.Machine.execStationReset fd m mask s
  | .lpPark fd on => Sys2Proof.Machine.execLpPark fd on s
  | .lpStandby on => Sys2Proof.Machine.execLpStandby on s
  | .linkL1Entry k => Sys2Proof.Machine.execLinkL1Entry k s
  | .linkL1Wake k => Sys2Proof.Machine.execLinkL1Wake k s
  | .rbSelect req fd phys v => Sys2Proof.Machine.execRbSelect req fd phys v s
  | .evqHeadWrite req f r hd => Sys2Proof.Machine.execEvqHeadWrite req f r hd s
  | .evqCfgWrite req f r v => Sys2Proof.Machine.execEvqCfgWrite req f r v s
  | .msixHoldoffExpiry f r => Sys2Proof.Machine.execMsixHoldoffExpiry f r s
  | .bar2Access req off len data => Sys2Proof.Machine.execBar2Access req off len data s
  | .perstNChange active held => Sys2Proof.Machine.execPerstNChange active held s
  | .hostLinkDown => Sys2Proof.Machine.execHostLinkDown s
  | .hostLinkRestored => Sys2Proof.Machine.execHostLinkRestored s
  | .flrPf => Sys2Proof.Machine.execFlrPf s
  | .flrVf p => Sys2Proof.Machine.execFlrVf p s
  | .coldReset => Sys2Proof.Machine.execColdReset s
  | .startUpComplete rotOk good fails => Sys2Proof.Machine.execStartUpComplete rotOk good fails s
  | .entryLoss entry cause => Sys2Proof.Machine.execEntryLoss entry cause s
  | .entryRestore entry => Sys2Proof.Machine.execEntryRestore entry s
  | .rideThroughEnd entry => Sys2Proof.Machine.execRideThroughEnd entry s
  | .goDown cause => Sys2Proof.Machine.execGoDown cause s
  | .supplySample va vb ia ib inUj dieUj charge => Sys2Proof.Machine.execSupplySample va vb ia ib inUj dieUj charge s
  | .capControlLoop watts other model fds => Sys2Proof.Machine.execCapControlLoop watts other model fds s
  | .fdThermalSample fd temp => Sys2Proof.Machine.execFdThermalSample fd temp s
  | .stackThermalSample fd temp => Sys2Proof.Machine.execStackThermalSample fd temp s
  | .edgeDieThermalSample die temp => Sys2Proof.Machine.execEdgeDieThermalSample die temp s
  | .thermAlertNChange active held => Sys2Proof.Machine.execThermAlertNChange active held s
  | .haltNChange active held => Sys2Proof.Machine.execHaltNChange active held s
  | .pwrCapNChange active held => Sys2Proof.Machine.execPwrCapNChange active held s
  | .merPpsEdge => Sys2Proof.Machine.execMerPpsEdge s
  | .sidebandHeld10s j => Sys2Proof.Machine.execSidebandHeld10s j s
  | .meridianStampExchange k t1 t2 t3 t4 => Sys2Proof.Machine.execMeridianStampExchange k t1 t2 t3 t4 s
  | .merReferenceLoss => Sys2Proof.Machine.execMerReferenceLoss s
  | .merReferenceReturn => Sys2Proof.Machine.execMerReferenceReturn s
  | .resyncRound k t1 t2 t3 t4 => Sys2Proof.Machine.execResyncRound k t1 t2 t3 t4 s
  | .ptpSync mac domain seq => Sys2Proof.Machine.execPtpSync mac domain seq s
  | .ptpFollowUp seq sec ns => Sys2Proof.Machine.execPtpFollowUp seq sec ns s
  | .ptpDelayResp seq sec ns => Sys2Proof.Machine.execPtpDelayResp seq sec ns s
  | .linkTrainingComplete k lanes => Sys2Proof.Machine.execLinkTrainingComplete k lanes s
  | .hello k module port version credits t1 t2 t3 t4 => Sys2Proof.Machine.execHello k module port version credits t1 t2 t3 t4 s
  | .portNoLaneRetry k => Sys2Proof.Machine.execPortNoLaneRetry k s
  | .portEnable k en => Sys2Proof.Machine.execPortEnable k en s
  | .flitReceive k f => Sys2Proof.Machine.execFlitReceive k f s
  | .nakReceive k seq ack credit => Sys2Proof.Machine.execNakReceive k seq ack credit s
  | .replayTimeout k => Sys2Proof.Machine.execReplayTimeout k s
  | .portRetrainEnd k ok => Sys2Proof.Machine.execPortRetrainEnd k ok s
  | .laneRetire k lane uncorr lockLost => Sys2Proof.Machine.execLaneRetire k lane uncorr lockLost s
  | .laneRejoinRequest k mask => Sys2Proof.Machine.execLaneRejoinRequest k mask s
  | .laneRejoinTestEnd k lane ok => Sys2Proof.Machine.execLaneRejoinTestEnd k lane ok s
  | .uplinkDown plane => Sys2Proof.Machine.execUplinkDown plane s
  | .uplinkFrameReceive plane f => Sys2Proof.Machine.execUplinkFrameReceive plane f s
  | .e2eNakReceive plane peer vc seq => Sys2Proof.Machine.execE2eNakReceive plane peer vc seq s
  | .e2eRtoExpiry plane peer vc => Sys2Proof.Machine.execE2eRtoExpiry plane peer vc s
  | .e2eContextClose plane peer vc => Sys2Proof.Machine.execE2eContextClose plane peer vc s
  | .pfcFrameReceive plane enable quanta => Sys2Proof.Machine.execPfcFrameReceive plane enable quanta s
  | .pauseFrameReceive plane => Sys2Proof.Machine.execPauseFrameReceive plane s
  | .collSend p plan step => Sys2Proof.Machine.execCollSend p plan step s
  | .collRecvAdd p plan step module level node vals stream poison terms => Sys2Proof.Machine.execCollRecvAdd p plan step module level node vals stream poison terms s
  | .collRecvCopy p plan step module vals stream poison terms => Sys2Proof.Machine.execCollRecvCopy p plan step module vals stream poison terms s
  | .collDeliver p plan step => Sys2Proof.Machine.execCollDeliver p plan step s
  | .readyMessage p group mark module time => Sys2Proof.Machine.execReadyMessage p group mark module time s
  | .memReadRequest fd addr errs => Sys2Proof.Machine.execMemReadRequest fd addr errs s
  | .memWriteRequest fd addr data errs => Sys2Proof.Machine.execMemWriteRequest fd addr data errs s
  | .snoopReceive fd addr => Sys2Proof.Machine.execSnoopReceive fd addr s
  | .snoopAnswerReceive fd addr => Sys2Proof.Machine.execSnoopAnswerReceive fd addr s
  | .sharerEviction fd addr => Sys2Proof.Machine.execSharerEviction fd addr s
  | .evictionNoticeReceive fd addr => Sys2Proof.Machine.execEvictionNoticeReceive fd addr s
  | .evictionAckReceive fd addr => Sys2Proof.Machine.execEvictionAckReceive fd addr s
  | .readGrantReceive fd addr => Sys2Proof.Machine.execReadGrantReceive fd addr s
  | .atomicOperation fd op off data stn => Sys2Proof.Machine.execAtomicOperation fd op off data stn s
  | .remoteRequestReceive module tag addr len data sld stn poison => Sys2Proof.Machine.execRemoteRequestReceive module tag addr len data sld stn poison s
  | .domainDenialReceive addr => Sys2Proof.Machine.execDomainDenialReceive addr s
  | .addressRefusalReceive addr => Sys2Proof.Machine.execAddressRefusalReceive addr s
  | .dramInterfaceError fd tier2 ch ok => Sys2Proof.Machine.execDramInterfaceError fd tier2 ch ok s
  | .scrubStep fd tier errs => Sys2Proof.Machine.execScrubStep fd tier errs s
  | .edgeFlitReceive fd edge seq cls crcOk => Sys2Proof.Machine.execEdgeFlitReceive fd edge seq cls crcOk s
  | .meshRouterFault fd => Sys2Proof.Machine.execMeshRouterFault fd s
  | .auCommandTake fd => Sys2Proof.Machine.execAuCommandTake fd s
  | .adamw fd n => Sys2Proof.Machine.execAdamw fd n s
  | .sgdm fd n => Sys2Proof.Machine.execSgdm fd n s
  | .normsq fd => Sys2Proof.Machine.execNormsq fd s
  | .masksync fd n => Sys2Proof.Machine.execMasksync fd n s
  | .refresh fd n => Sys2Proof.Machine.execRefresh fd n s
  | .rollback fd n => Sys2Proof.Machine.execRollback fd n s
  | .snapcopy fd => Sys2Proof.Machine.execSnapcopy fd s
  | .snapend fd => Sys2Proof.Machine.execSnapend fd s
  | .snapArm p step => Sys2Proof.Machine.execSnapArm p step s
  | .snapshotShipDone p => Sys2Proof.Machine.execSnapshotShipDone p s
  | .shadowMessageReceive fd owner mode step q blocks slot => Sys2Proof.Machine.execShadowMessageReceive fd owner mode step q blocks slot s
  | .shadowAckReceive fd k step => Sys2Proof.Machine.execShadowAckReceive fd k step s
  | .shdPullStart fd owner step => Sys2Proof.Machine.execShdPullStart fd owner step s
  | .pullRequestReceive fd module owner stripe step => Sys2Proof.Machine.execPullRequestReceive fd module owner stripe step s
  | .pullResponseReceive fd stripe step => Sys2Proof.Machine.execPullResponseReceive fd stripe step s
  | .pullStripeReceive fd stripe ok mode data => Sys2Proof.Machine.execPullStripeReceive fd stripe ok mode data s
  | .peerDiscard p module => Sys2Proof.Machine.execPeerDiscard p module s
  | .stationError fd phys closing => Sys2Proof.Machine.execStationError fd phys closing s
  | .watchdogTimeout fd phys => Sys2Proof.Machine.execWatchdogTimeout fd phys s
  | .spareSelfTest fd phys ok => Sys2Proof.Machine.execSpareSelfTest fd phys ok s
  | .fdRetire fd => Sys2Proof.Machine.execFdRetire fd s
  | .returnStart fd phys => Sys2Proof.Machine.execReturnStart fd phys s
  | .returnTestDone fd ok => Sys2Proof.Machine.execReturnTestDone fd ok s
  | .ingestStart q => Sys2Proof.Machine.execIngestStart q s
  | .ingestStop q => Sys2Proof.Machine.execIngestStop q s
  | .ingestStepBegin q => Sys2Proof.Machine.execIngestStepBegin q s
  | .ingestStepComplete q => Sys2Proof.Machine.execIngestStepComplete q s
  | .nvmeReadComplete q b ok len data => Sys2Proof.Machine.execNvmeReadComplete q b ok len data s
  | .nvmeControllerLost ctrl => Sys2Proof.Machine.execNvmeControllerLost ctrl s
  | .nonceReq => Sys2Proof.Machine.execNonceReq s
  | .nonceExpiry => Sys2Proof.Machine.execNonceExpiry s
  | .tokenSubmit => Sys2Proof.Machine.execTokenSubmit s
  | .tokenLockoutEnd => Sys2Proof.Machine.execTokenLockoutEnd s
  | .decommission => Sys2Proof.Machine.execDecommission s
  | .grantExpiry sec => Sys2Proof.Machine.execGrantExpiry sec s
  | .relock => Sys2Proof.Machine.execRelock s
  | .svnCommit => Sys2Proof.Machine.execSvnCommit s
  | .toField => Sys2Proof.Machine.execToField s
  | .secLockWrite lock => Sys2Proof.Machine.execSecLockWrite lock s
  | .tenantClear mask wipe => Sys2Proof.Machine.execTenantClear mask wipe s
  | .tenantClearDone p => Sys2Proof.Machine.execTenantClearDone p s
  | .rotSelftestFailure => Sys2Proof.Machine.execRotSelftestFailure s
  | .tapInstructionSelect j => Sys2Proof.Machine.execTapInstructionSelect j s
  | .smbusTimeout => Sys2Proof.Machine.execSmbusTimeout s
  | .setEndpointId eid => Sys2Proof.Machine.execSetEndpointId eid s
  | .getEndpointId => Sys2Proof.Machine.execGetEndpointId s
  | .getEndpointUuid => Sys2Proof.Machine.execGetEndpointUuid s
  | .getMctpVersionSupport typ => Sys2Proof.Machine.execGetMctpVersionSupport typ s
  | .getMessageTypeSupport => Sys2Proof.Machine.execGetMessageTypeSupport s
  | .getVendorDefinedMessageSupport => Sys2Proof.Machine.execGetVendorDefinedMessageSupport s
  | .settid tid => Sys2Proof.Machine.execSettid tid s
  | .gettid => Sys2Proof.Machine.execGettid s
  | .getpldmversion typ => Sys2Proof.Machine.execGetpldmversion typ s
  | .getpldmtypes => Sys2Proof.Machine.execGetpldmtypes s
  | .getpldmcommands typ => Sys2Proof.Machine.execGetpldmcommands typ s
  | .getpdrrepositoryinfo => Sys2Proof.Machine.execGetpdrrepositoryinfo s
  | .getpdr handle => Sys2Proof.Machine.execGetpdr handle s
  | .getsensorreading id => Sys2Proof.Machine.execGetsensorreading id s
  | .getstatesensorreadings => Sys2Proof.Machine.execGetstatesensorreadings s
  | .setnumericeffectervalue id v => Sys2Proof.Machine.execSetnumericeffectervalue id v s
  | .getnumericeffectervalue id => Sys2Proof.Machine.execGetnumericeffectervalue id s
  | .seteventreceiver mode eid => Sys2Proof.Machine.execSeteventreceiver mode eid s
  | .pollforplatformeventmessage => Sys2Proof.Machine.execPollforplatformeventmessage s
  | .eventmessagebuffersize n => Sys2Proof.Machine.execEventmessagebuffersize n s
  | .querydeviceidentifiers => Sys2Proof.Machine.execQuerydeviceidentifiers s
  | .getfirmwareparameters => Sys2Proof.Machine.execGetfirmwareparameters s
  | .requestupdate => Sys2Proof.Machine.execRequestupdate s
  | .passcomponenttable comp last => Sys2Proof.Machine.execPasscomponenttable comp last s
  | .updatecomponent comp => Sys2Proof.Machine.execUpdatecomponent comp s
  | .transfercomplete result image => Sys2Proof.Machine.execTransfercomplete result image s
  | .verifycomplete => Sys2Proof.Machine.execVerifycomplete s
  | .applycomplete result => Sys2Proof.Machine.execApplycomplete result s
  | .activatefirmware starts => Sys2Proof.Machine.execActivatefirmware starts s
  | .getstatus => Sys2Proof.Machine.execGetstatus s
  | .cancelupdatecomponent => Sys2Proof.Machine.execCancelupdatecomponent s
  | .cancelupdate => Sys2Proof.Machine.execCancelupdate s
  | .mgtRegRead a => Sys2Proof.Machine.execMgtRegRead a s
  | .mgtRegWrite a v => Sys2Proof.Machine.execMgtRegWrite a v s
  | .getVersion => Sys2Proof.Machine.execGetVersion s
  | .getCapabilities => Sys2Proof.Machine.execGetCapabilities s
  | .negotiateAlgorithms => Sys2Proof.Machine.execNegotiateAlgorithms s
  | .getDigests => Sys2Proof.Machine.execGetDigests s
  | .getCertificate slot off len => Sys2Proof.Machine.execGetCertificate slot off len s
  | .challenge slot nonce => Sys2Proof.Machine.execChallenge slot nonce s
  | .getMeasurements idx nonce => Sys2Proof.Machine.execGetMeasurements idx nonce s
  | .i2cBusClear => Sys2Proof.Machine.execI2cBusClear s
  | .i2cSegmentIsolate seg => Sys2Proof.Machine.execI2cSegmentIsolate seg s
  | .i2cRestore mask free => Sys2Proof.Machine.execI2cRestore mask free s
  | .nfcGo v ok => Sys2Proof.Machine.execNfcGo v ok s
  | .nfcSessionExpiry => Sys2Proof.Machine.execNfcSessionExpiry s
  | .rfRequest block count write data field => Sys2Proof.Machine.execRfRequest block count write data field s
  | .uplinkUp plane => Sys2Proof.Machine.execUplinkUp plane s
  | .pfcPauseExpiry plane vc => Sys2Proof.Machine.execPfcPauseExpiry plane vc s
  | .tokenVerificationDone => Sys2Proof.Machine.execTokenVerificationDone s
  | .warmResetEnd => Sys2Proof.Machine.execWarmResetEnd s
  | .paceWindowEnd fd phys handshakes whole => Sys2Proof.Machine.execPaceWindowEnd fd phys handshakes whole s
  | .repairRecordMeterWrite => Sys2Proof.Machine.execRepairRecordMeterWrite s
  | .atsInvalidateRequest fn page count => Sys2Proof.Machine.execAtsInvalidateRequest fn page count s
  | .sriovVfEnable n => Sys2Proof.Machine.execSriovVfEnable n s
  | .nfcLockGapEnd ok => Sys2Proof.Machine.execNfcLockGapEnd ok s

end Sys2Proof.Machine
end

