-- ==== Sys2Proof/Machine/Tick.lean ====
section
/-! DEFINITION. What a tick of the meridian brings when no command waits (R43, R495, R498, R501, R546; log 21). -/

namespace Sys2Proof.Machine

/-- Part of the correction the servo still has to make is made: at `slewPpm` parts in a million of a tick of 250 ps. -/
def Mer.slew (m : Mer) : Mer :=
  if m.slewLeft = 0 then m
  else
    let acc := m.slewAcc + 250 * m.slewPpm
    let d := min (acc / 1000000) m.slewLeft.natAbs
    { m with slewAcc := acc % 1000000, slewLeft := if 0 < m.slewLeft then m.slewLeft - d else m.slewLeft + d }

/-- A port's flit slots as time passes (R327): 25 in 1,024 ticks on each lane. In a slot, each VC that holds a flit and has no
credit loses it (R340; DEDUCED, log 113). -/
def State.slotTick (s : State) (k : Nat) : State :=
  let p := s.port k
  if isUplink k ∨ !s.portUp k ∨ p.txq.isEmpty then s
  else
    let n := p.slot + 25 * (maskBits (s.rd (Reg.lnkStatusLanes k)) 4).length
    let s := s.updPort k (fun q => { q with slot := n % 1024 })
    if n < 1024 then s
    else (List.range 8).foldl (fun s v =>
      if p.txq.any (fun f => f.vc = v) ∧ s.rd (creditFld k v) = 0 then s.inc (Reg.lnkCreditWaitCount k v) else s) s

/-- One tick of 250 ps: the meridian advances, a sideband input whose 10 µs end is taken as it stands, ports lose the flit
slots they have no credit for, and the reference output gives its edge at each whole second. A module that is down does
nothing. -/
def State.tick (s : State) : State :=
  if s.down then s
  else
    let s : State := { s with meridian := s.meridian + 1, mer := s.mer.slew }
    let s : State := (s.sbIn.map (·.1)).foldl State.sbSettle s
    ((s.ports.map (·.1)).foldl State.slotTick s).ppsEdge

end Sys2Proof.Machine
end

