-- ==== Sys2Proof/Safety.lean ====
section
/-! DEFINITION. What a safe state is, and the terms the statements are made in. -/

namespace Sys2Proof.Machine

/-- Memory in its canonical form: addresses strictly rising, no entry equal to what an unlisted address reads as. -/
abbrev Memory.wf (m : List Host.Cell) : Bool := Sparse.wf memDefault m

/-- The registers in their canonical form. -/
abbrev Registers.wf (r : Sparse (BitVec 64)) : Bool := Sparse.wf regDefault r

/-- The canonical form of the maps a program and the host can read: registers, the module's memory, host memory. -/
abbrev State.canon (s : State) : Prop := Registers.wf s.regs = true ∧ Memory.wf s.mem = true ∧ Sparse.wf hostDefault s.hostMem = true

/-- What every operation of the module keeps, from `r` to `s`: the queue of commands is as it was, what was sent stays sent
in its order, no free value is drawn twice, and canonical maps stay canonical. -/
def Keeps (r s : State) : Prop :=
  s.pending = r.pending ∧ r.outbox <+: s.outbox ∧ r.freeCtr ≤ s.freeCtr ∧ (r.canon → s.canon)

/-! ## Terms of the statements -/

/-- Station `stn` issues the word `w` now, at place `k`: its STATE is RUNNING (R216, R218), not for a single step, and no
instruction in its engines holds the word back (R206). -/
def State.Issues (s : State) (stn : BitVec 11) (w : BitVec 64) (k : Loc) : Prop :=
  s.issuable stn.toNat = some k ∧ s.hazard k w = false ∧ (s.stn k).step = .none'

/-- `t` is `s` but for registers, and among those only the ones at `as` differ. -/
def OnlyRegs (s t : State) (as : List Nat) : Prop := t = { s with regs := t.regs } ∧ ∀ a, a ∉ as → t.reg a = s.reg a

/-- BAR0 offset of STN_PC, which holds the PC and the leg number. -/
abbrev pcAddr (k : Loc) : Nat := (Reg.stnPcPc k.b).addr

/-- `t` is `s` with the PC of the station at `k` at `pc`, and nothing else changed, its leg number included. -/
def PcOnly (s : State) (k : Loc) (pc : Nat) (t : State) : Prop :=
  OnlyRegs s t [pcAddr k] ∧ t.pcOf k = pc ∧ t.legOf k = s.legOf k

/-- The PC one word further (R195), in its 32 bits (R192). -/
abbrev State.nextPc (s : State) (k : Loc) : Nat := (s.pcOf k + 1) % 2 ^ 32

/-- `t` is `s` after an instruction of the station at `k` that gives S[i] the value `x` with DATA `d` and goes on: nothing
else changes, and a result for S0 is discarded (R193, R195). -/
def ScalarResult (s : State) (k : Loc) (i x : Nat) (d : Bool) (t : State) : Prop :=
  OnlyRegs s t [(Reg.stnS k.b i).addr, (Reg.stnSdataData k.b).addr, pcAddr k] ∧
  t.pcOf k = s.nextPc k ∧ t.legOf k = s.legOf k ∧
  (i = 0 → ∀ a, a ≠ pcAddr k → t.reg a = s.reg a) ∧
  (i ≠ 0 → t.sreg k.b i = x ∧ t.sdata k.b i = d) ∧
  (∀ j, j < 32 → j ≠ i → t.sreg k.b j = s.sreg k.b j ∧ t.sdata k.b j = s.sdata k.b j)

/-- `t` is `s` after an instruction of the station at `k` that gives D[j] the bits `v`, [511:496] zero (R198), and goes on:
nothing else changes. -/
def DescResult (s : State) (k : Loc) (j v : Nat) (t : State) : Prop :=
  OnlyRegs s t (pcAddr k :: (List.range 8).map (fun w => (Reg.stnD k.b j w).addr)) ∧
  t.pcOf k = s.nextPc k ∧ t.legOf k = s.legOf k ∧ t.dbits k.b j = v % 2 ^ 496

/-- `t` is `s` but for what reporting events changes: event rings in host memory and their registers, holding buffers,
messages sent, and the records kept for management and service (R533 to R535, R542, R547). -/
def EventsOnly (s t : State) : Prop :=
  t = { s with regs := t.regs, hostMem := t.hostMem, atc := t.atc, ringSig := t.ringSig, ringSeq := t.ringSeq,
               evHeld := t.evHeld, evLost := t.evLost, fatalLog := t.fatalLog, platQueue := t.platQueue,
               outbox := t.outbox, evOnce := t.evOnce } ∧
  ∀ a, ¬ (0x501000 ≤ a ∧ a < 0x506000) → t.reg a = s.reg a

/-- `t` is `s` but for the registers at `as` and what reporting events changes. -/
def RegsAndEvents (s t : State) (as : List Nat) : Prop :=
  t = { s with regs := t.regs, hostMem := t.hostMem, atc := t.atc, ringSig := t.ringSig, ringSeq := t.ringSeq,
               evHeld := t.evHeld, evLost := t.evLost, fatalLog := t.fatalLog, platQueue := t.platQueue,
               outbox := t.outbox, evOnce := t.evOnce } ∧
  ∀ a, a ∉ as → ¬ (0x501000 ≤ a ∧ a < 0x506000) → t.reg a = s.reg a

/-- The registers that hold CEIL_MV, TARGET_MV and LIMIT of each FD. -/
def targetRegs : List Nat := (List.range 16).map (fun fd => (Reg.pwrFdVTargetMv fd).addr)

/-- Every FD's ceiling, target and limit are what the limits of `t` form (R482). -/
def State.Targeted (t : State) : Prop :=
  ∀ fd, fd < 16 → t.rd (Reg.pwrFdVCeilMv fd) = t.thermCeil fd ∧ t.rd (Reg.pwrFdVTargetMv fd) = (t.target fd).1 ∧
    t.rd (Reg.pwrFdVLimit fd) = (t.target fd).2

/-- The effective cap is the lowest of the caps active in `t`, none below 1,200 W (R483). -/
def State.CapFormed (t : State) : Prop := t.rd Reg.pwrCapStatusEffective = (t.caps.map (fun c => max 1200 c.1)).foldl min 2800

/-- The bytes `bs` stand in the module's memory from key `k` on in `t`, and every other byte is as in `s`: each that does
not lie where one of them does, the redirect reserve taken into account (R301). -/
def Stored (s t : State) (k : Nat) (bs : List Byte) : Prop :=
  (∀ i, i < bs.length → t.peek (k + i) = bs.getD i 0) ∧
  ∀ a, (∀ i, i < bs.length → s.homeKey a ≠ s.homeKey (k + i)) → t.peek a = s.peek a

/-- The `n`-byte word at address `A` of an SLD, SST, DLD or DST of the station at `k` lies at `key`, aligned and open to
the use `u`: in its own local store (FN 0), or in tier 1, tier 2 or scratch of this module (FN 1) (R223, R290). -/
def State.OpenWord (s : State) (k : Loc) (fn : BitVec 5) (A n : Nat) (u : Use) (key : Nat) : Prop :=
  A % n = 0 ∧
  ((fn = 0 ∧ A + n ≤ lsBytes ∧ key = lsKey k.fd k.log A) ∨
   (fn = 1 ∧ addrModule A = s.ownModule ∧ s.spanCheck (some (s.parcelOf k.fd)) u A n = none ∧ key = s.keyOf A ∧
    (u = .write → s.inImage key n = false) ∧
    (regionOf (key / 2 ^ 41) (key % 2 ^ 41) = .t1 ∨ regionOf (key / 2 ^ 41) (key % 2 ^ 41) = .t2 ∨
     ∃ b, regionOf (key / 2 ^ 41) (key % 2 ^ 41) = .sc b)))

/-- No two of `n` bytes from `key` on lie in one place, the redirect reserve taken into account (R301). -/
def State.Apart (s : State) (key n : Nat) : Prop := ∀ i j, i < n → j < n → s.homeKey (key + i) = s.homeKey (key + j) → i = j

/-- A write of `n` bytes at `key` by a requester of die `fd` lands as it is: the parcel there is not being cleared, its channel
and stack serve writes, no FD shares the line, the die is not evict-pending for it, and a codeword it covers only in part
is not poisoned (R179, R299, R302, R311, R312, R321). -/
def State.Lands (s : State) (fd key n : Nat) : Prop :=
  s.Apart key n ∧ s.clearing (s.parcelOf (key / 2 ^ 41)) = false ∧
  ∀ i, i < n → s.chanDead (key + i) = false ∧ s.dirEnt ((key + i) / 128) = none ∧ s.evictPending fd ((key + i) / 128) = false ∧
    s.cwPoison ((key + i) / 32) = false

/-- A station issues the word `w` for engine `eng`, whose queue is empty, and no earlier instruction of its other engines has
to access memory first (R205, R207). -/
def State.Engages (s : State) (stn : BitVec 11) (w : BitVec 64) (k : Loc) (eng : Nat) : Prop :=
  s.Issues stn w k ∧ (s.stn k).engIdle eng = true ∧ s.ordered k w (s.stn k).engq = false

/-- The limits of R320 admit the bytes `ws` that the instruction of `v` stores, and no atomic target among them is poisoned
(R316). -/
def State.Admits (s : State) (v : Env) (ws : List (Nat × Byte)) : Prop :=
  s.storeRoom v.loc ws = true ∧ (s.store v.writer v.parcel ws).2 = none

/-- The bytes of the spans may be read by the station at `k` now: other modules have answered, no line of theirs is locked or
evict-pending, no stack is stopped, and the transaction limits admit the access (R205, R291, R311, R312, R320, R321). -/
def State.Fed (s : State) (k : Loc) (needs : List (Nat × Nat)) : Prop :=
  s.remoteHere needs = true ∧ s.linesFree k.fd needs = true ∧ (needs.all (ownSpan k) = true ∨ s.trkRoom k.fd k.num = true)

/-- `s` once an instruction has taken its inputs: its reads noted (R24, R289), and what other modules answered taken out of the
buffer (R291). -/
abbrev State.took (s : State) (v : Env) (needs : List (Nat × Nat)) : State := (s.noteReads v needs).dropRemote needs

/-- `t` is `s` but for the traffic counts of the mesh routers (R24). -/
def RoutersOnly (s t : State) : Prop := t = { s with fab := { s.fab with forwards := t.fab.forwards } }

/-- `t` is `s` after something that concerns the station at `k` alone: its own state, the registers at `as` and what
reports events may differ; memory, every other station and every other field are as before. -/
def StationOnly (s t : State) (k : Loc) (as : List Nat) : Prop :=
  t = { s with regs := t.regs, stns := t.stns, hostMem := t.hostMem, atc := t.atc, ringSig := t.ringSig, ringSeq := t.ringSeq,
               evHeld := t.evHeld, evLost := t.evLost, fatalLog := t.fatalLog, platQueue := t.platQueue,
               outbox := t.outbox, evOnce := t.evOnce } ∧
  (∀ q, q ≠ k.key → t.stnAt q = s.stnAt q) ∧
  ∀ a, a ∉ as → ¬ (0x501000 ≤ a ∧ a < 0x506000) → t.reg a = s.reg a

/-- The program image of parcel `p` lies in tier 1 or tier 2 of this module, outside its registers (R257). -/
def State.ImageInTiers (s : State) (p : Nat) : Prop :=
  ∀ o, o < 2 ^ 33 → let a := s.imgKey p + o
    regionOf (a / 2 ^ 41) (a % 2 ^ 41) = .t1 ∨ regionOf (a / 2 ^ 41) (a % 2 ^ 41) = .t2

/-- The entry `e` is the only one in traverse queue `q` of parcel `p`, is valid (R531), and may be taken now (R40, R518,
R530, R568). -/
def State.TqHead (s : State) (p q : Nat) (e : List Byte) : Prop :=
  s.tqReady p q = true ∧ s.rd (Reg.hifTqDbTail p q) = (s.rd (Reg.hifTqHeadHead p q) + 1) % 2 ^ 16 ∧
  e = s.hostRead (s.tqSlot p q) 64 ∧ s.tqBad p q e = false

/-- Beside step `n` of its plan the run has a step to make that none of its members is complete without (R367), its
members are the plan's, and none is complete. -/
def Plan.Unfinished (q : Plan) (r : CollRun) (n : Nat) : Prop :=
  (∃ j u, q.steps[j]? = some u ∧ j ≠ n ∧ j ∉ r.steps ∧
    (u.action = 1 ∨ (u.action = 4 ∧ (q.op = opLaSum ∨ q.op = opAllToAll)))) ∧
  r.mems ≠ [] ∧ ∀ m ∈ r.mems, m.idx < q.mems.length ∧ m.done = false

/-- Where the next entry of a station's inbound log goes, and the bytes that `e` takes there (R445). -/
abbrev State.logAt (s : State) (k : Loc) : Nat :=
  dieKey k.fd (scBase + s.rd (Reg.fdRstkCfgInlogOff k.fd) + k.log * (s.rd (Reg.fdRstkCfgInlogKib k.fd) * 1024) + (s.lst k.num).inBytes)
abbrev logNeed (e : Inbound) : Nat := 64 + (e.data.length + 63) / 64 * 64

/-- From `s` to `t` the entry `e` has come into the inbound log of the station at `k` (R445): appended, and its bytes alone
changed in memory; or, where it does not fit, nothing but the station's bit of FD_RSTK_UNREP. -/
def State.Logs (s t : State) (k : Loc) (e : Inbound) : Prop :=
  let fits := s.noInlog k.fd k.log = false ∧ (s.lst k.num).inBytes + logNeed e ≤ s.rd (Reg.fdRstkCfgInlogKib k.fd) * 1024
  (fits → t.lst k.num = { s.lst k.num with inlog := (s.lst k.num).inlog ++ [e], inBytes := (s.lst k.num).inBytes + logNeed e } ∧
    ∀ a, (∀ i, i < logNeed e → s.homeKey a ≠ s.homeKey (s.logAt k + i)) → t.peek a = s.peek a) ∧
  (¬ fits → t.lsts = s.lsts ∧ t.mem = s.mem ∧ (k.log < 128 → t.unrep k.fd k.log = true))

/-- No memory write already issued waits at the directories of the FDs `fds`, or at a die for one of them (R509). -/
def State.NoWritesHeld (s : State) (fds : List Nat) : Prop :=
  (∀ e ∈ s.dir, e.1 ∈ fds → ∀ x ∈ e.2, x.write = none ∧ ∀ r ∈ x.queue, r.isWrite = false) ∧
  ∀ r ∈ s.readWait, r.die ∈ fds ∨ r.key / 2 ^ 41 ∈ fds → r.isWrite = false

/-- No station waits in an instruction of class W. -/
def State.NoneWaits (s : State) : Prop := ∀ e ∈ s.stns, e.2.waiting = none

/-- PC one word on in the same leg (R195). -/
def GoesOn (s t : State) (k : Loc) : Prop := t.pcOf k = s.nextPc k ∧ t.legOf k = s.legOf k

/-- The registers of a station that passes of the arrays may change: PC, passes run and skipped, clamped terms,
non-finite inputs, extents clamped, slices of the station transposer. -/
def passRegs (k : Loc) : List Nat :=
  [pcAddr k, (Reg.maPassesPasses k.b).addr, (Reg.stnSpPassSkipCount k.b).addr, (Reg.stnLaClampClamp k.b).addr,
   (Reg.stnArithNonfinNonfin k.b).addr, (Reg.stnShapeClampExcess k.b).addr, (Reg.stnSpSubSkipCount k.b).addr,
   (Reg.stnXpSlicesCount k.b).addr]

/-- `t` is `s` after a vector instruction of the station at `k` that gives each lane j of V[i] that P[pm] enables the value
`g j`, 32 bits: every other lane and vector register, the rest of the station, memory and every register but PC and those
at `as` are as before (R209). -/
def VectorResult (s t : State) (k : Loc) (i pm : Nat) (g : Nat → Nat) (as : List Nat) : Prop :=
  StationOnly s t k (pcAddr k :: as) ∧ GoesOn s t k ∧ t.stn k = { s.stn k with vregs := (t.stn k).vregs } ∧
  (∀ j, j < 64 → (t.stn k).lane i j = if bitOf (s.pred k.b pm) j then g j % 2 ^ 32 else (s.stn k).lane i j) ∧
  ∀ n j, n ≠ i → j < 64 → (t.stn k).lane n j = (s.stn k).lane n j

/-- The registers that sending on port `k` may change: its credits and counts, and the counts of contexts. -/
def portTraffic (k : Nat) : List Nat :=
  [(Reg.lnkCredit0Vc k 0).addr, (Reg.lnkCredit1Vc k 0).addr, (Reg.lnkTxFlitsCount k).addr, (Reg.lnkReplayFlits k).addr,
   (Reg.lnkE2eStatContexts 0).addr, (Reg.lnkE2eStatContexts 1).addr] ++ (List.range 8).map (fun v => (Reg.lnkCreditWaitCount k v).addr)

/-- Nothing that waits at the ports `ks`, or for a route, came in by another port or leaves by one (R339, R364). -/
def State.OwnTraffic (s : State) (ks : List Nat) : Prop :=
  s.fab.unrouted = [] ∧ ∀ k ∈ ks, ∀ f ∈ (s.port k).txq, 16 ≤ f.src

/-- `t` is `s` but for the meridian and its servo, MER_STATUS, MER_STEPS and the registers at `as`, what reports events, and
on the ports `ks` the STATE and what is sent there; forwarded flits that leave may change other ports too. -/
def MerOnly (s t : State) (ks as : List Nat) : Prop :=
  t = { s with regs := t.regs, meridian := t.meridian, mer := t.mer, ports := t.ports, ctxs := t.ctxs, ctxWait := t.ctxWait,
               fab := t.fab, readyHeld := t.readyHeld, hostMem := t.hostMem, atc := t.atc, ringSig := t.ringSig, ringSeq := t.ringSeq,
               evHeld := t.evHeld, evLost := t.evLost, fatalLog := t.fatalLog, platQueue := t.platQueue,
               outbox := t.outbox, evOnce := t.evOnce } ∧
  (s.OwnTraffic ks → t.fab = s.fab ∧ ∀ k, k ∉ ks → t.port k = s.port k) ∧
  (s.OwnTraffic ks → ∀ a, a ∉ Reg.merStatusState.addr :: Reg.merStepsSteps.addr :: as → a ∉ ks.flatMap (fun k => (Reg.lnkStatusState k).addr :: portTraffic k) →
    ¬ (0x501000 ≤ a ∧ a < 0x506000) → t.reg a = s.reg a)

/-- The ports of the uplinks. -/
def uplinkPorts : List Nat := [6, 7, 14, 15]

/-- From `s` to `t` the servo has taken one exchange with its reference, `o` ps ahead of the meridian: a step where it may
step, else a slew if `slew`, and the lock after 16 exchanges within the guard (R497 to R499, R502, R503). -/
def Disciplined (s t : State) (o : Int) (ppm : Nat) (slew : Bool) : Prop :=
  let steps := s.mayStep = true ∧ o.tdiv 250 ≠ 0
  let acquiring := s.rd Reg.merStatusState = merAcquiring
  let inGuard := o.natAbs ≤ offGuard
  toSigned 32 (t.rd Reg.merStatusOffsetPs) = max (-(2 ^ 31)) (min (2 ^ 31 - 1) o) ∧
  (steps → t.meridian = s.meridian + BitVec.ofInt 64 (o.tdiv 250) ∧ t.mer.slewLeft = 0 ∧
    t.rd Reg.merStepsSteps = min (s.rd Reg.merStepsSteps + 1) (2 ^ 16 - 1)) ∧
  (¬ steps → t.meridian = s.meridian ∧ t.rd Reg.merStepsSteps = s.rd Reg.merStepsSteps) ∧
  (s.mayStep = false → slew = true → t.mer.slewLeft = o ∧ t.mer.slewPpm = max 1 (min 1000 ppm)) ∧
  (s.mayStep = false → slew = false → t.mer.slewLeft = s.mer.slewLeft ∧ t.mer.slewPpm = s.mer.slewPpm) ∧
  (¬ acquiring → t.rd Reg.merStatusState = s.rd Reg.merStatusState ∧ t.mer.lockCnt = s.mer.lockCnt) ∧
  (acquiring → ¬ inGuard → t.rd Reg.merStatusState = merAcquiring ∧ t.mer.lockCnt = 0) ∧
  (acquiring → inGuard → s.mer.lockCnt < 15 → t.rd Reg.merStatusState = merAcquiring ∧ t.mer.lockCnt = s.mer.lockCnt + 1) ∧
  (acquiring → inGuard → 15 ≤ s.mer.lockCnt → t.rd Reg.merStatusState = merLocked ∧ t.mer.lockCnt = 0)

/-- `t` is `s` but for the state of port `k`, the registers at `as`, and what events and sending change. -/
def PortOnly (s t : State) (k : Nat) (as : List Nat) : Prop :=
  t = { s with regs := t.regs, ports := t.ports, hostMem := t.hostMem, atc := t.atc, ringSig := t.ringSig, ringSeq := t.ringSeq,
               evHeld := t.evHeld, evLost := t.evLost, fatalLog := t.fatalLog, platQueue := t.platQueue,
               outbox := t.outbox, evOnce := t.evOnce } ∧
  (∀ j, j ≠ k → t.port j = s.port j) ∧ ∀ a, a ∉ as → ¬ (0x501000 ≤ a ∧ a < 0x506000) → t.reg a = s.reg a

/-- A flit sent on lane `l` of port `k` with its SEQ, as the model records what it sends (R335). -/
def flitMsg (k l : Nat) (x : Nat × TxFlit) : OutMsg :=
  ⟨.linkFlit, [k, l, x.1, x.2.vc, x.2.kind, x.2.peer, x.2.die, x.2.parcel, x.2.idx, if x.2.poison then 1 else 0] ++ x.2.args, x.2.data⟩

/-- From `s` to `t` the message of which `m` is the first flit has been sent: where a torus port leads to its module that may send
and has nothing else waiting, the flit is there at once (R335, R341, R342). -/
def MsgSent (s t : State) (m : TxFlit) : Prop :=
  ∀ p, s.routePort (ldOf m.die) ((s.ownModule + m.peer) % 4) m.peer = some p → isUplink p = false → s.mayTx p m.vc = true →
    (s.port p).txq = [] → Sparse.get (fun _ => 0) (s.port p).opened m.vc = 0 →
    ∃ x ∈ t.outbox.drop s.outbox.length, x.kind = .linkFlit ∧
      x.args.drop 3 = [m.vc, m.kind, m.peer, m.die, m.parcel, 0, if m.poison then 1 else 0] ++ m.args ∧ x.data = m.data

/-- Port `n` replays the flits it has not had acknowledged, `fs`, whose first carries `seq` (R337): after `tries` replays of that
SEQ without progress it sends them again, and after the eighth it goes back to training instead. -/
def Replayed (s t : State) (n seq tries : Nat) (fs : List (Nat × TxFlit)) (as : List Nat) : Prop :=
  let made := if (s.port n).trySeq = seq then tries else 0
  PortOnly s t n ((Reg.lnkReplayFlits n).addr :: (Reg.lnkStatusState n).addr :: as) ∧ (t.port n).unacked = fs ∧
  (t.port n).trySeq = seq ∧
  (made < 8 → (∃ ls : List Nat, ls.length = fs.length ∧ List.zipWith (flitMsg n) ls fs <:+ t.outbox) ∧
    t.rd (Reg.lnkReplayFlits n) = min (s.rd (Reg.lnkReplayFlits n) + fs.length) (2 ^ 32 - 1) ∧
    (t.port n).tries = made + 1 ∧ (t.port n).retrain = (s.port n).retrain ∧
    t.rd (Reg.lnkStatusState n) = s.rd (Reg.lnkStatusState n) ∧ t.rd (Reg.lnkReplayRetrains n) = s.rd (Reg.lnkReplayRetrains n)) ∧
  (8 ≤ made → t.rd (Reg.lnkReplayFlits n) = s.rd (Reg.lnkReplayFlits n) ∧ (t.port n).tries = 0 ∧ (t.port n).retrain = true ∧
    t.rd (Reg.lnkStatusState n) = lnkTrain ∧ t.rd (Reg.lnkReplayRetrains n) = min (s.rd (Reg.lnkReplayRetrains n) + 1) (2 ^ 16 - 1) ∧
    (t.port n).early = [] ∧ t.rd (Reg.lnkReplayCrcErr n) = min (s.rd (Reg.lnkReplayCrcErr n) + (s.port n).early.length) (2 ^ 16 - 1))

/-- Errors in the codeword of key `k` that ECC counts (R295): symbols in the tiers, bits in the shared cache and the local stores. -/
def errCount (k : Nat) (errs : List Byte) : Nat :=
  if tierOf k < 2 then (errs.filter (fun b => decide (b ≠ 0))).length else (errs.map bitCount).sum

/-- From `s` to `t` ECC has looked at the codeword of key `k`, whose bits differ from those written as `errs` says, one pattern for
each erroneous symbol (R295, R296, R325): nothing in a poisoned one; one symbol of a tier, or one bit of the cache or a local
store, is corrected and counted; two are uncorrectable, counted, and poison the codeword. Data, directory and stations are
as before, and so is every other codeword. -/
def EccFound (s t : State) (k : Nat) (errs : List Byte) : Prop :=
  let n := errCount k errs
  let sound := s.cwPoison (k / 32) = false
  t.mem = s.mem ∧ t.dir = s.dir ∧ t.copies = s.copies ∧ t.grants = s.grants ∧ t.stns = s.stns ∧ t.fab = s.fab ∧
  (∀ a, t.peek a = s.peek a) ∧ (∀ c, s.homeCw c ≠ s.homeCw (k / 32) → t.cwPoison c = s.cwPoison c) ∧
  (¬ sound ∨ n = 0 → t = s) ∧
  (sound → n = 1 → t.poison = s.poison ∧ t.poisonLog = s.poisonLog ∧
    ∀ f, s.eccFlds k = some f → t.rd f.1 = min (s.rd f.1 + 1) (2 ^ f.1.w - 1) ∧ t.rd f.2 = s.rd f.2) ∧
  (sound → n = 2 → t.cwPoison (k / 32) = true ∧
    ∀ f, s.eccFlds k = some f → t.rd f.2 = min (s.rd f.2 + 1) (2 ^ f.2.w - 1) ∧ t.rd f.1 = s.rd f.1)

/-- A write of `bs` at `k` lands whole: no channel it touches is dead, and a codeword it covers only in part is not poisoned
(R299, R302). -/
def State.Takes (s : State) (k : Nat) (bs : List Byte) : Prop :=
  s.Apart k bs.length ∧ ∀ i, i < bs.length → s.chanDead (k + i) = false ∧
    (s.cwPoison ((k + i) / 32) = false ∨ (k ≤ (k + i) / 32 * 32 ∧ (k + i) / 32 * 32 + 32 ≤ k + bs.length))

/-- The bytes `bs` are stored from `k` on, as `Stored`, and no codeword they fall in is poisoned after it (R299). -/
def StoredClean (s t : State) (k : Nat) (bs : List Byte) : Prop :=
  Stored s t k bs ∧ (∀ i, i < bs.length → t.cwPoison ((k + i) / 32) = false) ∧
  ∀ c, (∀ i, i < bs.length → s.homeCw ((k + i) / 32) ≠ s.homeCw c) → t.cwPoison c = s.cwPoison c

/-- The adjustment unit of FD `n` is held with `cause` at ring position `pos`: AU_FAULT records it, a poisoned block is
counted, the run is dropped, and nothing else changes (R377, R379, R393). -/
def AuHeld (s t : State) (n cause pos : Nat) : Prop :=
  RegsAndEvents { s with au := t.au } t [(Reg.auQstatHeld n).addr, (Reg.auFaultCause n).addr, (Reg.auPoisonSkipCount n).addr] ∧
  t.flag (Reg.auQstatHeld n) = true ∧ t.flag (Reg.auQstatBusy n) = false ∧ t.rd (Reg.auQstatHead n) = s.rd (Reg.auQstatHead n) ∧
  t.rd (Reg.auFaultCause n) = cause ∧ t.flag (Reg.auFaultValid n) = true ∧ t.rd (Reg.auFaultEntry n) = pos % 2 ^ 32 ∧
  t.auRun n = AuRun.idle ∧ (∀ m, m ≠ n → t.auRun m = s.auRun m) ∧
  t.rd (Reg.auPoisonSkipCount n) = (if cause = auPoison then min (s.rd (Reg.auPoisonSkipCount n) + 1) (2 ^ 64 - 1)
    else s.rd (Reg.auPoisonSkipCount n))

/-- The adjustment unit of FD `n` has completed its command `c`: counted, no longer busy, its station signalled (R379). -/
def AuDone (s t : State) (n : Nat) (c : AuCmd) : Prop :=
  t.rd (Reg.auCmdsCount n) = min (s.rd (Reg.auCmdsCount n) + 1) (2 ^ 64 - 1) ∧ t.flag (Reg.auQstatBusy n) = false ∧
  t.auRun n = AuRun.idle ∧ (∀ m, m ≠ n → t.auRun m = s.auRun m) ∧ t.stns = s.stns ∧
  t.sigs = (if c.done = 0xFFFF then s.sigs else s.sigs ++ [(0xFFFF, c.done, c.ctr, 1)])

end Sys2Proof.Machine
end

