-- ==== Sys2Proof/Certificates/Slice0/Obligations.lean ====
section
/-! DEFINITION. The statements for the provers. Cited rules are those of spec/. -/

open Sys2Proof Sys2Proof.Machine

/-- A step is `exec` of the front command on the rest of the queue; no table word spells a command; on an empty queue it is one
tick of 250 ps (DESIGN CHOICE, log 21), which changes the meridian alone while no sideband input, no flit and no reference output
takes part in it. -/
def Obligations.StepRunsFrontCommand : Prop :=
  (∀ (c : Instr) (rest : List Instr) (s : State), s.pending = c :: rest → step s = exec c { s with pending := rest }) ∧
  (∀ (s : State) (nbits w : Nat), s.withFetchWord nbits w = s) ∧
  ∀ s : State, s.pending = [] →
    (s.down = true → step s = .next s) ∧
    (s.down = false → s.sbIn = [] → s.rd Reg.merCtlRefOutEn = 0 → (∀ k, (s.port k).txq = []) →
      step s = .next { s with meridian := s.meridian + 1, mer := s.mer.slew })

/-- What reset leaves (R10, R193, R37); "Per module" columns as log 1 names them. -/
def Obligations.ResetLeavesResetColumn : Prop :=
  (∀ (a : Nat) (r : RegRow), isP0 a = false → regRowAt a = some r →
    ¬ (0x1000000 ≤ a ∧ a < 0x2000000 ∧ 0x100 ≤ (a - 0x1000000) % 0x100000 ∧ (a - 0x1000000) % 0x100000 < 0x180) →
    State.reset.reg a = BitVec.ofNat 64 r.rst) ∧
  (∀ a : Nat, isP0 a = true → State.reset.reg a = BitVec.allOnes 64) ∧
  (∀ n : Nat, n < 2048 → State.reset.locate n = some ⟨n / 128, n % 128, n % 128⟩) ∧
  (∀ fd phys : Nat, State.reset.stateOf fd phys = stIdle) ∧
  State.reset.parcelFds 0 = List.range 16 ∧ State.reset.parcelExists 1 = false ∧
  (∀ k : Nat, State.reset.peek k = memDefault k ∧ State.reset.poisonAt k 1 = none) ∧
  State.reset.meridian = 0 ∧ State.reset.pending = [] ∧ State.reset.outbox = [] ∧ State.reset.down = false

/-- The invariant of `EveryStepGoesOnAndKeepsTheInvariant` holds at reset. -/
def Obligations.ResetIsCanonical : Prop := State.reset.canon

/-- What a step does to the queue, to what was sent, to the count of free values and to the canonical form, for every command and
the idle tick. -/
def Obligations.EveryStepGoesOnAndKeepsTheInvariant : Prop :=
  ∀ s : State, ∃ t : State, step s = .next t ∧ t.pending = s.pending.tail ∧ s.outbox <+: t.outbox ∧ s.freeCtr ≤ t.freeCtr ∧
    (s.canon → t.canon)

/-- The four formats of R202, both ways. -/
def Obligations.FormatFieldsRoundTrip : Prop :=
  (∀ (op : Nat) (f : CtrlF), op < 256 → ctrlOf (ctrlWord op f) = f ∧ (ctrlWord op f).toNat / 2 ^ 56 = op) ∧
  (∀ (op : Nat) (f : ScalF), op < 256 → scalOf (scalWord op f) = f ∧ (scalWord op f).toNat / 2 ^ 56 = op) ∧
  (∀ (op : Nat) (f : TensF), op < 256 → tensOf (tensWord op f) = f ∧ (tensWord op f).toNat / 2 ^ 56 = op) ∧
  (∀ (op : Nat) (f : SyncF), op < 256 → syncOf (syncWord op f) = f ∧ (syncWord op f).toNat / 2 ^ 56 = op) ∧
  (∀ w : BitVec 64, ctrlWord (w.toNat / 2 ^ 56) (ctrlOf w) = w ∧ scalWord (w.toNat / 2 ^ 56) (scalOf w) = w ∧
    tensWord (w.toNat / 2 ^ 56) (tensOf w) = w ∧ syncWord (w.toNat / 2 ^ 56) (syncOf w) = w) ∧
  (∀ x : BitVec 32, (BitVec.ofNat 64 (sext32 x)).toInt = x.toInt)

/-- R193. -/
def Obligations.ZeroRegistersAreHardWired : Prop :=
  (∀ (s : State) (b : Nat), s.sreg b 0 = 0 ∧ s.sdata b 0 = false ∧ s.pred b 0 = 0xFFFFFFFFFFFFFFFF) ∧
  (∀ (s : State) (b v : Nat) (d : Bool), s.setS b 0 v d = s ∧ s.setP b 0 v = s) ∧
  (∀ (s : State) (fd phys : Nat), s.stnRegRead fd phys 0x600 = 0 ∧ s.stnRegRead fd phys 0x708 = 0xFFFFFFFFFFFFFFFF) ∧
  (∀ (s : State) (stn : BitVec 11) (v : BitVec 64) (k : Loc), s.locate stn.toNat = some k → s.stateAt k = stHalted →
    exec (.stnStateRegWrite stn 0x600 v) s = .next s ∧ exec (.stnStateRegWrite stn 0x708 v) s = .next s)

/-- Scalar arithmetic and logic (R194, R204, R222); registers are unsigned 64-bit numbers. -/
def Obligations.ScalarArithmeticAndLogic : Prop :=
  (∀ (s : State) (stn : BitVec 11) (k : Loc) (sd sa sb : BitVec 5) (imm : BitVec 32),
    (s.Issues stn (scalWord 0x10 ⟨sd, 0, 0, 0, 0, imm⟩) k →
      ∃ t, exec (.sli stn ⟨sd, 0, 0, 0, 0, imm⟩) s = .next t ∧ ScalarResult s k sd.toNat (imm.toInt % 2 ^ 64).toNat false t) ∧
    (s.Issues stn (scalWord 0x11 ⟨sd, 0, 0, 0, 0, imm⟩) k →
      ∃ t, exec (.slui stn ⟨sd, 0, 0, 0, 0, imm⟩) s = .next t ∧
        ScalarResult s k sd.toNat (imm.toNat * 2 ^ 32 + s.sreg k.b sd.toNat % 2 ^ 32) (s.sdata k.b sd.toNat) t) ∧
    (s.Issues stn (scalWord 0x12 ⟨sd, sa, sb, 0, 0, imm⟩) k →
      ∃ t, exec (.sadd stn ⟨sd, sa, sb, 0, 0, imm⟩) s = .next t ∧
        ScalarResult s k sd.toNat (((s.sreg k.b sa.toNat : Int) + s.sreg k.b sb.toNat + imm.toInt) % 2 ^ 64).toNat
          (s.sdata k.b sa.toNat || s.sdata k.b sb.toNat) t) ∧
    (s.Issues stn (scalWord 0x13 ⟨sd, sa, sb, 0, 0, imm⟩) k →
      ∃ t, exec (.ssub stn ⟨sd, sa, sb, 0, 0, imm⟩) s = .next t ∧
        ScalarResult s k sd.toNat (((s.sreg k.b sa.toNat : Int) - s.sreg k.b sb.toNat + imm.toInt) % 2 ^ 64).toNat
          (s.sdata k.b sa.toNat || s.sdata k.b sb.toNat) t) ∧
    (s.Issues stn (scalWord 0x14 ⟨sd, sa, sb, 0, 0, 0⟩) k →
      ∃ t, exec (.smul stn ⟨sd, sa, sb, 0, 0, 0⟩) s = .next t ∧
        ScalarResult s k sd.toNat (s.sreg k.b sa.toNat * s.sreg k.b sb.toNat % 2 ^ 64)
          (s.sdata k.b sa.toNat || s.sdata k.b sb.toNat) t)) ∧
  ∀ (s : State) (stn : BitVec 11) (k : Loc) (sd sa sb fn : BitVec 5) (imm : BitVec 32) (A B : BitVec 64),
    A.toNat = s.sreg k.b sa.toNat → B.toInt % 2 ^ 64 = ((s.sreg k.b sb.toNat : Int) + imm.toInt) % 2 ^ 64 →
    let d := s.sdata k.b sa.toNat || s.sdata k.b sb.toNat
    let f : ScalF := ⟨sd, sa, sb, fn, 0, imm⟩
    (s.Issues stn (scalWord 0x15 f) k →
      (4 ≤ fn.toNat → exec (.slogic stn f) s = .next (s.faultAt (s.env k (scalWord 0x15 f)) false fcIllegalOp 0)) ∧
      (fn.toNat < 4 → ∃ t, exec (.slogic stn f) s = .next t ∧
        ScalarResult s k sd.toNat (if fn = 0 then A &&& B else if fn = 1 then A ||| B else if fn = 2 then A ^^^ B else A &&& ~~~B).toNat
          d t)) ∧
    (s.Issues stn (scalWord 0x16 f) k →
      (3 ≤ fn.toNat → exec (.sshift stn f) s = .next (s.faultAt (s.env k (scalWord 0x16 f)) false fcIllegalOp 0)) ∧
      (fn.toNat < 3 → ∃ t, exec (.sshift stn f) s = .next t ∧
        ScalarResult s k sd.toNat
          (if fn = 0 then A.toNat * 2 ^ (B.toNat % 64) % 2 ^ 64
           else if fn = 1 then A.toNat / 2 ^ (B.toNat % 64)
           else (A.toInt / (2 : Int) ^ (B.toNat % 64) % 2 ^ 64).toNat) d t)) ∧
    (s.Issues stn (scalWord 0x17 f) k →
      (4 ≤ fn.toNat → exec (.sminmax stn f) s = .next (s.faultAt (s.env k (scalWord 0x17 f)) false fcIllegalOp 0)) ∧
      (fn.toNat < 4 → ∃ t, exec (.sminmax stn f) s = .next t ∧
        ScalarResult s k sd.toNat
          (if fn = 0 then (min A.toInt B.toInt % 2 ^ 64).toNat else if fn = 1 then (max A.toInt B.toInt % 2 ^ 64).toNat
           else if fn = 2 then min A.toNat B.toNat else max A.toNat B.toNat) d t))

/-- R224, R225, R226. -/
def Obligations.ScalarSources : Prop :=
  ∀ (s : State) (stn : BitVec 11) (k : Loc) (sd sa fn : BitVec 5) (imm : BitVec 32),
    (s.Issues stn (scalWord 0x1A ⟨sd, 0, 0, fn, 0, imm⟩) k → fn.toNat ≤ 9 → (if fn = 8 then imm.toNat < 4 else imm = 0) →
      ∃ t, exec (.smfs stn ⟨sd, 0, 0, fn, 0, imm⟩) s = .next t ∧
        ScalarResult s k sd.toNat
          (match fn.toNat with
           | 0 => s.meridian.toNat
           | 1 => s.rd (Reg.stnPacePace k.b)
           | 2 => s.legOf k
           | 3 => stn.toNat
           | 4 => s.rd Reg.glbModuleNumModule
           | 5 => s.parcelOf k.fd
           | 6 => s.rd (Reg.stnLatenessLateness k.b)
           | 7 => 2 ^ 20 + 2 ^ 19
           | 8 => ((s.stn k).tile imm.toNat).terms % 2 ^ 32 + (if ((s.stn k).tile imm.toNat).tl then 2 ^ 32 else 0)
           | _ => s.rd (Reg.stnQstSeqSeq k.b)) true t) ∧
    (s.Issues stn (scalWord 0x1B ⟨sd, sa, 0, fn, 0, 0⟩) k → sa.toNat < 8 → fn.toNat < 3 →
      ∃ t x, exec (.smfp stn ⟨sd, sa, 0, fn, 0, 0⟩) s = .next t ∧ ScalarResult s k sd.toNat x true t ∧
        (fn = 0 → x = s.pred k.b sa.toNat) ∧
        (fn = 1 → x = ((List.range 64).map (fun j => s.pred k.b sa.toNat / 2 ^ j % 2)).sum) ∧
        (fn = 2 → x ≤ 64 ∧ (∀ j, j < x → s.pred k.b sa.toNat / 2 ^ j % 2 = 0) ∧ (x < 64 → s.pred k.b sa.toNat / 2 ^ x % 2 = 1))) ∧
    (s.Issues stn (scalWord 0x1B ⟨sd, sa, 0, fn, 0, 0⟩) k → 8 ≤ sa.toNat ∨ 3 ≤ fn.toNat →
      exec (.smfp stn ⟨sd, sa, 0, fn, 0, 0⟩) s =
        .next (s.faultAt (s.env k (scalWord 0x1B ⟨sd, sa, 0, fn, 0, 0⟩)) false fcIllegalOp 0)) ∧
    (∀ lo w : Nat, s.Issues stn (scalWord 0x25 ⟨sd, sa, 0, fn, 0, 0⟩) k → sa.toNat < 16 → dField fn.toNat = some (lo, w) →
      ∃ t, exec (.dget stn ⟨sd, sa, 0, fn, 0, 0⟩) s = .next t ∧
        ScalarResult s k sd.toNat
          (if 6 ≤ fn.toNat ∧ fn.toNat ≤ 9 then (toSigned w (s.dbits k.b sa.toNat / 2 ^ lo % 2 ^ w) % 2 ^ 64).toNat
           else s.dbits k.b sa.toNat / 2 ^ lo % 2 ^ w) true t)

/-- R199, R226. -/
def Obligations.DescriptorWrites : Prop :=
  ∀ (s : State) (stn : BitVec 11) (k : Loc) (sd sa fn : BitVec 5) (imm : BitVec 32), sd.toNat < 16 →
    let f : ScalF := ⟨sd, sa, 0, fn, 0, imm⟩
    let x : Nat := (((s.sreg k.b sa.toNat : Int) + imm.toInt) % 2 ^ 64).toNat
    let old : Nat := s.dbits k.b sd.toNat
    (∀ lo w : Nat, s.Issues stn (scalWord 0x22 f) k → dField fn.toNat = some (lo, w) →
      ((if dSigned fn.toNat then -(2 ^ (w - 1)) ≤ toSigned 64 x ∧ toSigned 64 x < 2 ^ (w - 1) else x < 2 ^ w) →
        ∃ t, exec (.dset stn f) s = .next t ∧
          DescResult s k sd.toNat (old / 2 ^ (lo + w) * 2 ^ (lo + w) + x % 2 ^ w * 2 ^ lo + old % 2 ^ lo) t) ∧
      (¬ (if dSigned fn.toNat then -(2 ^ (w - 1)) ≤ toSigned 64 x ∧ toSigned 64 x < 2 ^ (w - 1) else x < 2 ^ w) →
        exec (.dset stn f) s = .next (s.faultAt (s.env k (scalWord 0x22 f)) false fcLayoutInvalid sd.toNat))) ∧
    (s.Issues stn (scalWord 0x22 f) k → fn.toNat = 31 →
      exec (.dset stn f) s = .next (s.faultAt (s.env k (scalWord 0x22 f)) false fcIllegalOp 0)) ∧
    (∀ n : Nat, n < 31 → (dField n).isSome = true) ∧
    (∀ code info : Nat, s.Issues stn (scalWord 0x22 f) k →
      (s.faultAt (s.env k (scalWord 0x22 f)) false code info).dbits k.b sd.toNat = old) ∧
    (s.Issues stn (scalWord 0x23 f) k → 1 ≤ fn.toNat → fn.toNat ≤ 4 →
      ∃ t, exec (.dadv stn f) s = .next t ∧
        DescResult s k sd.toNat
          (old / 2 ^ 64 * 2 ^ 64 +
            (((old % 2 ^ 64 : Nat) + toSigned 42 (old / 2 ^ (184 + 42 * (fn.toNat - 1))) * (x : Int)) % 2 ^ 64).toNat) t) ∧
    (s.Issues stn (scalWord 0x24 ⟨sd, sa, 0, 0, 0, 0⟩) k → sa.toNat < 16 →
      ∃ t, exec (.dcopy stn ⟨sd, sa, 0, 0, 0, 0⟩) s = .next t ∧ DescResult s k sd.toNat (s.dbits k.b sa.toNat) t)

/-- R195 to R197; `T` is the word offset branched to. -/
def Obligations.ControlFlow : Prop :=
  ∀ (s : State) (stn : BitVec 11) (k : Loc) (sa : BitVec 5) (fl : BitVec 1) (imm : BitVec 16) (off : BitVec 32),
    let len : Int := s.progWords (s.parcelOf k.fd) stn.toNat
    let T : Int := s.pcOf k + off.toInt
    let n : Nat := s.sreg k.b sa.toNat
    (s.Issues stn (ctrlWord 0x00 ⟨0, 0, 0, 0, 0⟩) k →
      ∃ t, exec (.nop stn ⟨0, 0, 0, 0, 0⟩) s = .next t ∧ PcOnly s k (s.nextPc k) t) ∧
    (s.Issues stn (ctrlWord 0x03 ⟨0, 0, 0, 0, off⟩) k →
      (0 ≤ T ∧ T < len → ∃ t, exec (.jmp stn ⟨0, 0, 0, 0, off⟩) s = .next t ∧ PcOnly s k T.toNat t) ∧
      (¬ (0 ≤ T ∧ T < len) → exec (.jmp stn ⟨0, 0, 0, 0, off⟩) s =
        .next (s.faultAt (s.env k (ctrlWord 0x03 ⟨0, 0, 0, 0, off⟩)) false fcPcInvalid (T % 2 ^ 64).toNat))) ∧
    (s.Issues stn (ctrlWord 0x04 ⟨sa, 0, 0, 0, off⟩) k →
      (s.sdata k.b sa.toNat = true → exec (.loop stn ⟨sa, 0, 0, 0, off⟩) s =
        .next (s.faultAt (s.env k (ctrlWord 0x04 ⟨sa, 0, 0, 0, off⟩)) false fcDataSteer sa.toNat)) ∧
      (s.sdata k.b sa.toNat = false → n = 0 →
        ∃ t, exec (.loop stn ⟨sa, 0, 0, 0, off⟩) s = .next t ∧ PcOnly s k (s.nextPc k) t) ∧
      (s.sdata k.b sa.toNat = false → n = 1 →
        ∃ t, exec (.loop stn ⟨sa, 0, 0, 0, off⟩) s = .next t ∧ ScalarResult s k sa.toNat 0 false t) ∧
      (s.sdata k.b sa.toNat = false → 2 ≤ n → 0 ≤ T ∧ T < len →
        ∃ t, exec (.loop stn ⟨sa, 0, 0, 0, off⟩) s = .next t ∧ t.pcOf k = T.toNat ∧ t.legOf k = s.legOf k ∧
          OnlyRegs s t [(Reg.stnS k.b sa.toNat).addr, (Reg.stnSdataData k.b).addr, pcAddr k] ∧
          t.sreg k.b sa.toNat = n - 1 ∧ ∀ j, j < 32 → t.sdata k.b j = s.sdata k.b j) ∧
      (s.sdata k.b sa.toNat = false → 2 ≤ n → ¬ (0 ≤ T ∧ T < len) → exec (.loop stn ⟨sa, 0, 0, 0, off⟩) s =
        .next (s.faultAt (s.env k (ctrlWord 0x04 ⟨sa, 0, 0, 0, off⟩)) false fcPcInvalid (T % 2 ^ 64).toNat))) ∧
    (let f : CtrlF := ⟨sa, fl, 0, imm, off⟩
     let N : Nat := if imm = 0 then 65536 else imm.toNat
     let E : Nat → Int := fun e => s.pcOf k + s.variant (s.env k (ctrlWord 0x05 f)) T.toNat e
     s.Issues stn (ctrlWord 0x05 f) k → 0 ≤ T → T + (N + 1) / 2 - 1 < len →
      (n < N → 0 ≤ E n ∧ E n < len → ∃ t, exec (.select stn f) s = .next t ∧ PcOnly s k (E n).toNat t) ∧
      (N ≤ n → fl = 1 → 0 ≤ E (N - 1) ∧ E (N - 1) < len →
        ∃ t, exec (.select stn f) s = .next t ∧ t.pcOf k = (E (N - 1)).toNat ∧ t.legOf k = s.legOf k ∧
          OnlyRegs s t [pcAddr k, (Reg.stnSelClampExcess k.b).addr] ∧
          t.rd (Reg.stnSelClampExcess k.b) = min (s.rd (Reg.stnSelClampExcess k.b) + (n - (N - 1))) (2 ^ 48 - 1)) ∧
      (N ≤ n → fl = 0 → exec (.select stn f) s =
        .next (s.faultAt (s.env k (ctrlWord 0x05 f)) false fcShapeOver (7 + (n - (N - 1)) % 2 ^ 32 * 2 ^ 32))))

/-- R203: reserved bits; R204: TRAP. -/
def Obligations.TrapAndReservedBits : Prop :=
  (∀ (s : State) (stn : BitVec 11) (k : Loc) (imm : BitVec 16), s.Issues stn (ctrlWord 0x06 ⟨0, 0, 0, imm, 0⟩) k →
    exec (.trap stn ⟨0, 0, 0, imm, 0⟩) s = .next (s.faultAt (s.env k (ctrlWord 0x06 ⟨0, 0, 0, imm, 0⟩)) false fcTrap imm.toNat)) ∧
  (∀ (s : State) (stn : BitVec 11) (k : Loc) (f : CtrlF) (op : Nat) (c : Instr), f.rsv ≠ 0 → s.Issues stn (ctrlWord op f) k →
    (op, c) ∈ [(0x00, Instr.nop stn f), (0x01, .end_ stn f), (0x02, .leg stn f), (0x03, .jmp stn f), (0x04, .loop stn f),
      (0x05, .select stn f), (0x06, .trap stn f)] → (op = 0x02 → (s.stn k).holdReq = false) →
    exec c s = .next (s.faultAt (s.env k (ctrlWord op f)) false fcIllegalOp 0)) ∧
  (∀ (s : State) (stn : BitVec 11) (k : Loc) (f : ScalF) (op : Nat) (c : Instr), f.rsv ≠ 0 → s.Issues stn (scalWord op f) k →
    (op, c) ∈ [(0x10, Instr.sli stn f), (0x11, .slui stn f), (0x12, .sadd stn f), (0x13, .ssub stn f), (0x14, .smul stn f),
      (0x15, .slogic stn f), (0x16, .sshift stn f), (0x17, .sminmax stn f), (0x18, .sld stn f), (0x19, .sst stn f),
      (0x1A, .smfs stn f), (0x1B, .smfp stn f), (0x20, .dld stn f), (0x21, .dst stn f), (0x22, .dset stn f),
      (0x23, .dadv stn f), (0x24, .dcopy stn f), (0x25, .dget stn f), (0x80, .rngset stn f)] →
    exec c s = .next (s.faultAt (s.env k (scalWord op f)) false fcIllegalOp 0)) ∧
  (∀ (s : State) (stn : BitVec 11) (k : Loc) (f : SyncF) (op : Nat) (c : Instr), f.rsv ≠ 0 → s.Issues stn (syncWord op f) k →
    (op, c) ∈ [(0x70, Instr.fence stn f), (0x73, .signal stn f), (0x74, .waitsig stn f),
      (0x76, .collwait stn f)] →
    exec c s = .next (s.faultAt (s.env k (syncWord op f)) false fcIllegalOp 0))

/-- Taking a station fault (R214). -/
def Obligations.FaultIsRecordedAndHoldsOthers : Prop :=
  ∀ (s : State) (v : Env) (late : Bool) (cause info : Nat), v.pc < 2 ^ 32 → cause < 2 ^ 8 → info < 2 ^ 64 →
    let k := v.loc
    let t := s.faultAt v late cause info
    (t.stn k).faulted = true ∧ t.stateAt k = stFaulted ∧ t.pcOf k = v.pc ∧ t.mem = s.mem ∧ t.poison = s.poison ∧
    (s.rd (Reg.stnFaultValid k.b) = 0 →
      t.rd (Reg.stnFaultCause k.b) = cause ∧ t.rd (Reg.stnFaultLate k.b) = (if late then 1 else 0) ∧
      t.rd (Reg.stnFaultValid k.b) = 1 ∧ t.rd (Reg.stnFaultPc k.b) = v.pc ∧ t.rd (Reg.stnFaultInfoInfo k.b) = info ∧
      t.rd (Reg.stnFaultWordWord k.b) = v.word.toNat ∧ t.rd (Reg.stnFaultTimeMeridian k.b) = s.meridian.toNat) ∧
    (s.rd (Reg.stnFaultValid k.b) ≠ 0 →
      t.rd (Reg.stnFaultMore k.b) = min (s.rd (Reg.stnFaultMore k.b) + 1) (2 ^ (Reg.stnFaultMore k.b).w - 1) ∧
      t.rd (Reg.stnFaultCause k.b) = s.rd (Reg.stnFaultCause k.b) ∧ t.rd (Reg.stnFaultPc k.b) = s.rd (Reg.stnFaultPc k.b) ∧
      t.rd (Reg.stnFaultInfoInfo k.b) = s.rd (Reg.stnFaultInfoInfo k.b) ∧
      t.rd (Reg.stnFaultWordWord k.b) = s.rd (Reg.stnFaultWordWord k.b)) ∧
    (∀ q ∈ s.parcelStns (s.parcelOf k.fd), q.key ≠ k.key →
      t.stn q =
        if (s.stn q).active = false ∨ (s.stn q).faulted = true ∨ (s.stn q).held = true then s.stn q
        else if (s.stn q).waiting.isSome then { s.stn q with waiting := none, held := true }
        else { s.stn q with holdReq := true }) ∧
    t.rd (Reg.glbTrvStatusState (s.parcelOf k.fd)) =
      (if s.rd (Reg.glbTrvStatusState (s.parcelOf k.fd)) = trvRunning then trvHeld
       else s.rd (Reg.glbTrvStatusState (s.parcelOf k.fd)))

/-- R211, R220, R268, R271; a return or a retirement due at the barrier is R451's and R455's matter. -/
def Obligations.LegAndEnd : Prop :=
  ∀ (s : State) (stn : BitVec 11) (k : Loc) (i : BitVec 16) (b : BitVec 1),
    let p := s.parcelOf k.fd
    let f : CtrlF := ⟨0, b, 0, i, 0⟩
    let late : Int := (s.meridian.toNat : Int) - (s.originOf k p + s.legEnd p k.num (s.legOf k) : Nat)
    let moved := fun t : State =>
      t.legOf k = i.toNat ∧ t.pcOf k = s.nextPc k ∧ t.mem = s.mem ∧ t.poison = s.poison ∧
      t.periodOf k = (s.periodOf k + if i.toNat ≤ s.legOf k then 1 else 0) % 2 ^ 32 ∧
      t.rd (Reg.stnLatenessLateness k.b) = (late % 2 ^ 64).toNat
    (s.Issues stn (ctrlWord 0x02 f) k → i.toNat < s.legCount p stn.toNat → (s.stn k).holdReq = false →
      (b = 0 → ∃ t, exec (.leg stn f) s = .next t ∧ moved t ∧ (t.stn k).tiles = (s.stn k).tiles) ∧
      (b = 1 → s.drained k = true → s.openInfo k ≠ 0 →
        exec (.leg stn f) s = .next (s.faultAt (s.env k (ctrlWord 0x02 f)) false fcBarrierOpen (s.openInfo k))) ∧
      (b = 1 → s.drained k = false →
        exec (.leg stn f) s = .next (s.updStn k (fun x => { x with waiting := some (.drain (some i.toNat)) }))) ∧
      (b = 1 → s.drained k = true → s.openInfo k = 0 → (s.stn k).chainBuf = none → s.returns = [] → s.retireReq = [] →
        ∃ t, exec (.leg stn f) s = .next t ∧ moved t ∧
          ∀ j, j < 4 → ((t.stn k).tile j).terms = 0 ∧ ((t.stn k).tile j).tl = false ∧ ((t.stn k).tile j).skip = 0 ∧
            ∀ m c, ((t.stn k).tile j).at m c = LA.zero)) ∧
    (s.Issues stn (ctrlWord 0x01 ⟨0, 0, 0, 0, 0⟩) k →
      (s.drained k = true → s.openInfo k = 0 → (s.stn k).chainBuf = none →
        ∃ t, exec (.end_ stn ⟨0, 0, 0, 0, 0⟩) s = .next t ∧ (t.stn k).active = false ∧ (t.stn k).ended = true ∧
          t.pcOf k = s.pcOf k ∧ t.legOf k = s.legOf k ∧ (t.stn k).tiles = (s.stn k).tiles ∧ t.mem = s.mem) ∧
      (s.drained k = true → s.openInfo k ≠ 0 →
        exec (.end_ stn ⟨0, 0, 0, 0, 0⟩) s =
          .next (s.faultAt (s.env k (ctrlWord 0x01 ⟨0, 0, 0, 0, 0⟩)) false fcBarrierOpen (s.openInfo k))) ∧
      (s.drained k = false →
        exec (.end_ stn ⟨0, 0, 0, 0, 0⟩) s = .next
          (if (s.stn k).holdReq then s.holdNow k else s.updStn k (fun x => { x with waiting := some (.drain none) }))))

/-- R223, R226, R315: A = S[SA] + sext(IMM32) modulo 2^64. The routers of the FDs between count the access (R24), and
nothing else changes. -/
def Obligations.MemoryWordLoads : Prop :=
  ∀ (s : State) (stn : BitVec 11) (k : Loc) (sd sa fn : BitVec 5) (imm : BitVec 32) (key : Nat),
    let f : ScalF := ⟨sd, sa, 0, fn, 0, imm⟩
    let A : Nat := (((s.sreg k.b sa.toNat : Int) + imm.toInt) % 2 ^ 64).toNat
    (s.Engages stn (scalWord 0x18 f) k engSeq → fn.toNat ≤ 1 →
      (A % 8 ≠ 0 → exec (.sld stn f) s = .next (s.faultAt (s.env k (scalWord 0x18 f)) false fcAddrInvalid A)) ∧
      (s.OpenWord k fn A 8 .sld key → s.Fed k [(key, 8)] →
        let u := s.meshTrip k.fd (key / 2 ^ 41) (key % 2 ^ 41)
        RoutersOnly s u ∧
        (s.poisonAt key 8 = none → ∃ t, exec (.sld stn f) s = .next t ∧ ScalarResult u k sd.toNat (s.natAt key 8) true t) ∧
        (∀ c, s.poisonAt key 8 = some c →
          exec (.sld stn f) s = .next (u.faultAt (s.env k (scalWord 0x18 f)) true fcPoisonConsumed (s.addrOf c)))) ∧
      (s.OpenWord k fn A 8 .sld key → s.linesFree k.fd [(key, 8)] = false →
        exec (.sld stn f) s = .next (s.enqueue (s.env k (scalWord 0x18 f)) engSeq)) ∧
      (∀ b, fn = 1 → A % 8 = 0 → addrModule A = s.ownModule → s.spanCheck (some (s.parcelOf k.fd)) .sld A 8 = none →
        regionOf (s.keyOf A / 2 ^ 41) (s.keyOf A % 2 ^ 41) = .atomic 0xA b → s.poisonAt (s.keyOf A) 8 = none →
        s.Fed k [(s.keyOf A, 8)] →
        ∃ t, exec (.sld stn f) s = .next t ∧
          Stored s t (dieKey (s.keyOf A / 2 ^ 41) (scBase + b)) (leBytes 8 (s.natAt (dieKey (s.keyOf A / 2 ^ 41) (scBase + b)) 8 + 1)) ∧
          (sd ≠ 0 → t.sreg k.b sd.toNat = s.natAt (dieKey (s.keyOf A / 2 ^ 41) (scBase + b)) 8 ∧ t.sdata k.b sd.toNat = true) ∧
          t.rd (Reg.scAtomicOpsCount (s.keyOf A / 2 ^ 41)) =
            min (s.rd (Reg.scAtomicOpsCount (s.keyOf A / 2 ^ 41)) + 1) (2 ^ (Reg.scAtomicOpsCount 0).w - 1) ∧
          t.pcOf k = s.nextPc k) ∧
      (fn = 1 → A % 8 = 0 → addrModule A ≠ s.ownModule → s.spanCheck (some (s.parcelOf k.fd)) .sld A 8 = none →
        s.remoteHere [(s.keyOf A, 8)] = false →
        exec (.sld stn f) s = .next
          ((s.ask (s.env k (scalWord 0x18 f)) [(s.keyOf A, 8)]).enqueue (s.env k (scalWord 0x18 f)) engSeq))) ∧
    (s.Engages stn (scalWord 0x20 f) k engSeq → fn.toNat ≤ 1 → sd.toNat < 16 →
      (A % 64 ≠ 0 → exec (.dld stn f) s = .next (s.faultAt (s.env k (scalWord 0x20 f)) false fcAddrInvalid A)) ∧
      (s.OpenWord k fn A 64 .read key → s.Fed k [(key, 64)] →
        let u := s.meshTrip k.fd (key / 2 ^ 41) (key % 2 ^ 41)
        RoutersOnly s u ∧
        (s.poisonAt key 64 = none → ∃ t, exec (.dld stn f) s = .next t ∧ DescResult u k sd.toNat (s.natAt key 64) t) ∧
        (∀ c, s.poisonAt key 64 = some c →
          exec (.dld stn f) s = .next (u.faultAt (s.env k (scalWord 0x20 f)) true fcPoisonConsumed (s.addrOf c)))))

/-- R223, R226: A = S[SA] + sext(IMM32) modulo 2^64. -/
def Obligations.MemoryWordStores : Prop :=
  ∀ (s : State) (stn : BitVec 11) (k : Loc) (sd sa sb fn : BitVec 5) (imm : BitVec 32) (key : Nat), fn.toNat ≤ 1 →
    let A : Nat := (((s.sreg k.b sa.toNat : Int) + imm.toInt) % 2 ^ 64).toNat
    let only := fun t : State =>
      t = { s with regs := t.regs, mem := t.mem, lsts := t.lsts, fab := { s.fab with forwards := t.fab.forwards } } ∧
      (∀ a, a ≠ pcAddr k → t.reg a = s.reg a) ∧ t.pcOf k = s.nextPc k ∧ t.legOf k = s.legOf k ∧
      (fn = 1 → t.lsts = s.lsts) ∧ (∀ n, n ≠ k.num → t.lst n = s.lst n) ∧
      t.lst k.num = { s.lst k.num with wrote := (t.lst k.num).wrote }
    let wrote := fun (t : State) (cws : List Nat) =>
      fn = 0 → ∀ c, c ∈ (t.lst k.num).wrote ↔ c ∈ (s.lst k.num).wrote ∨ c ∈ cws
    (let f : ScalF := ⟨0, sa, sb, fn, 0, imm⟩
     s.Engages stn (scalWord 0x19 f) k engSeq →
      (s.OpenWord k fn A 8 .write key → s.Lands k.fd key 8 → fn = 0 ∨ s.trkRoom k.fd k.num = true →
        ∃ t, exec (.sst stn f) s = .next t ∧ Stored s t key (leBytes 8 (s.sreg k.b sb.toNat)) ∧ only t ∧ wrote t [key / 32]) ∧
      (fn = 1 → s.OpenWord k fn A 8 .write key → s.trkRoom k.fd k.num = false →
        exec (.sst stn f) s = .next ((s.inc (Reg.memTrkStallCount k.fd)).enqueue (s.env k (scalWord 0x19 f)) engSeq)) ∧
      (A % 8 ≠ 0 → exec (.sst stn f) s = .next (s.faultAt (s.env k (scalWord 0x19 f)) false fcAddrInvalid A)) ∧
      (fn = 1 → A % 8 = 0 → s.spanCheck (some (s.parcelOf k.fd)) .write A 8 = none → s.inImage (s.keyOf A) 8 = true →
        exec (.sst stn f) s = .next (s.faultAt (s.env k (scalWord 0x19 f)) false fcAccessDenied A))) ∧
    (let f : ScalF := ⟨sd, sa, 0, fn, 0, imm⟩
     s.Engages stn (scalWord 0x21 f) k engSeq → sd.toNat < 16 →
      (s.OpenWord k fn A 64 .write key → s.Lands k.fd key 64 → fn = 0 ∨ s.trkRoom k.fd k.num = true →
        ∃ t, exec (.dst stn f) s = .next t ∧ Stored s t key (leBytes 64 (s.dbits k.b sd.toNat)) ∧
          t.cwPoison (key / 32) = false ∧ t.cwPoison (key / 32 + 1) = false ∧ only { t with poison := s.poison } ∧
          wrote t [key / 32, key / 32 + 1]) ∧
      (A % 64 ≠ 0 → exec (.dst stn f) s = .next (s.faultAt (s.env k (scalWord 0x21 f)) false fcAddrInvalid A)))

/-- R123, R228: the plan `c` is what the checks settle, once the plat headers they read are here. -/
def Obligations.CopiesAndConvertingLoads : Prop :=
  ∀ (s : State) (stn : BitVec 11) (k : Loc) (f : TensF) (cvld : Bool),
    let w := tensWord (if cvld then 0x31 else 0x30) f
    let v := s.env k w
    let run := exec (if cvld then .cvld stn f else .copy stn f) s
    let used := uDD + uDA + (if f.m 20 1 = 1 then uDC else 0) + (if cvld ∧ f.m 21 2 = rndSr then uSLOT else 0)
    let heads := s.platHeads v .read f.da.toNat ++ (if cvld then s.platHeads v .write f.dd.toNat else [])
    s.Engages stn w k engMov → f.okFor used (if cvld then 2 ^ 24 - 1 else 2 ^ 21 - 1) = true →
    let die := s.dieCopy k w
    let s0 := if die then s.xpJoin v else s
    (∀ o, copyOps cvld f v s = .ok o → s.remoteHere heads = false → run = .next (s.ask v heads)) ∧
    (∀ c : CopyPlan, s.remoteHere heads = true → copyCheck cvld f v s = .ok c → die = true →
      (s.xpFull k.fd = true → run = .next (s.inc (Reg.fdXpStallCount k.fd))) ∧
      (s.xpFull k.fd = false → s0.xpBehind v true = true → run = .next (s0.enqueue v engMov))) ∧
    (∀ c : CopyPlan, s.remoteHere heads = true → copyCheck cvld f v s = .ok c → (die = true → ∀ e ∈ s.xpQueue, e.1 ≠ k.fd) →
      let needs := s.copySpans k c ++ (if cvld then s.cvldGiven k c else [])
      s.Fed k needs →
      let s1 := s0.noteReads v needs
      let masked := decide (cvld = true ∧ c.dst.layout = layPlat)
      let scales := match c.dsc with
        | some t => s1.poisonCws k c.dst (fun d =>
            [(s1.dkey k t (t.container (c.dst.scaleCoord (d.map (fun (x : Nat) => (x : Int))))).1, 1)])
        | none => []
      let copied := copyWrites f c k s1
      let loaded := cvldWrites f c k s1
      let through := cvldPlat f c k s1
      let ws := s1.stageWrites k c ++ (if masked then through.1 else if cvld then loaded.1 else copied.1)
      let r := s1.storeP v.writer v.parcel ws (if masked then through.2.1 else if cvld then loaded.2.1 ++ scales else copied.2)
      let counted := if masked then (r.1.countCvts k through.2.2.1 through.2.2.2.1).platDrops k through.2.2.2.2
        else if cvld then r.1.countCvts k loaded.2.2.1 loaded.2.2.2 else r.1
      let drawn := if c.stage.isSome then { counted with freeCtr := counted.freeCtr + 1 } else counted
      let tallied := fun (s : State) => (s.countCopy v f c).shapeClamp k c.excess
      let ended := fun (s : State) => (if die then (tallied s).xpDone v else tallied s).dropRemote needs
      let spoilt := if masked then s1.poisoned (s1.cvldGiven k c) else none
      (spoilt = none → s1.storeRoom k ws = false → run = .next ((s1.inc (Reg.memTrkStallCount k.fd)).enqueue v engMov)) ∧
      (spoilt = none → s1.storeRoom k ws = true → r.2 = none → run = .next ((ended drawn).advance k)) ∧
      (∀ a, spoilt = none → s1.storeRoom k ws = true → r.2 = some a → run = .next ((ended drawn).faultAt v true fcPoisonConsumed (s1.addrOf a))) ∧
      (∀ a, spoilt = some a → run = .next ((ended s1).faultAt v true fcPoisonConsumed a))) ∧
    (∀ cause info : Nat, copyOps cvld f v s = .error (cause, info) ∨
        (s.remoteHere heads = true ∧ copyCheck cvld f v s = .error (cause, info)) →
      run = .next ((if cause = fcCopyOverlap then s.inc (Reg.stnXpFaultsOverlap k.b)
        else if cause = fcCopyTooLarge then s.inc (Reg.stnXpFaultsTooLarge k.b)
        else if cause = fcLayoutInvalid then s.inc (Reg.stnXpFaultsLayout k.b) else s).faultAt v false cause info))

/-- R92, R229, R230. -/
def Obligations.TileLoadStoreClear : Prop :=
  ∀ (s : State) (stn : BitVec 11) (k : Loc) (f : TensF),
    let ts := f.ts.toNat
    let old := (s.stn k).tile ts
    (∀ (d : Desc) (sc : Option Desc) (x : Nat), s.Engages stn (tensWord 0x32 f) k engMov → f.okFor (uDA + uTS + uSX) 0 = true →
      s.useDesc (s.env k (tensWord 0x32 f)) .read f.da.toNat = .ok (d, sc, x) → tileImage d = true → old.lockedBy = none →
      let v := s.env k (tensWord 0x32 f)
      let locked := s.updStn k (fun t => t.setTile ts { t.tile ts with lockedBy := some lockLoad })
      let spans := s.spansOf k d none
      let s1 := locked.noteReads v spans
      (s.remoteHere spans = false → exec (.tld stn f) s = .next ((locked.ask v spans).enqueue v engMov)) ∧
      ((s.stn k).chainBuf = none → s.Fed k spans →
        (∀ i, i < 1024 → s1.poisonAt (s1.dkey k d (d.container [i % 64, i / 64, 0, 0, 0]).1) 32 = none) →
        ∃ t, exec (.tld stn f) s = .next t ∧ t.mem = s.mem ∧ GoesOn s t k ∧
          (∀ i, i < 1024 → ((t.stn k).tile ts).at (i / 64) (i % 64) =
            LA.decode (s1.natAt (s1.dkey k d (d.container [i % 64, i / 64, 0, 0, 0]).1) 32)) ∧
          ((t.stn k).tile ts).terms = (if f.sx = 0 then 0 else s.sreg k.b f.sx.toNat % 2 ^ 32) ∧
          ((t.stn k).tile ts).tl = (f.sx ≠ 0 && bitOf (s.sreg k.b f.sx.toNat) 32) ∧ ((t.stn k).tile ts).skip = 0 ∧
          ((t.stn k).tile ts).lockedBy = none ∧
          (∀ j, j ≠ ts → (t.stn k).tile j = (s.stn k).tile j) ∧ (∀ q, q ≠ k.key → t.stnAt q = s.stnAt q))) ∧
    (∀ (d : Desc) (sc : Option Desc) (x : Nat), s.Engages stn (tensWord 0x33 f) k engMov → f.okFor (uDD + uTS + uSX) 0 = true →
      s.useDesc (s.env k (tensWord 0x33 f)) .write f.dd.toNat = .ok (d, sc, x) → tileImage d = true → old.lockedBy = none →
      old.expect = 0 →
      let me := (s.env k (tensWord 0x33 f)).writer
      let ws := s.packTensor k d true (fun c => some (old.at (c.getD 1 0) (c.getD 0 0)).encode)
      s.Admits (s.env k (tensWord 0x33 f)) ws →
      exec (.tst stn f) s = .next ((((s.storeAll me (s.parcelOf k.fd) ws).setS k.b f.sx.toNat
        (old.terms % 2 ^ 32 + (if old.tl then 2 ^ 32 else 0)) true).shapeClamp k x).advance k)) ∧
    (s.Engages stn (tensWord 0x34 f) k engMat → f.okFor uTS 0 = true → old.lockedBy = none → (s.stn k).chainBuf = none →
      ∃ t, exec (.tclr stn f) s = .next t ∧ StationOnly s t k [pcAddr k] ∧ GoesOn s t k ∧
        (∀ m n, ((t.stn k).tile ts).at m n = LA.zero) ∧
        ((t.stn k).tile ts).terms = 0 ∧ ((t.stn k).tile ts).tl = false ∧ ((t.stn k).tile ts).skip = 0 ∧
        ((t.stn k).tile ts).expect = old.expect ∧ ((t.stn k).tile ts).chainId = old.chainId ∧
        (∀ j, j ≠ ts → (t.stn k).tile j = (s.stn k).tile j)) ∧
    (∀ l : Nat, old.lockedBy = some l → s.Engages stn (tensWord 0x34 f) k engMat → f.okFor uTS 0 = true →
      exec (.tclr stn f) s = .next ((s.inc (Reg.maStallTileCount k.b)).enqueue (s.env k (tensWord 0x34 f)) engMat))

/-- R59 to R61: the long accumulator. -/
def Obligations.AccumulationIsExactAndOrderFree : Prop :=
  (∀ (la lb : Bool) (p0 depth : Nat) (a : List (List GEl)) (w : List (List (Option GEl))) (T : Tile) (m n : Nat),
    w.length ≤ 64 → n < 64 →
    let r := (onePass la lb p0 depth a w (T, 0)).1
    r.terms = T.terms ∧ r.tl = T.tl ∧ r.skip = T.skip ∧
    r.at m n =
      match a[m]?, w[n]? with
      | some row, some col =>
        let x := passTerm la lb (((row.drop p0).take depth).zip ((col.drop p0).take depth))
        if colSkipped T.skip n = true ∨ (x.1 = 0 ∧ x.2.2 = false) then T.at m n
        else ⟨(T.at m n).l + BitVec.ofInt 192 (promote x.1 x.2.1).1, (T.at m n).n || x.2.2, (T.at m n).c || (promote x.1 x.2.1).2⟩
      | _, _ => T.at m n) ∧
  (∀ x y z : LA, x.add y = y.add x ∧ (x.add y).add z = x.add (y.add z)) ∧
  (∀ xs ys : List LA, xs.Perm ys →
    let total := (xs.map (fun x => x.l.toInt)).sum
    let r := ys.foldl LA.add LA.zero
    r.l = BitVec.ofInt 192 total ∧ r.n = xs.any (·.n) ∧ r.c = xs.any (·.c) ∧
    (-(2 ^ 191) ≤ total → total < 2 ^ 191 → r.l.toInt = total)) ∧
  (∀ p e : Int, (promote p e).1.natAbs ≤ 2 ^ 175 - 1 ∧ ((promote p e).2 = false → -112 ≤ e → (promote p e).1 = p * 2 ^ (e + 112).toNat))

/-- R106, R233, R234, R235: the plans are what the checks settle. -/
def Obligations.DenseProducts : Prop :=
  ∀ (s : State) (stn : BitVec 11) (k : Loc) (f : TensF),
    let ts := f.ts.toNat
    let old := (s.stn k).tile ts
    old.lockedBy = none → (s.stn k).chainBuf = none →
    (∀ c : MpassPlan, s.Engages stn (tensWord 0x40 f) k engMat →
      f.okFor (uDA + uTS + (if f.m 2 1 = 1 then 0 else uDB) + (if f.m 3 1 = 1 then uDC else 0)) 15 = true →
      mpassCheck f (s.env k (tensWord 0x40 f)) s = .ok c →
      let none? := c.m = 0 ∨ c.n = 0 ∨ c.kk = 0
      let s1 := ((s.shapeClamp k c.excess).emptyFeed k).loadSkip k ts c.bm 0
      let t0 := (s1.stn k).tile ts
      (¬ none? → s.poisoned (s.skipSpans k c.bm 0) = none) →
      (¬ none? → t0.skip ≠ 15 → s1.poisoned (s1.gridSpans k c.a c.asc ++
        (match c.w with | some (w, wsc) => s1.gridSpans k w wsc | none => [])) = none) →
      let A := (List.range c.m).map (fun o => s.gridRow k c.a c.asc o c.kk)
      let W := match c.w with
        | some (w, wsc) => (List.range c.n).map (fun o => (s.gridRow k w wsc o c.kk).map some)
        | none => ((s.stn k).slab.map Slab.cols).getD []
      ∃ t, exec (.mpass stn f) s = .next t ∧ StationOnly s t k (passRegs k) ∧ GoesOn s t k ∧
        (∀ j, j ≠ ts → (t.stn k).tile j = (s.stn k).tile j) ∧
        (none? → (t.stn k).tile ts = old) ∧
        (¬ none? → t0.skip = 15 → (t.stn k).tile ts = t0) ∧
        (¬ none? → t0.skip ≠ 15 → (t.stn k).tile ts =
          (runPasses c.na (if c.w.isSome then c.nb else 1) c.depth c.kk A W (fun _ => false) t0).tile)) ∧
    (∀ (a b : Desc) (asc bsc : Option Desc) (x : Nat), s.Engages stn (tensWord 0x41 f) k engMat →
      f.okFor (uDA + uDB + uTS) 0x33 = true → melemCheck f (s.env k (tensWord 0x41 f)) s = .ok ((a, asc), (b, bsc), x) →
      let op := f.m 4 2
      let s1 := ((s.shapeClamp k x).noSlab k).emptyFeed k
      let some? := !a.pexts.any (· = 0)
      let A := if some? then s1.melemRows k a asc else []
      let B := if some? then s1.melemRows k b bsc else []
      let na := limbCount a.fmt (f.m 0 1)
      let nb := limbCount b.fmt (f.m 1 1)
      (some? = true → s1.poisoned (s1.gridSpans k a asc ++ s1.gridSpans k b bsc) = none) →
      (a.scaled = true → constLists (A.map (fun r => r.map (·.2))) = true) →
      (b.scaled = true → constLists ((List.range (a.pe 0)).map (fun n => B.map (fun r => (r[n]?.map (·.2)).getD 0))) = true) →
      ∃ t, exec (.melem stn f) s = .next t ∧ StationOnly s t k (passRegs k) ∧ GoesOn s t k ∧
        (∀ j, j ≠ ts → (t.stn k).tile j = (s.stn k).tile j) ∧
        (t.stn k).tile ts =
          { (melemRun op na nb A B (if op = 0 then old.clear else old)).1.addTerms
              (if op < 2 then (limbCombos na nb).length else na + nb) with opened := true })

/-- R144, R150. -/
def Obligations.SparseProducts : Prop :=
  ∀ (s : State) (stn : BitVec 11) (k : Loc) (f : TensF) (tr : Bool) (c : SpmmPlan),
    let ts := f.ts.toNat
    let w := tensWord (if tr then 0x61 else 0x60) f
    s.Engages stn w k engMat → ((s.stn k).tile ts).lockedBy = none → (s.stn k).chainBuf = none →
    f.okFor (uDA + uDB + uTS + uSX + (if f.m 3 1 = 1 then uDC else 0)) 0xB = true →
    (if tr then spmmTCheck f (s.env k w) s else spmmCheck f (s.env k w) s) = .ok c →
    s.poisoned [(s.dkey k c.w 0, 64)] = none →
    let h := s.platHdr k c.w
    let none? := c.m = 0 ∨ c.n = 0 ∨ c.kk = 0
    let s0 := ((s.shapeClamp k c.excess).noSlab k).emptyFeed k
    let col := (if tr then c.p0 else c.n0) / 16
    let s1 := s0.loadSkip k ts c.bm col
    let t0 := (s1.stn k).tile ts
    (¬ none? → s0.poisoned (s0.skipSpans k c.bm col) = none) →
    (¬ none? → t0.skip ≠ 15 → s1.poisoned (s1.spmmSpans tr k c t0.skip) = none) →
    let A := (List.range c.m).map (fun o => s.gridRow k c.a c.asc o c.kk)
    let W := (List.range c.n).map (fun n =>
      if tr then s.platColT k c.w h (c.p0 + n) c.n0 c.kk c.depth else s.platCol k c.w h (c.n0 + n) c.p0 c.kk)
    let empty := fun (q : Nat) =>
      if tr then s.slabEmpty k c.w h (c.n0 + q) (min c.depth (c.kk - q)) c.p0 c.n
      else s.slabEmpty k c.w h c.n0 c.n (c.p0 + q) (min c.depth (c.kk - q))
    ∃ t, exec (if tr then .spmmT stn f else .spmm stn f) s = .next t ∧
      StationOnly s t k (passRegs k ++ [(Reg.stnSpRangeCount k.b).addr, (Reg.stnSpDupCount k.b).addr,
        (Reg.stnSpOrderCount k.b).addr, (Reg.stnSpBoundCount k.b).addr]) ∧ GoesOn s t k ∧
      (∀ j, j ≠ ts → (t.stn k).tile j = (s.stn k).tile j) ∧
      (none? → (t.stn k).tile ts = (s.stn k).tile ts) ∧
      (¬ none? → t0.skip = 15 → (t.stn k).tile ts = t0) ∧
      (¬ none? → t0.skip ≠ 15 → (t.stn k).tile ts = (runPasses c.na c.nb c.depth c.kk A W empty t0).tile)

/-- R154, R155, R161: what is stored, and the order of candidates. -/
def Obligations.ReconPruneRegrow : Prop :=
  (∀ (s : State) (stn : BitVec 11) (k : Loc) (f : TensF) (c : ReconPlan),
    let ts := f.ts.toNat
    let sx := s.sreg k.b f.sx.toNat
    s.Engages stn (tensWord 0x62 f) k engMat → f.okFor (uDD + uDA + uDB + uTS + uSX) 0x7F = true → sx < 2 ^ 54 →
    reconCheck f (s.env k (tensWord 0x62 f)) s = .ok c → ((s.stn k).tile ts).lockedBy = none →
    let plat := c.w.layout = layPlat
    let h := s.platHdr k c.w
    s.poisoned (s.gridSpans k c.a c.asc ++
      (if plat then s.platAll k c.w h true true true else s.gridSpans k c.w c.wsc)) = none →
    let kept := s.reconMask k f sx c
    let bits := kept.zipIdx.foldl (fun acc x => acc + (if x.1 then 0 else 2 ^ x.2)) 0
    let ws := spread (s.dkey k c.o 0) (leBytes (bitmapBytes (c.o.e 0) (c.o.e 1)) bits)
    let v := s.env k (tensWord 0x62 f)
    s.Admits v ws →
    let s2 := ((((s.storeAll v.writer v.parcel ws).shapeClamp k c.excess).noSlab k).platDrops k
      (if plat then (List.range (c.o.e 0)).flatMap (s.platRow k c.w h) else [])).countSlices k
      (c.a.readSlices + (if plat then h.rows * ((c.kk + 127) / 128) else c.w.readSlices))
    exec (.recon stn f) s = .next ((((((s2.updStn k
      (fun t => t.setTile ts (t.tile ts).clear)).inc (Reg.stnSpReconKeptCount k.b) (kept.filter id).length).inc
      (Reg.stnSpReconSkipCount k.b) (kept.length - (kept.filter id).length)).inc (Reg.maPassesPasses k.b)
      (if c.o.e 1 = 0 then 0 else (c.o.e 0 + 63) / 64 * ((c.kk + 63) / 64))).chainServe k).advance k)) ∧
  (∀ (s : State) (stn : BitVec 11) (k : Loc) (f : TensF) (regrow : Bool) (c : SelPlan),
    let w := tensWord (if regrow then 0x64 else 0x63) f
    let rows := if regrow then s.regrowRows k c (f.m 0 4) else s.pruneRows k c
    let ws := s.selWrites k c rows
    s.Engages stn w k engSel →
    f.okFor (uDD + uDA + (if regrow ∨ f.m 0 1 = 1 then uDC else 0)) (if regrow then 15 else 1) = true →
    selCheck regrow f (s.env k w) s = .ok c → s.poisoned (s.selSpans k c) = none →
    let v := s.env k w
    s.Admits v ws →
    let st := (s.storeAll v.writer v.parcel ws).platDrops k (s.selGroups k c)
    exec (if regrow then .regrow stn f else .prune stn f) s =
      .next (((if selFills rows = 0 then st else st.inc (Reg.stnSpFillCount k.b) (selFills rows)).shapeClamp k c.excess).advance k)) ∧
  (∀ (keep g fmt : Nat) (cands : List (Nat × Nat)) (key : Nat × Nat → FVal),
    keep ≤ g → (∀ x ∈ cands, x.1 < g) → (cands.map (·.1)).Nodup →
    let r := (pruneGroup keep g fmt cands key).1.map (·.1)
    r.length = keep ∧ r.Pairwise (· < ·) ∧
    (∀ x ∈ cands, ∀ y ∈ cands, x.1 ∈ r → y.1 ∉ r → keyLt (key x) (key y) = false))

/-- R238 to R240. -/
def Obligations.VectorArithmetic : Prop :=
  ∀ (s : State) (stn : BitVec 11) (k : Loc) (f : TensF),
    let V := fun (i : BitVec 4) j => (s.stn k).lane i.toNat j
    let B := fun j => if f.m 3 1 = 1 then s.sreg k.b f.sx.toNat % 2 ^ 32 else V f.db j
    let sb := if f.m 3 1 = 1 then uSX else uDB
    (s.Engages stn (tensWord 0x52 f) k engVec → f.okFor (uDD + uDA + uPM + sb) 0xF = true → f.m 0 3 < 5 →
      ∃ t, exec (.varith stn f) s = .next t ∧ VectorResult s t k f.dd.toNat f.pm.toNat
        (fun j => if f.m 0 3 = 0 then f32Add (V f.da j) (B j) else if f.m 0 3 = 1 then f32Sub (V f.da j) (B j)
          else if f.m 0 3 = 2 then f32Mul (V f.da j) (B j) else f32MinMax (decide (f.m 0 3 = 4)) (V f.da j) (B j)) []) ∧
    (s.Engages stn (tensWord 0x52 f) k engVec → 5 ≤ f.m 0 3 →
      exec (.varith stn f) s = .next (s.faultAt (s.env k (tensWord 0x52 f)) false fcIllegalOp 0)) ∧
    (s.Engages stn (tensWord 0x53 f) k engVec → f.okFor (uDD + uDA + uDB + uDC + uPM) 0 = true →
      ∃ t, exec (.vfma stn f) s = .next t ∧ VectorResult s t k f.dd.toNat f.pm.toNat
        (fun j => f32Fma (V f.da j) (V f.db j) (V f.dc j)) []) ∧
    (s.Engages stn (tensWord 0x54 f) k engVec → f.okFor (uDD + uDA + uPM) 7 = true →
      ∃ t, exec (.vfunc stn f) s = .next t ∧ VectorResult s t k f.dd.toNat f.pm.toNat (fun j => vfunc (f.m 0 3) (V f.da j)) []) ∧
    (s.Engages stn (tensWord 0x56 f) k engVec → f.okFor (uDD + uDA + uDB + uDC + uPM) 0 = true → f.dc.toNat < 8 →
      ∃ t, exec (.vsel stn f) s = .next t ∧ VectorResult s t k f.dd.toNat f.pm.toNat
        (fun j => if bitOf (s.pred k.b f.dc.toNat) j then V f.da j else V f.db j) []) ∧
    (s.Engages stn (tensWord 0x55 f) k engVec → f.okFor (uDD + uDA + uPM + sb) 0xF = true → f.dd.toNat < 8 →
      ∃ t, exec (.vcmp stn f) s = .next t ∧ OnlyRegs s t [pcAddr k, (Reg.stnP k.b f.dd.toNat).addr] ∧ GoesOn s t k ∧
        (f.dd = 0 → ∀ a, a ≠ pcAddr k → t.reg a = s.reg a) ∧
        ∀ j, j < 64 → f.dd ≠ 0 → bitOf (t.pred k.b f.dd.toNat) j =
          if bitOf (s.pred k.b f.pm.toNat) j then
            (let x := f32Val (V f.da j)
             let y := f32Val (B j)
             let un := x.isNan || y.isNan
             let eq := x.eqv y
             [eq, un || !eq, x.lt y, x.lt y || eq, y.lt x, y.lt x || eq, un, !un].getD (f.m 0 3) false)
          else bitOf (s.pred k.b f.dd.toNat) j) ∧
    (s.Engages stn (tensWord 0x55 f) k engVec → 8 ≤ f.dd.toNat →
      exec (.vcmp stn f) s = .next (s.faultAt (s.env k (tensWord 0x55 f)) false fcIllegalOp 0))

/-- R237, R241 to R243. -/
def Obligations.VectorLoadsAndConversions : Prop :=
  ∀ (s : State) (stn : BitVec 11) (k : Loc) (f : TensF),
    let raw := decide (f.m 7 1 = 1)
    let on := (List.range 64).filter (s.enabled k f)
    let counts := [(Reg.stnArithNonfinNonfin k.b).addr, (Reg.stnRngDrawsCount k.b).addr, (Reg.stnShapeClampExcess k.b).addr,
      (Reg.stnXpSlicesCount k.b).addr]
    (∀ (d : Desc) (sc : Option Desc) (x : Nat), s.Engages stn (tensWord 0x50 f) k engVec →
      f.okFor (uDD + uDA + uPM) 0x80 = true → s.useDesc (s.env k (tensWord 0x50 f)) .read f.da.toNat = .ok (d, sc, x) →
      vecFmt d raw = none →
      let spans := (List.range 64).flatMap (fun j =>
        if s.enabled k f j then (match laneCoord d j with | some q => s.touched k d sc q | none => []) else [])
      let v := s.env k (tensWord 0x50 f)
      let s1 := s.noteReads v spans
      s.Fed k spans → s1.poisoned spans = none →
      ∃ t, exec (.vld stn f) s = .next t ∧ VectorResult (s.took v spans) t k f.dd.toNat f.pm.toNat
        (fun j => match laneCoord d j with | some q => s1.laneOf k d sc raw q | none => 0) counts) ∧
    (∀ (d : Desc) (sc : Option Desc) (x : Nat), s.Engages stn (tensWord 0x59 f) k engVec →
      f.okFor (uDD + uDA + uDB + uPM) 0x80 = true → s.useGather (s.env k (tensWord 0x59 f)) f.db.toNat = .ok (d, sc, x) →
      vecFmt d raw = none →
      let coord := fun j => (d.unlinear ((s.stn k).lane f.da.toNat j)).map (fun (y : Nat) => (y : Int))
      let spans := on.flatMap (fun j => s.touched k d sc (coord j))
      let v := s.env k (tensWord 0x59 f)
      let s1 := s.noteReads v spans
      (∀ j ∈ on, s.gatherFault v d sc ((s.stn k).lane f.da.toNat j) = none) →
      s.Fed k spans → s1.poisoned spans = none →
      ∃ t, exec (.vgather stn f) s = .next t ∧ VectorResult (s.took v spans) t k f.dd.toNat f.pm.toNat
        (fun j => s1.laneOf k d sc raw (coord j)) counts) ∧
    (let rnd := f.m 5 2
     let kind := f.m 8 2
     s.Engages stn (tensWord 0x58 f) k engVec → f.okFor (uDD + uDA + uPM + (if rnd = rndSr then uSLOT else 0)) 0x3FF = true →
      (kind = 0 ∧ vcvtFmt (f.m 0 5) = true ∨ (kind = 1 ∨ kind = 2) ∧ f.m 0 5 = 0) → rnd ≠ 3 →
      ∃ t, exec (.vcvt stn f) s = .next t ∧ VectorResult s t k f.dd.toNat f.pm.toNat
        (fun j => (vcvtLane kind (f.m 0 5) rnd (if rnd = rndSr then s.srWord k f.slot.toNat j else 0) raw
          ((s.stn k).lane f.da.toNat j)).1) counts) ∧
    (∀ (d : Desc) (sc : Option Desc) (x : Nat),
      let sr := decide (f.m 4 2 = rndSr)
      s.Engages stn (tensWord 0x51 f) k engVec → f.okFor (uDD + uDA + uPM + (if sr then uSLOT else 0)) 0xF0 = true → f.m 4 2 ≠ 3 →
      s.useDesc (s.env k (tensWord 0x51 f)) .write f.dd.toNat true = .ok (d, sc, x) → vecFmt d raw = none → d.fmt ≠ fE8m0 →
      let cs := if d.count = 0 then [] else (List.range (min 64 (d.e 0))).filter (s.enabled k f)
      let spans := match sc with
        | some t => cs.map (fun (j : Nat) => (s.dkey k t (t.container (d.scaleCoord [(j : Int), 0, 0, 0, 0])).1, 1))
        | none => []
      let v := s.env k (tensWord 0x51 f)
      let needs := spans ++ s.vstOld k d cs
      let s1 := s.noteReads v needs
      let ex := fun j => s1.givenExp k d sc [j, 0, 0, 0, 0]
      let one := fun j => vstCvt f d (ex j) (if sr then s.srWord k f.slot.toNat j else 0) ((s.stn k).lane f.da.toNat j)
      let ws := s1.packTensor k d false (fun c =>
        if c.drop 1 = [0, 0, 0, 0] ∧ cs.contains (c.headD 0) then some (one (c.headD 0)).raw else none)
      s.Fed k needs → s1.poisoned spans = none → s1.Admits v ws →
      exec (.vst stn f) s = .next (((((s1.storeAll v.writer v.parcel ws).countCvts k
        (if raw then 0 else (cs.filter (fun j => cvtCounts (ex j) (one j))).length)
        (if sr ∧ !raw then cs.length else 0)).shapeClamp k x).dropRemote needs).advance k)) ∧
    (let ts := f.ts.toNat
     s.Engages stn (tensWord 0x57 f) k engVec → f.okFor (uDA + uPM + uTS) 0x1F = true → ((s.stn k).tile ts).lockedBy = none →
      let terms := on.map (fun j => (j, laneTerm ((s.stn k).lane f.da.toNat j)))
      ∃ t, exec (.vred stn f) s = .next t ∧ StationOnly s t k (passRegs k) ∧ GoesOn s t k ∧
        (∀ i, i ≠ ts → (t.stn k).tile i = (s.stn k).tile i) ∧
        (t.stn k).tile ts = ((terms.foldl (fun acc y => addTermAt (f.m 0 4) (if f.m 4 1 = 1 then 0 else y.1) y.2 acc)
          ((s.stn k).tile ts, 0)).1.addTerms 1))

/-- R250 to R252. -/
def Obligations.RandSampleAndRngset : Prop :=
  ∀ (s : State) (stn : BitVec 11) (k : Loc) (f : TensF),
    let p := s.parcelOf k.fd
    (∀ c : RandPlan, s.Engages stn (tensWord 0x81 f) k engRqd →
      f.okFor (uDD + uSLOT + uSX + (if randDrop f then uDA else 0)) 0x1F = true →
      randCheck f (s.env k (tensWord 0x81 f)) s = .ok c →
      let spans := match c.src with | some (a, asc) => s.spansOf k a asc | none => []
      let word := fun (e : List Nat) =>
        let w := (rngBlock (s.rd (Reg.stnRngSeedSeed k.b)) (s.rd (Reg.stnRngStreamStream k.b f.slot.toNat))
          (s.rd (Reg.stnRngBaseBase k.b f.slot.toNat) + c.dst.linear (e.set 0 (e.headD 0 / 2)))).1
        if e.headD 0 % 2 = 0 then w % 2 ^ 32 else w / 2 ^ 32 % 2 ^ 32
      let v := s.env k (tensWord 0x81 f)
      let s1 := s.noteReads v spans
      let ws := if bitOf f.mode.toNat 4 then s1.packTensor k c.dst.widened true (fun e => some (word e))
        else s1.packTensor k c.dst true (fun e => some (s1.randElem k f c e))
      s.Fed k spans → s1.poisoned spans = none → s1.Admits v ws →
      exec (.rand stn f) s =
        .next (((((s1.storeAll v.writer p ws).countDraws k c.dst.count).shapeClamp k c.excess).dropRemote spans).advance k)) ∧
    (∀ c : SamplePlan, s.Engages stn (tensWord 0x82 f) k engRqd → f.okFor (uDD + uDA + uSLOT + uSX) 0x1FF = true →
      sampleCheck f (s.env k (tensWord 0x82 f)) s = .ok c →
      let merge := bitOf f.mode.toNat 0
      let spans := s.spansOf k c.src c.ssc
      let rows := if c.dst.count = 0 then [] else coordsOf [c.dst.e 1, c.dst.e 2, c.dst.e 3, c.dst.e 4]
      let v := s.env k (tensWord 0x82 f)
      let s1 := s.noteReads v spans
      let list := fun r => candList (f.m 2 7) (bitOf f.mode.toNat 1) (if merge then s1.listCands k c r else s1.scoreCands k f c r)
      let ws := rows.zipIdx.flatMap (fun r => spread (s1.dkey k c.dst (c.dst.container (0 :: r.1)).1)
        (candBytes (sampleEntries f) r.2 (list r.1)))
      s.Fed k spans → s1.poisoned spans = none → s1.Admits v ws →
      exec (.sample stn f) s = .next (((((s1.storeAll v.writer p ws).countDraws k
        (if merge ∨ s.sreg k.b f.sx.toNat % 2 ^ 32 = f32Inf then 0 else c.src.count)).shapeClamp k c.excess).dropRemote spans).advance k)) ∧
    (∀ (sa fn : BitVec 5) (imm : BitVec 32),
      let g : ScalF := ⟨0, sa, 0, fn, 0, imm⟩
      let n := fn.toNat
      let x : Nat := (((s.sreg k.b sa.toNat : Int) + imm.toInt) % 2 ^ 64).toNat
      s.Issues stn (scalWord 0x80 g) k →
        (∀ r : Fld, (n = 0 ∧ r = Reg.stnRngSeedSeed k.b) ∨ (8 ≤ n ∧ n < 16 ∧ r = Reg.stnRngStreamStream k.b (n - 8)) ∨
            (16 ≤ n ∧ n < 24 ∧ r = Reg.stnRngBaseBase k.b (n - 16)) →
          ∃ t, exec (.rngset stn g) s = .next t ∧ OnlyRegs s t [r.addr, pcAddr k] ∧ t.rd r = x % 2 ^ r.w ∧ GoesOn s t k) ∧
        (¬ (n = 0 ∨ (8 ≤ n ∧ n < 24)) →
          exec (.rngset stn g) s = .next (s.faultAt (s.env k (scalWord 0x80 g)) false fcIllegalOp 0)))

/-- R253, R255: the plans are what the checks settle, once the plat headers they read are here. -/
def Obligations.QuantAndDigest : Prop :=
  ∀ (s : State) (stn : BitVec 11) (k : Loc) (f : TensF),
    let p := s.parcelOf k.fd
    (∀ c : QuantPlan, s.Engages stn (tensWord 0x83 f) k engRqd →
      let tile := bitOf f.mode.toNat 0
      f.okFor (uDD + uSLOT + (if tile then uTS else uDA) + (if bitOf f.mode.toNat 6 then uDC else 0)) 0x7FF = true →
      let v := s.env k (tensWord 0x83 f)
      s.remoteHere (s.platHeads v .write f.dd.toNat) = true → quantCheck f v s = .ok c →
      (tile = true → ((s.stn k).tile f.ts.toNat).lockedBy = none ∧ ((s.stn k).tile f.ts.toNat).expect = 0) →
      let given := if f.m 1 2 = smGiven then
        (match c.dsc with | some t => (t.memRuns false).map (fun r => (s.dkey k t r.1, r.2)) | none => []) else []
      let mask := if c.dst.layout = layPlat then
        s.platAll k c.dst (s.platHdr k c.dst) false (decide (f.m 1 2 = smGiven)) false else []
      let spans := (match c.src with | some (a, asc) => s.spansOf k a asc | none => []) ++ given ++ mask
      let s1 := s.noteReads v spans
      let els := s1.quantEls k f c
      let drops := if c.dst.layout = layPlat then
        (let h := s1.platHdr k c.dst; (List.range h.rows).flatMap (s1.platRow k c.dst h)) else []
      let ws := s1.quantWrites k f c els
      let st := (((((s1.storeAll v.writer p ws).quantStats k els).countCvts k (els.filter (fun x => cvtCounts x.x x.cv)).length
        (if f.m 3 2 = rndSr then els.length else 0)).platDrops k drops).shapeClamp k c.excess)
      s.Fed k spans → s1.poisoned spans = none → s1.Admits v ws →
      exec (.quant stn f) s = .next (((if bitOf f.mode.toNat 10 then
        (st.updStn k (fun t => t.setTile f.ts.toNat (t.tile f.ts.toNat).clear)).chainServe k else st).dropRemote spans).advance k)) ∧
    (let tile := bitOf f.mode.toNat 0
     let v := s.env k (tensWord 0x83 f)
     let heads := s.platHeads v .write f.dd.toNat
     s.Issues stn (tensWord 0x83 f) k →
      f.okFor (uDD + uSLOT + (if tile then uTS else uDA) + (if bitOf f.mode.toNat 6 then uDC else 0)) 0x7FF = true →
      s.remoteHere heads = false →
      (∀ o, quantOps f v s = .ok o → exec (.quant stn f) s = .next (s.ask v heads)) ∧
      ∀ c i, quantOps f v s = .error (c, i) → exec (.quant stn f) s = .next (s.faultAt v false c i)) ∧
    (∀ (a d : Desc) (x : Nat), s.Engages stn (tensWord 0x84 f) k engRqd → f.okFor (uDD + uDA) 0xFFFF = true →
      let v := s.env k (tensWord 0x84 f)
      s.remoteHere (s.platHeads v .read f.da.toNat) = true → digCheck f v s = .ok (a, d, x) →
      let spans := s.digSpans k a
      let s1 := s.noteReads v spans
      let piece := s1.dkey k d 0
      let r := s1.witRec p (f.m 0 16)
      let empty := s1.digEmpty k a
      let ts := if empty then [] else s1.digTerms k r a
      let sum := ((ts ++ (if empty && r.mark then [witMarker r] else [])).sum + s1.natAt piece 16) % 2 ^ 128
      let drops := if a.layout = layPlat then
        a.plats.flatMap (fun q => let h := s1.platHdr k q; (List.range h.rows).flatMap (s1.platRow k q h)) else []
      let ws := spread piece (leBytes 16 sum)
      let s2 := s1.storeAll v.writer p ws
      let s3 := if ts = [] then s2 else s2.inc (Reg.stnDigTermsCount k.b) ts.length
      let s4 := if empty then s3.inc (Reg.stnDigMarksEmpty k.b) else s3
      let s5 := if empty && r.mark then s4.inc (Reg.stnDigMarksMarks k.b) else s4
      s.Fed k spans → s1.poisoned (spans ++ [(piece, 16)]) = none → s1.Admits v ws →
      exec (.digest stn f) s = .next ((((s5.platDrops k drops).shapeClamp k x).dropRemote spans).advance k))

/-- R207, R208, R248. -/
def Obligations.FenceBarrierSignal : Prop :=
  ∀ (s : State) (stn : BitVec 11) (k : Loc) (sa : BitVec 5) (g : BitVec 16) (n : BitVec 32),
    let p := s.parcelOf k.fd
    let waits := fun (w : Wait) => if (s.stn k).holdReq then s.holdNow k else s.updStn k (fun t => { t with waiting := some w })
    (s.Issues stn (syncWord 0x70 ⟨0, 0, 0, 0⟩) k →
      (s.fenceOk k = true → ∃ t, exec (.fence stn ⟨0, 0, 0, 0⟩) s = .next t ∧ PcOnly s k (s.nextPc k) t) ∧
      (s.fenceOk k = false → exec (.fence stn ⟨0, 0, 0, 0⟩) s = .next (waits .fence))) ∧
    (s.Issues stn (syncWord 0x74 ⟨0, 0, g, n⟩) k → g.toNat < 16 →
      let sg := Reg.stnSg k.b g.toNat
      let ovf := Reg.stnSelClampOvf k.b
      (n.toInt ≤ s.rd sg → ∃ t, exec (.waitsig stn ⟨0, 0, g, n⟩) s = .next t ∧ OnlyRegs s t [sg.addr, ovf.addr, pcAddr k] ∧
        (t.rd sg : Int) = min ((s.rd sg : Int) - n.toInt) (2 ^ 32 - 1) ∧ GoesOn s t k ∧
        (0 ≤ n.toInt → t.reg ovf.addr = s.reg ovf.addr)) ∧
      ((s.rd sg : Int) < n.toInt → exec (.waitsig stn ⟨0, 0, g, n⟩) s = .next (waits (.sig g.toNat n.toInt)))) ∧
    (s.Issues stn (syncWord 0x76 ⟨0, 0, g, 0⟩) k → g.toNat < 16 →
      let bound := (∃ x ∈ (s.lst k.num).handles, x.1 = g.toNat) ∨
        ∃ q ∈ (s.stn k).engq, (q.word.toNat / 2 ^ 56 = 0x75 ∨ q.word.toNat / 2 ^ 56 = 0x77) ∧ (tensOf q.word).m 16 4 = g.toNat
      (¬ bound → ∃ t, exec (.collwait stn ⟨0, 0, g, 0⟩) s = .next t ∧ PcOnly s k (s.nextPc k) t) ∧
      (bound →
        exec (.collwait stn ⟨0, 0, g, 0⟩) s = .next (waits (.coll g.toNat)))) ∧
    (s.Engages stn (syncWord 0x73 ⟨sa, 0, g, n⟩) k engCol → g.toNat < 16 →
      let target := s.sreg k.b sa.toNat
      (target < 2048 → (s.parcelFds p).contains (target / 128) = true → s.colFenceOk k = true → (s.lst k.num).repeating = false →
        (s.trkTotal k.fd < 16384 → ∃ t, exec (.signal stn ⟨sa, 0, g, n⟩) s = .next t ∧
          t.sigs = s.sigs ++ [(stn.toNat, target, g.toNat, n.toInt)] ∧ GoesOn s t k ∧
          (∀ m, t.lst m = if m = k.num then { s.lst m with relCount := bumpPc (s.lst m).relCount (s.pcOf k) } else s.lst m) ∧
          t = { s with regs := t.regs, lsts := t.lsts, sigs := t.sigs, fab := { s.fab with forwards := t.fab.forwards } } ∧
          ∀ a, a ≠ pcAddr k → t.reg a = s.reg a) ∧
        (16384 ≤ s.trkTotal k.fd → exec (.signal stn ⟨sa, 0, g, n⟩) s =
          .next ((s.inc (Reg.memTrkStallCount k.fd)).enqueue (s.env k (syncWord 0x73 ⟨sa, 0, g, n⟩)) engCol))) ∧
      (target < 2048 → (s.parcelFds p).contains (target / 128) = false →
        exec (.signal stn ⟨sa, 0, g, n⟩) s =
          .next (s.faultAt (s.env k (syncWord 0x73 ⟨sa, 0, g, n⟩)) false fcAccessDenied target))) ∧
    (∀ ms : List Nat, s.Issues stn (syncWord 0x71 ⟨0, 0, g, 0⟩) k → s.barrierGrp p g.toNat = some ms → stn.toNat ∈ ms →
      (s.lst k.num).repDone (65536 + g.toNat) = false → (s.stn k).holdReq = false →
      ((ms.filterMap s.locate).map Loc.key).Nodup →
      (s.fenceOk k = true → (∀ m ∈ ms, m ≠ stn.toNat → s.arrived g.toNat m = true) →
        ∃ t, exec (.barrier stn ⟨0, 0, g, 0⟩) s = .next t ∧ t.mem = s.mem ∧
          ∀ m ∈ ms, ∀ q, s.locate m = some q → (t.stn q).waiting = none ∧ t.pcOf q = s.nextPc q ∧ t.legOf q = s.legOf q) ∧
      ((∃ m ∈ ms, m ≠ stn.toNat ∧ s.arrived g.toNat m = false) →
        exec (.barrier stn ⟨0, 0, g, 0⟩) s = .next (s.updStn k (fun t => { t with waiting := some (.barrier g.toNat) }))))

/-- R92, R101, R205, R208. A count below zero, which only a negative IMM32 gives, is the model's free value (log 217). -/
def Obligations.DeliveriesAndEngines : Prop :=
  (∀ (s : State) (src : BitVec 16) (dst : BitVec 11) (c : BitVec 4) (n : Int) (k : Loc),
    s.sigs.find? (fun x => decide (x.1 = src.toNat ∧ x.2.1 = dst.toNat ∧ x.2.2.1 = c.toNat)) = some (src.toNat, dst.toNat, c.toNat, n) →
    s.locate dst.toNat = some k →
    let sg := Reg.stnSg k.b c.toNat
    let sum := min ((s.rd sg : Int) + n) (2 ^ 32 - 1)
    (s.NoneWaits →
      ∃ t, exec (.signalDelivery src dst c) s = .next t ∧ t.sigs = s.sigs.erase (src.toNat, dst.toNat, c.toNat, n) ∧
        (0 ≤ sum → (t.rd sg : Int) = sum ∧ t.freeCtr = s.freeCtr) ∧ (sum < 0 → t.freeCtr = s.freeCtr + 1) ∧
        t.stns = s.stns ∧ t.mem = s.mem ∧
        ∀ a, a ∉ [sg.addr, (Reg.stnSelClampOvf k.b).addr] → t.reg a = s.reg a) ∧
    (∀ m : Int, s.stns.filter (fun e => e.2.waiting.isSome) = [(k.key, s.stn k)] → s.locOf k.key = some k →
      (s.stn k).waiting = some (.sig c.toNat m) → 0 ≤ m → m ≤ sum →
      ∃ t, exec (.signalDelivery src dst c) s = .next t ∧ (t.rd sg : Int) = sum - m ∧ (t.stn k).waiting = none ∧ GoesOn s t k)) ∧
  (∀ (s : State) (dst : BitVec 11) (x : ChainXfer) (k : Loc),
    s.chains.find? (fun x => x.dest = dst.toNat) = some x → s.locate dst.toNat = some k → (s.stn k).chainBuf = none →
    s.NoneWaits → (∀ q, s.locate x.src = some q → q.key ≠ k.key ∧ (s.stn q).chainBuf = none) →
    let d := (s.stn k).tile x.destTile
    let sent := fun (t : State) => ∀ q, s.locate x.src = some q → ((t.stn q).tile x.srcTile).lockedBy =
      if ((s.stn q).tile x.srcTile).lockedBy = some lockSent then none else ((s.stn q).tile x.srcTile).lockedBy
    let first := (s.lst k.num).rechain = 0
    let comes := fun (t : State) => (first → s.Logs t k (.chain x) ∧ sent t) ∧
      (¬ first → t.mem = s.mem ∧ t.lst k.num = { s.lst k.num with rechain := (s.lst k.num).rechain - 1 } ∧
        ∀ q, q ≠ k.key → t.stnAt q = s.stnAt q)
    (d.expect = 0 ∨ (d.chainId = x.chainId ∧ (d.opened = false ∨ d.lockedBy.isSome)) →
      ∃ t, exec (.chainTransferArrival dst) s = .next t ∧ t.chains = s.chains.erase x ∧
        t.stn k = { s.stn k with chainBuf := some x } ∧ comes t) ∧
    (0 < d.expect → d.chainId = x.chainId → d.opened = true → d.lockedBy = none →
      ∃ t, exec (.chainTransferArrival dst) s = .next t ∧ t.chains = s.chains.erase x ∧ (t.stn k).chainBuf = none ∧
        ((t.stn k).tile x.destTile).expect = d.expect - 1 ∧
        ((t.stn k).tile x.destTile).terms = min (d.terms + x.terms) (2 ^ 32 - 1) ∧ comes t ∧
        ∀ i, i < 1024 → Sparse.get (fun _ => LA.zero) ((t.stn k).tile x.destTile).el i =
          (Sparse.get (fun _ => LA.zero) d.el i).add (Sparse.get (fun _ => LA.zero) x.el i))) ∧
  (∀ (s : State) (stn : BitVec 11) (e : BitVec 3) (k : Loc) (q : QEnt),
    s.locate stn.toNat = some k → (s.stn k).engq.find? (fun q => q.eng = e.toNat) = some q →
    let before := (s.stn k).engq.takeWhile (fun e => decide (e ≠ q))
    let v : Env := ⟨k, s.parcelOf k.fd, q.leg, q.pc, q.word, true⟩
    (s.fdStopped k.fd = true ∨ (s.stn k).dead = true ∨ s.ordered k q.word before = true →
      exec (.engineQueueDispatch stn e) s = .next s) ∧
    (s.fdStopped k.fd = false → (s.stn k).dead = false → s.ordered k q.word before = false →
      (∀ t, engineBody q.word v s = .wait t → exec (.engineQueueDispatch stn e) s = .next (t.stepRetry k)) ∧
      (∀ t, engineBody q.word v s = .ok t → exec (.engineQueueDispatch stn e) s =
        .next ((t.updStn k (fun x => { x with engq := x.engq.erase q })).settle.stepRetry k)) ∧
      (∀ f : TensF, q.word = tensWord 0x34 f → f.okFor uTS 0 = true → ((s.stn k).tile f.ts.toNat).lockedBy = none →
        (s.stn k).chainBuf = none → (s.stn k).step = .none' → s.NoneWaits →
        ∃ t, exec (.engineQueueDispatch stn e) s = .next t ∧ (t.stn k).engq = (s.stn k).engq.erase q ∧
          (t.stn k).tile f.ts.toNat = ((s.stn k).tile f.ts.toNat).clear ∧ t.regs = s.regs ∧ t.mem = s.mem)))

/-- R189, R216 to R218. -/
def Obligations.StationControlWrites : Prop :=
  ∀ (s : State) (stn : BitVec 11) (k : Loc), s.locate stn.toNat = some k →
    (∀ h : Bool, ∃ t, exec (.stnHaltWrite stn h) s = .next t ∧ OnlyRegs s t [(Reg.stnCtlHalt k.b).addr] ∧
      t.rd (Reg.stnCtlHalt k.b) = if h then 1 else 0) ∧
    (let s1 := s.updStn k (fun t => { t with step := .issue })
     let w := s1.wordAt (s.parcelOf k.fd) k.num (s.pcOf k)
     let len := s1.progWords (s.parcelOf k.fd) k.num
     (s.stateAt k ≠ stHalted → exec (.stnStep stn) s = .next s) ∧
     (s.stateAt k = stHalted → len ≤ s.pcOf k → exec (.stnStep stn) s =
       .next ((s1.updStn k (fun t => { t with step := .none' })).faultAt (s.env k w) false fcPcInvalid (s.pcOf k))) ∧
     (s.stateAt k = stHalted → s.pcOf k < len →
       (s1.hazard k w = true → exec (.stnStep stn) s = .next (s1.inc (Reg.stnHazardWaitCount k.b))) ∧
       (s1.hazard k w = false → s1.stalls k w = false →
         exec (.stnStep stn) s = .next ((issueWord w (s.env k w) s1).stepIssued k w (s.pcOf k) (s.stn k).engq.length).settle ∧
         (w = 0 → s.NoneWaits → ∃ t, exec (.stnStep stn) s = .next t ∧ StationOnly s t k [pcAddr k] ∧ GoesOn s t k ∧
           t.stn k = { s.stn k with step := .none' })))) ∧
    (∀ (off : BitVec 12) (v x : BitVec 64),
      (∃ i, i < 32 ∧ i ≠ 0 ∧ off.toNat = 0x600 + 8 * i ∧ x = v) ∨ (off = 0x700 ∧ x = v &&& 0xFFFFFFFE) ∨
      (∃ i, i < 8 ∧ i ≠ 0 ∧ off.toNat = 0x708 + 8 * i ∧ x = v) ∨
      (∃ i, i < 16 ∧ off.toNat = 0x780 + 8 * i ∧ x = (s.reg (k.b + off.toNat) &&& 0xFFFFFFFF00000000) ||| (v &&& 0xFFFFFFFF)) ∨
      (∃ i, i < 128 ∧ off.toNat = 0x800 + 8 * i ∧ x = if i % 8 = 7 then v &&& 0xFFFFFFFFFFFF else v) →
      (s.stateAt k = stHalted → (off = 0x700 → s.reg (k.b + 0x700) &&& 0xFFFFFFFF00000000 = 0) →
        exec (.stnStateRegWrite stn off v) s = .next (s.setReg (k.b + off.toNat) x)) ∧
      (s.stateAt k ≠ stHalted →
        exec (.stnStateRegWrite stn off v) s = .next (s.inc (Reg.stnStatusWrDiscard k.b)))) ∧
    (∀ (off : BitVec 12) (v : BitVec 64), off = 0x500 ∨ (∃ j, j < 8 ∧ (off.toNat = 0x510 + 16 * j ∨ off.toNat = 0x518 + 16 * j)) →
      (s.stateAt k = stHalted → exec (.stnRngRegWrite stn off v) s = .next (s.setReg (k.b + off.toNat) v)) ∧
      (s.stateAt k ≠ stHalted →
        exec (.stnRngRegWrite stn off v) s = .next (s.inc (Reg.stnRngStatusWrDiscard k.b))))

/-- R247, R270, R271, R274, R276, R366. -/
def Obligations.WaitmkAndMarks : Prop :=
  ∀ (s : State) (stn : BitVec 11) (k : Loc),
    let now := s.meridian.toNat
    let late := (Reg.stnLatenessLateness k.b)
    let worst := (Reg.stnLateMaxMax k.b)
    (∀ imm : BitVec 32, s.Issues stn (syncWord 0x72 ⟨0, 0, 0, imm⟩) k →
      let planned : Int := s.originOf k (s.parcelOf k.fd) + imm.toInt
      (planned ≤ now → now - planned < 2 ^ 63 → ∃ t, exec (.waitmk stn ⟨0, 0, 0, imm⟩) s = .next t ∧
        OnlyRegs s t [late.addr, worst.addr, pcAddr k] ∧ GoesOn s t k ∧ (t.rd late : Int) = now - planned ∧
        toSigned 64 (t.rd worst) = max (toSigned 64 (s.rd worst)) (now - planned)) ∧
      ((now : Int) < planned → (s.stn k).holdReq = false →
        exec (.waitmk stn ⟨0, 0, 0, imm⟩) s = .next (s.updStn k (fun x => { x with waiting := some (.mark now planned) })))) ∧
    (∀ (g : BitVec 16) (imm : BitVec 32) (grp : LockGrp), s.Issues stn (syncWord 0x72 ⟨0, 0, g, imm⟩) k → g ≠ 0 →
      s.lockGrp (s.parcelOf k.fd) g.toNat = some grp → grp.span = false → stn.toNat ∈ grp.members →
      (s.lst k.num).repDone g.toNat = false → (s.stn k).holdReq = false → s.ImageInTiers (s.parcelOf k.fd) →
      exec (.waitmk stn ⟨0, 0, g, imm⟩) s = .next (s.updStn k (fun x => { x with waiting := some (.lockstep g.toNat
        (Sparse.get (fun _ => 0) (s.lst k.num).lockK g.toNat + 1) ((s.originOf k (s.parcelOf k.fd) : Int) + imm.toInt) now) }))) ∧
    (∀ (since : Nat) (planned : Int), s.locate stn.toNat = some k → (s.stn k).waiting = some (.mark since planned) →
      s.stateAt k = stWaiting → since ≤ now → now < 2 ^ 63 →
      ((now : Int) < planned → exec (.waitmkMarkReached stn) s = .next s) ∧
      (planned ≤ now → ∃ t, exec (.waitmkMarkReached stn) s = .next t ∧
        StationOnly s t k [late.addr, worst.addr, (Reg.stnWaitmkTicks k.b).addr, pcAddr k] ∧ GoesOn s t k ∧
        t.stn k = { s.stn k with waiting := none } ∧ (t.rd late : Int) = (now - planned) % 2 ^ 64 ∧
        t.rd (Reg.stnWaitmkTicks k.b) = min (s.rd (Reg.stnWaitmkTicks k.b) + (now - since)) (2 ^ (Reg.stnWaitmkTicks k.b).w - 1))) ∧
    (∀ (p : BitVec 2) (g : BitVec 16) (grp : LockGrp) (mk a : Nat) (pl : Int), s.lockGrp p.toNat g.toNat = some grp → grp.span = false →
      s.formed g.toNat grp.members = some (mk, a, pl) → ((grp.members.filterMap s.locate).map Loc.key).Nodup →
      let m := (max pl (a + grp.guard : Nat)).toNat
      (now < m → exec (.lockstepMarkComplete p g) s = .next s) ∧
      (m ≤ now → ∃ t, exec (.lockstepMarkComplete p g) s = .next t ∧ t.mem = s.mem ∧
        (∀ q, q ∉ (grp.members.filterMap s.locate).map Loc.key → t.stnAt q = s.stnAt q) ∧
        ∀ n ∈ grp.members, ∀ q planned since, s.locate n = some q →
          (s.stn q).waiting = some (.lockstep g.toNat mk planned since) →
          t.stn q = { s.stn q with waiting := none } ∧ GoesOn s t q ∧
          (t.rd (Reg.stnLatenessLateness q.b) : Int) = (m - pl) % 2 ^ 64 ∧ t.rd (Reg.stnPacingMiss q.b) = s.rd (Reg.stnPacingMiss q.b))) ∧
    (∀ (p : BitVec 2) (g : BitVec 16) (mark : BitVec 32) (module : BitVec 18) (time : BitVec 64),
      let same := fun (r : Nat × Nat × Nat × Nat × Nat) =>
        decide (r.1 = p.toNat ∧ r.2.1 = g.toNat ∧ r.2.2.1 = mark.toNat ∧ r.2.2.2.1 = module.toNat)
      (s.trvLoaded p.toNat = true → s.ready.any same = false →
        (∀ grp, s.lockGrp p.toNat g.toNat = some grp → s.formed g.toNat grp.members = none ∧
          (grp.span = false ∨ (s.markNo g.toNat grp.members).isSome)) →
        exec (.readyMessage p g mark module time) s =
          .next { s with ready := s.ready ++ [(p.toNat, g.toNat, mark.toNat, module.toNat, time.toNat)] }) ∧
      (∀ grp, s.trvLoaded p.toNat = true → s.ready.any same = false → s.lockGrp p.toNat g.toNat = some grp → grp.span = true →
        s.markNo g.toNat grp.members = none → (∀ n ∈ grp.members, ∃ q, s.locate n = some q ∧ (s.stn q).ended = true) →
        (∀ r ∈ s.ready, ¬ (r.1 = p.toNat ∧ r.2.1 = g.toNat ∧ r.2.2.1 = mark.toNat ∧ r.2.2.2.1 = s.ownModule)) →
        module.toNat ≠ s.ownModule →
        ∃ t, exec (.readyMessage p g mark module time) s = .next t ∧ t.mem = s.mem ∧ t.stns = s.stns ∧
          (p.toNat, g.toNat, mark.toNat, s.ownModule, (grp.members.map (fun n => (s.lst n).endAt)).foldl max 0) ∈ t.ready) ∧
      (s.trvLoaded p.toNat = true → s.ready.any same = true → exec (.readyMessage p g mark module time) s = .next s) ∧
      (s.trvLoaded p.toNat = false →
        let kept := s.lockEnded.find? (fun e => decide (e.parcel = p.toNat ∧ e.group = g.toNat))
        (kept = none → exec (.readyMessage p g mark module time) s = .next s) ∧
        ∀ e, kept = some e → (mark.toNat ∈ e.marks → exec (.readyMessage p g mark module time) s = .next s) ∧
          (mark.toNat ∉ e.marks → ∃ t, exec (.readyMessage p g mark module time) s = .next t ∧ t.mem = s.mem ∧ t.stns = s.stns ∧
            t.lockEnded = s.lockEnded.map (fun x => if x = e then { e with marks := e.marks ++ [mark.toNat] } else x) ∧
            ∀ port peer, e.sends = [(port, peer)] → s.stepPort 0 port peer = none →
              t.fab.unrouted = s.fab.unrouted ++ [TxFlit.msg 0 5 peer 0 p.toNat [p.toNat, g.toNat, mark.toNat, s.ownModule, e.time] []])))

/-- R263, R265, R266, R307: the parcel's image is read where BASE will name it. -/
def Obligations.LoadingAndStart : Prop :=
  ∀ (s : State) (p : BitVec 2),
    let n := p.toNat
    (s.loading.find? (fun l => l.parcel = n) = none → exec (.traverseLoadingEnd p) s = .next s) ∧
    (∀ l : Loading, s.loading.find? (fun l => l.parcel = n) = some l → l.abandon = [] →
      let u := { s with loading := s.loading.erase l }.wr (Reg.glbTrvBaseBase n) l.base
      let code := (u.loadChecks n).1
      (code ≠ 0 → ∃ t, exec (.traverseLoadingEnd p) s = .next t ∧ t.rd (Reg.glbTrvStatusState n) = trvIdle ∧
        t.rd (Reg.glbTrvStatusRefuse n) = code ∧ t.rd (Reg.glbTrvBaseBase n) = s.rd (Reg.glbTrvBaseBase n) ∧
        t.loading = s.loading.erase l ∧ t.stns = s.stns ∧ t.lsts = s.lsts ∧ t.mem = s.mem) ∧
      (code = 0 → u.ImageInTiers n → ∃ t, exec (.traverseLoadingEnd p) s = .next t ∧
        t.rd (Reg.glbTrvStatusState n) = trvArmed ∧ t.rd (Reg.glbTrvBaseBase n) = u.rd (Reg.glbTrvBaseBase n) ∧
        t.rd (Reg.glbTrvOriginOrigin n) = l.origin % 2 ^ 64 ∧
        (∀ w, w < 6 → t.rd (Reg.glbTrvDigestBytes n w) =
          ofLeBytes (((sha384 (u.bytesAt (u.imgKey n) (u.imgBytes n))).drop (8 * w)).take 8)) ∧
        (∀ fd ∈ u.parcelFds n, t.rd (Reg.scPartScratchKib fd) =
          (u.img n 72 8 + 1048575) / 1048576 * 1024 % 2 ^ (Reg.scPartScratchKib fd).w) ∧
        t.loading = s.loading.erase l ∧ t.stns = s.stns ∧ t.lsts = s.lsts ∧ t.mem = s.mem)) ∧
    ((s.rd (Reg.glbTrvStatusState n) ≠ trvArmed ∨ s.meridian.toNat < s.rd (Reg.glbTrvOriginOrigin n)) →
      exec (.traverseStart p) s = .next s) ∧
    (s.rd (Reg.glbTrvStatusState n) = trvArmed → s.rd (Reg.glbTrvOriginOrigin n) ≤ s.meridian.toNat →
      s.programmed n ≠ [] → ((s.programmed n).map Loc.key).Nodup → s.ImageInTiers n →
      ∃ t, exec (.traverseStart p) s = .next t ∧ t.rd (Reg.glbTrvStatusState n) = trvRunning ∧ t.mem = s.mem ∧
        (∀ q, q ∉ (s.programmed n).map Loc.key → t.stnAt q = s.stnAt q) ∧
        ∀ k ∈ s.programmed n, (t.stn k).active = true ∧ (t.stn k).ended = false ∧ (t.stn k).waiting = none ∧
          (t.stn k).faulted = false ∧ (t.stn k).held = false ∧ t.pcOf k = 0 ∧ t.legOf k = 0 ∧ t.periodOf k = 0 ∧
          ((t.lst k.num).barrec.map (fun r => (r.pc, r.leg, r.period))) = some (0, 0, 0))

/-- R92, R100, R236. -/
def Obligations.ChainInstructions : Prop :=
  ∀ (s : State) (stn : BitVec 11) (k : Loc) (f : TensF),
    let ts := f.ts.toNat
    let tile := (s.stn k).tile ts
    let id := f.m 2 16
    (s.Engages stn (tensWord 0x42 f) k engMat → f.okFor uTS (2 ^ 18 - 1) = true →
      (f.m 0 2 ≠ 0 → tile.expect = 0 → (s.stn k).chainBuf = none →
        ∃ t, exec (.chin stn f) s = .next t ∧ StationOnly s t k [pcAddr k] ∧ GoesOn s t k ∧
          t.stn k = { (s.stn k).setTile ts { tile with expect := f.m 0 2, chainId := BitVec.ofNat 16 id } with slab := none }) ∧
      (f.m 0 2 = 0 ∨ tile.expect ≠ 0 → exec (.chin stn f) s =
        .next (s.faultAt (s.env k (tensWord 0x42 f)) false fcIllegalOp 0))) ∧
    (s.Engages stn (tensWord 0x43 f) k engMat → f.okFor (uTS + uSX) (2 ^ 18 - 1) = true →
      let d := s.sreg k.b f.sx.toNat
      (2048 ≤ d → exec (.chout stn f) s = .next (s.faultAt (s.env k (tensWord 0x43 f)) false fcAddrInvalid d)) ∧
      (d < 2048 → (s.parcelFds (s.parcelOf k.fd)).contains (d / 128) = false → exec (.chout stn f) s =
        .next (s.faultAt (s.env k (tensWord 0x43 f)) false fcChainUnexpected (id + f.m 0 2 * 2 ^ 16))) ∧
      (d < 2048 → (s.parcelFds (s.parcelOf k.fd)).contains (d / 128) = true → tile.lockedBy = none → tile.expect = 0 →
        s.chainBusy d = false → (s.lst k.num).repeating = false →
        ∃ t, exec (.chout stn f) s = .next t ∧ GoesOn s t k ∧
          t.chains = s.chains ++ [⟨k.num, ts, d, f.m 0 2, BitVec.ofNat 16 id, min tile.terms (2 ^ 32 - 1), tile.tl, tile.el⟩] ∧
          t.stn k = { (s.stn k).setTile ts { tile with lockedBy := some lockSent } with slab := none } ∧ (∀ q, q ≠ k.key → t.stnAt q = s.stnAt q) ∧ t.mem = s.mem ∧
          ∀ a, a ≠ pcAddr k → t.reg a = s.reg a))

/-- R530 to R532. -/
def Obligations.TraverseQueueEntries : Prop :=
  ∀ (s : State) (p : BitVec 2),
    let n := p.toNat
    let taken := fun (q : Nat) (t : State) => t.rd (Reg.hifTqHeadHead n q) = (s.rd (Reg.hifTqHeadHead n q) + 1) % 2 ^ 16
    let status := fun (q : Nat) (t : State) => (Sparse.get hostDefault t.hostMem (s.tqSlot n q + 1)).toNat
    (∀ (req : Req) (q : BitVec 1) (tail : BitVec 16),
      let db := Reg.hifTqDbTail n q.toNat
      let hd := s.rd (Reg.hifTqHeadHead n q.toNat)
      let d := (tail.toNat + 2 ^ 16 - hd) % 2 ^ 16
      let prev := (s.rd db + 2 ^ 16 - hd) % 2 ^ 16
      let bad := Reg.hifTqCfgBadDb n q.toNat
      let mine := s.down = false ∧ s.hostLinkDown = false ∧ req ≠ .mgt ∧ s.ownsSet req n = true
      (¬ mine → exec (.tqDoorbell req p q tail) s = .next s) ∧
      (mine → s.tqBad n q.toNat (s.hostRead (s.tqSlot n q.toNat) 64) = false →
        (s.flag (Reg.hifTqCfgEnable n q.toNat) = false → exec (.tqDoorbell req p q tail) s = .next s) ∧
        (s.flag (Reg.hifTqCfgEnable n q.toNat) = true → d ≤ 2 ^ s.tqLog2 n q.toNat → prev ≤ d →
          ∃ t, exec (.tqDoorbell req p q tail) s = .next t ∧ OnlyRegs s t [db.addr] ∧ t.rd db = tail.toNat) ∧
        (s.flag (Reg.hifTqCfgEnable n q.toNat) = true → 2 ^ s.tqLog2 n q.toNat < d ∨ d < prev →
          ∃ t, exec (.tqDoorbell req p q tail) s = .next t ∧ OnlyRegs s t [bad.addr] ∧
            t.rd bad = min (s.rd bad + 1) (2 ^ bad.w - 1) ∧ t.flag (Reg.hifTqCfgEnable n q.toNat) = true))) ∧
    (∀ e, s.TqHead n 0 e → le e 0 1 = opSubmit →
      let free := s.trvIdleAt n = true ∧ ∀ fd ∈ s.parcelFds n, s.flag (Reg.t2StatusReform fd) = false
      (free → ∃ t, exec (.submit p) s = .next t ∧ taken 0 t ∧ t.rd (Reg.glbTrvStatusState n) = trvLoading ∧
        t.rd (Reg.glbTrvStatusTag n) = le e 4 4 ∧
        t.loading = s.loading ++
          [{ parcel := n, tag := le e 4 4, base := le e 8 8, origin := le e 16 8, slot := some (s.tqSlot n 0 + 1), abandon := [] }] ∧
        (∀ fd ∈ s.parcelFds n, t.rd (Reg.fdStatusParked fd) = 0) ∧
        t.stns = s.stns ∧ t.mem = s.mem ∧ t.hostMem = s.hostMem) ∧
      (¬ free → exec (.submit p) s = .next s)) ∧
    (∀ e, s.TqHead n 1 e → le e 0 1 = opAbandon →
      (s.trvIdleAt n = true → ∃ t, exec (.abandon p) s = .next t ∧ taken 1 t ∧ status 1 t = tqNotApplicable ∧
        t.stns = s.stns ∧ t.mem = s.mem ∧ t.loading = s.loading) ∧
      (s.rd (Reg.glbTrvStatusState n) = trvLoading → ∃ t, exec (.abandon p) s = .next t ∧ taken 1 t ∧
        t.loading = s.loading.map (fun l => if l.parcel = n then { l with abandon := l.abandon ++ [s.tqSlot n 1 + 1] } else l) ∧
        t.stns = s.stns ∧ t.mem = s.mem ∧ t.hostMem = s.hostMem) ∧
      (s.trvIdleAt n = false → s.rd (Reg.glbTrvStatusState n) ≠ trvLoading →
        ∃ t, exec (.abandon p) s = .next t ∧ taken 1 t ∧ status 1 t = tqDone ∧ t.rd (Reg.glbTrvStatusState n) = trvIdle ∧
          t.mem = s.mem ∧ (∀ q, q ∉ (s.parcelStns n).map Loc.key → t.stnAt q = s.stnAt q) ∧
          ∀ k ∈ s.parcelStns n, (t.stn k).active = false ∧ (t.stn k).waiting = none ∧ (t.stn k).faulted = false ∧
            (t.stn k).held = false ∧ (t.stn k).dead = false ∧ (t.stn k).engq = [] ∧ (t.stn k).vregs = (s.stn k).vregs))

/-- R454, R532. -/
def Obligations.ResumeAndRelease : Prop :=
  ∀ (s : State) (p : BitVec 2) (e : List Byte),
    let n := p.toNat
    let ks := s.parcelStns n
    let taken := fun (t : State) => t.rd (Reg.hifTqHeadHead n 1) = (s.rd (Reg.hifTqHeadHead n 1) + 1) % 2 ^ 16
    let status := fun (t : State) => (Sparse.get hostDefault t.hostMem (s.tqSlot n 1 + 1)).toNat
    let held := s.rd (Reg.glbTrvStatusState n) = trvHeld
    let late := ∃ k ∈ ks, s.flag (Reg.stnFaultLate k.b) = true ∧ s.flag (Reg.stnFaultValid k.b) = true
    let runs := fun (t : State) => t.rd (Reg.glbTrvStatusState n) = trvRunning ∧
      (∀ q, q ∉ ks.map Loc.key → t.stnAt q = s.stnAt q) ∧
      ∀ k ∈ ks, (t.stn k).faulted = false ∧ (t.stn k).held = false ∧ (t.stn k).holdReq = false ∧
        ((s.stn k).faulted = true → t.rd (Reg.stnFaultValid k.b) = 0)
    let same := fun (t : State) => taken t ∧ status t = tqNotApplicable ∧ t.stns = s.stns ∧ t.mem = s.mem ∧
      t.rd (Reg.glbTrvStatusState n) = s.rd (Reg.glbTrvStatusState n)
    s.TqHead n 1 e →
    (le e 0 1 = opResume →
      (¬ held ∨ late ∨ s.mustAbandon n = true → ∃ t, exec (.resume p) s = .next t ∧ same t) ∧
      (held → ¬ late → s.mustAbandon n = false → (ks.map Loc.key).Nodup → (∀ x ∈ s.stns, x.2.waiting = none) →
        ∃ t, exec (.resume p) s = .next t ∧ taken t ∧ status t = tqDone ∧ runs t ∧ t.mem = s.mem ∧
          ∀ k ∈ ks, t.legOf k = s.legOf k ∧
            t.pcOf k = if (s.stn k).faulted = true ∧ s.rd (Reg.stnFaultCause k.b) = fcTrap then s.nextPc k else s.pcOf k)) ∧
    (le e 0 1 = opResumeBarrier →
      let able := ∀ k ∈ ks, (s.stn k).faulted = true → s.unrep k.fd k.log = false ∧
        ∃ r, (s.lst k.num).barrec = some r ∧ ∀ x ∈ r.regs, x.1 ∈ recOffsets
      (¬ held ∨ s.mustAbandon n = true ∨ (∃ k ∈ ks, (s.stn k).faulted = true ∧ (s.unrep k.fd k.log = true ∨ (s.lst k.num).barrec = none)) →
        ∃ t, exec (.resumeBarrier p) s = .next t ∧ same t) ∧
      (held → s.mustAbandon n = false → able → (ks.map Loc.key).Nodup → (∀ x ∈ s.stns, x.2.waiting = none) →
        ∃ t, exec (.resumeBarrier p) s = .next t ∧ taken t ∧ status t = tqDone ∧ runs t ∧
          ∀ k ∈ ks, ∀ r, (s.stn k).faulted = true → (s.lst k.num).barrec = some r →
            t.pcOf k = r.pc % 2 ^ 32 ∧ t.legOf k = r.leg % 2 ^ (Reg.stnPcLeg k.b).w ∧
            t.periodOf k = r.period % 2 ^ (Reg.stnTrvPosPeriod k.b).w ∧ (t.stn k).vregs = r.vregs ∧
            (t.stn k).engq = [] ∧ (t.stn k).tiles = [] ∧ (t.stn k).chainBuf = none ∧ (t.lst k.num).repeating = true ∧
            ∀ c, c < 16 → t.rd (Reg.stnSg k.b c) = min (Sparse.get (fun _ => 0) (s.lst k.num).sigRcv c) (2 ^ 32 - 1))) ∧
    (le e 0 1 = opAuRelease →
      let named := fun (fd : Nat) => ∃ i, (s.parcelFds n)[i]? = some fd ∧ bitOf (le e 2 2) i = true
      let stuck := fun (fd : Nat) => named fd ∧ s.flag (Reg.auQstatHeld fd) = true
      ((∀ fd, ¬ stuck fd) → ∃ t, exec (.auRelease p) s = .next t ∧ same t ∧
        ∀ fd, fd < 16 → t.rd (Reg.auQstatHeld fd) = s.rd (Reg.auQstatHeld fd)) ∧
      ((∃ fd, stuck fd) → ∃ t, exec (.auRelease p) s = .next t ∧ taken t ∧ status t = tqDone ∧ t.mem = s.mem ∧ t.stns = s.stns ∧
        (∀ fd, stuck fd → t.rd (Reg.auQstatHeld fd) = 0 ∧ t.rd (Reg.auFaultValid fd) = 0 ∧
          t.rd (Reg.auQstatHead fd) = if le e 24 1 = 1 then (s.rd (Reg.auFaultEntry fd) + 1) % 2 ^ (Reg.auQstatHead fd).w
            else s.rd (Reg.auQstatHead fd)) ∧
        ∀ fd, fd < 16 → ¬ stuck fd → t.rd (Reg.auQstatHeld fd) = s.rd (Reg.auQstatHeld fd)))

/-- R248, R249: the run opens on the link die of the station, while members are still to complete. -/
def Obligations.JoiningCollectives : Prop :=
  ∀ (s : State) (stn : BitVec 11) (k : Loc) (f : TensF) (i : Nat),
    let p := s.parcelOf k.fd
    let pl := f.m 0 16
    let h := f.m 16 4
    let q := s.plan p pl
    let r0 := (s.collRun p pl).getD (CollRun.fresh p pl (ldOf k.fd))
    let joined := fun (m : CollMem) => { r0 with mems := r0.mems ++ [m] }
    let bound := fun (t : State) => (t.lst k.num).handles = (s.lst k.num).handles ++ [(h, pl)]
    s.ImageInTiers p → s.NoneWaits →
    (∀ (a : Desc) (asc : Option Desc) (d : Desc) (x : Nat), s.Engages stn (tensWord 0x75 f) k engCol →
      f.okFor (uDD + uDA) (2 ^ 20 - 1) = true →
      let v := s.env k (tensWord 0x75 f)
      let m : CollMem := ⟨k.num, h, none, i, d.num, s.dbits k.b d.num, d.ext, false⟩
      let heads := if q.sparse then s.platHeads v .read f.da.toNat ++ s.platHeads v .write f.dd.toNat else []
      let spans := if q.sparse then s.platAll k a (s.platHdr k a) true true true ++ s.platAll k d (s.platHdr k d) false false false
        else s.spansOf k a asc
      let rep := s.portRepeats k.num (s.pcOf k)
      let open1 := ((s.noteReads v spans).portEffect k.num (s.pcOf k)).2.openRun p pl (ldOf k.fd)
      let leaf := fun (src : Nat × FVal × Bool) => if a.fmt = fW48 then src.1 else toW48 src.2.1
      s.collCheck v pl h false rep = .ok i →
      (∀ o, collOps f v s q = .ok o → s.remoteHere heads = false → exec (.coll stn f) s = .next (s.ask v heads)) ∧
      (s.remoteHere heads = true → collOperands f v s q = .ok (a, asc, d, x) →
      (rep = true → ∃ t, exec (.coll stn f) s = .next t ∧ GoesOn s t k ∧
        (t.lst k.num).repCount = bumpPc (s.lst k.num).repCount (s.pcOf k) ∧ t.colls = s.colls ∧ t.mem = s.mem ∧ t.stns = s.stns ∧
        ∀ b, b ∉ [pcAddr k, (Reg.stnShapeClampExcess k.b).addr] → t.reg b = s.reg b) ∧
      (rep = false → s.colFenceOk k = false ∨ s.collMayJoin v pl (ldOf k.fd) = false →
        exec (.coll stn f) s = .next (s.enqueue v engCol)) ∧
      (rep = false → s.colFenceOk k = true → s.collMayJoin v pl (ldOf k.fd) = true → s.Fed k spans →
        q.Unfinished (joined m) q.steps.length →
        ∃ t r, exec (.coll stn f) s = .next t ∧ GoesOn s t k ∧ bound t ∧ t.collRun p pl = some r ∧ r.mems = r0.mems ++ [m] ∧
          t.mem = s.mem ∧ (∀ b, b ≠ k.key → t.stnAt b = s.stnAt b) ∧ (q.sparse = false → t.stns = s.stns) ∧
          (q.sparse = true → ∀ pm, q.mems[i]? = some pm →
            r.plats = r0.plats ++ [if q.reduces then open1.platOwn k a pm.first else open1.platOwn k d 0]) ∧
          (q.sparse = false → q.reduces = true → q.free = false → ∀ pm, q.mems[i]? = some pm → ∀ j, j < pm.count →
            let src := (open1.collElems k a asc).getD j (0, FVal.ofInt 0, false)
            cvDec (Sparse.get (fun _ => 0) r.vals (valKey 0 pm.shard (pm.first + j))) = some (leaf src, src.2.2)) ∧
          (q.sparse = false → q.op = opAllGather → ∀ pm, q.mems[i]? = some pm → ∀ j, j < pm.count →
            let src := (open1.collElems k a asc).getD j (0, FVal.ofInt 0, false)
            cvDec (Sparse.get (fun _ => 0) r.res (pm.first + j)) = some (src.1, src.2.2))))) ∧
    (s.Engages stn (tensWord 0x77 f) k engCol → f.okFor uTS (2 ^ 20 - 1) = true →
      let v := s.env k (tensWord 0x77 f)
      let ts := f.ts.toNat
      let tile := (s.stn k).tile ts
      let m : CollMem := ⟨k.num, h, some ts, i, 0, 0, [laKey (s.pcOf k) (atPc (s.lst k.num).relCount (s.pcOf k) + 1)], false⟩
      s.collCheck v pl h true false = .ok i → (s.lst k.num).repeating = false → tile.lockedBy = none → tile.expect = 0 →
      s.collMayJoin v pl (ldOf k.fd) = true → q.Unfinished (joined m) q.steps.length → r0.laFinal = false →
      ∃ t r, exec (.lasum stn f) s = .next t ∧ GoesOn s t k ∧ bound t ∧ t.collRun p pl = some r ∧ r.mems = r0.mems ++ [m] ∧
        r.la = r0.la.add (tile.at 0 0) ∧ r.laTerms = r0.laTerms + tile.terms ∧
        t.stn k = (s.stn k).setTile ts { tile with lockedBy := some h } ∧ t.mem = s.mem)

/-- R352, R355, R356, R358, R360, R362, R363, R167, R169: steps of overlapping ranges are taken in order. Which form a copied plat
block is sent in is the model's free value (log 218). -/
def Obligations.CollectiveRouteSteps : Prop :=
  ∀ (s : State) (p : BitVec 2) (plan : BitVec 16) (step : BitVec 32) (module : BitVec 18) (level : BitVec 8) (node : BitVec 32)
    (vals : List (BitVec 256)) (stream : List Byte) (poison : List Bool) (terms : BitVec 32),
    let pn := p.toNat
    let i := plan.toNat
    let j := step.toNat
    let add := Instr.collRecvAdd p plan step module level node vals stream poison terms
    let copy := Instr.collRecvCopy p plan step module vals stream poison terms
    let first := (vals.head?.map (·.toNat)).getD 0
    let refused := fun (r : CollRun) (t : State) => t.collRun pn i = some { r with held := true } ∧
      t.rd (Reg.colTreeErrCount r.ld) = min (s.rd (Reg.colTreeErrCount r.ld) + 1) (2 ^ (Reg.colTreeErrCount r.ld).w - 1) ∧
      t.mem = s.mem ∧ t.stns = s.stns
    let mismatch := fun (r : CollRun) (u : PStep) (x : PlatBlk × PlatOwn) => (s.setRun { r with held := true }).raise (0xA030 + 0x100 * r.ld)
      r.parcel [(s.stepPort r.ld u.port u.peer).getD 255, s.meridian.toNat, x.1.rowFirst, x.1.expected x.2, x.1.digest]
    let key := valKey level.toNat node.toNat
    let fits := fun (r : CollRun) (q : Plan) (u : PStep) =>
      let own := if q.free then q.modIdx s.ownModule else q.vfirst
      module.toNat = u.peer ∧ level.toNat + 1 = u.level ∧ (q.sparse = true ∨ vals.length = u.count) ∧
      (node.toNat = 2 * (own / 2 ^ u.level) ∨ node.toNat = 2 * (own / 2 ^ u.level) + 1) ∧
      ¬ (node.toNat = own / 2 ^ level.toNat ∧ (q.free = true ∨ 0 < q.vcount)) ∧
      ∀ n, n < u.count → Sparse.get (fun _ => 0) r.vals (key (u.first + n)) = 0
    s.ImageInTiers pn → s.NoneWaits →
    (s.stepOf pn i j 1 = none → exec (.collSend p plan step) s = .next s) ∧
    (s.stepAt pn i j 2 = none → s.stepAgain pn i j 2 = none → exec add s = .next s) ∧
    (∀ r q u, s.stepAt pn i j 2 = some (r, q, u) → r.held = true →
      (q.op = opLaSum ∨ fits r q u → exec add s = .next s) ∧
      (q.op ≠ opLaSum → ¬ fits r q u → r.ld < 2 → ∃ t, exec add s = .next t ∧ refused r t)) ∧
    (∀ r, s.stepAt pn i j 2 = none → s.stepAgain pn i j 2 = some r → r.ld < 2 → ∃ t, exec add s = .next t ∧ refused r t) ∧
    (s.stepOf pn i j 3 = none → exec copy s = .next s) ∧
    (s.stepOf pn i j 4 = none → exec (.collDeliver p plan step) s = .next s) ∧
    (∀ r q u, s.stepOf pn i j 1 = some (r, q, u) →
      (s.sendPayloads r q u = none → exec (.collSend p plan step) s = .next s) ∧
      (∀ ps, s.sendPayloads r q u = some ps →
        (s.collPort q.free r.ld u.port u.peer = none → ∃ t, exec (.collSend p plan step) s = .next t ∧
          t.collRun pn i = some { r with held := true } ∧ t.mem = s.mem ∧ t.stns = s.stns) ∧
        (∀ port, s.collPort q.free r.ld u.port u.peer = some port → (q.lockstep = false ∨ s.rd (Reg.lnkStatusState port) ≠ lnkUpUnsync) →
          q.Unfinished r j →
          let node := (if q.free then q.modIdx s.ownModule else q.vfirst) / 2 ^ u.level
          let head := { TxFlit.msg (if q.free then 2 else 1) 4 u.peer (16 + r.ld) r.parcel
            ([i, s.ownModule, u.level, wireFmt q u, node, u.first, u.count] ++ (if q.op = opLaSum then [r.laTerms] else [])) []
            with plan := i + 1, lockstep := q.lockstep }
          let s1 := s.free.2.sendFlits port (collFlits head ps)
          ∃ t, exec (.collSend p plan step) s = .next t ∧ t = { s1 with colls := t.colls } ∧
            t.collRun pn i = some { r with steps := r.steps ++ [j] }))) ∧
    (∀ r q u, s.stepOf pn i j 2 = some (r, q, u) → q.Unfinished r j →
      (q.op = opLaSum → ∃ t, exec add s = .next t ∧ t = { s with colls := t.colls } ∧
        t.collRun pn i = some { r with la := r.la.add (LA.decode first), laTerms := r.laTerms + terms.toNat,
                                       laPoison := r.laPoison || poison.any id, steps := r.steps ++ [j] }) ∧
      (q.op ≠ opLaSum →
        let carried := fun (v : Nat) =>
          if q.free ∧ q.wire level.toNat = fN32 then (convert fN32 0 (decodeVal fW48 0 v) rndRne 0 false).raw else v
        let blocks := recvBlocks r q u stream poison
        let keeps := fun (r' : CollRun) => r'.steps = r.steps ++ [j] ∧ r'.mems = r.mems ∧ r'.res = r.res
        (fits r q u → q.sparse = false →
          ∃ t r', exec add s = .next t ∧ t = { s with colls := t.colls } ∧ t.collRun pn i = some r' ∧ keeps r' ∧
            ∀ n, n < vals.length → cvDec (Sparse.get (fun _ => 0) r'.vals (key (u.first + n))) =
              some (carried (vals.getD n 0).toNat, poison.getD (n / perFlit q { u with level := level.toNat }) false)) ∧
        (fits r q u → q.sparse = true → r.mems.length ≠ q.mems.length → exec add s = .next s) ∧
        (fits r q u → q.sparse = true → r.mems.length = q.mems.length →
          (∀ x, badBlock r q blocks = some x → exec add s = .next (mismatch r u x)) ∧
          (badBlock r q blocks = none → ∃ t r', exec add s = .next t ∧ t = { s with colls := t.colls } ∧ t.collRun pn i = some r' ∧
            keeps r' ∧ r'.vals = putBlocks blocks carried key r.vals)) ∧
        (¬ fits r q u → r.ld < 2 → ∃ t, exec add s = .next t ∧ refused r t))) ∧
    (∀ r q u, s.stepOf pn i j 3 = some (r, q, u) → q.Unfinished r j →
      let keeps := fun (t : State) (r' : CollRun) => exec copy s = .next t ∧ t = { s with colls := t.colls } ∧ t.collRun pn i = some r' ∧
        r'.steps = r.steps ++ [j] ∧ r'.mems = r.mems ∧ r'.vals = r.vals
      let blocks := recvBlocks r q u stream poison
      (module.toNat ≠ u.peer → exec copy s = .next s) ∧
      (module.toNat = u.peer → q.op = opLaSum → ∃ t, exec copy s = .next t ∧ t = { s with colls := t.colls } ∧
        t.collRun pn i = some { r with la := LA.decode first, laTerms := terms.toNat, laPoison := poison.any id, laFinal := true,
                                       steps := r.steps ++ [j] }) ∧
      (module.toNat = u.peer → q.op = opAllToAll → u.level = 0 → ∃ t r', keeps t r' ∧ r'.rows = r.rows ++ vals.zipIdx.map (fun x =>
        ⟨q.modIdx module.toNat, bitsAt x.1.toNat 32 32, bitsAt x.1.toNat 64 32, bitsAt x.1.toNat 0 32, q.modIdx s.ownModule, none, none, [],
         poison.getD (x.2 / perFlit q u) false⟩)) ∧
      (module.toNat = u.peer → q.op ≠ opLaSum → q.op ≠ opAllToAll → q.sparse = false →
        ∃ t r', keeps t r' ∧ ∀ n, n < vals.length → cvDec (Sparse.get (fun _ => 0) r'.res (u.first + n)) =
            some ((vals.getD n 0).toNat, poison.getD (n / perFlit q u) false)) ∧
      (module.toNat = u.peer → q.op ≠ opLaSum → q.op ≠ opAllToAll → q.sparse = true →
        (r.mems.length ≠ q.mems.length → exec copy s = .next s) ∧
        (r.mems.length = q.mems.length →
          (∀ x, badBlock r q blocks = some x → exec copy s = .next (mismatch r u x)) ∧
          (badBlock r q blocks = none → ∃ t r', keeps t r' ∧
            (q.reduces = true → r'.res = putBlocks blocks id id r.res ∧ r'.prows = r.prows) ∧
            (q.reduces = false → r'.prows = r.prows ++ blockRows blocks ∧ r'.res = r.res))))) ∧
    (∀ r q u, s.stepOf pn i j 4 = some (r, q, u) →
      let own := q.modIdx s.ownModule
      let stores := fun (v : State) => ∃ t, exec (.collDeliver p plan step) s = .next t ∧ t.mem = v.mem ∧ t.poison = v.poison
      (s.deliverReady r q u = false → exec (.collDeliver p plan step) s = .next s) ∧
      (∀ m pm k, s.deliverReady r q u = true → r.mems = [m] → m.done = false → q.mems[m.idx]? = some pm → s.locate m.stn = some k →
        (q.op = opLaSum → ∀ ts, m.tile = some ts → (∀ n w, q.steps[n]? = some w → n = j ∨ n ∈ r.steps) → s.collUnacked r = false → s.collWriting r = false →
          (s.stn k).chainBuf = none →
          ∃ t, exec (.collDeliver p plan step) s = .next t ∧ ((t.stn k).tile ts).at 0 0 = r.la ∧
            ((t.stn k).tile ts).terms = min r.laTerms (2 ^ 32 - 1) ∧ ((t.stn k).tile ts).lockedBy = none ∧
            (∀ x ∈ (t.lst m.stn).handles, x.1 ≠ m.handle) ∧ t.mem = s.mem) ∧
        (q.op = opAllToAll → m.idx = 0 →
          stores ((s.settleRows r own own (fun x => (a2aAccepted q own r).contains x) (fun _ => false)).deliverRows r q m pm k)) ∧
        (q.op ≠ opLaSum → q.op ≠ opAllToAll → q.sparse = false → stores (s.deliverTensor r q u m pm k)) ∧
        (q.op ≠ opLaSum → q.op ≠ opAllToAll → q.sparse = true → stores (s.deliverPlat r q m pm k))))

/-- R12 to R15, R537, R538, R544. -/
def Obligations.RegisterReadsAndWrites : Prop :=
  ∀ s : State, s.down = false →
    let cleared := fun (t : State) (reach : Bool) (a : Nat) (m : BitVec 64) (msg : OutMsg) =>
      t = { s with regs := t.regs, outbox := s.outbox ++ [msg] } ∧ (∀ b, b ≠ a → t.reg b = s.reg b) ∧
      (reach = false ∨ regRowAt a = none → t.reg a = s.reg a) ∧
      (∀ r, reach = true → regRowAt a = some r → ∀ i, i < 64 →
        (t.reg a).getLsbD i = if r.rc.testBit i && m.getLsbD i then (regDefault a).getLsbD i else (s.reg a).getLsbD i)
    let written := fun (s t : State) (a : Nat) (v m : BitVec 64) =>
      t = { s with regs := t.regs } ∧ (∀ b, b ≠ a → t.reg b = s.reg b) ∧
      ∀ r, regRowAt a = some r → ∀ i, i < 64 →
        (t.reg a).getLsbD i = ((if r.rw.testBit i && m.getLsbD i then v.getLsbD i else (s.reg a).getLsbD i) &&
          !(r.w1c.testBit i && m.getLsbD i && v.getLsbD i))
    let plain := fun (a : Nat) => 0x1000000 ≤ a ∧ a < 0x2000000 ∧ a % 0x100000 < 0x20000 ∧ idleReg (a % 0x100000) = false ∧
      a % 0x100000 ∉ [0x180, 0x188, 0x1210, 0x1280, 0x1928, 0x1AB0] ∧ (regRowAt a).isSome = true
    (∀ x : RegAcc,
      let v := s.bar0Reg x.req (accBase x) &&& accMask x
      ∃ t, exec (.rcRegisterRead x) s = .next t ∧ cleared t (s.reaches x.req (accBase x)) (accBase x) (accMask x)
        ⟨if x.req = .mgt then .mgtResponse else .completion, [if x.req = .mgt then 0 else Req.fn x.req, 0],
         leBytes (accBytes x.width) (if x.width = .w32 ∧ x.addr.toNat % 8 = 4 then v.toNat / 2 ^ 32 else v.toNat)⟩) ∧
    (∀ x : RegAcc, x.width = .w8 ∨ x.width = .w16 → accMask x = 0) ∧
    (∀ x : RegAcc, s.lands x = false → exec (.registerWrite x none) s = .next s) ∧
    (∀ x : RegAcc, s.lands x = true → plain (accBase x) →
      ∃ t, exec (.registerWrite x none) s = .next t ∧ written s t (accBase x) (accVal x) (accMask x)) ∧
    (∀ x y : RegAcc, s.lands x = true → s.lands y = true → accBase x = accBase y → plain (accBase x) →
      x.req ≠ .mgt → y.req = .mgt →
      (∀ e ∈ [Instr.registerWrite x (some y), Instr.registerWrite y (some x)],
        ∃ u t, exec e s = .next t ∧ written u t (accBase x) (accVal x) (accMask x) ∧
          OnlyRegs s u [Reg.glbArbStatusCount.addr, Reg.glbArbValueValue.addr] ∧
          u.rd Reg.glbArbStatusCount = min (s.rd Reg.glbArbStatusCount + 1) (2 ^ Reg.glbArbStatusCount.w - 1) ∧
          u.rd Reg.glbArbStatusLoser = 2 ∧ u.rd Reg.glbArbStatusClass = 2 ∧ u.rd Reg.glbArbStatusFunc = 15 ∧
          u.rd Reg.glbArbStatusOffset = y.addr.toNat ∧ u.reg Reg.glbArbValueValue.addr = accVal y)) ∧
    (∀ a : BitVec 32,
      (0x4000000 ≤ a.toNat ∨ a.toNat % 8 ≠ 0 → exec (.mgtRegRead a) s = .next (s.send ⟨.mgtResponse, [2], leBytes 8 0⟩)) ∧
      (a.toNat < 0x4000000 → a.toNat % 8 = 0 → s.rbWindowShut a.toNat = false →
        ∃ t, exec (.mgtRegRead a) s = .next t ∧ cleared t (s.reaches .mgt a.toNat) a.toNat allBits
          ⟨.mgtResponse, [0], leBytes 8 (s.bar0Reg .mgt a.toNat).toNat⟩)) ∧
    (∀ (a : BitVec 32) (v : BitVec 64),
      (0x4000000 ≤ a.toNat ∨ a.toNat % 8 ≠ 0 → exec (.mgtRegWrite a v) s = .next (s.send ⟨.mgtResponse, [2], []⟩)) ∧
      (a.toNat < 0x4000000 → a.toNat % 8 = 0 → isTqReg a.toNat = true →
        exec (.mgtRegWrite a v) s = .next (s.send ⟨.mgtResponse, [1], []⟩)) ∧
      (a.toNat % 8 = 0 → s.reaches .mgt a.toNat = true → plain a.toNat →
        ∃ t, exec (.mgtRegWrite a v) s = .next (t.send ⟨.mgtResponse, [0], []⟩) ∧ written s t a.toNat v allBits))

/-- R24, R179, R521, R528. -/
def Obligations.HostMemoryAccess : Prop :=
  ∀ (s : State) (req : Req) (off : BitVec 40) (len : BitVec 13) (data : List Byte),
    let f := Req.set req
    let n := if data.isEmpty then len.toNat else data.length
    let a := (s.rd (Reg.hifBar2BaseAddr f) + off.toNat) % 2 ^ 64
    let who := match req with | .vf p => some p.toNat | _ => none
    let k := s.keyOf a
    let act := Instr.bar2Access req off len data
    let allowed := s.ownsSet req f = true ∧ ¬ (f < 4 ∧ 2 ^ 38 < off.toNat + n) ∧
      s.spanCheck who (if data.isEmpty then .read else .write) a n = none
    (s.down = true ∨ s.hostLinkDown = true ∨ req = .mgt → exec act s = .next s) ∧
    (s.down = false → s.hostLinkDown = false → req ≠ .mgt → n ≠ 0 →
      (¬ allowed → exec act s = .next (s.send ⟨.completion, [Req.fn req, 1], []⟩)) ∧
      (allowed → keyRemote k = false → data = [] → s.hostBlind req k = false → s.stackStopped k = true →
        exec act s = .next (s.send ⟨.completion, [Req.fn req, 1], []⟩)) ∧
      (allowed → keyRemote k = false → data = [] → s.hostBlind req k = true ∨ s.stackStopped k = false →
        exec act s = .next (if s.hostBlind req k then s.send ⟨.completion, [Req.fn req, 0], List.replicate n 0⟩
          else (s.noteRead 18 f k n).send ⟨.completion, [Req.fn req, if (s.poisonAt k n).isSome then 2 else 0], s.bytesAt k n⟩)) ∧
      (allowed → keyRemote k = false → data ≠ [] → s.inImage k n = false → s.hostBlind req k = true →
        s.clearing (s.parcelOf (k / 2 ^ 41)) = true → exec act s = .next s) ∧
      (allowed → keyRemote k = false → data ≠ [] → s.inImage k n = false → s.hostBlind req k = false → s.Lands 18 k n → s.NoneWaits →
        (regionOf (k / 2 ^ 41) (k % 2 ^ 41) = .t1 ∨ regionOf (k / 2 ^ 41) (k % 2 ^ 41) = .t2 ∨
          ∃ b, regionOf (k / 2 ^ 41) (k % 2 ^ 41) = .sc b) →
        ∃ t, exec act s = .next t ∧ Stored s t k data ∧ t = { s with mem := t.mem, poison := t.poison, fab := { s.fab with forwards := t.fab.forwards } } ∧
          ∀ c, (∀ i, i < n → s.homeCw ((k + i) / 32) ≠ c) → (c ∈ t.poison ↔ c ∈ s.poison)))

/-- R306. -/
def Obligations.PoisonLog : Prop :=
  (∀ (s : State) (fd : BitVec 4), ∃ t, exec (.poisonLogPop fd) s = .next t ∧ t = { s with poisonLog := t.poisonLog } ∧
    t.plog fd.toNat = (s.plog fd.toNat).drop 1 ∧ ∀ n, n ≠ fd.toNat → t.plog n = s.plog n) ∧
  ∀ (s : State) (k found : Nat),
    let fd := k / 2 ^ 41
    let ovf := Reg.memPoisonStatOvf fd
    let t := s.logPoison k found
    ((s.plog fd).length ≤ 16 → (t.plog fd).length ≤ 16) ∧ (∀ n, n ≠ fd → t.plog n = s.plog n) ∧
    ((s.plog fd).length < 16 → t = { s with poisonLog := t.poisonLog } ∧
      t.plog fd = s.plog fd ++ [⟨s.addrOf (k / 32 * 32), s.meridian, s.parcelOf fd, tierOf k, found, lsNumber k⟩]) ∧
    (16 ≤ (s.plog fd).length → t.plog fd = s.plog fd ∧
      (s.rd ovf = 0 → t = (s.wr ovf 1).raise (fdCode evPoisonLogOvf fd) (s.parcelOf fd) [s.addrOf (k / 32 * 32)]) ∧
      (s.rd ovf ≠ 0 → OnlyRegs s t [ovf.addr] ∧ t.rd ovf = min (s.rd ovf + 1) (2 ^ 16 - 1)))

/-- R476, R481 to R486, R491, R493. -/
def Obligations.PowerRegisters : Prop :=
  ∀ s : State,
    (∀ (cap : BitVec 3) (w : BitVec 16), s.down = false → ∃ t, exec (.powerCapWrite cap w) s = .next t ∧
      t.rd (capFld cap.toNat) = w.toNat ∧ t.CapFormed ∧ t.Targeted ∧
      t.pwr = { s.pwr with capFell := t.pwr.capFell, capTime := t.pwr.capTime, unmet := t.pwr.unmet, capV := t.pwr.capV } ∧
      RegsAndEvents { s with pwr := t.pwr } t ((capFld cap.toNat).addr :: Reg.pwrCapStatusEffective.addr :: targetRegs)) ∧
    (∀ (p : BitVec 2) (mv : BitVec 10), s.down = false → ∃ t, exec (.voltageRequestWrite p mv) s = .next t ∧
      t.rd (Reg.pwrVreqMv p.toNat) = mv.toNat ∧ t.Targeted ∧ OnlyRegs s t ((Reg.pwrVreqMv p.toNat).addr :: targetRegs)) ∧
    (∀ (watts other : BitVec 16) (model : List (List (BitVec 16))) (fds : List (BitVec 10 × BitVec 10 × BitVec 10)), s.down = false →
      ∃ t, exec (.capControlLoop watts other model fds) s = .next t ∧ t.Targeted ∧
        t.pwr = { s.pwr with other := other.toNat, model := model.map (fun m => m.map (·.toNat)),
                             pace := fds.map (fun x => x.1.toNat), capFell := t.pwr.capFell, rampBank := t.pwr.rampBank,
                             unmet := t.pwr.unmet, capV := t.pwr.capV } ∧
        (s.rd Reg.pwrCapRampWPerMs = 0 → ∀ p m, p < 4 → model[p]? = some m → m ≠ [] →
          t.capMv p = fitMv (m.map (·.toNat)) (t.parcelShare p (s.rd Reg.pwrCapStatusEffective * 100))) ∧
        (s.pwr.capFell = none → t.pwr.unmet = (s.pwr.unmet && decide (s.rd Reg.pwrCapStatusEffective ≤ watts.toNat))) ∧
        RegsAndEvents { s with pwr := t.pwr } t (Reg.pwrCapStatusEffective.addr :: targetRegs) ∧
        (∀ fd x, fd < 16 → fds[fd]? = some x →
          t.rd (Reg.pwrFdVFloorMv fd) = x.2.1.toNat ∧ t.rd (Reg.pwrFdVActualMv fd) = x.2.2.toNat) ∧
        (∀ at_, s.pwr.capFell = some at_ →
          let unmet := Reg.pwrCapStatusUnmet
          let atFloor := ∀ fd, fd < 16 → t.rd (Reg.pwrFdVTargetMv fd) = mvStep (t.rd (Reg.pwrFdVFloorMv fd))
          (watts.toNat ≤ s.rd Reg.pwrCapStatusEffective → t.pwr.capFell = none ∧ t.rd unmet = s.rd unmet) ∧
          (s.rd Reg.pwrCapStatusEffective < watts.toNat → at_ + 4000000 ≤ s.meridian.toNat → atFloor →
            t.pwr.capFell = none ∧ t.pwr.unmet = true ∧ t.rd unmet = min (s.rd unmet + 1) (2 ^ 16 - 1)) ∧
          (s.rd Reg.pwrCapStatusEffective < watts.toNat → (s.meridian.toNat < at_ + 4000000 ∨ ¬ atFloor) →
            t.pwr.capFell = some at_ ∧ t.rd unmet = s.rd unmet))) ∧
    (∃ t, exec .energySnap s = .next t ∧
      OnlyRegs s t ([Reg.pwrSnapTimeMeridian.addr, Reg.pwrEnergyInUj.addr, Reg.pwrEnergyLossUj.addr] ++
        (List.range 20).map (fun d => (Reg.pwrEnergyDieUj d).addr) ++ (List.range 4).map (fun p => (Reg.pwrEnergyParUj p).addr)) ∧
      t.rd Reg.pwrSnapTimeMeridian = s.pwr.sampleAt % 2 ^ 64 ∧ t.rd Reg.pwrEnergyInUj = s.pwr.met.ein % 2 ^ 64 ∧
      t.rd Reg.pwrEnergyLossUj = s.pwr.met.loss % 2 ^ 64 ∧
      (∀ d, d < 20 → t.rd (Reg.pwrEnergyDieUj d) = s.pwr.met.dies.getD d 0 % 2 ^ 64) ∧
      ∀ p, p < 4 → t.rd (Reg.pwrEnergyParUj p) = s.pwr.met.pars.getD p 0 % 2 ^ 64) ∧
    (∃ t, exec .repairRecordMeterWrite s = .next t ∧ t = { s with pwr := t.pwr } ∧ t.pwr.saved = s.pwr.met ∧
      t.pwr = { s.pwr with saved := t.pwr.saved }) ∧
    (∃ t, exec .pwrDistPop s = .next t ∧ t.pwr = { s.pwr with distLog := s.pwr.distLog.drop 1 } ∧
      OnlyRegs { s with pwr := t.pwr } t [Reg.pwrDistStatCount.addr, Reg.pwrDistH0Start.addr, Reg.pwrDistH1Type.addr] ∧
      t.rd Reg.pwrDistStatCount = (s.pwr.distLog.length - 1) % 2 ^ 7 ∧
      ∀ d, (s.pwr.distLog.drop 1).head? = some d → t.rd Reg.pwrDistH0Start = d.words.1 ∧ (t.reg Reg.pwrDistH1Type.addr).toNat = d.words.2)

/-- R472 to R479. -/
def Obligations.PowerSupply : Prop :=
  ∀ s : State, s.down = false →
    let mean := fun (l : List Nat) => if l = [] then 0 else l.foldl (· + ·) 0 / l.length
    let ridesOn := s.flag Reg.pwrHoldRiding = true
    (∀ (va vb : BitVec 18) (ia ib : BitVec 16) (uj : BitVec 32) (dies : List (BitVec 32)) (charge : BitVec 8),
      ∃ t, exec (.supplySample va vb ia ib uj dies charge) s = .next t ∧ t.mem = s.mem ∧ t.stns = s.stns ∧ t.down = false ∧
        t.pwr.ea.win = ((va.toNat, ia.toNat) :: s.pwr.ea.win).take 100 ∧ t.pwr.eb.win = ((vb.toNat, ib.toNat) :: s.pwr.eb.win).take 100 ∧
        t.rd Reg.pwrInAMv = min (mean (t.pwr.ea.win.map (·.1))) 0xFFFF ∧ t.rd Reg.pwrInBMv = min (mean (t.pwr.eb.win.map (·.1))) 0xFFFF ∧
        t.rd Reg.pwrInACurrent = mean (t.pwr.ea.win.map (·.2)) % 2 ^ Reg.pwrInACurrent.w ∧
        t.rd Reg.pwrInAMinMv = min (s.rd Reg.pwrInAMinMv) va.toNat ∧ t.rd Reg.pwrInBMinMv = min (s.rd Reg.pwrInBMinMv) vb.toNat ∧
        t.rd Reg.pwrHoldChargePct = charge.toNat % 2 ^ Reg.pwrHoldChargePct.w ∧ t.pwr.sampleAt = s.meridian.toNat ∧
        t.pwr.met.ein = s.pwr.met.ein + uj.toNat ∧
        (∀ d, d < 20 → t.pwr.met.dies.getD d 0 = s.pwr.met.dies.getD d 0 + (dies.getD d 0).toNat) ∧
        t.pwr.met.loss = t.pwr.met.ein - t.pwr.met.dies.foldl (· + ·) 0) ∧
    (∀ entry cause : BitVec 2,
      let es := (if entry = 0 then [0] else if entry = 1 then [1] else if entry = 2 then [0, 1] else ([] : List Nat)).filter s.feeds
      (ridesOn ∨ es = [] → exec (.entryLoss entry cause) s = .next s) ∧
      (¬ ridesOn → es ≠ [] → ∃ t, exec (.entryLoss entry cause) s = .next t ∧ t.mem = s.mem ∧ t.stns = s.stns ∧ t.down = false ∧
        t.CapFormed ∧ t.pwr.alone = none ∧ (∀ e ∈ es, t.flag (fldLost e) = true) ∧
        (∀ e, e < 2 → e ∉ es → t.flag (fldLost e) = s.flag (fldLost e)) ∧
        (t.flag Reg.pwrHoldRiding = true ↔ ∀ e, e < 2 → s.feeds e = true → e ∈ es) ∧
        (t.flag Reg.pwrHoldRiding = true → t.pwr.rideAt = s.meridian.toNat ∧ t.pwr.dropout.isSome = true))) ∧
    (∀ entry : BitVec 1,
      let e := entry.toNat
      let able := ¬ ridesOn ∧ s.flag (fldLost e) = true ∧ bitOf (s.rd Reg.mgtI2cStatIsolated) (e + 1) = false
      (¬ able → exec (.entryRestore entry) s = .next s) ∧
      (able → ∃ t, exec (.entryRestore entry) s = .next t ∧ t.flag (fldLost e) = false ∧ t.CapFormed ∧ t.pwr.alone ≠ some e ∧
        t.mem = s.mem ∧ t.stns = s.stns) ∧
      (¬ ridesOn → exec (.rideThroughEnd entry) s = .next s) ∧
      (ridesOn → ∃ t, exec (.rideThroughEnd entry) s = .next t ∧ t.flag Reg.pwrHoldRiding = false ∧ t.CapFormed ∧
        t.pwr.alone = some e ∧ t.pwr.dropout = none ∧ t.mem = s.mem ∧ t.stns = s.stns ∧
        t.rd Reg.pwrHoldLastUs = min (usOf (s.meridian.toNat - s.pwr.rideAt)) 0xFFFF ∧
        t.rd Reg.pwrHoldRides = min (s.rd Reg.pwrHoldRides + 1) (2 ^ Reg.pwrHoldRides.w - 1))) ∧
    (∀ cause : BitVec 2,
      (cause = 0 ∨ (cause = 1 ∧ ¬ ridesOn) → exec (.goDown cause) s = .next s) ∧
      (cause ≠ 0 → (cause = 1 → ridesOn) → ∃ t, exec (.goDown cause) s = .next t ∧ t.down = true ∧ t.hostLinkDown = true ∧
        t.rstKind = 0 ∧ t.ports = [] ∧ t.ctxs = [] ∧ t.ctxWait = [] ∧ t.fab.unrouted = [] ∧ t.meridian = s.meridian ∧
        (∀ fd tier, fd < 16 → tier < 3 → Sparse.get (fun _ => 0) t.scrGen (16 * tier + fd) = t.freeCtr ∧ s.freeCtr < t.freeCtr) ∧
        (∀ p, p < 4 → t.rd (Reg.glbTrvStatusState p) = trvIdle) ∧
        (∀ k, k < 16 → s.portUp k = true → t.rd (Reg.lnkStatusState k) = lnkDown ∧
          (isUplink k = false → ∃ m ∈ t.outbox.drop s.outbox.length, m.kind = .linkFlit ∧ m.args.take 1 = [k] ∧
            m.args.drop 3 = [7, 1, s.rd (Reg.lnkStatusPartner k), 0, 0, 0, 0, cause.toNat])) ∧
        (bitOf (s.rd Reg.mgtI2cStatIsolated) 0 = false →
          t.tagRead 0x800 6 = [0x4C, 0x47, 0x52, 0x31, 1, BitVec.ofNat 8 cause.toNat]) ∧
        (bitOf (s.rd Reg.mgtI2cStatIsolated) 0 = true → t.tag = s.tag)))

/-- R321, R322, R488 to R490, R546, R585. -/
def Obligations.TemperaturesAndSidebands : Prop :=
  ∀ s : State, s.down = false →
    let leveled := fun (thr : List Nat) (old temp lvl : Nat) => lvl ≤ 3 ∧
      ∀ i, i < 3 → (i < lvl ↔ thr.getD i 0 ≤ temp ∨ (i < old ∧ thr.getD i 0 < temp + 3))
    let stopped := fun (p : Nat) (t : State) =>
      (s.rd (Reg.glbTrvStatusState p) = trvRunning → t.rd (Reg.glbTrvStatusState p) = trvHeld) ∧
      ∀ k ∈ s.parcelStns p, (s.stn k).active = true → (s.stn k).faulted = false → (t.stn k).held = true ∨ (t.stn k).holdReq = true
    (∀ (fd : BitVec 4) (temp : BitVec 8),
      let n := fd.toNat
      let old := s.rd (Reg.pwrFdVTlevel n)
      ∃ t, exec (.fdThermalSample fd temp) s = .next t ∧ t.rd (Reg.pwrFdVTj n) = temp.toNat ∧ t.Targeted ∧ t.mem = s.mem ∧
        leveled [100, 110, 120] old temp.toNat (t.rd (Reg.pwrFdVTlevel n)) ∧
        (old < 3 → t.rd (Reg.pwrFdVTlevel n) = 3 → n ∈ t.fdTrip ∧ stopped (s.parcelOf n) t) ∧
        (3 ≤ old ∨ t.rd (Reg.pwrFdVTlevel n) < 3 → RegsAndEvents { s with fdTrip := t.fdTrip } t targetRegs)) ∧
    (∀ (fd : BitVec 4) (temp : BitVec 8),
      let n := fd.toNat
      let old := s.rd (Reg.t1TempLevel n)
      ∃ t, exec (.stackThermalSample fd temp) s = .next t ∧ t.rd (Reg.t1TempTemp n) = temp.toNat ∧ t.Targeted ∧
        t.rd (Reg.t1TempMax n) = max temp.toNat (s.rd (Reg.t1TempMax n)) ∧
        leveled [85, 95, 105] old temp.toNat (t.rd (Reg.t1TempLevel n)) ∧
        (old < 3 → t.rd (Reg.t1TempLevel n) = 3 → n ∈ t.memTrip ∧ stopped (s.parcelOf n) t ∧
          s.freeCtr < Sparse.get (fun _ => 0) t.scrGen (16 + n)) ∧
        (3 ≤ old ∨ t.rd (Reg.t1TempLevel n) < 3 →
          RegsAndEvents { s with memTrip := t.memTrip } t ((Reg.t1TempTemp n).addr :: targetRegs))) ∧
    (∀ (die : BitVec 2) (temp : BitVec 8),
      let d := 16 + die.toNat
      (115 ≤ temp.toNat → exec (.edgeDieThermalSample die temp) s = exec (.goDown 3) s) ∧
      (105 ≤ temp.toNat → temp.toNat < 115 → d ∉ s.edgeHot → ∃ t, exec (.edgeDieThermalSample die temp) s = .next t ∧
        d ∈ t.edgeHot ∧ t.Targeted ∧ RegsAndEvents { s with edgeHot := t.edgeHot } t targetRegs) ∧
      (temp.toNat < 102 → ∃ t, exec (.edgeDieThermalSample die temp) s = .next t ∧ t.edgeHot = s.edgeHot.filter (· ≠ d) ∧
        t.Targeted ∧ OnlyRegs { s with edgeHot := t.edgeHot } t targetRegs) ∧
      (102 ≤ temp.toNat → temp.toNat < 105 ∨ (d ∈ s.edgeHot ∧ temp.toNat < 115) → exec (.edgeDieThermalSample die temp) s = .next s)) ∧
    (∀ (i : Nat) (act : Bool → Bool → Instr) (v : Bool),
      (i, act) ∈ [(0, Instr.haltNChange), (1, Instr.pwrCapNChange), (2, Instr.perstNChange), (3, Instr.thermAlertNChange)] →
      let pin := Reg.mgtSbStatActive i
      (s.rstKind = 2 → exec (act v false) s = .next s ∧ ∃ t, exec (act v true) s = .next t ∧ t = { s with sbIn := t.sbIn } ∧
        (t.sb i).raw = v) ∧
      (s.rstKind ≠ 2 → ∃ t, exec (act v false) s = .next t ∧ OnlyRegs s t [(Reg.mgtSbStatGlitch i).addr] ∧
        t.rd (Reg.mgtSbStatGlitch i) = min (s.rd (Reg.mgtSbStatGlitch i) + 1) (2 ^ (Reg.mgtSbStatGlitch i).w - 1)) ∧
      (s.rstKind ≠ 2 → s.sbLocked i = true → ∃ t, exec (act v true) s = .next t ∧ OnlyRegs { s with sbIn := t.sbIn } t [(Reg.mgtSbStatCollapse i).addr] ∧
        t.rd (Reg.mgtSbStatCollapse i) = min (s.rd (Reg.mgtSbStatCollapse i) + 1) (2 ^ (Reg.mgtSbStatCollapse i).w - 1) ∧
        t.flag pin = s.flag pin ∧ (t.sb i).raw = v) ∧
      (s.rstKind ≠ 2 → s.sbLocked i = false → s.flag pin = v → ∃ t, exec (act v true) s = .next t ∧ t = { s with sbIn := t.sbIn }) ∧
      (s.rstKind ≠ 2 → s.sbLocked i = false → s.flag pin ≠ v → s.NoneWaits → ∃ t, exec (act v true) s = .next t ∧ t.flag pin = v ∧
        (v = false → t.rd (Reg.mgtSbStatStuck i) = 0) ∧ (t.sb i).last = s.meridian.toNat + 1 ∧ t.mem = s.mem ∧ t.stns = s.stns ∧
        (i = 1 → t.flag Reg.pwrCapStatusPin = v ∧ t.CapFormed ∧ t.Targeted) ∧ (i = 3 → t.Targeted) ∧
        (i = 2 → v = true → s.hostLinkDown = false → t.hostLinkDown = true ∧ t.numVfs = 0 ∧
          t.rd Reg.glbResetCausePerst = min (s.rd Reg.glbResetCausePerst + 1) (2 ^ Reg.glbResetCausePerst.w - 1)) ∧
        (i ≠ 2 → t.hostLinkDown = s.hostLinkDown))) ∧
    (∀ i : BitVec 3, i.toNat ≤ 4 →
      let stuck := Reg.mgtSbStatStuck i.toNat
      (s.flag (Reg.mgtSbStatActive i.toNat) = false ∨ s.flag stuck = true → exec (.sidebandHeld10s i) s = .next s) ∧
      (s.flag (Reg.mgtSbStatActive i.toNat) = true → s.flag stuck = false →
        ∃ t, exec (.sidebandHeld10s i) s = .next t ∧ t.flag stuck = true ∧ t.mem = s.mem ∧ t.stns = s.stns ∧
          (i = 4 → s.rd Reg.merCtlSrc = 1 → s.rd Reg.merStatusState = merLocked → t.rd Reg.merStatusState = merHoldover) ∧
          (i ≠ 4 → RegsAndEvents s t [stuck.addr])))

/-- R16, R34 to R40, R320. -/
def Obligations.ModuleAndParcelNumbers : Prop :=
  ∀ s : State, s.down = false →
    (∀ (p : BitVec 2) (v : BitVec 64) (split : BitVec 3),
      exec (.moduleNumWrite (.vf p) v) s = .next s ∧ exec (.parcelCfgWrite (.vf p) split) s = .next s) ∧
    (∀ (q : Req) (v : BitVec 64), q = .pf ∨ q = .mgt →
      let valid := Reg.glbModuleNumValid
      let num := Reg.glbModuleNumModule
      (s.flag Reg.secLockLock = true → ∃ t, exec (.moduleNumWrite q v) s = .next t ∧ RegsAndEvents s t []) ∧
      (s.flag Reg.secLockLock = false → s.flag valid = false → ∃ t, exec (.moduleNumWrite q v) s = .next t ∧
        OnlyRegs s t [num.addr] ∧ t.rd num = num.extract v ∧ t.rd valid = valid.extract v) ∧
      (s.flag Reg.secLockLock = false → s.flag valid = true → valid.extract v = 1 →
        ∃ t, exec (.moduleNumWrite q v) s = .next t ∧ t.rd num = s.rd num ∧ t.flag valid = true ∧
          (num.extract v = s.rd num → t = s) ∧
          (num.extract v ≠ s.rd num → OnlyRegs s t [Reg.glbArbStatusCount.addr, Reg.glbArbValueValue.addr] ∧
            t.rd Reg.glbArbStatusCount = min (s.rd Reg.glbArbStatusCount + 1) (2 ^ 16 - 1) ∧
            t.rd Reg.glbArbStatusOffset = num.addr ∧ t.reg Reg.glbArbValueValue.addr = v)) ∧
      (s.flag Reg.secLockLock = false → s.flag valid = true → valid.extract v = 0 →
        ∃ t, exec (.moduleNumWrite q v) s = .next t ∧ t.flag valid = false ∧ t.rd num = num.extract v ∧ t.mem = s.mem ∧
          t.stns = s.stns ∧ ∀ k, k < 16 → t.portUp k = false ∨ s.flag (Reg.lnkCfgEnable k) = false)) ∧
    (∀ (q : Req) (split : BitVec 3), q = .pf ∨ q = .mgt →
      let f := Reg.glbParcelCfgSplit
      let new := split.toNat
      let old := s.rd f
      let gone := splitMoved new old
      (new = old → exec (.parcelCfgWrite q split) s = .next s) ∧
      (new ≠ old → (∃ p ∈ gone, s.busyParcel p = true) →
        ∃ t, exec (.parcelCfgWrite q split) s = .next t ∧ RegsAndEvents s t []) ∧
      (new ≠ old → (∀ p ∈ gone, s.busyParcel p = false) → s.canon →
        ∃ t, exec (.parcelCfgWrite q split) s = .next t ∧ t.rd f = new ∧ t.flag Reg.glbParcelCfgClearing = true ∧
          t.sec.splitNew = s.sec.splitNew.filter (fun p => !gone.contains p) ++ splitMoved old new ∧ (∀ p ∈ splitMoved old new, t.clearing p = true) ∧
          (∀ p ∈ gone, ∀ fd ∈ parcelFdsOf old p, t.plog fd = [] ∧ ∀ e ∈ t.stns, e.1 / 256 ≠ fd) ∧
          ((∀ p ∈ gone, s.NoWritesHeld (parcelFdsOf old p)) → ∀ k, (∀ p ∈ gone, ∀ fd ∈ parcelFdsOf old p, k / 2 ^ 41 ≠ fd) →
            Sparse.get memDefault t.mem k = Sparse.get memDefault s.mem k))) ∧
    (s.sec.splitNew = [] → exec .parcelClearingEnd s = .next s) ∧
    (s.sec.splitNew ≠ [] → (∀ p ∈ s.sec.splitNew, p < 4) → ∃ t, exec .parcelClearingEnd s = .next t ∧ t.sec.splitNew = [] ∧
      (∀ p ∈ s.sec.splitNew, t.clearing p = false) ∧ t.rd Reg.glbParcelCfgCount = parcelCount (s.rd Reg.glbParcelCfgSplit) ∧
      t.rd Reg.glbParcelCfgSplit = s.rd Reg.glbParcelCfgSplit ∧ t.mem = s.mem ∧ t.stns = s.stns) ∧
    (∀ (fd : BitVec 4) (v : BitVec 64),
      let a := (Reg.memTrkCfgLockResv fd.toNat).addr
      (s.trvIdleAt (s.parcelOf fd.toNat) = true → ∃ t, exec (.memTrkCfgWrite fd v) s = .next t ∧ OnlyRegs s t [a] ∧
        ∀ r, regRowAt a = some r → ∀ i, i < 64 →
          (t.reg a).getLsbD i = if r.rw.testBit i then v.getLsbD i else (s.reg a).getLsbD i) ∧
      (s.trvIdleAt (s.parcelOf fd.toNat) = false → ∃ t, exec (.memTrkCfgWrite fd v) s = .next t ∧ RegsAndEvents s t []))

/-- R507, R508, R513 to R515, R518. -/
def Obligations.ModuleResets : Prop :=
  ∀ s : State,
    let cold := fun (t : State) (kind : Nat) => t.mem = [] ∧ t.poison = [] ∧ t.stns = [] ∧ t.lsts = [] ∧ t.ports = [] ∧ t.colls = [] ∧
      t.loading = [] ∧ t.remote = [] ∧ t.rstKind = 2 ∧ t.meridian = 0 ∧ t.sec.grants = [] ∧ t.hostMem = s.hostMem ∧ t.tag = s.tag ∧
      t.pending = s.pending ∧ t.rd Reg.glbResetCauseKind = kind ∧ t.flag Reg.glbStartStatusReady = false ∧ t.igd.clocks = false
    let links := if s.igd.bifurcated then 4 else 1
    -- NVME_PERST_N j is output 16 + j, NVME_REFCLK j output 20 + j; those of links not in use never change
    let perst := fun (t : State) (high : Bool) => t.igd.released = high ∧ t.igd.bifurcated = s.igd.bifurcated ∧
      (s.igd.released ≠ high → ∀ j, j < links → ⟨.sideOut, [16 + j, if high then 1 else 0], []⟩ ∈ t.outbox.drop s.outbox.length) ∧
      ∀ m ∈ t.outbox.drop s.outbox.length, m.kind = .sideOut → m.args.getD 0 0 < 16 ∨ (m.args.getD 0 0 < 16 + links ∧ s.igd.released ≠ high) ∨
        (20 ≤ m.args.getD 0 0 ∧ m.args.getD 0 0 < 20 + links ∧ s.igd.clocks = false)
    let counted := fun (t : State) => OnlyRegs s t [Reg.glbResetCauseDiscard.addr] ∧
      t.rd Reg.glbResetCauseDiscard = min (s.rd Reg.glbResetCauseDiscard + 1) (2 ^ Reg.glbResetCauseDiscard.w - 1)
    (∀ q : Req, s.down = true ∨ Req.wide q = false → exec (.resetCold q) s = .next s ∧ exec (.resetWarm q) s = .next s) ∧
    (∀ q : Req, s.down = false → Req.wide q = true →
      let source := if q = .mgt then 2 else 1
      (s.rstKind = 2 → ∃ t, exec (.resetCold q) s = .next t ∧ counted t) ∧
      (s.rstKind ≠ 0 → ∃ t, exec (.resetWarm q) s = .next t ∧ counted t) ∧
      (s.rstKind ≠ 2 → s.sec.grants = [] → ∃ t, exec (.resetCold q) s = .next t ∧ cold t kindCold ∧ t.igd.released = false ∧
        t.igd.bifurcated = s.flag (Reg.ingNvmeCfgBifurcate 1) ∧
        (s.igd.released = true → ∀ j, j < links → ⟨.sideOut, [16 + j, 0], []⟩ ∈ t.outbox.drop s.outbox.length) ∧
        t.rd Reg.glbResetCauseSource = source ∧
        ∀ p, p < 4 → s.parcelExists p = true →
          t.rd (Reg.pwrEnergyFinalUj p) = s.pwr.met.pars.getD p 0 % 2 ^ 64 ∧ t.rd (Reg.pwrFinalTimeMeridian p) = s.meridian.toNat) ∧
      (s.rstKind = 0 → ∃ t, exec (.resetWarm q) s = .next t ∧ t.rstKind = 3 ∧ t.rstParcels = [] ∧
        (s.sec.grants = [] → perst t false) ∧
        (∀ e ∈ t.stns, 16 ≤ e.1 / 256) ∧ (∀ e ∈ t.lsts, 16 ≤ e.1 / 128) ∧
        t.ports = [] ∧ t.colls = [] ∧ t.remote = [] ∧ t.numVfs = 0 ∧ t.sec.grants = [] ∧ t.meridian = s.meridian ∧ t.tag = s.tag ∧
        t.rd Reg.glbResetCauseKind = kindWarm ∧ t.rd Reg.glbResetCauseSource = source ∧
        (s.NoWritesHeld (List.range 16) → ∀ k, k / 2 ^ 41 < 16 → Sparse.get memDefault t.mem k =
          match regionOf (k / 2 ^ 41) (k % 2 ^ 41) with
          | .sc _ => memDefault k
          | .ls _ _ => memDefault k
          | _ => Sparse.get memDefault s.mem k))) ∧
    (s.sec.grants = [] → ∃ t, exec .coldReset s = .next t ∧
      cold t (if s.down && !(TapInst.holds s.sec.tap) && decide (s.rstKind ≠ 2) then kindGasp else kindPower)) ∧
    (s.rstKind ≠ 3 → exec .warmResetEnd s = .next s) ∧
    (s.rstKind = 3 → ∃ t, exec .warmResetEnd s = .next t ∧ t.rstKind = 0 ∧ t.mem = s.mem ∧ t.stns = s.stns ∧ perst t true ∧
      ∀ k, k < 16 → s.flag (Reg.lnkCfgEnable k) = true → t.portUp k = false) ∧
    (∀ (rotOk : Bool) (good : BitVec 4) (fails : List (BitVec 4 × BitVec 8)),
      (s.rstKind ≠ 2 ∨ s.down = true → exec (.startUpComplete rotOk good fails) s = .next s) ∧
      (s.rstKind = 2 → s.down = false → s.NoneWaits →
        (rotOk = false → ∃ t, exec (.startUpComplete rotOk good fails) s = .next t ∧ t.down = true ∧
          t.flag Reg.secStatusRotError = true ∧ OnlyRegs { s with down := true } t [Reg.secStatusRotError.addr]) ∧
        (rotOk = true → s.bootSlot good.toNat 0 = none → exec (.startUpComplete rotOk good fails) s = .next { s with down := true }) ∧
        (∀ a, rotOk = true → s.bootSlot good.toNat 0 = some a → ∃ t, exec (.startUpComplete rotOk good fails) s = .next t ∧
          t.rstKind = 0 ∧ t.down = false ∧ t.fw.run.head? = some (some a) ∧ t.flag Reg.secStatusApproved = true ∧
          t.mem = s.mem ∧ t.stns = s.stns ∧
          (s.rd Reg.secStatusLifecycle = lcDecommissioned → t.igd = s.igd) ∧
          (s.rd Reg.secStatusLifecycle ≠ lcDecommissioned → t.flag Reg.glbStartStatusReady = true ∧
            t.igd.released = true ∧ t.igd.clocks = true ∧
            (∀ x, t.fw.run.getD 2 none = some x → t.igd.nvme = min 16 (Config.nvmeCount links)) ∧
            (s.igd.clocks = false → s.igd.released = false → ∀ j, j < links →
              ⟨.sideOut, [20 + j, 1], []⟩ ∈ t.outbox.drop s.outbox.length ∧ ⟨.sideOut, [16 + j, 1], []⟩ ∈ t.outbox.drop s.outbox.length) ∧
            (∀ (fd : BitVec 4) (phys : BitVec 8),
              let n := fd.toNat
              let p := phys.toNat
              let lost := t.failed = s.failed ++ [(n, p, (s.logOf n p).getD 255)] ∧
                t.rd (Reg.fdStatusFailed n) = (s.rd (Reg.fdStatusFailed n) + 1) % 2 ^ 8 ∧
                t.rd (Reg.fdStatusSparesLeft n) = s.rd (Reg.fdStatusSparesLeft n) - 1
              fails = [(fd, phys)] → p < 136 → s.flag (Reg.fdStatusRetired n) = false → (∀ x ∈ s.failed, ¬ (x.1 = n ∧ x.2.1 = p)) →
                (s.logOf n p = none → lost) ∧
                (∀ l q, s.logOf n p = some l → (s.spares n).head? = some q → lost ∧ t.physOf n l = q) ∧
                (∀ l, s.logOf n p = some l → s.spares n = [] → t.failed = s.failed ∧ t.flag (Reg.fdStatusRetired n) = true ∧
                  t.rd (Reg.fdRetireInfoCause n) = 1))))))

/-- R507, R509, R512, R514, R516, R517. -/
def Obligations.ParcelAndStationResets : Prop :=
  ∀ s : State, s.down = false → s.canon →
    (∀ (q : Req) (mask : BitVec 4) (p : Nat), p < 4 → mask.toNat = 2 ^ p → s.parcelExists p = true →
      (∀ v, q = .vf v → v.toNat = p ∧ p < s.numVfs) →
      (s.rstKind ≠ 0 ∨ p ∈ s.rstParcels → ∃ t, exec (.resetParcel q mask) s = .next t ∧
        OnlyRegs s t [Reg.glbResetCauseDiscard.addr] ∧
        t.rd Reg.glbResetCauseDiscard = min (s.rd Reg.glbResetCauseDiscard + 1) (2 ^ Reg.glbResetCauseDiscard.w - 1)) ∧
      (s.rstKind = 0 → p ∉ s.rstParcels → (∀ fd ∈ s.parcelFds p, s.flag (Reg.t2StatusReform fd) = false) →
        ∃ t, exec (.resetParcel q mask) s = .next t ∧ p ∈ t.rstParcels ∧ t.rd (Reg.glbTrvStatusState p) = trvIdle ∧
          (∀ e ∈ t.stns, e.1 / 256 ∉ s.parcelFds p) ∧ (∀ key, key / 256 ∉ s.parcelFds p → t.stnAt key = s.stnAt key) ∧
          (∀ fd ∈ parcelFdsOf (s.rd Reg.glbParcelCfgSplit) p, s.flag (Reg.fdStatusRetired fd) = true → t.fdAnswers fd = false) ∧
          (∀ fd ∈ s.parcelFds p, t.plog fd = []) ∧
          (s.NoWritesHeld (s.parcelFds p) → ∀ k, Sparse.get memDefault t.mem k =
            if (s.parcelFds p).contains (k / 2 ^ 41) then
              match regionOf (k / 2 ^ 41) (k % 2 ^ 41) with
              | .sc _ => memDefault k
              | .ls _ _ => memDefault k
              | _ => Sparse.get memDefault s.mem k
            else Sparse.get memDefault s.mem k))) ∧
    (∀ p : BitVec 2, (p.toNat ∉ s.rstParcels → exec (.parcelResetComplete p) s = .next s) ∧
      (p.toNat ∈ s.rstParcels → ∃ t, exec (.parcelResetComplete p) s = .next t ∧ t.rstParcels = s.rstParcels.filter (· ≠ p.toNat) ∧
        (∀ fd ∈ s.parcelFds p.toNat, t.flag (Reg.t2StatusReform fd) = false) ∧ t.mem = s.mem ∧ t.stns = s.stns)) ∧
    (∀ (fd : BitVec 4) (m : BitVec 1) (mask : BitVec 64) (i : Nat) (k : Loc), i < 64 → mask.toNat = 2 ^ i →
      s.locate (fd.toNat * 128 + 64 * m.toNat + i) = some k →
      (s.underReset (s.parcelOf fd.toNat) = true → ∃ t, exec (.stationReset fd m mask) s = .next t ∧
        OnlyRegs s t [Reg.glbResetCauseDiscard.addr] ∧
        t.rd Reg.glbResetCauseDiscard = min (s.rd Reg.glbResetCauseDiscard + 1) (2 ^ Reg.glbResetCauseDiscard.w - 1)) ∧
      (s.underReset (s.parcelOf fd.toNat) = false → s.trvIdleAt (s.parcelOf fd.toNat) = false →
        ∃ t, exec (.stationReset fd m mask) s = .next t ∧ RegsAndEvents s t []) ∧
      (s.underReset (s.parcelOf fd.toNat) = false → s.trvIdleAt (s.parcelOf fd.toNat) = true → ∃ t, exec (.stationReset fd m mask) s = .next t ∧
        t = { s with regs := t.regs, stns := t.stns } ∧ (∀ key, key ≠ k.key → t.stnAt key = s.stnAt key) ∧
        (t.stn k).active = false ∧ (t.stn k).faulted = false ∧ (t.stn k).held = false ∧ (t.stn k).vregs = Stn.idle.vregs ∧
        ∀ a, t.reg a = if k.b ≤ a ∧ a < k.b + 0x1000 ∧ stnStateOff (a - k.b) = true then regDefault a else s.reg a)) ∧
    (∀ fd : BitVec 4,
      let bit : Fld := ⟨Reg.glbLpCtlPark.addr, fd.toNat, 1⟩
      (∃ t, exec (.lpPark fd false) s = .next t ∧ OnlyRegs s t [bit.addr, (Reg.fdStatusParked fd.toNat).addr] ∧ t.rd bit = 0 ∧
        t.rd (Reg.fdStatusParked fd.toNat) = 0) ∧
      (s.flag bit = false → s.trvIdleAt (s.parcelOf fd.toNat) = true → ∃ t, exec (.lpPark fd true) s = .next t ∧
        OnlyRegs s t [bit.addr, (Reg.fdStatusParked fd.toNat).addr] ∧ t.rd bit = 1 ∧ t.rd (Reg.fdStatusParked fd.toNat) = 1) ∧
      (s.flag bit = false → s.trvIdleAt (s.parcelOf fd.toNat) = false →
        ∃ t, exec (.lpPark fd true) s = .next t ∧ RegsAndEvents s t [])) ∧
    (let sb := Reg.glbLpCtlStandby
     exec (.lpStandby (s.flag sb)) s = .next s ∧
     (s.flag sb = true → ∃ t, exec (.lpStandby false) s = .next t ∧ t.flag sb = false ∧ t.mem = s.mem ∧ t.stns = s.stns) ∧
     (s.flag sb = false → s.allIdle = false → ∃ t, exec (.lpStandby true) s = .next t ∧ RegsAndEvents s t []) ∧
     (s.flag sb = false → s.allIdle = true → ∃ t, exec (.lpStandby true) s = .next t ∧ t.flag sb = true ∧ t.stns = [] ∧ t.lsts = [] ∧
       (∀ k, k < 16 → t.portUp k = false) ∧
       (s.NoWritesHeld (List.range 16) → ∀ k, k / 2 ^ 41 < 16 → Sparse.get memDefault t.mem k =
         match regionOf (k / 2 ^ 41) (k % 2 ^ 41) with
         | .sc _ => memDefault k
         | .ls _ _ => memDefault k
         | _ => Sparse.get memDefault s.mem k)))

/-- R529, R533 to R536. -/
def Obligations.EventRings : Prop :=
  ∀ (s : State) (req : Req) (f : BitVec 3) (r : BitVec 2), s.down = false →
    let n := f.toNat
    let i := r.toNat
    let sig := fun (t : State) => Sparse.get (fun _ => RingSig.ready) t.ringSig (n * 4 + i)
    let head := Reg.hifEvqHeadHead n i
    let tail := Reg.hifEvqStatTail n i
    let only := fun (t : State) => t = { s with regs := t.regs, ringSig := t.ringSig, outbox := t.outbox, evAwait := t.evAwait }
    let rearmed := fun (t : State) => if t.rd tail = t.rd head then sig t = RingSig.ready ∧ t.outbox = s.outbox
      else sig t = ⟨true, false, false⟩ ∧ t.outbox = s.outbox ++ [⟨.msix, [n, s.rd (Reg.hifEvqCfgVector n i)], []⟩]
    (∀ (hd : BitVec 16) (v : BitVec 64), s.ownsSet req n = false →
      exec (.evqHeadWrite req f r hd) s = .next s ∧ exec (.evqCfgWrite req f r v) s = .next s) ∧
    (∀ hd : BitVec 16, s.ownsSet req n = true → s.heldOf n = 0 →
      ∃ t, exec (.evqHeadWrite req f r hd) s = .next t ∧ only t ∧ t.rd head = hd.toNat ∧ (∀ a, a ≠ head.addr → t.reg a = s.reg a) ∧
        ((sig s).pending = false → sig t = sig s ∧ t.outbox = s.outbox) ∧
        ((sig s).pending = true → (sig s).heldOff = false → sig t = { sig s with headWritten := true } ∧ t.outbox = s.outbox) ∧
        ((sig s).pending = true → (sig s).heldOff = true → rearmed t)) ∧
    (∀ (hd : BitVec 16) (e : Nat × List Byte), s.ownsSet req n = true → n < 5 → s.evHeld = [e] → e.1 = n → s.setInReset n = false →
      Sparse.get (fun _ => 0) s.evLost n = 0 → s.ringFor n ((e.2.getD 1 0).toNat / 64) = some i →
      (s.wr head hd.toNat).ringFull n i = false → e.2.length = 59 →
      ∃ t, exec (.evqHeadWrite req f r hd) s = .next t ∧ t.evHeld = [] ∧ t.rd tail = (s.rd tail + 1) % 2 ^ tail.w ∧
        t.mem = s.mem ∧ t.stns = s.stns ∧
        (t.hostRead (s.rd (Reg.hifEvqBaseAddr n i) + s.rd tail % 2 ^ s.ringLog2 n i * 64) 3) = e.2.take 3 ∧
        (t.hostRead (s.rd (Reg.hifEvqBaseAddr n i) + s.rd tail % 2 ^ s.ringLog2 n i * 64 + 8) 56) = e.2.drop 3) ∧
    (∀ v : BitVec 64, s.ownsSet req n = true → s.heldOf n = 0 →
      let en := Reg.hifEvqCfgEnable n i
      let vec := Reg.hifEvqCfgVector n i
      ∃ t, exec (.evqCfgWrite req f r v) s = .next t ∧ only t ∧ (∀ a, a ≠ en.addr → t.reg a = s.reg a) ∧
        (vec.extract v < s.vectors n → t.rd en = en.extract v ∧ t.rd vec = vec.extract v) ∧
        (s.vectors n ≤ vec.extract v → t.rd en = s.rd en)) ∧
    ((sig s).pending = false → exec (.msixHoldoffExpiry f r) s = .next s) ∧
    ((sig s).pending = true → ∃ t, exec (.msixHoldoffExpiry f r) s = .next t ∧ only t ∧ t.regs = s.regs ∧
      ((sig s).headWritten = false → sig t = { sig s with heldOff := true } ∧ t.outbox = s.outbox) ∧
      ((sig s).headWritten = true → rearmed t))

/-- R507, R508, R510, R511, R525. -/
def Obligations.HostLinkAndFunctions : Prop :=
  ∀ s : State, s.canon →
    let inSet := fun (f a : Nat) => 0x501000 + f * 0x1000 ≤ a ∧ a < 0x502000 + f * 0x1000
    let discarded := fun (t : State) => OnlyRegs s t [Reg.glbResetCauseDiscard.addr] ∧
      t.rd Reg.glbResetCauseDiscard = min (s.rd Reg.glbResetCauseDiscard + 1) (2 ^ Reg.glbResetCauseDiscard.w - 1)
    (s.hostLinkDown = true → exec .hostLinkDown s = .next s) ∧
    (s.hostLinkDown = false → ∃ t, exec .hostLinkDown s = .next t ∧
      t = { s with regs := t.regs, ringSig := t.ringSig, ringSeq := t.ringSeq, hostLinkDown := true, evAwait := t.evAwait, numVfs := 0, atc := [] } ∧
      (∀ f a, f < 5 → inSet f a → t.reg a = regDefault a) ∧
      t.rd Reg.glbResetCausePerst = min (s.rd Reg.glbResetCausePerst + 1) (2 ^ Reg.glbResetCausePerst.w - 1) ∧
      ∀ a, (∀ f, f < 5 → ¬ inSet f a) → a ≠ Reg.glbResetCausePerst.addr → t.reg a = s.reg a) ∧
    (s.down = true ∨ s.flag (Reg.mgtSbStatActive 2) = true → exec .hostLinkRestored s = .next s) ∧
    (s.down = false → s.flag (Reg.mgtSbStatActive 2) = false → (∀ f, f < 5 → s.heldOf f = 0 ∨ f ∈ s.evAwait) →
      exec .hostLinkRestored s = .next { s with hostLinkDown := false }) ∧
    (s.down = false → s.rstKind ≠ 0 → ∃ t, exec .flrPf s = .next t ∧ discarded t) ∧
    (s.down = false → s.rstKind = 0 → ∃ t, exec .flrPf s = .next t ∧
      t = { s with regs := t.regs, ringSig := t.ringSig, ringSeq := t.ringSeq, evAwait := t.evAwait, atc := t.atc } ∧
      t.atc = s.atc.filter (fun e => e.1 ≠ 0) ∧
      (∀ a, inSet 4 a ∨ (∃ f, s.numVfs ≤ f ∧ f < 4 ∧ inSet f a) → t.reg a = regDefault a) ∧
      ∀ a, ¬ (inSet 4 a ∨ (∃ f, s.numVfs ≤ f ∧ f < 4 ∧ inSet f a)) → t.reg a = s.reg a) ∧
    (∀ p : BitVec 2,
      let n := p.toNat
      (s.down = true ∨ s.numVfs ≤ n → exec (.flrVf p) s = .next s) ∧
      (s.down = false → n < s.numVfs → s.underReset n = true → ∃ t, exec (.flrVf p) s = .next t ∧ discarded t) ∧
      (s.down = false → n < s.numVfs → s.underReset n = false → ∃ t, exec (.flrVf p) s = .next t ∧ t.mem = s.mem ∧ (∀ a, inSet n a → t.reg a = regDefault a) ∧
        t.atc = s.atc.filter (fun e => e.1 ≠ n + 1) ∧ (∀ q, (t.stnAt q).vregs = (s.stnAt q).vregs) ∧
        (s.parcelExists n = true → t.rd (Reg.glbTrvStatusState n) = trvIdle ∧ ∀ k ∈ s.parcelStns n, (t.stn k).active = false))) ∧
    (∀ n : BitVec 3, (s.down = true ∨ s.hostLinkDown = true ∨ 4 < n.toNat → exec (.sriovVfEnable n) s = .next s) ∧
      (s.down = false → s.hostLinkDown = false → n.toNat ≤ 4 → ∃ t, exec (.sriovVfEnable n) s = .next t ∧
        t = { s with numVfs := n.toNat, atc := t.atc } ∧ t.atc = s.atc.filter (fun e => e.1 ≤ n.toNat))) ∧
    (∀ (fn : BitVec 3) (page count : BitVec 52), s.down = false → s.hostLinkDown = false →
      ∃ t, exec (.atsInvalidateRequest fn page count) s = .next t ∧
        t = { s with atc := t.atc, outbox := s.outbox ++ [⟨.completion, [fn.toNat, 0], []⟩] } ∧
        ∀ e, e ∈ t.atc ↔ e ∈ s.atc ∧ ¬ (e.1 = fn.toNat ∧ page.toNat ≤ e.2 ∧ e.2 < page.toNat + count.toNat))

/-- R521 to R523. -/
def Obligations.ReadbackWindow : Prop :=
  ∀ (s : State) (req : Req) (fd : BitVec 4) (phys : BitVec 8) (v : BitVec 64), s.down = false → phys.toNat < 136 →
    let b := stnBase fd.toNat phys.toNat
    let mine := ∀ p, req = .vf p → s.parcelOf fd.toNat = p.toNat ∧ p.toNat < s.numVfs
    let u := s.plainWrite (Reg.stnRbSelObject b).addr v
    let obj := u.rd (Reg.stnRbSelObject b)
    let off := u.rd (Reg.stnRbSelOffset b) / 256 * 256
    let st := u.stateOf fd.toNat phys.toNat
    let closed := u.rbShut req fd.toNat obj = true
    let shown := fun (t : State) (err size : Nat) (bytes : List Byte) => t.rd (Reg.stnRbStatusValid b) = 1 ∧
      t.rd (Reg.stnRbStatusErr b) = err ∧ t.rd (Reg.stnRbStatusSize b) = size % 2 ^ (Reg.stnRbStatusSize b).w ∧
      ∀ i, i < 32 → t.rd (Reg.stnRbDataData b i) = ofLeBytes ((bytes.drop (8 * i)).take 8)
    (¬ mine → exec (.rbSelect req fd phys v) s = .next s) ∧
    (mine → ∃ t, exec (.rbSelect req fd phys v) s = .next t ∧ t = { s with regs := t.regs, freeCtr := t.freeCtr } ∧
      (∀ a, ¬ (b + 0xE00 ≤ a ∧ a < b + 0x1000) → t.reg a = s.reg a) ∧ (obj < 0x80 ∨ closed → t.freeCtr = s.freeCtr) ∧
      (closed → shown t rbDenied ((rbSize obj).getD 0) []) ∧
      (¬ closed → 0x80 ≤ obj → t.rd (Reg.stnRbStatusValid b) = 1 ∧ t.rd (Reg.stnRbStatusErr b) = 0) ∧
      (¬ closed → obj < 0x80 → rbSize obj = none → shown t rbRange 0 []) ∧
      (∀ size, ¬ closed → obj < 0x80 → rbSize obj = some size →
        (obj ≠ objLs → st = stRunning ∨ st = stWaiting → shown t rbBusy size []) ∧
        ((obj = objLs ∨ (st ≠ stRunning ∧ st ≠ stWaiting)) → size ≤ off → shown t rbRange size []) ∧
        ((obj = objLs ∨ (st ≠ stRunning ∧ st ≠ stWaiting)) → off < size →
          ((obj = objLs ∨ obj = objLsPoison) → u.clearing (u.parcelOf fd.toNat) = false) →
          shown t 0 size ((List.range (min 256 (size - off))).map (fun i => u.rbByte fd.toNat phys.toNat obj (off + i))))))

/-- R44, R496 to R503. -/
def Obligations.MeridianReferences : Prop :=
  ∀ s : State,
    (∀ v : BitVec 64,
      (s.mayStep = true → ∃ t, exec (.merSetWrite v) s = .next t ∧ t.meridian = v ∧ t.mer = { s.mer with slewLeft := 0, slewAcc := 0 } ∧
        t.rd Reg.merStepsSteps = min (s.rd Reg.merStepsSteps + 1) (2 ^ 16 - 1) ∧ t.rd Reg.merStepsDiscard = s.rd Reg.merStepsDiscard ∧
        t.rd Reg.merStatusState = s.rd Reg.merStatusState ∧ MerOnly s t [] []) ∧
      (s.mayStep = false → ∃ t, exec (.merSetWrite v) s = .next t ∧ OnlyRegs s t [Reg.merStepsDiscard.addr] ∧
        t.rd Reg.merStepsDiscard = min (s.rd Reg.merStepsDiscard + 1) (2 ^ 16 - 1) ∧ t.rd Reg.merStepsSteps = s.rd Reg.merStepsSteps)) ∧
    (∀ v : BitVec 64,
      let src := Reg.merCtlSrc.extract v
      let port := Reg.merCtlPort.extract v
      let on := Reg.merCtlRefOutEn.extract v = 1
      let clock := if s.flag Reg.merCtlRefOutEn = decide on then [] else [(⟨.sideOut, [6, if on then 1 else 0], []⟩ : OutMsg)]
      let same := s.rd Reg.merCtlSrc = src ∧
        (src = 2 → s.rd Reg.merCtlPort = port ∧ s.rd Reg.merCtlAltPort = Reg.merCtlAltPort.extract v)
      (src = 2 → isUplink port = true → exec (.merCtlWrite v) s = .next s) ∧
      ((src = 2 → isUplink port = false) → ∃ t, exec (.merCtlWrite v) s = .next t ∧ t.reg Reg.merCtlSrc.addr = v &&& 0x3FFF ∧
        (same → OnlyRegs { s with outbox := s.outbox ++ clock } t [Reg.merCtlSrc.addr]) ∧
        (¬ same → MerOnly s t uplinkPorts [Reg.merCtlSrc.addr] ∧ (∀ m ∈ clock, m ∈ t.outbox) ∧ t.meridian = s.meridian ∧ t.rd Reg.merStatusSrcActive = src ∧
          t.rd Reg.merStatusState = (if src = 0 then merFree else merAcquiring) ∧ t.rd Reg.merStatusPortActive = t.merPort.getD 0 ∧
          t.mer = { s.mer with lockCnt := 0, slewLeft := 0, slewAcc := 0, sync := none, delay := none } ∧
          ∀ k ∈ uplinkPorts, s.portUp k = true → t.rd (Reg.lnkStatusState k) = lnkUpUnsync))) ∧
    (∃ u, OnlyRegs { s with sbIn := u.sbIn } u [(Reg.mgtSbStatActive 4).addr] ∧ (∀ i, i ≠ 4 → u.sb i = s.sb i) ∧
      u.sb 4 = { raw := true, last := s.meridian.toNat + 1, passed := false } ∧
      u.rd (Reg.mgtSbStatActive 4) = 1 ∧ u.rd (Reg.mgtSbStatStuck 4) = 0 ∧
      (s.rd Reg.merCtlSrc ≠ 1 → exec .merPpsEdge s = .next u) ∧
      (s.rd Reg.merCtlSrc = 1 → ∃ t, ∃ o : Int, exec .merPpsEdge s = .next t ∧ MerOnly u t uplinkPorts [] ∧
        (10 ^ 12 : Int) ∣ (s.meridian.toNat : Int) * 250 - toSigned 32 (s.rd Reg.merRefDelayPs) + o ∧ -(10 ^ 12) ≤ 2 * o ∧ 2 * o < 10 ^ 12 ∧
        Disciplined s t o (s.rd Reg.merServoSlewPpm) true)) ∧
    (∀ (k : BitVec 4) (t1 t2 t3 t4 : BitVec 64),
      let n := k.toNat
      let o := s.stampOffset n t1 t2 t3 t4
      let st := Reg.lnkStatusState n
      let resyncs := Reg.merPortOffResyncs n
      let told := fun (t : State) => s.mayTx n 7 = true → (s.port n).txq = [] → Sparse.get (fun _ => 0) (s.port n).opened 7 = 0 →
        ∃ a, a < 4 ∧ ⟨.linkFlit, [n, a, (s.port n).txSeq, 7, 1, s.rd (Reg.lnkStatusPartner n), 0, 0, 0, 0, t1.toNat, t4.toNat], []⟩ ∈ t.outbox
      (isUplink n = true ∨ s.portUp n = false → exec (.meridianStampExchange k t1 t2 t3 t4) s = .next s) ∧
      (isUplink n = false → s.portUp n = true → ∃ t, exec (.meridianStampExchange k t1 t2 t3 t4) s = .next t ∧
        MerOnly s t (n :: uplinkPorts) [resyncs.addr] ∧ told t ∧
        toSigned 32 (t.rd (Reg.merPortOffOffsetPs n)) = max (-(2 ^ 31)) (min (2 ^ 31 - 1) o) ∧
        (s.merPort = some n → t.rd Reg.merStatusPortActive = n ∧ Disciplined s t o (s.rd Reg.merServoSlewPpm) true) ∧
        (s.merPort ≠ some n → t.meridian = s.meridian ∧ t.mer = s.mer ∧ t.reg Reg.merStatusState.addr = s.reg Reg.merStatusState.addr) ∧
        (s.rd st = lnkUpSync → o.natAbs ≤ offGuard → t.rd st = lnkUpSync ∧ (t.port n).high = 0 ∧ t.rd resyncs = s.rd resyncs) ∧
        (s.rd st = lnkUpSync → offGuard < o.natAbs → (s.port n).high < 2 →
          t.rd st = lnkUpSync ∧ (t.port n).high = (s.port n).high + 1 ∧ t.rd resyncs = s.rd resyncs) ∧
        (s.rd st = lnkUpSync → offGuard < o.natAbs → 2 ≤ (s.port n).high →
          t.rd st = lnkUpUnsync ∧ (t.port n).high = 0 ∧ (t.port n).batch = 0 ∧ t.rd resyncs = min (s.rd resyncs + 1) (2 ^ 16 - 1)) ∧
        (s.rd st = lnkUpUnsync → t.rd st = lnkUpUnsync ∧ (t.port n).high = (s.port n).high ∧ (t.port n).batch = (s.port n).batch ∧
          (t.port n).batchBad = (s.port n).batchBad ∧ t.rd resyncs = s.rd resyncs)) ∧
      (isUplink n = true ∨ s.rd st ≠ lnkUpUnsync → exec (.resyncRound k t1 t2 t3 t4) s = .next s) ∧
      (isUplink n = false → s.rd st = lnkUpUnsync → ∃ t, exec (.resyncRound k t1 t2 t3 t4) s = .next t ∧
        let bad := (s.port n).batchBad || decide (offGuard < o.natAbs)
        let full := (s.port n).batch = 15
        MerOnly s t (n :: uplinkPorts) [resyncs.addr] ∧ told t ∧ t.rd resyncs = s.rd resyncs ∧
        toSigned 32 (t.rd (Reg.merPortOffOffsetPs n)) = max (-(2 ^ 31)) (min (2 ^ 31 - 1) o) ∧
        (s.merPort = some n → Disciplined s t o (s.rd Reg.merServoResyncPpm) (decide (full ∨ (s.port n).rounds = 1))) ∧
        (s.merPort ≠ some n → t.meridian = s.meridian ∧ t.mer = s.mer) ∧
        (¬ full → t.rd st = lnkUpUnsync ∧ (t.port n).batch = (s.port n).batch + 1 ∧ (t.port n).batchBad = bad) ∧
        (full → bad = true → t.rd st = lnkUpUnsync ∧ (t.port n).batch = 0 ∧ (t.port n).batchBad = false ∧ (t.port n).rounds = 1) ∧
        (full → bad = false → t.rd st = lnkUpSync ∧ (t.port n).batch = 0 ∧ (t.port n).rounds = 0))) ∧
    (
      let held := s.rd Reg.merStatusState = merAcquiring ∨ s.rd Reg.merStatusState = merLocked
      (¬ held → exec .merReferenceLoss s = .next s) ∧
      (held → ∃ t, exec .merReferenceLoss s = .next t ∧ MerOnly s t uplinkPorts [] ∧ t.rd Reg.merStatusState = merHoldover ∧
        t.meridian = s.meridian ∧ t.mer = { s.mer with lockCnt := 0, slewLeft := 0, slewAcc := 0 } ∧
        ∀ k ∈ uplinkPorts, s.portUp k = true → t.rd (Reg.lnkStatusState k) = lnkUpUnsync)) ∧
    (s.rd Reg.merStatusState ≠ merHoldover → exec .merReferenceReturn s = .next s) ∧
    (s.rd Reg.merStatusState = merHoldover → ∃ t, exec .merReferenceReturn s = .next t ∧
      OnlyRegs { s with mer := { s.mer with lockCnt := 0 }, outbox := t.outbox } t [Reg.merStatusState.addr] ∧
      (∀ plane, s.rd Reg.merCtlSrc = 3 → s.ptpPlane = some plane → t.outbox = s.outbox ++ [0, 9].map (fun m =>
        ⟨.frame, [plane, 0x88F7, 7, s.rd (Reg.lnkUplinkCfgVid (plane / 2)), s.rd Reg.merPtpMacMac, s.rd Reg.merPtpCfgDomain, 12, m,
          s.rd Reg.merPtpCfgLogSync], []⟩)) ∧ (s.rd Reg.merCtlSrc ≠ 3 → t.outbox = s.outbox) ∧ t.rd Reg.merStatusState = merAcquiring) ∧
    (∀ (mac : BitVec 48) (domain : BitVec 8) (seq : BitVec 16),
      let ours := s.rd Reg.merCtlSrc = 3 ∧ mac.toNat = s.rd Reg.merPtpMacMac ∧ domain.toNat = s.rd Reg.merPtpCfgDomain ∧
        s.ptpPlane.isSome = true
      (¬ ours → exec (.ptpSync mac domain seq) s = .next s) ∧
      (ours → exec (.ptpSync mac domain seq) s = .next { s with mer := { s.mer with sync := some (seq.toNat, s.meridian) } })) ∧
    (∀ (seq : BitVec 16) (sec : BitVec 48) (ns : BitVec 32),
      let at_ := BitVec.ofNat 64 (sec.toNat * (4 * 10 ^ 9) + ns.toNat * 4 + s.rd Reg.merEpochOffTicks)
      (∀ t2 plane, s.mer.sync = some (seq.toNat, t2) → s.ptpPlane = some plane → ∃ t, exec (.ptpFollowUp seq sec ns) s = .next t ∧
        t = { s with mer := { s.mer with sync := none, delay := some (seq.toNat, at_, t2, s.meridian) }, outbox := t.outbox } ∧
        t.outbox = s.outbox ++ [⟨.frame, [plane, 0x88F7, 7, s.rd (Reg.lnkUplinkCfgVid (plane / 2)), s.rd Reg.merPtpMacMac,
          s.rd Reg.merPtpCfgDomain, 1, seq.toNat], []⟩]) ∧
      ((∀ t2, s.mer.sync ≠ some (seq.toNat, t2)) ∨ s.ptpPlane = none → exec (.ptpFollowUp seq sec ns) s = .next s) ∧
      (∀ t1 t2 t3, s.mer.delay = some (seq.toNat, t1, t2, t3) → ∃ t, exec (.ptpDelayResp seq sec ns) s = .next t ∧
        MerOnly s t uplinkPorts [] ∧ t.mer.delay = none ∧
        Disciplined s t (-(((t2 - t1).toInt - (at_ - t3).toInt) * 250 / 2)) (s.rd Reg.merServoSlewPpm) true) ∧
      ((∀ x, s.mer.delay ≠ some (seq.toNat, x)) → exec (.ptpDelayResp seq sec ns) s = .next s)) ∧
    ∀ (fd : BitVec 4) (phys : BitVec 8) (handshakes : BitVec 16) (whole : Bool),
      let key := stnKey fd.toNat phys.toNat
      let b := stnBase fd.toNat phys.toNat
      (136 ≤ phys.toNat → exec (.paceWindowEnd fd phys handshakes whole) s = .next s) ∧
      (phys.toNat < 136 → ∃ t, exec (.paceWindowEnd fd phys handshakes whole) s = .next t ∧
        t = { s with regs := t.regs, stns := t.stns } ∧ (∀ q, q ≠ key → t.stnAt q = s.stnAt q) ∧
        (∀ a, a ≠ (Reg.stnPacePace b).addr → t.reg a = s.reg a) ∧
        let h := (t.stnAt key).paceHist
        let mean := (h.map (· / 2)).sum / 16
        t.stnAt key = { s.stnAt key with paceHist := h } ∧
        h = ((handshakes.toNat * 2 + whole.toNat) :: (s.stnAt key).paceHist).take 16 ∧ t.rd (Reg.stnPacePace b) = min mean 0xFFFF ∧
        t.rd (Reg.stnPacePaceMin b) = (if h.length = 16 ∧ ∀ x ∈ h, x % 2 = 1 then min mean (s.rd (Reg.stnPacePaceMin b))
          else s.rd (Reg.stnPacePaceMin b)))

/-- R328 to R340, R364, R365, R503, R517. That a HELLO takes a SEQ but in a retrain is the model's reading (log 117), as are that a
flit ahead of its turn within one deal waits (log 221) and how much LNK_FEC.CORR rises (log 202). -/
def Obligations.TorusPorts : Prop :=
  ∀ (s : State) (k : BitVec 4),
    let n := k.toNat
    let st := Reg.lnkStatusState n
    let lanesF := Reg.lnkStatusLanes n
    let retiredF := Reg.lnkStatusRetired n
    let ctrl := fun (t : State) (rest : List Nat) => ∃ l, l < 4 ∧ t.outbox = s.outbox ++ [⟨.linkFlit, [n, l] ++ rest, []⟩]
    let rxf := Reg.lnkRxFlitsCount n
    let txf := Reg.lnkTxFlitsCount n
    let q0 := (s.port n).txSeq
    let helloWords := [s.ownModule, n, 1] ++ (List.range 8).map (fun v => rxSize v - (s.port n).rxHeld v) ++ [s.meridian.toNat]
    let own := [q0, 7, 1, 0, 0, 0, 0, 0] ++ helloWords
    let kept := (s.port n).unacked ++ [(q0, { TxFlit.msg 7 1 0 0 0 helloWords [] with left := true })]
    let once := fun (t : State) (f : Fld) => t.rd f = min (s.rd f + 1) (2 ^ 64 - 1)
    (∀ lanes : BitVec 4,
      let able := isUplink n = false ∧ s.rd st = lnkTrain ∧ s.flag Reg.glbModuleNumValid = true ∧ s.flag (Reg.lnkCfgEnable n) = true ∧
        (s.port n).retrain = false
      let trained := fun i => lanes.getLsbD i && bitOf (s.rd (Reg.lnkCfgLaneMask n)) i && !bitOf (s.rd retiredF) i
      (¬ able → exec (.linkTrainingComplete k lanes) s = .next s) ∧
      (able → ∃ t, exec (.linkTrainingComplete k lanes) s = .next t ∧ PortOnly s t n [st.addr, txf.addr] ∧ t.rd retiredF = s.rd retiredF ∧
        ((∀ i, i < 4 → trained i = false) → t.rd st = lnkDown ∧ t.rd lanesF = s.rd lanesF ∧ t.port n = { s.port n with noLane := true }) ∧
        ((∃ i, i < 4 ∧ trained i = true) → t.rd st = lnkHello ∧ (∀ i, i < 4 → bitOf (t.rd lanesF) i = trained i) ∧
          t.port n = { s.port n with rounds := 0, lane := (t.port n).lane, txSeq := (q0 + 1) % 2 ^ 16, unacked := kept } ∧
          once t txf ∧ ctrl t own))) ∧
    (let ready := (s.port n).noLane = true ∧ s.flag (Reg.lnkCfgEnable n) = true;
      (¬ ready → exec (.portNoLaneRetry k) s = .next s) ∧
      (ready → ∃ t, exec (.portNoLaneRetry k) s = .next t ∧ PortOnly s t n [st.addr] ∧ t.rd st = lnkTrain ∧
        t.rd lanesF = 0 ∧ t.port n = { s.port n with rounds := 0, noLane := false, l1 := false, retrain := false, early := [] })) ∧
    (∀ (module : BitVec 18) (port : BitVec 4) (version : BitVec 8) (credits : BitVec 128) (t1 t2 t3 t4 : BitVec 64),
      let hello := Instr.hello k module port version credits t1 t2 t3 t4
      let wait := isUplink n = false ∧ s.rd st = lnkHello
      let right := version = 1 ∧ port.toNat = n ^^^ 1 ∧ module.toNat = s.neighbour n
      let o := s.stampOffset n t1 t2 t3 t4
      let resyncs := Reg.merPortOffResyncs n
      (¬ wait → exec hello s = .next s) ∧
      (wait → ∃ t, exec hello s = .next t ∧ t.rd (Reg.lnkStatusPartner n) = module.toNat ∧
        t.rd (Reg.lnkStatusPartnerPort n) = port.toNat ∧ t.mem = s.mem ∧ t.stns = s.stns ∧
        (right ∨ (s.port n).retrain = false → s.OwnTraffic [n] → ∀ j, j ≠ n → t.port j = s.port j) ∧
        (¬ right → t.rd st = lnkMiswired ∧ (t.port n).retrain = false) ∧
        (¬ right → (s.port n).retrain = false → PortOnly s t n [st.addr, rxf.addr] ∧ once t rxf ∧
          t.port n = { s.port n with rxSeq := ((s.port n).rxSeq + 1) % 2 ^ 16 }) ∧
        (¬ right → (s.port n).retrain = true → (t.port n).unacked = [] ∧ (t.port n).txq = []) ∧
        (right → toSigned 32 (t.rd (Reg.merPortOffOffsetPs n)) = max (-(2 ^ 31)) (min (2 ^ 31 - 1) o)) ∧
        (right → (s.port n).rounds < 2 → PortOnly s t n [st.addr, resyncs.addr, (creditFld n 0).addr, (creditFld n 4).addr, rxf.addr, txf.addr] ∧
          t.rd st = lnkHello ∧
          ((s.port n).retrain = true → t.port n = { s.port n with rounds := (s.port n).rounds + 1, lane := (t.port n).lane } ∧
            t.rd rxf = s.rd rxf ∧ t.rd txf = s.rd txf) ∧
          ((s.port n).retrain = false → once t rxf ∧ once t txf ∧
            t.port n = { s.port n with rounds := (s.port n).rounds + 1, lane := (t.port n).lane,
                                       rxSeq := ((s.port n).rxSeq + 1) % 2 ^ 16, txSeq := (q0 + 1) % 2 ^ 16, unacked := kept }) ∧
          ctrl t own ∧ t.rd resyncs = s.rd resyncs ∧
          ∀ v, v < 8 → t.rd (creditFld n v) = (credits.extractLsb' (16 * v) 16).toNat) ∧
        (right → 2 ≤ (s.port n).rounds → (s.port n).txq = [] → s.fab.unrouted = [] → (∀ r ∈ s.readyHeld, r.1 ≠ n) →
          ∀ v, v < 8 → t.rd (creditFld n v) = (credits.extractLsb' (16 * v) 16).toNat) ∧
        (right → 2 ≤ (s.port n).rounds → (t.port n).rounds = 0 ∧ (t.port n).retrain = false ∧ (t.port n).batch = 0 ∧
          (o.natAbs ≤ offGuard → t.rd st = lnkUpSync ∧ t.rd resyncs = s.rd resyncs) ∧
          (offGuard < o.natAbs → t.rd st = lnkUpUnsync ∧ t.rd resyncs = min (s.rd resyncs + 1) (2 ^ 16 - 1))))) ∧
    (∀ en : Bool, ∃ t, exec (.portEnable k en) s = .next t ∧ (t.rd (Reg.lnkCfgEnable n) = en.toNat) ∧ t.mem = s.mem ∧ t.stns = s.stns ∧
      (s.flag (Reg.lnkCfgEnable n) = en → PortOnly s t n [] ∧ t.port n = s.port n) ∧
      (s.flag (Reg.lnkCfgEnable n) = false → en = true → PortOnly s t n [(Reg.lnkCfgEnable n).addr, st.addr] ∧ t.rd st = lnkTrain ∧
        t.rd lanesF = 0 ∧ t.port n = { s.port n with rounds := 0, noLane := false, l1 := false, retrain := false, early := [] }) ∧
      (s.flag (Reg.lnkCfgEnable n) = true → en = false → t.rd st = lnkDisabled ∧ t.rd lanesF = 0 ∧ (t.port n).noLane = false)) ∧
    (∀ f : List Byte,
      let dead := isUplink n = true ∨ s.portUp n = false ∨ (s.port n).l1 = true
      let kind := field f 2 1 / 8
      let ahead := (field f 0 2 + 65536 - (s.port n).rxSeq) % 65536
      let inDeal := ahead < (maskBits (s.rd lanesF) 4).length ∧ (s.port n).nakSent = false ∧ ∀ x ∈ (s.port n).early, x.1 ≠ field f 0 2
      let bad := flitOk f = false ∨ (kind ≠ 0 ∧ ahead ≠ 0 ∧ ¬ inDeal)
      let counted := fun (t : State) => t.rd (Reg.lnkRxFlitsCount n) = min (s.rd (Reg.lnkRxFlitsCount n) + 1) (2 ^ 64 - 1) ∧
        (t.port n).rxSeq = ((s.port n).rxSeq + 1) % 2 ^ 16 ∧ (t.port n).nakSent = false
      let alone := s.colls = [] ∧ (s.port n).early = [] ∧ (s.port n).txq = []
      let ack := field f 4 2
      let c := creditFld n (field f 6 2 % 8)
      (dead → exec (.flitReceive k f) s = .next s) ∧
      (¬ dead → ∃ t, exec (.flitReceive k f) s = .next t ∧
        (bad → PortOnly s t n [(Reg.lnkReplayCrcErr n).addr] ∧ t.rd (Reg.lnkReplayCrcErr n) = min (s.rd (Reg.lnkReplayCrcErr n) + 1 + (s.port n).early.length) (2 ^ 16 - 1) ∧
          t.port n = { s.port n with nakSent := true, early := [], lane := (t.port n).lane } ∧
          ((s.port n).nakSent = true → t.outbox = s.outbox) ∧
          ((s.port n).nakSent = false → ctrl t [(s.port n).txSeq, 7, 1, (s.port n).rxSeq])) ∧
        (¬ bad → kind ≠ 0 → ahead ≠ 0 → t = { s with ports := t.ports } ∧
          t.port n = { s.port n with early := (s.port n).early ++ [(field f 0 2, f)] } ∧ ∀ j, j ≠ n → t.port j = s.port j) ∧
        (¬ bad → kind = 0 → s.colls = [] → (s.port n).txq = [] → PortOnly s t n [c.addr] ∧ t.rd c = min 65535 (s.rd c + field f 6 2 / 8) ∧
          ((∀ x ∈ (s.port n).unacked, x.1 ≠ ack) → t.port n = s.port n) ∧
          (∀ pre x post, (s.port n).unacked = pre ++ x :: post → (∀ y ∈ pre, y.1 ≠ ack) → x.1 = ack →
            t.port n = { s.port n with unacked := post, tries := 0 })) ∧
        (¬ bad → kind ≠ 0 → kind ≠ 3 → ahead = 0 → alone → s.forwards f = false → t.mem = s.mem ∧ t.stns = s.stns ∧ counted t ∧
          ∃ l, l < 4 ∧ t.outbox.getLast? = some ⟨.linkFlit,
            [n, l, (t.port n).txSeq, 7, 0, (s.port n).rxSeq % 2 ^ 16, field f 2 1 % 8, 1], []⟩) ∧
        (¬ bad → kind ≠ 0 → ahead = 0 → alone → s.forwards f = true → t.mem = s.mem ∧ t.stns = s.stns ∧ ∃ u, t = u.routeFlits [s.onward n f] ∧ counted u ∧
          PortOnly s u n [c.addr, (Reg.lnkRxFlitsCount n).addr] ∧
          (u.port n).rxHeld (field f 2 1 % 8) = (s.port n).rxHeld (field f 2 1 % 8) + 1))) ∧
    (∀ v d, s.nextVc n = some (v, d) → s.vcReady n v = true ∧ (s.vcReady n 0 = true → v = 0) ∧
      (s.vcReady n 0 = false → s.vcReady n 7 = true → v = 7)) ∧
    (∀ seq ack credit : BitVec 16,
      let q := seq.toNat
      let u := s.applyAck n ack.toNat credit.toNat
      (isUplink n = true ∨ s.portUp n = false → exec (.nakReceive k seq ack credit) s = .next s) ∧
      (isUplink n = false → s.portUp n = true → (∀ x ∈ (u.port n).unacked, x.1 ≠ q) → exec (.nakReceive k seq ack credit) s = .next u) ∧
      (isUplink n = false → s.portUp n = true → u.colls = [] → ∀ pre x post, (u.port n).unacked = pre ++ x :: post →
        (∀ y ∈ pre, y.1 ≠ q) → x.1 = q → ∃ t, exec (.nakReceive k seq ack credit) s = .next t ∧
          Replayed u t n q (if pre = [] then (u.port n).tries else 0) (x :: post) [])) ∧
    (isUplink n = true ∨ s.portUp n = false ∨ (s.port n).unacked = [] → exec (.replayTimeout k) s = .next s) ∧
    (isUplink n = false → s.portUp n = true → ∀ x post, (s.port n).unacked = x :: post →
      ∃ t, exec (.replayTimeout k) s = .next t ∧ Replayed s t n x.1 (s.port n).tries (x :: post) []) ∧
    (∀ ok : Bool,
      ((s.port n).retrain = false ∨ s.flag Reg.glbModuleNumValid = false → exec (.portRetrainEnd k ok) s = .next s) ∧
      ((s.port n).retrain = true → s.flag Reg.glbModuleNumValid = true → ∃ t, exec (.portRetrainEnd k ok) s = .next t ∧ t.mem = s.mem ∧ t.stns = s.stns ∧
        (ok = true → PortOnly s t n [st.addr] ∧ t.rd st = lnkHello ∧
          t.port n = { s.port n with rounds := 0, lane := (t.port n).lane } ∧ ctrl t own) ∧
        (ok = false → t.rd st = lnkDown ∧ t.rd lanesF = 0 ∧ (t.port n).retrain = false ∧ (t.port n).unacked = []))) ∧
    (∀ (lane : BitVec 2) (uncorr : BitVec 32) (lockLost : Bool),
      let l := lane.toNat
      let fec := Reg.lnkFecUncorr n
      let u := s.free.2
      let fails := lockLost = true ∨ s.rd (Reg.lnkCfgUncorrMax n) < uncorr.toNat
      let out := bitOf (s.rd retiredF) l
      let left := ∃ i, i < 4 ∧ i ≠ l ∧ bitOf (s.rd lanesF) i = true
      let live := s.portUp n = true ∨ (s.port n).retrain = true ∨ s.rd st = lnkHello
      ∃ t, exec (.laneRetire k lane uncorr lockLost) s = .next t ∧ t.rd fec = min (s.rd fec + uncorr.toNat) (2 ^ 32 - 1) ∧
        t.rd (Reg.lnkFecCorr n) = min (s.rd (Reg.lnkFecCorr n) + s.free.1 % 2 ^ 32) (2 ^ 32 - 1) ∧
        t.mem = s.mem ∧ t.stns = s.stns ∧
        ((¬ fails ∨ (isUplink n = true ∧ s.portUp n = false) ∨ (isUplink n = false ∧ out = true)) → OnlyRegs u t [fec.addr]) ∧
        (fails → isUplink n = true → s.portUp n = true → t.rd st = lnkDown ∧ t.rd lanesF = 0) ∧
        (fails → isUplink n = false → out = false →
          (∀ i, i < 4 → bitOf (t.rd retiredF) i = (decide (i = l) || bitOf (s.rd retiredF) i)) ∧
          (left ∨ ¬ live → ∀ i, i < 4 → bitOf (t.rd lanesF) i = (decide (i ≠ l) && bitOf (s.rd lanesF) i)) ∧
          (s.portUp n = false → left ∨ ¬ live → PortOnly u t n [fec.addr, st.addr] ∧ t.rd st = s.rd st ∧ t.port n = s.port n) ∧
          (s.portUp n = true → left → ((s.port n).unacked = [] → PortOnly u t n [fec.addr, st.addr] ∧ t.rd st = s.rd st ∧ t.port n = s.port n) ∧
            (∀ x post, (s.port n).unacked = x :: post → Replayed u t n x.1 (s.port n).tries (x :: post) [fec.addr])) ∧
          (live → ¬ left → t.rd st = lnkDown ∧ t.rd lanesF = 0 ∧ (t.port n).unacked = []))) ∧
    (∀ mask : BitVec 4,
      (isUplink n = true → exec (.laneRejoinRequest k mask) s = .next s) ∧
      (isUplink n = false → ∃ t, exec (.laneRejoinRequest k mask) s = .next t ∧ OnlyRegs s t [(Reg.lnkCfgRejoin n).addr] ∧
        t.rd (Reg.lnkCfgEnable n) = s.rd (Reg.lnkCfgEnable n) ∧ ∀ i, i < 4 → bitOf (t.rd (Reg.lnkCfgRejoin n)) i =
          (bitOf (s.rd (Reg.lnkCfgRejoin n)) i || (mask.getLsbD i && bitOf (s.rd retiredF) i)))) ∧
    (∀ (lane : BitVec 2) (ok : Bool),
      let l := lane.toNat
      let rejoin := Reg.lnkCfgRejoin n
      (bitOf (s.rd rejoin) l = false → exec (.laneRejoinTestEnd k lane ok) s = .next s) ∧
      (bitOf (s.rd rejoin) l = true → ∃ t, exec (.laneRejoinTestEnd k lane ok) s = .next t ∧ t.rd st = s.rd st ∧
        (ok = false ∨ s.portUp n = false → PortOnly s t n [rejoin.addr, st.addr] ∧ t.port n = s.port n) ∧
        (ok = true → s.portUp n = true → MerOnly s t [n] [rejoin.addr] ∧ t.meridian = s.meridian ∧ t.mer = s.mer ∧
          (s.mayTx n 7 = true → (s.port n).txq = [] → Sparse.get (fun _ => 0) (s.port n).opened 7 = 0 → once t txf ∧ (t.port n).txq = [] ∧
            ∃ a, a < 4 ∧ ⟨.linkFlit, [n, a, q0, 7, 1, s.rd (Reg.lnkStatusPartner n), 0, 0, 0, 0, l], []⟩ ∈ t.outbox)) ∧
        (∀ i, i < 4 → bitOf (t.rd rejoin) i = (decide (i ≠ l) && bitOf (s.rd rejoin) i)) ∧
        (∀ i, i < 4 → bitOf (t.rd retiredF) i = (bitOf (s.rd retiredF) i && !(ok && decide (i = l)))) ∧
        (∀ i, i < 4 → bitOf (t.rd lanesF) i = (bitOf (s.rd lanesF) i || (ok && decide (s.rd lanesF ≠ 0) && decide (i = l)))))) ∧
    (let idle := isUplink n = false ∧ s.portUp n = true ∧ s.rd Reg.glbLpCtlL1IdleUs ≠ 0 ∧ (s.port n).txq = [] ∧ (s.port n).unacked = [];
      (¬ idle → exec (.linkL1Entry k) s = .next s) ∧
      (idle → ∃ t, exec (.linkL1Entry k) s = .next t ∧ OnlyRegs { s with ports := t.ports } t [] ∧
        t.port n = { s.port n with l1 := true } ∧ ∀ j, j ≠ n → t.port j = s.port j)) ∧
    ((s.port n).l1 = false → exec (.linkL1Wake k) s = .next s) ∧
    ((s.port n).l1 = true → ∃ t, exec (.linkL1Wake k) s = .next t ∧ PortOnly s t n [st.addr] ∧ t.rd st = lnkTrain ∧
      t.port n = { s.port n with l1 := false, retrain := true })

/-- R329, R343 to R348, R364. -/
def Obligations.Uplinks : Prop :=
  ∀ (s : State) (plane : BitVec 2),
    let p := plane.toNat
    let k := uplinkPort p
    let st := Reg.lnkStatusState k
    (let able := s.portUp k = false ∧ s.flag (Reg.lnkCfgEnable k) = true ∧ s.flag Reg.glbModuleNumValid = true;
      (¬ able → exec (.uplinkUp plane) s = .next s) ∧
      (able → ∃ t, exec (.uplinkUp plane) s = .next t ∧ MerOnly s t uplinkPorts [] ∧
        (s.OwnTraffic uplinkPorts → ∀ j ∈ uplinkPorts, j ≠ k → t.reg (Reg.lnkStatusState j).addr = s.reg (Reg.lnkStatusState j).addr) ∧ t.meridian = s.meridian ∧ t.mer = s.mer ∧
        t.reg Reg.merStatusState.addr = s.reg Reg.merStatusState.addr ∧ t.rd (Reg.lnkStatusLanes k) = 15 ∧
        t.rd st = (if s.rd Reg.merStatusState = merLocked then lnkUpSync else lnkUpUnsync) ∧
        (∀ c ∈ t.ctxs, c.plane < 4 → c.unacked ≠ [] ∨ c.wait ≠ [] → t.portUp (uplinkPort c.plane) = true))) ∧
    (s.portUp k = false → exec (.uplinkDown plane) s = .next s) ∧
    (s.portUp k = true → ∃ t, exec (.uplinkDown plane) s = .next t ∧ t.rd st = lnkDown ∧ t.rd (Reg.lnkStatusLanes k) = 0 ∧
      t.mem = s.mem ∧ t.stns = s.stns ∧
      ((∃ q, q < 4 ∧ q ≠ p ∧ s.portUp (uplinkPort q) = true) → (∀ c ∈ t.ctxs, c.plane = p → c.unacked = [] ∧ c.wait = []) ∧
        ∀ x ∈ t.ctxWait, x.1 ≠ p) ∧
      ((∀ q, q < 4 → q ≠ p → s.portUp (uplinkPort q) = false) → t.ctxs = s.ctxs ∧ t.ctxWait = s.ctxWait)) ∧
    (∀ f : List Byte,
      let src := (beField f 6 6 - s.macOf 0 p) / 4
      let vc := beField f 14 2 / 2 ^ 13
      let seq := field f 20 4
      let c := (s.ctx p src vc).getD (Ctx.fresh p src vc)
      let room := (s.ctx p src vc).isSome = true ∨ s.ctxCount (p / 2) < 2048
      let good := s.portUp k = true ∧ s.frameOk p f = true
      (s.portUp k = false → exec (.uplinkFrameReceive plane f) s = .next s) ∧
      (s.portUp k = true → s.frameOk p f = false → ∃ t, exec (.uplinkFrameReceive plane f) s = .next t ∧
        OnlyRegs s t [(Reg.lnkRxDiscardFilter (p / 2)).addr] ∧
        t.rd (Reg.lnkRxDiscardFilter (p / 2)) = min (s.rd (Reg.lnkRxDiscardFilter (p / 2)) + 1) (2 ^ 32 - 1)) ∧
      (good → ¬ room → exec (.uplinkFrameReceive plane f) s = .next s) ∧
      (good → room → s.colls = [] → seq ≠ c.rxSeq → ∃ t, exec (.uplinkFrameReceive plane f) s = .next t ∧
        t = { s with regs := t.regs, ports := t.ports, ctxs := t.ctxs, outbox := t.outbox, freeCtr := t.freeCtr } ∧
        (∀ j, j ≠ k → t.port j = s.port j) ∧
        t.freeCtr = (if c.nakSent then s.freeCtr + 1 else s.freeCtr) ∧
        (∀ a, a ≠ (Reg.lnkTxFlitsCount k).addr → a ∉ [(Reg.lnkE2eStatContexts 0).addr, (Reg.lnkE2eStatContexts 1).addr] → t.reg a = s.reg a) ∧
        (∃ c', t.ctx p src vc = some c' ∧ c'.rxSeq = c.rxSeq ∧ c'.nakSent = true ∧
          (s.planeSends p vc = false → c.nakSent = false → c'.reply = some true)) ∧
        (c.nakSent = false → s.planeSends p vc = true → t.outbox.getLast? = some ⟨.frame, [p, src, vc, c.rxSeq, 0, 1], []⟩)) ∧
      (good → room → s.colls = [] → seq = c.rxSeq → (∀ x ∈ chunks 256 (field f 19 1) (f.drop 32), flitOk x = true → field x 2 1 / 8 ≠ 3) →
        ∃ t, exec (.uplinkFrameReceive plane f) s = .next t ∧ t.mem = s.mem ∧ t.stns = s.stns ∧
        (∃ c', t.ctx p src vc = some c' ∧ c'.rxSeq = (c.rxSeq + 1) % 2 ^ 32 ∧ c'.nakSent = false ∧
          (s.planeSends p vc = false → c'.reply.isSome = true)) ∧
        t.rd (Reg.lnkRxFlitsCount k) = min (s.rd (Reg.lnkRxFlitsCount k) +
          ((chunks 256 (field f 19 1) (f.drop 32)).filter flitOk).length) (2 ^ 64 - 1) ∧
        t.rd (Reg.lnkReplayCrcErr k) = min (s.rd (Reg.lnkReplayCrcErr k) +
          ((chunks 256 (field f 19 1) (f.drop 32)).filter (fun x => !flitOk x)).length) (2 ^ 16 - 1) ∧
        (s.planeSends p vc = true → t.outbox.getLast? = some ⟨.frame, [p, src, vc, 0, 0, 0, seq], []⟩))) ∧
    (∀ (peer : BitVec 18) (vc : BitVec 3) (seq : BitVec 32),
      let pr := peer.toNat
      let v := vc.toNat
      let none_ := s.ctx p pr v = none
      let again := fun (out : Out) (tries : Nat) (fs : List (Nat × List TxFlit)) => ∃ t, out = .next t ∧
        (s.colls = [] ∨ s.NoneWaits → t.mem = s.mem ∧ (∀ q r w, (q, r, w) ≠ (p, pr, v) → t.ctx q r w = s.ctx q r w) ∧
          ∃ c', t.ctx p pr v = some c' ∧ c'.unacked = fs ∧ c'.tries = (if tries < 20 then tries + 1 else if tries = 20 then 21 else tries) ∧
            (tries < 20 → c'.owed = if s.planeSends p v then none else fs.head?.map (·.1))) ∧
        (tries < 20 → s.colls = [] → t = { s with ctxs := t.ctxs, outbox := t.outbox }) ∧
        (tries = 20 → s.colls = [] → RegsAndEvents { s with ctxs := t.ctxs } t []) ∧
        (20 < tries → s.colls = [] → t = { s with ctxs := t.ctxs }) ∧
        (tries < 20 → s.colls = [] → s.planeSends p v = false → t.outbox = s.outbox) ∧
        (tries < 20 → s.colls = [] → s.planeSends p v = true → ∃ ms, t.outbox = s.outbox ++ ms ∧
          ms.map (fun m => (m.kind, m.args.take 5, m.data)) = fs.map (fun x => (.frame, [p, pr, v, x.1, x.2.length], x.2.flatMap (·.data)))) ∧
        (tries = 20 → s.NoneWaits → ∀ a b r, s.collRun a b = some r → (s.plan a b).Unfinished r (s.plan a b).steps.length →
            (((s.plan a b).steps.zipIdx).any (fun x => decide (x.1.peer = pr ∧ x.1.action ≠ 4) && !r.steps.contains x.2) = true) →
            ∃ r', t.collRun a b = some r' ∧ r'.held = true)
      (none_ → exec (.e2eNakReceive plane peer vc seq) s = .next s ∧ exec (.e2eRtoExpiry plane peer vc) s = .next s ∧
        exec (.e2eContextClose plane peer vc) s = .next s) ∧
      (∀ c, s.ctx p pr v = some c →
        ((∀ x ∈ c.unacked, x.1 ≠ seq.toNat) → exec (.e2eNakReceive plane peer vc seq) s = .next s) ∧
        (∀ pre x post, c.unacked = pre ++ x :: post → (∀ y ∈ pre, y.1 ≠ seq.toNat) → x.1 = seq.toNat →
          again (exec (.e2eNakReceive plane peer vc seq) s) (if pre = [] then c.tries else 0) (x :: post)) ∧
        (c.unacked = [] → exec (.e2eRtoExpiry plane peer vc) s = .next s) ∧
        (c.unacked ≠ [] → again (exec (.e2eRtoExpiry plane peer vc) s) c.tries c.unacked) ∧
        (c.unacked ≠ [] ∨ c.wait ≠ [] → exec (.e2eContextClose plane peer vc) s = .next s) ∧
        (c.unacked = [] → c.wait = [] → ∃ t, exec (.e2eContextClose plane peer vc) s = .next t ∧ t.mem = s.mem ∧ t.stns = s.stns ∧
          (s.ctxWait = [] → OnlyRegs { s with ctxs := s.ctxs.filter (· ≠ c) } t [(Reg.lnkE2eStatContexts 0).addr, (Reg.lnkE2eStatContexts 1).addr] ∧
            ∀ d, d < 2 → t.rd (Reg.lnkE2eStatContexts d) = t.ctxCount d % 2 ^ 12)))) ∧
    (∀ (enable : BitVec 8) (quanta : BitVec 128) (vc : BitVec 3),
      let only := fun (t : State) => t = { s with regs := t.regs, ports := t.ports, ctxs := t.ctxs, outbox := t.outbox } ∧
        (∀ j, j ≠ k → t.port j = s.port j) ∧
        t.port k = { s.port k with paused := (t.port k).paused, deficit := (t.port k).deficit, turn := (t.port k).turn, turns := (t.port k).turns } ∧
        ∀ a, a ≠ (Reg.lnkTxFlitsCount k).addr → t.reg a = s.reg a
      (∃ t, exec (.pfcFrameReceive plane enable quanta) s = .next t ∧ only t ∧ ∀ v, v < 8 → (t.port k).paused.getLsbD v =
        if enable.getLsbD v then decide (quanta.extractLsb' (16 * v) 16 ≠ 0) else (s.port k).paused.getLsbD v) ∧
      (∃ t, exec (.pfcPauseExpiry plane vc) s = .next t ∧ only t ∧
        ∀ v, v < 8 → (t.port k).paused.getLsbD v = ((s.port k).paused.getLsbD v && decide (v ≠ vc.toNat)))) ∧
    ∃ t, exec (.pauseFrameReceive plane) s = .next t ∧ OnlyRegs s t [(Reg.lnkRxDiscardPause (p / 2)).addr] ∧
      t.rd (Reg.lnkRxDiscardPause (p / 2)) = min (s.rd (Reg.lnkRxDiscardPause (p / 2)) + 1) (2 ^ 32 - 1) ∧
      t.rd (Reg.lnkRxDiscardFilter (p / 2)) = s.rd (Reg.lnkRxDiscardFilter (p / 2))

/-- R21 to R24, R295, R296, R299, R307 to R317. -/
def Obligations.MemoryRequestsAndDirectory : Prop :=
  (∀ a b off n, a < 16 → b < 16 → (n ∈ meshPath a b off ↔ n < 16 ∧
    ((n / 4 = a / 4 ∧ min (a % 4) (b % 4) ≤ n % 4 ∧ n % 4 ≤ max (a % 4) (b % 4)) ∨
     (n % 4 = b % 4 ∧ min (a / 4) (b / 4) ≤ n / 4 ∧ n / 4 ≤ max (a / 4) (b / 4))))) ∧
  (∀ a off, a < 16 →
    (meshPath a 16 off).getLast? = some (a / 4 * 4) ∧ (meshPath a 17 off).getLast? = some (a / 4 * 4 + 3) ∧
    (meshPath a 18 off).getLast? = some (a % 4) ∧ (meshPath a 19 off).getLast? = some (12 + a % 4) ∧
    (∀ e, 16 ≤ e → e < 20 → (meshPath e a off).head? = (meshPath a e off).getLast? ∧ ∀ n, n ∈ meshPath e a off ↔ n ∈ meshPath a e off)) ∧
  (∀ off, let l := off / 2 ^ 12 % 4
    meshPath 18 19 off = [l, 4 + l, 8 + l, 12 + l] ∧ meshPath 16 17 off = [4 * l, 4 * l + 1, 4 * l + 2, 4 * l + 3] ∧
    meshPath 16 18 off = [0] ∧ meshPath 17 18 off = [3] ∧ meshPath 16 19 off = [12] ∧ meshPath 17 19 off = [15]) ∧
  (∀ line i, i < 4 → bitOf (lineSlice line) i =
    (let a := line * 128 % 2 ^ 41;
      (bitOf a (7 + i) ^^ bitOf a (11 + i) ^^ bitOf a (15 + i) ^^ bitOf a (19 + i) ^^ bitOf (line * 128 / 2 ^ 41) i))) ∧
  ∀ (s : State) (addr : BitVec 64),
    let k := s.keyOf addr.toNat
    let home := k / 2 ^ 41
    let line := k / 128
    let entry := (s.dirOf home).find? (fun e => e.line = line)
    let stalled := fun (t : State) (f : Nat) => OnlyRegs s t [(Reg.memTrkStallCount f).addr] ∧
      t.rd (Reg.memTrkStallCount f) = min (s.rd (Reg.memTrkStallCount f) + 1) (2 ^ 64 - 1)
    let lineBytes := fun (s : State) (l : Nat) => (List.range 128).map (fun i => s.peek (l * 128 + i))
    (∀ a b off n, let passed := (meshPath a b off).filter (fun x => decide (x ≠ a ∧ x ≠ b))
      RoutersOnly s (s.passMesh a b off) ∧
      Sparse.get (fun _ => 0) (s.passMesh a b off).fab.forwards n = Sparse.get (fun _ => 0) s.fab.forwards n + passed.count n) ∧
    (∀ (fd : BitVec 4) (errs : List Byte),
      let f := fd.toNat
      let ok := keyRemote k = false ∧ s.fdMemory k 1 = true ∧ s.stackStopped k = false
      let room := s.trkRoom f 0xFFFF = true
      let shared := ok ∧ room ∧ home ≠ f ∧ cacheable k = true
      let live := ∃ c ∈ s.copies, c.fd = f ∧ c.line = line ∧ c.evicting = false
      let pend := s.evictPending f line = true
      let r : HomeReq := ⟨f, 0xFFFF, line * 128, false, [], false, false⟩
      let u := s.passMesh f home (k % 2 ^ 41)
      let full := entry = none ∧ 65536 ≤ (s.dirOf home).length
      let lru := (s.dirOf home).find? (fun e => !e.locked)
      let run := exec (.memReadRequest fd addr errs) s
      let granted := fun (w t : State) (others : List DirEnt) (e : DirEnt) => t.grants = w.grants ++ [⟨f, line, e.epoch, false, lineBytes w line⟩] ∧
        t.dirOf home = others ++ [{ e with sharers := e.sharers ||| (1 <<< f) }] ∧ ∀ h, h ≠ home → t.dirOf h = s.dirOf h
      let others := (s.dirOf home).filter (fun x => x.line ≠ line)
      let new : DirEnt := ⟨line, 0, 0, false, 0, none, false, []⟩
      (¬ ok → run = .next s) ∧
      (ok → ¬ room → ∃ t, run = .next t ∧ stalled t f) ∧
      (ok → room → home = f ∨ cacheable k = false → ∃ w, EccFound u w k errs ∧ run = .next (s.storeError w k)) ∧
      (shared → live → run = .next u) ∧
      (shared → ¬ live → pend → run = .next { u with readWait := s.readWait ++ [r] }) ∧
      (shared → ¬ live → ¬ pend → ∃ w, EccFound u w k errs ∧
        (∀ e, entry = some e → e.locked = false → ∃ t, run = .next t ∧ t = { w with dir := t.dir, grants := t.grants } ∧ granted w t others e) ∧
        (entry = none → ¬ full → ∃ t, run = .next t ∧ t = { w with dir := t.dir, grants := t.grants } ∧ granted w t others new) ∧
        (∀ e, entry = some e → e.locked = true → ∃ t, run = .next t ∧ t = { w with dir := t.dir } ∧
          (t.dirOf home).find? (fun e => e.line = line) = some { e with queue := e.queue ++ [r] } ∧
          ∀ h, h ≠ home → t.dirOf h = s.dirOf h) ∧
        (full → lru = none → run = .next { w with fab := { w.fab with dirWait := w.fab.dirWait ++ [r] } }) ∧
        (∀ e, full → lru = some e → e.line * 128 / 2 ^ 41 = home → ∃ t, run = .next t ∧ t.mem = s.mem ∧ t.copies = s.copies ∧ t.stns = s.stns ∧
          t.rd (Reg.scBackinvCount home) = min (w.rd (Reg.scBackinvCount home) + 1) (2 ^ 64 - 1) ∧
          (e.sharers = 0 → t.snoops = s.snoops ∧ granted w t (others.filter (fun x => x.line ≠ e.line)) new) ∧
          (e.sharers ≠ 0 → t.grants = w.grants ∧ t.fab.dirWait = w.fab.dirWait ++ [r] ∧
            t.snoops = s.snoops ++ ((List.range 16).filter (fun n => e.sharers.getLsbD n)).map (fun n => (e.line, n, (e.epoch + 1).toNat)) ∧
            t.dirOf home = (s.dirOf home).map (fun x => if x.line = e.line then
              { x with epoch := e.epoch + 1, locked := true, awaiting := x.sharers, write := none, backInv := true } else x))))) ∧
    (∀ (fd : BitVec 5) (data : List Byte) (errs : List Byte),
      let f := fd.toNat
      let bs := data.take (128 - k % 128)
      let ok := keyRemote k = false ∧ bs ≠ [] ∧ s.fdMemory k bs.length = true ∧ s.inImage k bs.length = false ∧ s.stackStopped k = false
      let room := s.trkRoom f 0xFFFF = true
      let whole := k % 32 = 0 ∧ 32 ≤ bs.length
      let store := fun (q : Loc) (o : Nat) => ∃ l, regionOf home (k % 2 ^ 41) = .ls l o ∧ s.locate (home * 128 + l) = some q
      let r : HomeReq := ⟨f, 0xFFFF, k, true, bs, false, false⟩
      let run := exec (.memWriteRequest fd addr data errs) s
      (¬ ok → run = .next s) ∧
      (ok → s.clearsStore k = true → run = .next s) ∧
      (ok → s.clearsStore k = false → ¬ room → ∃ t, run = .next t ∧ stalled t f) ∧
      (ok → s.clearsStore k = false → room → ∃ w, (whole → w = s) ∧ (¬ whole → EccFound s w k errs) ∧
        (cacheable k = false → w.Lands f k bs.length → ∃ v t, run = .next t ∧ StoredClean v t k bs ∧
          ((∀ q o, store q o → (s.stn q).active = false) → v = w) ∧
          ∀ q o, store q o → (s.stn q).active = true → w.Logs v q (.write o bs false)) ∧
        (cacheable k = true → ∃ u, RoutersOnly w u ∧ u.fab.forwards = (s.meshTrip f home (k % 2 ^ 41)).fab.forwards ∧
          (s.evictPending f line = true → run = .next { u with readWait := w.readWait ++ [r] }) ∧
          (s.evictPending f line = false →
            ((∀ e, entry = some e → e.locked = false ∧ e.sharers = 0) → ∃ t, run = .next t ∧ t.dir = s.dir ∧ t.copies = s.copies ∧
              t.snoops = s.snoops ∧ t.fab = u.fab ∧ (w.Takes k bs → StoredClean w t k bs) ∧
              (w.chanDead (k / 32 * 32) = false → w.cwPoison (k / 32) = true → k % 32 + bs.length ≤ 32 → bs.length < 32 → t.mem = s.mem ∧
                t.poison = w.poison ∧ t.rd (Reg.memPartialPoisonCount home) = min (w.rd (Reg.memPartialPoisonCount home) + 1) (2 ^ 64 - 1))) ∧
            (∀ e, entry = some e → e.locked = true → ∃ t, run = .next t ∧ t = { u with dir := t.dir } ∧
              (t.dirOf home).find? (fun e => e.line = line) = some { e with queue := e.queue ++ [r] }) ∧
            (∀ e, entry = some e → e.locked = false → e.sharers ≠ 0 → ∃ t, run = .next t ∧
              t = { w with dir := t.dir, snoops := t.snoops, fab := t.fab } ∧ RoutersOnly w { w with fab := t.fab } ∧
              (t.dirOf home).find? (fun e => e.line = line) = some
                { e with epoch := e.epoch + 1, locked := true, awaiting := e.sharers, write := some r, backInv := false } ∧
              t.snoops = s.snoops ++ ((List.range 16).filter (fun n => e.sharers.getLsbD n)).map (fun n => (line, n, (e.epoch + 1).toNat))))))) ∧
    (s.lineOf addr = if keyRemote k = false ∧ cacheable k = true then some (line, home) else none) ∧
    (s.lineOf addr = none → ∀ fd : BitVec 4, exec (.snoopReceive fd addr) s = .next s ∧ exec (.snoopAnswerReceive fd addr) s = .next s ∧
      exec (.sharerEviction fd addr) s = .next s ∧ exec (.evictionNoticeReceive fd addr) s = .next s ∧
      exec (.evictionAckReceive fd addr) s = .next s ∧ exec (.readGrantReceive fd addr) s = .next s) ∧
    (s.lineOf addr = some (line, home) → ∀ fd : BitVec 4,
      let f := fd.toNat
      let off := line * 128 % 2 ^ 41
      let mine := fun (c : Copy) => c.fd = f ∧ c.line = line
      let asks := fun (r : HomeReq) => r.die = f ∧ r.key / 128 = line
      let snoop := s.snoops.find? (fun x => decide (x.1 = line ∧ x.2.1 = f))
      let note := s.notices.find? (fun x => decide (x.1 = line ∧ x.2.1 = f))
      let live := s.copies.find? (fun c => decide (c.fd = f ∧ c.line = line) && !c.evicting)
      let grant := s.grants.find? (fun g => decide (g.fd = f ∧ g.line = line))
      (snoop = none → exec (.snoopReceive fd addr) s = .next s) ∧
      (∀ x, snoop = some x → ∃ t, exec (.snoopReceive fd addr) s = .next t ∧ t.snoops = s.snoops.erase x ∧
        t.snoopAns = s.snoopAns ++ [(line, f)] ∧ (∀ c ∈ t.copies, mine c → c.evicting = true) ∧
        (∀ c, ¬ mine c → (c ∈ t.copies ↔ c ∈ s.copies)) ∧ (∀ g ∈ t.grants, g.fd = f → g.line = line → g.once = true) ∧
        (∀ r ∈ t.fab.dirWait, asks r → r.isWrite = false → r.once = true) ∧ t.fab.dirWait.length = s.fab.dirWait.length ∧
        (∀ e ∈ t.dirOf home, e.line = line → ∀ r ∈ e.queue, asks r → r.isWrite = false → r.once = true) ∧
        (∀ h, h ≠ home → t.dirOf h = s.dirOf h) ∧
        (t.dirOf home).map (fun e => { e with queue := [] }) = (s.dirOf home).map (fun e => { e with queue := [] }) ∧
        t.fab.forwards = (s.passMesh f home off).fab.forwards ∧
        OnlyRegs { s with snoops := t.snoops, snoopAns := t.snoopAns, copies := t.copies, grants := t.grants, dir := t.dir, fab := t.fab } t
          [(Reg.scSnoopNpCount f).addr] ∧
        t.rd (Reg.scSnoopNpCount f) = (if live.isSome then s.rd (Reg.scSnoopNpCount f) else min (s.rd (Reg.scSnoopNpCount f) + 1) (2 ^ 64 - 1))) ∧
      ((line, f) ∉ s.snoopAns → exec (.snoopAnswerReceive fd addr) s = .next s) ∧
      ((line, f) ∈ s.snoopAns → entry = none → exec (.snoopAnswerReceive fd addr) s = .next { s with snoopAns := s.snoopAns.erase (line, f) }) ∧
      ((line, f) ∈ s.snoopAns → ∀ e, entry = some e →
        ∃ t, exec (.snoopAnswerReceive fd addr) s = .next t ∧ t.snoopAns = s.snoopAns.erase (line, f) ∧
        (e.locked = false ∨ e.awaiting &&& ~~~(1#16 <<< f) ≠ 0 → t = { s with snoopAns := t.snoopAns, dir := t.dir } ∧
          (t.dirOf home).find? (fun e => e.line = line) = some { e with awaiting := e.awaiting &&& ~~~(1#16 <<< f) }) ∧
        (e.locked = true → e.awaiting &&& ~~~(1#16 <<< f) = 0 → e.queue = [] → s.NoneWaits →
          (∀ w, e.backInv = false → e.write = some w → (∀ r ∈ s.fab.dirWait, r.key / 2 ^ 41 ≠ home) → t.copies = s.copies ∧
            (w.poison = false → s.Takes w.key w.data → StoredClean s t w.key w.data) ∧
            (t.dirOf home).find? (fun e => e.line = line) = some ⟨line, 0, e.epoch, false, 0, none, false, []⟩ ∧
            t.fab.forwards = s.fab.forwards ∧
            t.outbox = s.outbox ++ [⟨.meshMessage, [w.key / 2 ^ 41, w.die, 0, w.key / 128], []⟩]) ∧
          (∀ r, e.backInv = true → e.write = none → s.fab.dirWait = [r] → r.key / 2 ^ 41 = home → r.key / 128 ≠ line →
            s.dirEnt (r.key / 128) = none → (s.dirOf home).length ≤ 65536 → (∀ x ∈ s.dirOf home, x.line ≠ line → x.backInv = false) →
            t.mem = s.mem ∧ t.fab.dirWait = [] ∧ t.outbox = s.outbox ∧
            t.dirOf home = (s.dirOf home).filter (fun x => x.line ≠ line) ++ [⟨r.key / 128, 1 <<< r.die, 0, false, 0, none, false, []⟩] ∧
            t.grants = s.grants ++ [⟨r.die, r.key / 128, 0, r.once, lineBytes s (r.key / 128)⟩]))) ∧
      (live = none → exec (.sharerEviction fd addr) s = .next s) ∧
      (∀ c, live = some c → exec (.sharerEviction fd addr) s = .next { s.passMesh f home off with
        copies := s.copies.map (fun x => if x = c then { x with evicting := true } else x)
        notices := s.notices ++ [(line, f, c.epoch.toNat)] }) ∧
      (note = none → exec (.evictionNoticeReceive fd addr) s = .next s) ∧
      (∀ n, note = some n → ∃ t, exec (.evictionNoticeReceive fd addr) s = .next t ∧ t.notices = s.notices.erase n ∧
        t.evictAcks = s.evictAcks ++ [(line, f)] ∧ t.mem = s.mem ∧ t.copies = s.copies ∧ t.fab = (s.passMesh home f off).fab ∧
        (let live := (s.dirOf home).find? (fun e => decide (e.line = line ∧ e.epoch.toNat = n.2.2) && e.sharers.getLsbD f);
          (live = none → t.dir = s.dir ∧ t.rd (Reg.scStaleNoteCount home) = min (s.rd (Reg.scStaleNoteCount home) + 1) (2 ^ 64 - 1)) ∧
          (∀ e, live = some e → t.regs = s.regs ∧ ∀ x ∈ t.dirOf home, x.line = line →
            x = { e with sharers := e.sharers &&& ~~~(1#16 <<< f) } ∧ (x.sharers ≠ 0 ∨ x.locked = true)))) ∧
      ((line, f) ∉ s.evictAcks → exec (.evictionAckReceive fd addr) s = .next s) ∧
      ((line, f) ∈ s.evictAcks → s.NoneWaits → ∃ t, exec (.evictionAckReceive fd addr) s = .next t ∧ t.evictAcks = s.evictAcks.erase (line, f) ∧
        t.copies = s.copies.filter (fun c => !(decide (c.fd = f ∧ c.line = line) && c.evicting)) ∧
        t.readWait = s.readWait.filter (fun r => !decide (asks r)) ∧
        ((∀ r ∈ s.readWait, asks r → r.isWrite = false) → t.mem = s.mem) ∧
        ((∀ r ∈ s.readWait, ¬ asks r) → t = { s with evictAcks := t.evictAcks, copies := t.copies, readWait := t.readWait }) ∧
        (∀ r e, s.readWait = [r] → asks r → entry = some e → e.locked = true →
          (t.dirOf home).find? (fun e => e.line = line) = some { e with queue := e.queue ++ [r] }) ∧
        (∀ r e, s.readWait = [r] → asks r → r.isWrite = false → entry = some e → e.locked = false →
          t.grants = s.grants ++ [⟨f, line, e.epoch, r.once, lineBytes s line⟩]) ∧
        (∀ r, s.readWait = [r] → asks r → r.isWrite = true → r.poison = false → entry = none → s.Takes r.key r.data →
          StoredClean s t r.key r.data ∧ t.outbox = s.outbox ++ [⟨.meshMessage, [home, f, 0, line], []⟩])) ∧
      (grant = none → exec (.readGrantReceive fd addr) s = .next s) ∧
      (∀ g, grant = some g → ∃ t, exec (.readGrantReceive fd addr) s = .next t ∧ t.grants = s.grants.erase g ∧ t.mem = s.mem ∧
        t.outbox = s.outbox ++ [⟨.meshMessage, [home, f, 1, line], g.bytes⟩] ∧ t.fab = (s.passMesh home f off).fab ∧
        (g.once = true → t.copies = s.copies ∧ t.rd (Reg.scFillOnceCount f) = min (s.rd (Reg.scFillOnceCount f) + 1) (2 ^ 64 - 1)) ∧
        (g.once = false → t.regs = s.regs ∧ t.copies = s.copies.filter (fun c => !(decide (c.fd = f ∧ c.line = line))) ++
          [⟨f, line, lineSlice line, g.epoch, g.bytes, false⟩]))) ∧
    (∀ t l o, (regionOf home (k % 2 ^ 41) = .ls l o → ∀ q, s.locate (home * 128 + l) = some q →
        (s.stn q).active = false ∨ s.cwPoison (k / 32) = true ∨ t.cwPoison (k / 32) = false ∨ k / 32 ∉ (s.lst q.num).wrote) →
      regionOf home (k % 2 ^ 41) = .ls l o ∨ (∀ l o, regionOf home (k % 2 ^ 41) ≠ .ls l o) → s.storeError t k = t) ∧
    ∀ (fd op : BitVec 4) (off : BitVec 32) (data : List Byte) (stn : Option (BitVec 11)),
      let f := fd.toNat
      let b := off.toNat
      let base := dieKey f (scBase + b)
      let count := Reg.scAtomicOpsCount f
      let run := exec (.atomicOperation fd op off data stn) s
      let refused := (op = 0xA ∧ (stn = none ∨ b % 8 ≠ 0 ∨ s.scratch f < b + 8)) ∨ 0xA < op.toNat ∨
        (op ≠ 0xA ∧ (data = [] ∨ s.addrBad f (atomBase + op.toNat * 2 ^ 32 + b) data.length .write true = true))
      let size := atomicSize op.toNat
      let elems := data.length / size
      (refused → run = .next s) ∧
      (∀ n, ¬ refused → op = 0xA → stn = some n → s.poisonAt base 8 = none → ∃ t, run = .next t ∧ Stored s t base (leBytes 8 (s.natAt base 8 + 1)) ∧
        t.rd count = min (s.rd count + 1) (2 ^ 64 - 1) ∧
        t.outbox = s.outbox ++ [⟨.meshMessage, [f, n.toNat / 128, 2, s.natAt base 8, b / 2 ^ 7 % 16], []⟩]) ∧
      (¬ refused → op = 0xA → (s.poisonAt base 8).isSome = true → ∃ t, run = .next t ∧ t.mem = s.mem) ∧
      (¬ refused → op ≠ 0xA → (∀ n, stn = some n → (s.lst n.toNat).repeating = false) → (∀ j, j < elems → s.poisonAt (base + j * size) size = none) →
        ∃ t, run = .next t ∧ t.rd count = min (s.rd count + elems) (2 ^ 64 - 1) ∧ t.poison = s.poison ∧
        (∀ j, j < elems → t.natAt (base + j * size) size =
          atomicFn op.toNat (s.natAt (base + j * size) size) (ofLeBytes ((data.drop (j * size)).take size)) % 2 ^ (8 * size)) ∧
        ∀ a, (∀ j, j < data.length → s.homeKey a ≠ base + j) → t.peek a = s.peek a)

/-- R25, R179, R290, R291, R295, R298, R300 to R305, R315, R316, R318, R319, R325. -/
def Obligations.MemoryErrorsAndOtherModules : Prop :=
  ∀ s : State,
    (∀ (fd : BitVec 4) (tier2 : Bool) (ch : BitVec 6) (ok : Bool),
      let f := fd.toNat
      let c := ch.toNat
      let key := (f * 2 + tier2.toNat) * 64 + c
      let tried := fun (t : State) (key : Nat) => Sparse.get (fun _ => 0) t.dramTry key
      let retry := if tier2 then Reg.t2RetryCount f else Reg.t1RetryCount f
      let gone := if tier2 then 8 ≤ c ∨ bitOf (s.rd (Reg.t2StatusRetired f)) c = true else bitOf (s.rd (Reg.t1PcRetiredMask f)) c = true
      let run := exec (.dramInterfaceError fd tier2 ch ok) s
      (gone → run = .next s) ∧
      (¬ gone → ∃ t, run = .next t ∧ t.mem = s.mem ∧ t.stns = s.stns ∧ (∀ n, n ≠ key → tried t n = tried s n) ∧
        (ok = true → t = { s with dramTry := t.dramTry } ∧ tried t key = 0) ∧
        (ok = false → tried s key < 4 → OnlyRegs { s with dramTry := t.dramTry } t [retry.addr] ∧ tried t key = tried s key + 1 ∧
          t.rd retry = min (s.rd retry + 1) (2 ^ 64 - 1)) ∧
        (ok = false → 4 ≤ tried s key → tried t key = 0 ∧
          (∀ off, off < 2 ^ 41 → (tier2 = false ∧ regionOf f off = .t1 ∧ t1Pc off = c) ∨ (tier2 = true ∧ regionOf f off = .t2 ∧ s.t2Sub f off = c) →
            s.rd (Reg.t2StatusInService f) ≤ 8 → (s.flag (Reg.t1RedirectUsed f) = true → s.rd (Reg.t1RedirectPc f) ≠ c) →
            t.cwPoison (dieKey f off / 32) = true) ∧
          (tier2 = false → s.flag (Reg.t1RedirectUsed f) = false → ∀ off, off < 2 ^ 41 → (regionOf f off = .t1 → t1Pc off ≠ c) →
            (regionOf f off = .t2 → off < t2Base + s.t2Top f) → t.cwPoison (dieKey f off / 32) = s.cwPoison (dieKey f off / 32)) ∧
          (tier2 = false → (∀ i, i < 64 → bitOf (t.rd (Reg.t1PcRetiredMask f)) i = (decide (i = c) || bitOf (s.rd (Reg.t1PcRetiredMask f)) i)) ∧
            (s.flag (Reg.t1RedirectUsed f) = false → t.rd (Reg.t1RedirectPc f) = c ∧ t.flag (Reg.t1RedirectUsed f) = true ∧
              t.rd (Reg.fdMemCapT1Mib f) = s.rd (Reg.fdMemCapT1Mib f) ∧ t.retireReq = s.retireReq) ∧
            (s.flag (Reg.t1RedirectUsed f) = true → t.rd (Reg.t1RedirectPc f) = s.rd (Reg.t1RedirectPc f) ∧
              t.rd (Reg.fdMemCapT1Mib f) = 0 ∧ ∃ r ∈ t.retireReq, r.1 = f)) ∧
          (tier2 = true → (∀ i, i < 8 → bitOf (t.rd (Reg.t2StatusRetired f)) i = (decide (i = c) || bitOf (s.rd (Reg.t2StatusRetired f)) i)) ∧
            t.flag (Reg.t2StatusReform f) = true ∧ t.rd (Reg.t2StatusInService f) = s.rd (Reg.t2StatusInService f))))) ∧
    (∀ (fd : BitVec 4) (tier : BitVec 2) (errs : List Byte),
      let f := fd.toNat
      let r := s.scrubRange f tier.toNat
      let key := f * 4 + tier.toNat
      let at_ := fun (t : State) (key : Nat) => Sparse.get (fun _ => 0) t.scrubAt key
      let i := at_ s key
      let k := r.1 + i * 32
      let n := errCount k errs
      let skipped := s.cwPoison (k / 32) = true ∨ s.chanDead k = true ∨
        (k % 2 ^ 41 < 0xC00000000 ∧ bitOf (s.rd (Reg.t1PcRetiredMask f)) (t1Pc (k % 2 ^ 41)) = true)
      let passes := if tier = 0 then Reg.memScrubPassesT1 f else if tier = 1 then Reg.memScrubPassesT2 f else Reg.memScrubPassesSc f
      let run := exec (.scrubStep fd tier errs) s
      (s.flag (Reg.memScrubCtlEnable f) = false ∨ tier = 3 ∨ r.2 ≤ i → run = .next s) ∧
      (s.flag (Reg.memScrubCtlEnable f) = true → tier ≠ 3 → i < r.2 → ∃ t, run = .next t ∧ t.mem = s.mem ∧ t.stns = s.stns ∧
        at_ t key = (if i + 1 < r.2 then i + 1 else 0) ∧ (∀ n, n ≠ key → at_ t n = at_ s n) ∧
        t.rd passes = (if i + 1 < r.2 then s.rd passes else min (s.rd passes + 1) (2 ^ 16 - 1)) ∧
        (∀ c, s.homeCw c ≠ s.homeCw (k / 32) → t.cwPoison c = s.cwPoison c) ∧
        (skipped ∨ n = 0 → OnlyRegs { s with scrubAt := t.scrubAt } t [passes.addr] ∧ t.cwPoison (k / 32) = s.cwPoison (k / 32)) ∧
        (¬ skipped → n = 1 ∨ n = 2 → t.cwPoison (k / 32) = decide (n = 2) ∧
          ∀ g, s.eccFlds k = some g → (n = 1 → t.rd g.1 = min (s.rd g.1 + 1) (2 ^ g.1.w - 1)) ∧
            (n = 2 → t.rd g.2 = min (s.rd g.2 + 1) (2 ^ g.2.w - 1))))) ∧
    (∀ (fd : BitVec 4) (edge : BitVec 2) (seq : BitVec 16) (cls : BitVec 2) (crcOk : Bool),
      let key := fd.toNat * 4 + edge.toNat
      let runs := fun (t : State) => Sparse.get (fun _ => 0) t.edgeRun key
      let next := fun (t : State) => Sparse.get (fun _ => 0) t.edgeSeq key
      let held := fun (t : State) => t.edgeHeldOf key
      let credits := if cls.toNat < 2 then 32 else 16
      let heldToo := fun (x : Nat × Nat) => if (held s).any (fun y => y.1 = x.1) ∨ 64 ≤ (held s).length ∨
        credits ≤ ((held s).filter (fun y => y.2 = x.2)).length then held s else held s ++ [x]
      let replays := Reg.fdEdgeErrReplays fd.toNat edge.toNat
      let longest := Reg.fdEdgeErrMaxRun fd.toNat edge.toNat
      let run := exec (.edgeFlitReceive fd edge seq cls crcOk) s
      let behind := 0 < runs s ∧ (seq.toNat + 2 ^ 16 - next s) % 2 ^ 16 < 64
      (seq.toNat ≠ next s → ¬ behind → run = .next s) ∧
      (seq.toNat ≠ next s → behind → ∃ t, run = .next t ∧ OnlyRegs { s with fab := { s.fab with edgeHeld := t.fab.edgeHeld } } t [replays.addr] ∧
        held t = heldToo (seq.toNat, cls.toNat) ∧ t.rd replays = min (s.rd replays + 1) (2 ^ 32 - 1) ∧ t.rd longest = s.rd longest) ∧
      (seq.toNat = next s → crcOk = true → ∃ t, run = .next t ∧
        t = { s with edgeSeq := t.edgeSeq, edgeRun := t.edgeRun, fab := { s.fab with edgeHeld := t.fab.edgeHeld }, outbox := t.outbox } ∧
        next t = (next s + 1) % 2 ^ 16 ∧ runs t = 0 ∧ held t = (held s).filter (fun x => x.1 ≠ next s) ∧
        t.outbox = s.outbox ++ [⟨.meshMessage, [fd.toNat, fd.toNat, 3, edge.toNat, next s], []⟩]) ∧
      (seq.toNat = next s → crcOk = false → ∃ t, run = .next t ∧
        RegsAndEvents { s with edgeRun := t.edgeRun, fab := { s.fab with edgeHeld := t.fab.edgeHeld } } t [replays.addr] ∧
        held t = heldToo (next s, cls.toNat) ∧ runs t = runs s + 1 ∧ t.rd longest = max (s.rd longest) (min (runs s + 1) (2 ^ 16 - 1)) ∧
        t.rd replays = (if runs s = 15 then s.rd replays else min (s.rd replays + 1) (2 ^ 32 - 1))) ∧
      (∃ t, exec (.meshRouterFault fd) s = .next t ∧ EventsOnly s t ∧ evSeverity (fdCode evMeshRouterFail fd.toNat) = 3 ∧
        t = s.raise (fdCode evMeshRouterFail fd.toNat) 4 [s.meridian.toNat])) ∧
    (∀ (module : BitVec 18) (tag : BitVec 32) (addr : BitVec 64) (len : BitVec 16) (data : List Byte) (sld stn poison : Bool),
      let a := addr.toNat
      let die := addrDie a
      let n := if data = [] then len.toNat else data.length
      let k := a % 2 ^ 46
      let par := s.parcelOf die
      let reg := regionOf die (addrOff a)
      let run := exec (.remoteRequestReceive module tag addr len data sld stn poison) s
      let ours := s.flag Reg.glbModuleNumValid = true ∧ addrModule a = s.ownModule
      let tagged := die < 16 ∧ s.flag (Reg.glbMemDomainValid par) = true ∧ s.rd (Reg.glbMemDomainDomain par) = tag.toNat
      let good := s.addrBad die (addrOff a) n (if data ≠ [] then .write else if sld then .sld else .read) true = false ∧ (∀ o, reg ≠ .mirror o) ∧
        s.fdAnswers die = true
      let image := data ≠ [] ∧ s.inImage k n = true
      let served := ours ∧ tagged ∧ good ∧ ¬ image ∧ s.stackStopped k = false
      let store := fun (q : Loc) (o : Nat) => ∃ l, reg = .ls l o ∧ s.locate (die * 128 + l) = some q
      let answered := fun (t : State) (st : Nat) (d : List Byte) =>
        MsgSent s t { TxFlit.msg 4 3 module.toNat die par [st, a] d with poison := decide (st = 3) }
      let size := fun op => atomicSize op
      let base := fun b => dieKey die (scBase + b)
      (¬ ours → run = .next s) ∧
      (ours → ¬ tagged → ∃ t, run = .next t ∧ t.mem = s.mem ∧ t.stns = s.stns ∧ answered t 1 []) ∧
      (ours → tagged → ¬ good → ∃ t, run = .next t ∧ t.mem = s.mem ∧ t.stns = s.stns ∧ answered t 2 []) ∧
      (ours → tagged → good → image → ∃ t, run = .next t ∧ t.mem = s.mem ∧ t.stns = s.stns ∧ answered t 5 []) ∧
      (ours → tagged → good → ¬ image → s.stackStopped k = true → run = .next s) ∧
      (served → data = [] → ∃ t, run = .next t ∧ (s.NoneWaits → t.stns = s.stns) ∧
        ((s.poisonAt k n).isSome = true → t.mem = s.mem ∧ answered t 3 (s.bytesAt k n)) ∧
        (s.poisonAt k n = none → s.NoneWaits →
          (∀ b, reg = .atomic 10 b → sld = true → Stored s t (base b) (leBytes 8 (s.natAt (base b) 8 + 1)) ∧
            answered t 0 (leBytes 8 (s.natAt (base b) 8))) ∧
          (∀ l o, reg = .ls l o → s.clearing par = true → t.mem = s.mem ∧ answered t 0 (List.replicate n 0)) ∧
          ((∀ b, reg ≠ .atomic 10 b) → (s.clearing par = true → ∀ l o, reg ≠ .ls l o) → t.mem = s.mem ∧ answered t 0 (s.bytesAt k n)))) ∧
      (served → data ≠ [] → s.NoneWaits →
        ((∀ op b, reg ≠ .atomic op b) → s.Lands (16 + s.edgeLd module.toNat die) k n → ∃ v t, run = .next t ∧ t.stns = s.stns ∧
          answered t 0 [] ∧ (poison = false → StoredClean v t k data) ∧
          ((∀ q o, store q o → (s.stn q).active = false) → v = s) ∧
          (∀ q o, store q o → (s.stn q).active = true → s.Logs v q (.write o data poison)) ∧
          (poison = true → ∀ i, i < n → t.cwPoison ((k + i) / 32) = true)) ∧
        (∀ op b, reg = .atomic op b → poison = false →
          ((∀ j, j < n / size op → s.poisonAt (base b + j * size op) (size op) = none) → ∃ t, run = .next t ∧ t.stns = s.stns ∧
            t.poison = s.poison ∧ answered t 0 [] ∧
            (∀ j, j < n / size op → t.natAt (base b + j * size op) (size op) = atomicFn op (s.natAt (base b + j * size op) (size op))
              (ofLeBytes ((data.drop (j * size op)).take (size op))) % 2 ^ (8 * size op))) ∧
          (stn = true → n = size op → (s.poisonAt (base b) (size op)).isSome = true → ∃ t, run = .next t ∧ t.stns = s.stns ∧
            t.mem = s.mem ∧ answered t 4 [])))) ∧
    (∀ addr : BitVec 64,
      (s.remoteAt addr = none → exec (.domainDenialReceive addr) s = .next s ∧ exec (.addressRefusalReceive addr) s = .next s) ∧
      (∀ r, s.remoteAt addr = some r → s.NoneWaits → s.fab.stalled = [] → s.colls = [] →
        (∃ t, exec (.domainDenialReceive addr) s = .next t ∧ t.remote = s.remote.erase r ∧ t.mem = s.mem ∧ t.stns = s.stns ∧
          (r.stn < hostStn 0 → ∃ f, f < 16 ∧ (r.fd < 16 → f = r.fd) ∧
            t = { s with remote := s.remote.erase r, freeCtr := t.freeCtr }.raise (fdCode evDomainDenied f) r.parcel [s.meridian.toNat, r.addr]) ∧
          (hostStn 0 ≤ r.stn → t.outbox.getLast? = some ⟨.completion, [r.stn - hostStn 0, 1], []⟩)) ∧
        (∃ t, exec (.addressRefusalReceive addr) s = .next t ∧ t.remote = s.remote.erase r ∧ t.mem = s.mem ∧
          (hostStn 0 ≤ r.stn → t.stns = s.stns ∧ t.outbox = s.outbox ++ [⟨.completion, [r.stn - hostStn 0, 1], []⟩]) ∧
          ∀ q, r.stn < 2048 → s.locate r.stn = some q →
            (r.isWrite = true → (t.stn q).engq = (s.stn q).engq) ∧
            (r.isWrite = false → (t.stn q).engq = (s.stn q).engq.filter (fun e => !decide (e.pc = r.pc ∧ e.leg = r.leg))) ∧
            (t.stn q).faulted = true ∧
            (s.flag (Reg.stnFaultValid q.b) = false →
              t.flag (Reg.stnFaultValid q.b) = true ∧ t.flag (Reg.stnFaultLate q.b) = true ∧ t.rd (Reg.stnFaultPc q.b) = r.pc % 2 ^ 32 ∧
              t.rd (Reg.stnFaultCause q.b) = fcAddrInvalid ∧ t.rd (Reg.stnFaultInfoInfo q.b) = r.addr % 2 ^ 64 ∧
              t.rd (Reg.stnFaultTimeMeridian q.b) = s.meridian.toNat)))) ∧
    ∀ (k : BitVec 4) (f : List Byte),
      let n := k.toNat
      let pay := (f.drop 12).take 240
      let a := field pay 0 8
      let len := min (field pay 8 2) 224
      isUplink n = false → s.portUp n = true → (s.port n).l1 = false → flitOk f = true → field f 2 1 / 8 = 3 →
      field f 0 2 = (s.port n).rxSeq → field f 8 4 % 2 ^ 18 = s.ownModule → s.NoneWaits →
      s.colls = [] → s.fab.stalled = [] → (s.port n).early = [] → (s.port n).txq = [] →
      ∃ t, exec (.flitReceive k f) s = .next t ∧ t.mem = s.mem ∧ (t.port n).rxSeq = ((s.port n).rxSeq + 1) % 2 ^ 16 ∧
        (len ≠ 0 → (∀ r ∈ s.remote, r.stn < hostStn 0) → (∃ r ∈ s.remote, r.isWrite = false ∧ r.addr ≤ a ∧ a + len ≤ r.addr + r.len) →
          t.stns = s.stns ∧
          (∀ i, i < len → Sparse.get (fun _ => 0) t.remoteBuf (2 ^ 64 + a + i) = (if bitOf (field f 3 1) 2 then 257 else 1) + field pay (16 + i) 1) ∧
          ∀ r, r ∈ t.remote ↔ r ∈ s.remote ∧ (r.isWrite = true ∨ t.remoteHere [(2 ^ 64 + r.addr, r.len)] = false)) ∧
        (∀ r, len = 0 → s.remote.find? (fun r => r.isWrite && decide (r.addr = a)) = some r → t.remote = s.remote.erase r ∧
          (field pay 10 1 ≠ 4 → field pay 10 1 ≠ 5 → t.stns = s.stns) ∧
          (field pay 10 1 = 5 → hostStn 0 ≤ r.stn → t.outbox.getLast? = some ⟨.completion, [r.stn - hostStn 0, 1], []⟩) ∧
          ∀ q, field pay 10 1 = 4 ∨ field pay 10 1 = 5 → r.stn < 2048 → s.locate r.stn = some q → (t.stn q).faulted = true ∧
            (s.flag (Reg.stnFaultValid q.b) = false → t.flag (Reg.stnFaultLate q.b) = true ∧
              t.rd (Reg.stnFaultCause q.b) = (if field pay 10 1 = 4 then fcPoisonConsumed else fcAccessDenied) ∧
              t.rd (Reg.stnFaultPc q.b) = r.pc % 2 ^ 32 ∧ t.rd (Reg.stnFaultInfoInfo q.b) = a)) ∧
        (len = 0 → s.remote.find? (fun r => r.isWrite && decide (r.addr = a)) = none → t.remote = s.remote ∧ t.stns = s.stns)

/-- R377 to R395. -/
def Obligations.AdjustmentUnit : Prop :=
  ∀ (s : State) (fd : BitVec 4),
    let n := fd.toNat
    let p := s.parcelOf n
    (let head := s.rd (Reg.auQstatHead n)
      let tail := s.rd (Reg.auQtailOffset n)
      let size := 2 ^ (max 4 (min 12 (s.rd (Reg.auQcfgLog2Entries n))))
      let entry := s.rd (Reg.auQcfgRing n) + head % size * 64
      let ek := dieKey n (scBase + entry)
      let bs := s.bytesAt ek 64
      let c := auCmdOf bs
      let d := (s.natAt (dieKey n (scBase + tail)) 4 + 2 ^ 32 - head) % 2 ^ 32
      let free := s.down = false ∧ s.fdStopped n = false ∧ s.flag (Reg.auQstatHeld n) = false ∧ s.flag (Reg.auQstatBusy n) = false ∧ s.auInSc n tail 8 8 = true
      let told := free ∧ s.poisonAt (dieKey n (scBase + tail)) 8 = none ∧ d ≠ 0
      let read := told ∧ d ≤ size ∧ s.auInSc n entry 64 64 = true ∧ s.poisonAt ek 64 = none
      let good := read ∧ s.auCheck n c = 0
      let upd := c.op = auAdamw ∨ c.op = auSgdm
      let hk := dieKey n (scBase + c.hyp)
      let hyp := wordsOf (s.bytesAt hk 64)
      let norm := hyp.getD 10 0 + 2 ^ 32 * hyp.getD 11 0
      let la := LA.decode (s.natAt (dieKey n (scBase + norm)) 32)
      let held := fun cause => ∃ t, exec (.auCommandTake fd) s = .next t ∧ AuHeld s t n cause head
      let began := fun (r : AuRun) => ∃ t, exec (.auCommandTake fd) s = .next t ∧ t.rd (Reg.auQstatHead n) = (head + 1) % 2 ^ 32 ∧
        t.flag (Reg.auQstatBusy n) = true ∧ t.auRun n = r ∧ t.mem = s.mem ∧ t.stns = s.stns ∧ (∀ m, m ≠ n → t.auRun m = s.auRun m)
      (¬ free ∨ (s.poisonAt (dieKey n (scBase + tail)) 8 = none ∧ d = 0) → exec (.auCommandTake fd) s = .next s) ∧
      (free → s.poisonAt (dieKey n (scBase + tail)) 8 ≠ none → held auPoison) ∧
      (told → size < d → held auOverrun) ∧
      (told → d ≤ size → s.auInSc n entry 64 64 = false → held auAddress) ∧
      (told → d ≤ size → s.auInSc n entry 64 64 = true → s.poisonAt ek 64 ≠ none → held auPoison) ∧
      (read → s.auCheck n c ≠ 0 → held (s.auCheck n c)) ∧
      (good → ¬ upd → began ⟨bs, head, [], 0x3F800000, 0, 0, false⟩) ∧
      (good → upd → s.poisonAt hk 64 ≠ none → held auPoison) ∧
      (good → upd → s.poisonAt hk 64 = none →
        (c.clipped = false → began ⟨bs, head, hyp, 0x3F800000, 0, 0, false⟩) ∧
        (c.clipped = true → s.auInSc n norm 32 32 = false → held auAddress) ∧
        (c.clipped = true → s.auInSc n norm 32 32 = true → s.poisonAt (dieKey n (scBase + norm)) 32 ≠ none → held auPoison) ∧
        (c.clipped = true → s.auInSc n norm 32 32 = true → s.poisonAt (dieKey n (scBase + norm)) 32 = none →
          (la.n = false → began ⟨bs, head, hyp, auClip (hyp.getD 9 0) la, 0, 0, false⟩) ∧
          (la.n = true → began ⟨bs, head, hyp, 0, c.blocks + 1, 0, false⟩)))) ∧
    (let r := s.auRun n
      let c := auCmdOf r.cmd
      let run := fun (op : Nat) (m : BitVec 32) (s : State) => if op = auAdamw then exec (.adamw fd m) s else if op = auSgdm then exec (.sgdm fd m) s
        else if op = auMasksync then exec (.masksync fd m) s else if op = auRefresh then exec (.refresh fd m) s else exec (.rollback fd m) s
      let ops := [auAdamw, auSgdm, auMasksync, auRefresh, auRollback]
      let update := c.op = auAdamw ∨ c.op = auSgdm ∨ c.op = auMasksync
      let q := c.jb + r.j
      let ck := dieKey n (s.jrnl n (q / 64))
      let step1 := fun (t : State) (r' : AuRun) => run c.op 1 s = .next t ∧ t.auRun n = r' ∧ t.stns = s.stns ∧ (∀ m, m ≠ n → t.auRun m = s.auRun m)
      (∀ op ∈ ops, ∀ m : BitVec 32, (s.fdStopped n = true ∨ r.cmd = [] ∨ c.op ≠ op ∨ m = 0) → run op m s = .next s) ∧
      (∀ op ∈ ops, ∀ a b : BitVec 32, a.toNat + b.toNat < 2 ^ 32 → ∃ t, run op a s = .next t ∧ run op b t = run op (a + b) s) ∧
      (s.fdStopped n = false → r.cmd ≠ [] → c.op ∈ ops →
        (c.blocks ≤ r.j → ∃ t, run c.op 1 s = .next t ∧ AuDone s t n c ∧ (c.snap = false ∨ c.blocks < r.j → t.mem = s.mem)) ∧
        (r.j < c.blocks →
          (r.phase ≠ 2 → r.phase ≠ 5 → s.jWord n (q / 64) = none → ∃ t, run c.op 1 s = .next t ∧ AuHeld s t n auJournal r.pos) ∧
          (r.phase = 2 → s.Lands n (ck + 256) 32 → ∃ t, Stored s t (ck + 256) (s.bytesAt ck 32) ∧
            step1 t (if c.op = auRollback then { r with j := r.j + 1, phase := 0 } else { r with phase := 3 })) ∧
          (r.phase = 5 → s.Lands n (ck + 256) 32 → ∃ t, Stored s t (ck + 256) (s.bytesAt ck 32) ∧ step1 t { r with j := r.j + 1, phase := 0 }) ∧
          (∀ word, s.jWord n (q / 64) = some word → s.jFix n (q / 64) = s →
            let e := word / 16 ^ (q % 64) % 16
            let cur := e % 2
            let sk := dieKey n (c.slotAt r.j cur)
            let new := s.auNew n r c (s.bytesAt sk c.slot)
            let entry := fun x => leBytes 32 (jSet word (q % 64) x)
            let bad := s.poisonAt sk c.slot ≠ none ∨ (c.op ≠ auMasksync ∧ s.auGradBad n c r.j = true) ∨
              (c.sparse = true ∧ s.auPlatPoison n c.wc c r.j (decide (c.op = auMasksync)) = true)
            (update → r.phase = 0 → bad → ∃ t, run c.op 1 s = .next t ∧ AuHeld s t n auPoison r.pos) ∧
            (update → r.phase = 0 → ¬ bad → s.Lands n (dieKey n (c.slotAt r.j (1 - cur))) new.length →
              ∃ t, Stored s t (dieKey n (c.slotAt r.j (1 - cur))) new ∧ step1 t { r with phase := 1, nonfin := (t.auRun n).nonfin }) ∧
            (r.phase = 1 → s.Lands n ck 32 → ∃ t, Stored s t ck (entry (1 - cur + 2 + c.step % 4 * 4)) ∧ step1 t { r with phase := 2 } ∧
              (c.op ≠ auMasksync → c.sparse = false → t.rd (Reg.auParamsDoneCount n) =
                min (s.rd (Reg.auParamsDoneCount n) + min 1024 (c.params - 1024 * r.j)) (2 ^ 64 - 1))) ∧
            (r.phase = 3 → ∃ t, t.mem = (s.auStoreWc n c r.j (s.auVals n c r.j cur)).mem ∧ step1 t { r with phase := 4 }) ∧
            (r.phase = 4 → s.Lands n ck 32 → ∃ t, Stored s t ck (entry (cur + e / 4 * 4)) ∧ step1 t { r with phase := 5 }) ∧
            (c.op = auRollback → r.phase = 0 → e / 4 ≠ c.step % 4 → ∃ t, t.mem = s.mem ∧ step1 t { r with j := r.j + 1, phase := 0 }) ∧
            (c.op = auRollback → r.phase = 0 → e / 4 = c.step % 4 → s.Lands n ck 32 →
              ∃ t, Stored s t ck (entry (1 - cur + 2 + (c.step + 3) % 4 * 4)) ∧ step1 t { r with phase := 2 }) ∧
            (c.op = auRefresh → r.phase = 0 → e / 2 % 2 = 0 → ∃ t, t.mem = s.mem ∧ step1 t { r with j := r.j + 1, phase := 0 }) ∧
            (c.op = auRefresh → r.phase = 0 → e / 2 % 2 = 1 → s.poisonAt sk 4096 = none → ∃ t, t.mem = s.mem ∧ step1 t { r with phase := 3 }) ∧
            (c.op = auRefresh → r.phase = 0 → e / 2 % 2 = 1 → s.poisonAt sk 4096 ≠ none →
              ∃ t, run c.op 1 s = .next t ∧ AuHeld s t n auPoison r.pos)))) ∧
      (let key := dieKey n (scBase + c.wc)
        let size := if c.sparse then (s.auPlat n c.grad).size else 4 * c.params
        let gs := (List.range c.params).map (fun i => s.natAt (dieKey n (c.grad + 4 * i)) 4)
        let mine := s.fdStopped n = false ∧ r.cmd ≠ [] ∧ c.op = auNormsq
        (¬ mine → exec (.normsq fd) s = .next s) ∧
        (mine → s.poisonAt (dieKey n c.grad) size ≠ none → ∃ t, exec (.normsq fd) s = .next t ∧ AuHeld s t n auPoison r.pos) ∧
        (mine → s.poisonAt (dieKey n c.grad) size = none → ∃ t, exec (.normsq fd) s = .next t ∧ AuDone s t n c ∧
          (s.poisonAt key 32 ≠ none → t.mem = s.mem) ∧
          (c.sparse = false → s.poisonAt key 32 = none →
            Stored s t key (leBytes 32 (atomicFn 9 (s.natAt key 32) (ofLeBytes (leBytes 32 (auNorm gs).encode))))))) ∧
      (let mine := s.fdStopped n = false ∧ r.cmd ≠ [] ∧ c.op = auSnapcopy
        let len := s.rd (Reg.auSnapLenBytes n)
        let dst := dieKey n (t2Base + s.rd (Reg.auSnapBaseBase n) + len)
        let takes := c.step = s.rd (Reg.glbSnapCtlStep p) ∧ s.snapOpen p = true ∧ n ∉ s.snapClosed
        (¬ mine → exec (.snapcopy fd) s = .next s) ∧
        (mine → ∃ t, exec (.snapcopy fd) s = .next t ∧ AuDone s t n c ∧
          (¬ takes → t.mem = s.mem ∧ t.rd (Reg.auSnapLenBytes n) = len ∧ t.rd (Reg.glbSnapCtlState p) = s.rd (Reg.glbSnapCtlState p)) ∧
          (takes → s.rd (Reg.glbSnapStrideBytes p) < len + c.params → t.mem = s.mem ∧ t.rd (Reg.glbSnapCtlState p) = snMissed) ∧
          (takes → len + c.params ≤ s.rd (Reg.glbSnapStrideBytes p) → t.rd (Reg.auSnapLenBytes n) = (len + c.params) % 2 ^ (Reg.auSnapLenBytes n).w ∧
            t.rd (Reg.glbSnapCtlState p) = snCopying ∧
            (s.Lands n dst c.params → dst + c.params ≤ dieKey n scBase → (∀ i, i < c.params → s.poisonAt (dieKey n c.grad + i) 1 = none) →
              Stored s t dst (s.bytesAt (dieKey n c.grad) c.params))))) ∧
      (let mine := s.fdStopped n = false ∧ r.cmd ≠ [] ∧ c.op = auSnapend
        let takes := c.step = s.rd (Reg.glbSnapCtlStep p) ∧ s.snapOpen p = true
        (¬ mine → exec (.snapend fd) s = .next s) ∧
        (mine → ∃ t, exec (.snapend fd) s = .next t ∧ AuDone s t n c ∧ t.mem = s.mem ∧
          (∀ m, m ∈ t.snapClosed ↔ m ∈ s.snapClosed ∨ (takes ∧ m = n)) ∧
          t.rd (Reg.glbSnapCtlState p) = (if takes ∧ ∀ m ∈ s.parcelFds p, m = n ∨ m ∈ s.snapClosed then snShipping
            else s.rd (Reg.glbSnapCtlState p)))))

/-- R395, R396, R457 to R464. -/
def Obligations.SnapshotsAndShadows : Prop :=
  ∀ s : State,
    (∀ (p : BitVec 2) (step : BitVec 32),
      let q := p.toNat
      let st := Reg.glbSnapCtlState q
      let busy := s.rd st = snArmed ∨ s.rd st = snCopying ∨ s.rd st = snShipping
      let fds := s.parcelFds q
      let area := fun fd => dieKey fd (t2Base + s.rd (Reg.auSnapBaseBase fd))
      let len := fun fd => s.rd (Reg.auSnapLenBytes fd)
      (busy → exec (.snapArm p step) s = .next s) ∧
      (¬ busy → ∃ t, exec (.snapArm p step) s = .next t ∧ t.rd st = snArmed ∧ t.rd (Reg.glbSnapCtlStep q) = step.toNat ∧
        t.flag (Reg.glbSnapCtlArm q) = true ∧
        (∀ fd ∈ fds, t.rd (Reg.auSnapLenBytes fd) = 0) ∧
        OnlyRegs { s with snapClosed := t.snapClosed } t (st.addr :: fds.map (fun fd => (Reg.auSnapLenBytes fd).addr)) ∧
        ∀ f, f ∈ t.snapClosed ↔ f ∈ s.snapClosed ∧ s.parcelOf f ≠ q) ∧
      (s.rd st ≠ snShipping → exec (.snapshotShipDone p) s = .next s) ∧
      (s.rd st = snShipping → ∃ t, exec (.snapshotShipDone p) s = .next t ∧ t.rd st = snDone ∧ t.stns = s.stns ∧
        t.rd (Reg.glbSnapBytesBytes q) = (fds.map len).sum % 2 ^ 64 ∧
        ∀ fd, fds = [fd] → len fd ≠ 0 →
          let a := s.rd (Reg.glbSnapDestAddr q) + fd * s.rd (Reg.glbSnapStrideBytes q)
          let key := s.keyOf a
          (keyRemote key = false → (∀ i, i < len fd → regionOf (key / 2 ^ 41) (key % 2 ^ 41 + i) = .t1) ∨
              (∀ i, i < len fd → regionOf (key / 2 ^ 41) (key % 2 ^ 41 + i) = .t2) →
            (∀ i, i < len fd → s.poisonAt (area fd + i) 1 = none) →
            s.Lands fd key (len fd) → Stored s t key (s.bytesAt (area fd) (len fd))) ∧
          (keyRemote key = true → t.mem = s.mem ∧ MsgSent s t (TxFlit.msg 6 7 (addrModule a) (addrDie a) q [a, len fd] [])))) ∧
    (∀ (fd : BitVec 4) (owner : BitVec 18) (mode : BitVec 2) (step : BitVec 64) (q blocks : BitVec 32) (slot : List Byte),
      let n := fd.toNat
      let served := fun k => s.flag (Reg.fdShdServedValid n k) = true ∧ s.rd (Reg.fdShdServedModule n k) = owner.toNat
      let run := exec (.shadowMessageReceive fd owner mode step q blocks slot) s
      let numbered := s.flag Reg.glbModuleNumValid = true
      (¬ numbered → run = .next s) ∧
      (numbered → (∀ k, k < 8 → ¬ served k) → ∃ t, run = .next t ∧
        OnlyRegs (s.fromModule owner.toNat n) t [(Reg.fdShdStatReject n).addr] ∧
        t.rd (Reg.fdShdStatReject n) = min (s.rd (Reg.fdShdStatReject n) + 1) (2 ^ 16 - 1) ∧
        t.rd (Reg.fdShdStatAcked n) = s.rd (Reg.fdShdStatAcked n)) ∧
      (numbered → ∀ k, k < 8 → served k → (∀ j, j < k → ¬ served j) →
        let a := s.shdGen n k (step.toNat % 2)
        let body := slot.take (shdSlot mode.toNat)
        let b := a + 64 + q.toNat / 8 * shdSlot mode.toNat
        let old := s.bytesAt a 64
        let same := old.take 16 = leBytes 4 owner.toNat ++ [BitVec.ofNat 8 n, BitVec.ofNat 8 mode.toNat, old.getD 6 0, 0] ++ leBytes 8 step.toNat
        let stripe := (blocks.toNat - q.toNat % 8 + 7) / 8
        let got := min stripe ((if same then ofLeBytes ((old.drop 16).take 4) else 0) + 1)
        let full := got = stripe
        ∃ t, run = .next t ∧ t.stns = s.stns ∧
          (full → MsgSent s t (TxFlit.msg 5 6 owner.toNat n (s.parcelOf n) [q.toNat % 8, step.toNat] [])) ∧
          (s.Lands n a 64 → s.Lands n b body.length → b + body.length ≤ dieKey n scBase →
            (∀ i, i < body.length → t.peek (b + i) = body.getD i 0) ∧
            (∀ i, i < 64 → t.peek (a + i) = (shdHeader owner.toNat n mode.toNat (if full then 1 else 0) step.toNat got).getD i 0) ∧
            ∀ x, (∀ i, i < 64 → s.homeKey x ≠ a + i) → (∀ i, i < body.length → s.homeKey x ≠ b + i) → t.peek x = s.peek x))) ∧
    (∀ (fd : BitVec 4) (k : BitVec 3) (step : BitVec 32),
      let n := fd.toNat
      let acked := Reg.fdShdStatAcked n
      let run := exec (.shadowAckReceive fd k step) s
      let u := s.fromModule (s.rd (Reg.fdShdPeerModule n k.toNat)) n
      let all := ∀ i, i < 8 → i = k.toNat ∨ bitOf (s.rd acked) i = true
      let known := s.flag (Reg.fdShdStatValid n) = true ∧ s.rd (Reg.fdShdStatDoneStep n) = step.toNat
      let told := s.rd (Reg.fdShdDoneStation n)
      (Sparse.get (fun _ => 0) s.shdStep n ≠ step.toNat + 1 → run = .next u) ∧
      (Sparse.get (fun _ => 0) s.shdStep n = step.toNat + 1 → ∃ t, run = .next t ∧ OnlyRegs { u with sigs := t.sigs } t
          [acked.addr] ∧
        (∀ i, i < 8 → bitOf (t.rd acked) i = (bitOf (s.rd acked) i || decide (i = k.toNat))) ∧
        (¬ all ∨ known → t.sigs = s.sigs ∧ t.rd (Reg.fdShdStatDoneStep n) = s.rd (Reg.fdShdStatDoneStep n) ∧
          t.rd (Reg.fdShdStatValid n) = s.rd (Reg.fdShdStatValid n)) ∧
        (all → ¬ known → t.rd (Reg.fdShdStatDoneStep n) = step.toNat ∧ t.flag (Reg.fdShdStatValid n) = true ∧
          t.sigs = (if told = 0xFFFF then s.sigs else s.sigs ++ [(0xFFFF, told, s.rd (Reg.fdShdDoneCtr n), 1)])))) ∧
    (∀ (fd : BitVec 4) (owner module : BitVec 18) (step : BitVec 32) (stripe : BitVec 3) (want answer : Option (BitVec 64)) (ok : Bool)
        (mode : BitVec 2) (data : List Byte),
      let n := fd.toNat
      let st := Reg.fdShdPullState n
      let start := exec (.shdPullStart fd owner step) s
      let resp := exec (.pullResponseReceive fd stripe answer) s
      let got := exec (.pullStripeReceive fd stripe ok mode data) s
      let u := s.fromModule (s.rd (Reg.fdShdPeerModule n stripe.toNat)) n
      let failed := fun (out : Out) => ∃ t, out = .next t ∧ RegsAndEvents { u with pulls := t.pulls } t [st.addr] ∧ t.rd st = 4 ∧
        t.rd (Reg.fdShdPullOwner n) = s.rd (Reg.fdShdPullOwner n) ∧ t.pull n = ⟨[], [], 0⟩
      let answers := ((s.pull n).answers.filter (fun a => a.1 ≠ stripe.toNat))
      let z := shdSlot mode.toNat
      let count := (s.rd (Reg.fdShdCfgBlocks n) - stripe.toNat + 7) / 8
      let place := fun i => dieKey n (t2Base + s.rd (Reg.fdShdAreaBase n) + 2 * (8 * i + stripe.toNat) * z)
      (s.down = true → start = .next s) ∧
      (s.down = false → ∃ t, start = .next t ∧ t.mem = s.mem ∧ t.stns = s.stns ∧ t.rd (Reg.fdShdPullOwner n) = owner.toNat ∧
        t.rd (Reg.fdShdPullStep n) = step.toNat ∧
        ((∀ k, k < 8 → s.flag (Reg.fdShdPeerValid n k) = true) → t.rd st = 1 ∧ t.pull n = ⟨[], [], step.toNat⟩) ∧
        ((∃ k, k < 8 ∧ s.flag (Reg.fdShdPeerValid n k) = false) → t.rd st = 4 ∧ t.pull n = ⟨[], [], 0⟩)) ∧
      (s.flag Reg.glbModuleNumValid = false → exec (.pullRequestReceive fd module owner stripe want) s = .next s) ∧
      (s.flag Reg.glbModuleNumValid = true → ∃ t, exec (.pullRequestReceive fd module owner stripe want) s = .next t ∧ t.mem = s.mem ∧ t.stns = s.stns ∧ t.pulls = s.pulls ∧
        t.poison = s.poison ∧
        (let head := fun k g => s.bytesAt (s.shdGen n k g) 64
          let word := fun (h : List Byte) o l => ofLeBytes ((h.drop o).take l)
          let complete := fun k g => word (head k g) 0 4 = owner.toNat ∧ word (head k g) 4 1 = n ∧ word (head k g) 6 1 = 1
          let stepOf := fun k g => word (head k g) 8 8
          let served := fun k => s.flag (Reg.fdShdServedValid n k) = true ∧ s.rd (Reg.fdShdServedModule n k) = owner.toNat
          let tells := fun (args : List Nat) (d : List Byte) => MsgSent s t (TxFlit.msg 5 6 module.toNat n (s.parcelOf n) ([stripe.toNat] ++ args) d)
          ((∀ k, k < 8 → ¬ served k) → tells [0] []) ∧
          ∀ k, k < 8 → served k → (∀ j, j < k → ¬ served j) →
            (want = none → (∀ g, g < 2 → ¬ complete k g) → tells [0] []) ∧
            (want = none → ∀ g, g < 2 → complete k g → (∀ h, h < 2 → complete k h → stepOf k h ≤ stepOf k g) → tells [stepOf k g + 1] []) ∧
            (∀ r, want = some r → (∀ g, g < 2 → complete k g → stepOf k g ≠ r.toNat) → tells [0] []) ∧
            (∀ r g, want = some r → g < 2 → complete k g → stepOf k g = r.toNat → (∀ h, h < g → complete k h → stepOf k h ≠ r.toNat) →
              tells [r.toNat + 1, word (head k g) 5 1]
                (s.bytesAt (s.shdGen n k g + 64) (word (head k g) 16 4 * shdSlot (word (head k g) 5 1)))))) ∧
      (s.rd st ≠ 1 → resp = .next u) ∧ (s.rd st = 1 → answer = none → failed resp) ∧
      (∀ r, s.rd st = 1 → answer = some r → ∃ t, resp = .next t ∧ t.mem = s.mem ∧ t.stns = s.stns ∧
        t.pull n = { s.pull n with answers := answers ++ [(stripe.toNat, r.toNat)] } ∧
        (answers.length < 7 → t.rd st = 1 ∧ t.rd (Reg.fdShdPullStep n) = s.rd (Reg.fdShdPullStep n)) ∧
        (7 ≤ answers.length → t.rd st = 2 ∧
          ((s.pull n).imposed ≠ 0 → t.rd (Reg.fdShdPullStep n) = (s.pull n).imposed % 2 ^ 32) ∧
          ((s.pull n).imposed = 0 → ∃ m, (m = r.toNat ∨ ∃ a ∈ answers, a.2 = m) ∧ m ≤ r.toNat ∧ (∀ a ∈ answers, m ≤ a.2) ∧
            t.rd (Reg.fdShdPullStep n) = m % 2 ^ 32))) ∧
      (s.rd st ≠ 2 → got = .next u) ∧ (s.rd st = 2 → ok = false → failed got) ∧
      (s.rd st = 2 → ok = true → ∃ t, got = .next t ∧ t.stns = s.stns ∧
        let stripes := keyInsert (s.pull n).got stripe.toNat
        (stripes.length < 8 → t.rd st = 2 ∧ t.pull n = { s.pull n with got := stripes } ∧
          (data.length = count * z → (∀ i, i < count → s.Lands n (place i) z ∧ place i + z ≤ dieKey n scBase) →
            ∀ i b, i < count → b < z → t.peek (place i + b) = data.getD (i * z + b) 0)) ∧
        (8 ≤ stripes.length → t.rd st = 3 ∧ t.pull n = ⟨[], [], 0⟩))) ∧
    ∀ (p : BitVec 2) (module : BitVec 18),
      let q := p.toNat
      let m := module.toNat
      let run := exec (.peerDiscard p module) s
      (s.down = true → run = .next s) ∧
      (s.down = false → s.rd (Reg.glbTrvStatusState q) ≠ trvIdle → ∃ t, run = .next t ∧ EventsOnly s t) ∧
      (s.down = false → s.rd (Reg.glbTrvStatusState q) = trvIdle → ∃ t, run = .next t ∧
        OnlyRegs { s with remote := t.remote, readyHeld := t.readyHeld, colls := t.colls,
                          fab := { s.fab with stalled := t.fab.stalled, unrouted := t.fab.unrouted } } t
          [(Reg.glbPeerCtlModule q).addr, (Reg.colStatusActive 0).addr, (Reg.colStatusActive 1).addr] ∧
        t.rd (Reg.glbPeerCtlModule q) = m ∧ (∀ r, r ∈ t.remote ↔ r ∈ s.remote ∧ ¬ (r.parcel = q ∧ addrModule r.addr = m)) ∧
        (∀ r, r ∈ t.fab.stalled ↔ r ∈ s.fab.stalled ∧ ¬ (r.parcel = q ∧ addrModule r.addr = m)) ∧
        (∀ f, f ∈ t.fab.unrouted ↔ f ∈ s.fab.unrouted ∧ ¬ (f.src = 16 ∧ f.parcel = q ∧ f.peer = m)) ∧
        (∀ r, r ∈ t.readyHeld ↔ r ∈ s.readyHeld ∧ ¬ (r.2.1 = q ∧ r.2.2.2.2.1 = m)) ∧
        (s.ImageInTiers q → ∀ c, c ∈ t.colls ↔ c ∈ s.colls ∧ ¬ (c.parcel = q ∧ m ∈ s.planModules q c.plan)) ∧
        ∀ d, d < 2 → t.rd (Reg.colStatusActive d) = (t.colls.filter (fun r => r.ld = d)).length % 2 ^ (Reg.colStatusActive d).w)

/-- R29, R443 to R455. -/
def Obligations.StationRepair : Prop :=
  ∀ (s : State) (fd : BitVec 4) (phys : BitVec 8) (flag : Bool),
    let n := fd.toNat
    let p := phys.toNat
    let errors := Reg.fdRstkStatErrors n
    let up := fun (f : Fld) => min (s.rd f + 1) (2 ^ 16 - 1)
    let inert := s.down = true ∨ s.flag (Reg.fdStatusRetired n) = true ∨ 136 ≤ p
    let run := exec (.stationError fd phys flag) s
    let counted := fun (t : State) (l : Nat) => t.failed = s.failed ++ [(n, p, l)] ∧
      t.rd (Reg.fdStatusFailed n) = (s.rd (Reg.fdStatusFailed n) + 1) % 2 ^ 8 ∧
      t.rd (Reg.fdStatusSparesLeft n) = s.rd (Reg.fdStatusSparesLeft n) - 1
    (∀ q, q ∈ s.spares n ↔ q < 136 ∧ (∀ l, l < 128 → s.physOf n l ≠ q) ∧ ∀ x ∈ s.failed, ¬ (x.1 = n ∧ x.2.1 = q)) ∧
    (inert → run = .next s) ∧
    (∀ l, ¬ inert → s.logOf n p = some l →
      let k : Loc := ⟨n, l, p⟩
      let spent := (s.stn k).active = true ∧ (s.unrep n l = true ∨ flag = true)
      let live := (s.stn k).active = true ∨ (s.stn k).ended = true
      let left := s.xpQueue.filter (fun x => decide (x ≠ (n, k.key)))
      (s.spares n = [] → ∃ t, run = .next t ∧ OnlyRegs { s with stns := t.stns, retireReq := t.retireReq, xpQueue := left } t
          [errors.addr] ∧ t.rd errors = up errors ∧
        t.stn k = { s.stn k with waiting := none, held := (s.stn k).active, holdReq := false, dead := (s.stn k).active } ∧
        (∀ j, j ≠ k.key → t.stnAt j = s.stnAt j) ∧ ∃ r ∈ t.retireReq, r.1 = n) ∧
      (s.spares n ≠ [] → spent → ∃ t, run = .next t ∧ t.mem = s.mem ∧ t.physOf n l = s.physOf n l ∧ t.failed = s.failed ∧
        t.rd errors = up errors ∧ t.rd (Reg.fdRstkStatEscalated n) = up (Reg.fdRstkStatEscalated n) ∧
        t.rd (Reg.fdRstkStatRestakes n) = s.rd (Reg.fdRstkStatRestakes n) ∧ (t.stn k).held = true ∧ (t.stn k).dead = true ∧
        ∀ j ∈ s.parcelStns (s.parcelOf n), (s.stn j).active = true → (s.stn j).faulted = false →
          (t.stn j).held = true ∨ (t.stn j).holdReq = true) ∧
      (∀ q, ¬ spent → q ∈ s.spares n → (∀ x ∈ s.spares n, q ≤ x) →
        let k' : Loc := ⟨n, l, q⟩
        (¬ live ∨ (s.lst k.num).barrec = none → ∃ t, run = .next t ∧ counted t l ∧ t.physOf n l = q ∧
          t.rd errors = up errors ∧ t.rd (Reg.fdRstkStatRestakes n) = up (Reg.fdRstkStatRestakes n) ∧
          t.pcOf k' = s.pcOf k ∧ t.legOf k' = s.legOf k ∧ (t.stn k').active = (s.stn k).active ∧ (t.stn k').faulted = (s.stn k).faulted ∧
          (∀ i, i < lsBytes → t.peek (lsKey n l i) = memDefault (lsKey n l i)) ∧
          ∀ a, (∀ i, i < lsBytes → s.homeKey a ≠ lsKey n l i) → t.peek a = s.peek a) ∧
        (∀ r, live → (s.lst k.num).barrec = some r → s.NoneWaits → (s.lst k.num).inlog = [] → (∀ x ∈ r.regs, x.1 < 0x1000) →
          ∃ t, run = .next t ∧ counted t l ∧ t.physOf n l = q ∧ t.rd errors = up errors ∧
          t.rd (Reg.fdRstkStatRestakes n) = up (Reg.fdRstkStatRestakes n) ∧ t.pcOf k' = r.pc % 2 ^ 32 ∧ (t.stn k').vregs = r.vregs ∧
          (t.stn k').active = true ∧ (t.stn k').held = ((s.stn k).held || (s.stn k).faulted) ∧ (t.lst k.num).repeating = true ∧
          (∀ i, i < lsBytes → t.peek (lsKey n l i) = memDefault (lsKey n l i)) ∧
          ∀ a, (∀ i, i < lsBytes → s.homeKey a ≠ lsKey n l i) → t.peek a = s.peek a))) ∧
    (¬ inert → s.logOf n p = none →
      (∀ r, s.returns.find? (fun r => decide (r.fd = n) && decide (r.phys = p)) = some r → ∃ t, run = .next t ∧
        RegsAndEvents { s with returns := s.returns.filter (· ≠ r) } t [errors.addr, (Reg.fdReturnCtlState n).addr] ∧
        t.rd errors = up errors ∧ t.rd (Reg.fdReturnCtlState n) = 3) ∧
      ((∀ r ∈ s.returns, ¬ (r.fd = n ∧ r.phys = p)) →
        (p ∉ s.spares n → run = .next s) ∧
        (p ∈ s.spares n → ∃ t, run = .next t ∧ OnlyRegs { s with failed := t.failed } t [(Reg.fdStatusFailed n).addr] ∧ counted t 255))) ∧
    (s.stateOf n p = stRunning ∨ s.shadows n p = true → exec (.watchdogTimeout fd phys) s = exec (.stationError fd phys false) s) ∧
    (s.stateOf n p ≠ stRunning → s.shadows n p = false → exec (.watchdogTimeout fd phys) s = .next s) ∧
    (let bad := flag = false ∧ s.down = false ∧ s.flag (Reg.fdStatusRetired n) = false ∧ p ∈ s.spares n;
      (¬ bad → exec (.spareSelfTest fd phys flag) s = .next s) ∧
      (bad → ∃ t, exec (.spareSelfTest fd phys flag) s = .next t ∧ OnlyRegs { s with failed := t.failed } t [(Reg.fdStatusFailed n).addr] ∧
        counted t 255)) ∧
    (let stopped := ∀ k ∈ s.parcelStns (s.parcelOf n), (s.stn k).active = false ∨ (s.stn k).held = true ∨ (s.stn k).ended = true ∨
        (s.stn k).faulted = true
      let trv := Reg.glbTrvStatusState (s.parcelOf n)
      ((∀ r ∈ s.retireReq, r.1 ≠ n) ∨ ¬ stopped → exec (.fdRetire fd) s = .next s) ∧
      (∀ r, s.retireReq.find? (fun r => r.1 = n) = some r → stopped → ∃ t, exec (.fdRetire fd) s = .next t ∧ t.mem = s.mem ∧ t.stns = s.stns ∧
        t.flag (Reg.fdStatusRetired n) = true ∧ t.rd (Reg.fdStatusEnabled n) = 0 ∧ (∀ l, l < 128 → t.physOf n l = 0xFF) ∧
        t.rd (Reg.fdRetireInfoCause n) = (if r.2 = 255 then 2 else 1) ∧ t.rd (Reg.fdRetireInfoMemAvail n) = (if r.2 = 255 then 0 else 1) ∧
        t.rd (Reg.fdRetireTimeMeridian n) = s.meridian.toNat ∧ t.rd trv = (if s.rd trv = trvRunning then trvHeld else s.rd trv) ∧
        t.retireReq = s.retireReq.filter (fun x => x.1 ≠ n) ∧ t.returns = s.returns.filter (fun x => x.fd ≠ n) ∧
        t.rd (Reg.fdReturnCtlState n) = (if ∃ x ∈ s.returns, x.fd = n then 3 else s.rd (Reg.fdReturnCtlState n)) ∧
        (r.2 = 255 → s.rd (Reg.t2StatusInService n) ≤ 8 → ∀ off, off < 2 ^ 41 → regionOf n off = .t1 → t.cwPoison (dieKey n off / 32) = true) ∧
        (r.2 ≠ 255 → t.poison = s.poison ∧ t.lostChan = s.lostChan))) ∧
    (
      let st := Reg.fdReturnCtlState n
      let barred := s.down = true ∨ s.rd st = 1 ∨ s.rd st = 2 ∨ s.flag (Reg.fdStatusRetired n) = true
      let failed := ∃ x ∈ s.failed, x.1 = n ∧ x.2.1 = p
      (barred → exec (.returnStart fd phys) s = .next s) ∧
      (¬ barred → ∃ t, exec (.returnStart fd phys) s = .next t ∧ OnlyRegs { s with returns := t.returns } t [st.addr] ∧
        t.rd (Reg.fdReturnCtlPhys n) = p ∧ (¬ failed → t.rd st = s.rd st ∧ t.returns = s.returns) ∧
        (failed → t.rd st = 1 ∧ t.returns = s.returns ++ [⟨n, p, none, 0, 0⟩]))) ∧
    (let test := s.returns.find? (fun r => decide (r.fd = n) && r.log.isNone);
      (test = none → exec (.returnTestDone fd flag) s = .next s) ∧
      (∀ r, test = some r →
        let f := s.failed.find? (fun x => decide (x.1 = n) && decide (x.2.1 = r.phys))
        (flag = false ∨ f = none → ∃ t, exec (.returnTestDone fd flag) s = .next t ∧
          RegsAndEvents { s with returns := s.returns.filter (· ≠ r) } t [(Reg.fdReturnCtlState n).addr] ∧ t.rd (Reg.fdReturnCtlState n) = 3) ∧
        (∀ x, flag = true → f = some x → x.2.2 = 255 → ∃ t, exec (.returnTestDone fd flag) s = .next t ∧
          RegsAndEvents { s with returns := s.returns.filter (· ≠ r), failed := s.failed.erase x } t
            [(Reg.fdReturnCtlState n).addr, (Reg.fdStatusFailed n).addr] ∧ t.rd (Reg.fdReturnCtlState n) = 0 ∧
          t.rd (Reg.fdStatusFailed n) = s.rd (Reg.fdStatusFailed n) - 1 ∧
          t.rd (Reg.fdStatusSparesLeft n) = (s.rd (Reg.fdStatusSparesLeft n) + 1) % 2 ^ 8) ∧
        (∀ x, flag = true → f = some x → x.2.2 ≠ 255 → exec (.returnTestDone fd flag) s =
          .next { s with returns := s.returns.map (fun y => if y = r then { r with log := some x.2.2 } else y) })))

/-- R414 to R440. -/
def Obligations.IngestJobs : Prop :=
  ∀ (s : State) (q : BitVec 2),
    let n := q.toNat
    let st := Reg.ingJobCtlState 0 n
    let j := s.job n
    let others := fun (t : State) => ∀ m, m ≠ n → t.job m = s.job m
    let dealt := fun (x : IngJob) (y : IngJob) => y = { x with left := y.left, ctx := y.ctx }
    let othersDealt := fun (t : State) => ∀ m, m ≠ n → dealt (s.job m) (t.job m)
    let holds := fun (t : State) (d m : Nat) => ((t.job m).ctx.filter (fun b => (b + 1) % 2 = d)).length
    let shares := fun (t : State) => ∀ d, d < 2 →
      (t.igInUse d = ((List.range 4).map (holds t d)).sum) ∧ (s.igInUse d ≤ 128 → t.igInUse d ≤ 128) ∧
      ∀ m x, m < 4 → x < 4 → x ≠ m → t.igWaits x d ≠ [] → holds t d m ≤ t.igShare d m
    (s.down = true → exec (.ingestStart q) s = .next s ∧ exec (.ingestStop q) s = .next s ∧ exec (.ingestStepBegin q) s = .next s ∧
      exec (.ingestStepComplete q) s = .next s) ∧
    (exec (.ingestStart q) s = if s.down then .next s else exec (.ingestStart q) s.ingSwap) ∧
    (s.fw.pend = none → s.ingSwap = s) ∧
    (s.down = false → s.fw.pend = none →
      let a := s.rd (Reg.ingJobAddrAddr 0 n)
      let d : IngJob := { IngJob.idle with desc := s.bytesAt (s.keyOf a) 192 }
      let firmware := (s.fw.run.getD 1 none).isSome = true ∧ (s.fw.run.getD 2 none).isSome = true
      let discards := Reg.ingJobStatDiscard 0 n
      let need := [(s.keyOf a, 192)]
      let here := s.remoteHere need = true
      let run := exec (.ingestStart q) s
      let heldAt := fun o => ∃ t, run = .next t ∧ RegsAndEvents { s with ing := t.ing, remoteBuf := (s.dropRemote need).remoteBuf } t [st.addr] ∧
        t.rd st = ingHeld ∧ t.rd (Reg.ingJobCtlErrOff 0 n) = o ∧ t.job n = IngJob.idle ∧ others t
      (s.rd st ≠ ingIdle → ∃ t, run = .next t ∧ OnlyRegs s t [discards.addr] ∧ t.rd discards = min (s.rd discards + 1) (2 ^ discards.w - 1)) ∧
      (s.rd st = ingIdle → ¬ firmware → heldAt 0xFF) ∧
      (s.rd st = ingIdle → firmware → a % 64 ≠ 0 → heldAt 0) ∧
      (s.rd st = ingIdle → firmware → a % 64 = 0 → ¬ here →
        run = .next ((s.askRemote 18 0xFFFF 0 0 n need).setJob n { IngJob.idle with starting := true })) ∧
      (s.rd st = ingIdle → firmware → a % 64 = 0 → here →
        (∀ pre o post, s.ingChecks n d = pre ++ (o, true) :: post → (∀ x ∈ pre, x.2 = false) → heldAt o) ∧
        ((∀ x ∈ s.ingChecks n d, x.2 = false) → ∃ t, run = .next t ∧
          OnlyRegs { s with ing := t.ing, remoteBuf := (s.dropRemote need).remoteBuf } t [st.addr] ∧ t.rd st = ingRunning ∧
          t.rd (Reg.ingJobCtlErrOff 0 n) = 0 ∧ t.job n = { d with step := d.first } ∧ others t)) ∧
      (s.rd st = ingHeld ∨ (s.rd st = ingRunning ∧ j.busy = false) ∨ (s.rd st = ingIdle ∧ j.starting = true) →
        ∃ t, exec (.ingestStop q) s = .next t ∧
        OnlyRegs { s with ing := t.ing, igd := t.igd, remote := t.remote, remoteBuf := t.remoteBuf } t [st.addr] ∧ t.rd st = ingIdle ∧
        t.job n = IngJob.idle ∧ othersDealt t ∧ shares t ∧
        ∀ r, r ∈ t.remote ↔ r ∈ s.remote ∧ ¬ (r.stn = 0xFFFF ∧ r.parcel = n ∧ r.isWrite = false)) ∧
      (s.rd st = ingRunning → j.busy = true → ∃ t, exec (.ingestStop q) s = .next t ∧ OnlyRegs s t [st.addr] ∧ t.rd st = ingStopping) ∧
      ((s.rd st = ingIdle ∧ j.starting = false) ∨ s.rd st = ingStopping → exec (.ingestStop q) s = .next s)) ∧
    (s.down = false → s.fw.pend = none →
      let credit := s.natAt (s.keyOf (j.f 120 8)) 8
      let open_ := j.starting = false ∧ s.rd st = ingRunning ∧ j.busy = false ∧ j.step - j.first + 1 ≤ credit + j.nbuf
      let es := (List.range j.samples).map (fun b => (b, s.clipEntry j (j.clip (j.pos j.step b))))
      let nv := es.filter (fun x => !clipBad x.2 && decide (ent x.2 0 1 = 0))
      let lost := ∃ x ∈ nv, s.flag ⟨(Reg.ingNvmeStatLost 1).addr, 16 + ent x.2 3 1, 1⟩ = true
      let epochs := 2 ^ 55 ≤ (j.step * j.gb + (j.gb - 1)) / j.clips
      let table := s.remoteHere (s.ingTab j) = true
      let run := exec (.ingestStepBegin q) s
      (j.starting = true → run = exec (.ingestStart q) s) ∧
      (j.starting = false → ¬ open_ → run = .next s) ∧
      (open_ → epochs → ∃ t, run = .next t ∧ RegsAndEvents s t [st.addr] ∧ t.rd st = ingHeld) ∧
      (open_ → ¬ epochs → ¬ table → run = .next (s.askRemote 18 0xFFFF 0 0 n (s.ingTab j))) ∧
      (open_ → ¬ epochs → table → lost → ∃ t, run = .next t ∧ OnlyRegs s t [st.addr] ∧ t.rd st = ingHeld) ∧
      (open_ → ¬ epochs → table → ¬ lost → ∃ t, run = .next t ∧ t.mem = s.mem ∧ t.stns = s.stns ∧ t.rd st = ingRunning ∧ othersDealt t ∧ shares t ∧
        dealt { j with busy := true, reads := nv.map (fun x => ⟨x.1, ent x.2 3 1, ent x.2 16 8, [], 0⟩) } (t.job n) ∧
        (∀ b, b < j.samples → b ∈ (t.job n).left ∨ t.sampleHere n b = true) ∧
        s.outbox ++ nv.map (fun x => ⟨.nvmeRead, [n, x.1, ent x.2 3 1, ent x.2 4 4, ent x.2 8 8, ent x.2 16 8], []⟩) <+: t.outbox)) ∧
    (s.down = false → s.fw.pend = none →
      let u := s.igDeal
      let j := u.job n
      let reads := j.busy = true ∧ (∀ r ∈ j.reads, r.len ≤ r.have'.length)
      let clips := u.remoteHere (u.ingNeeds j) = true
      let whole := reads ∧ clips ∧ j.left = []
      let o := (u.ingSample j 0).2
      let stop := s.rd st = ingStopping
      let run := exec (.ingestStepComplete q) s
      (u = { s with ing := u.ing, igd := u.igd } ∧ dealt (s.job n) j ∧ othersDealt u ∧ shares u) ∧
      (¬ reads → run = .next u) ∧ (reads → ¬ clips → run = .next (u.askRemote 18 0xFFFF 0 0 n (u.ingNeeds j))) ∧
      (reads → clips → j.left ≠ [] → run = .next u) ∧
      (whole → ∃ t, run = .next t ∧ t.mem = ((List.range j.samples).foldl (fun s b => s.ingPut n b) u).mem ∧ t.stns = s.stns ∧ othersDealt t ∧ shares t ∧
        t.rd (Reg.ingJobStepStep 0 n) = j.step % 2 ^ (Reg.ingJobStepStep 0 n).w ∧
        t.sigs = (if j.f 106 2 = 0xFFFF then s.sigs else s.sigs ++ [(0xFFFF, j.f 106 2, j.f 105 1, 1)]) ∧
        (j.samples = 1 → t.rd (Reg.ingJobStatFrames 0 n) = min (s.rd (Reg.ingJobStatFrames 0 n) + o.frames) (2 ^ (Reg.ingJobStatFrames 0 n).w - 1) ∧
          t.rd (Reg.ingJobBadEmpty 0 n) = min (s.rd (Reg.ingJobBadEmpty 0 n) + o.empty.toNat) (2 ^ (Reg.ingJobBadEmpty 0 n).w - 1) ∧
          t.rd (Reg.ingJobBadBad 0 n) = min (s.rd (Reg.ingJobBadBad 0 n) + o.bad.toNat) (2 ^ (Reg.ingJobBadBad 0 n).w - 1)) ∧
        (stop → t.rd st = ingIdle ∧ t.job n = IngJob.idle) ∧
        (¬ stop → t.rd st = (if j.hold then ingHeld else s.rd st) ∧
          t.job n = { j with step := j.step + 1, busy := false, hold := false, reads := [], left := [], ctx := [], errClips := (t.job n).errClips }))) ∧
    (∀ (b : BitVec 12) (ok : Bool) (len : BitVec 32) (data : List Byte),
      let errs := Reg.ingNvmeStatReadErr 1
      let wanted := j.reads.find? (fun r => decide (r.b = b.toNat) && decide (r.have'.length < r.len))
      let run := exec (.nvmeReadComplete q b ok len data) s
      (wanted = none → run = .next s) ∧
      (∀ r, wanted = some r →
        let put := fun (r' : IngRead) => { j with reads := j.reads.map (fun x => if x = r then r' else x) }
        (ok = true → ∃ t, run = .next t ∧ t = { s with ing := t.ing, igd := t.igd, fab := t.fab } ∧ othersDealt t ∧ shares t ∧
          t.fab = (if r.b % 2 = 1 then s.passMesh 19 18 0 else s).fab ∧
          dealt (put { r with have' := r.have' ++ data.map some, tries := 0 }) (t.job n)) ∧
        (ok = false → r.tries < 2 → ∃ t, run = .next t ∧ t = { s with ing := t.ing, outbox := t.outbox } ∧ others t ∧
          t.job n = put { r with tries := r.tries + 1 } ∧
          t.outbox = s.outbox ++ [⟨.nvmeRead, [n, r.b, r.ctrl, r.have'.length, len.toNat], []⟩]) ∧
        (ok = false → 2 ≤ r.tries → ∃ t, run = .next t ∧ RegsAndEvents { s with ing := t.ing, igd := t.igd } t [errs.addr] ∧ othersDealt t ∧ shares t ∧
          t.rd errs = min (s.rd errs + 1) (2 ^ errs.w - 1) ∧
          (s.igd.errTime ≠ 0 → s.meridian.toNat < s.igd.errTime - 1 + 4000000000 → OnlyRegs { s with ing := t.ing, igd := t.igd } t [errs.addr]) ∧
          dealt (put { r with have' := r.have' ++ List.replicate (min len.toNat (r.len - r.have'.length)) none, tries := 0 }) (t.job n)))) ∧
    ∀ ctrl : BitVec 4,
      let c := ctrl.toNat
      let lost : Fld := ⟨(Reg.ingNvmeStatLost 1).addr, 16 + c, 1⟩
      let run := exec (.nvmeControllerLost ctrl) s
      (s.flag lost = true → run = .next s) ∧
      (s.flag lost = false → ∃ t, run = .next t ∧ RegsAndEvents { s with ing := t.ing, igd := t.igd } t [lost.addr] ∧ shares t ∧
        t.flag lost = true ∧ (t.bar0Reg .pf 0x2300020).getLsbD c = false ∧
        ∀ m, m < 4 →
          ((∀ r ∈ (s.job m).reads, r.ctrl ≠ c) → dealt (s.job m) (t.job m)) ∧
          ((∃ r ∈ (s.job m).reads, r.ctrl = c) → (t.job m).hold = true ∧ (t.job m).busy = (s.job m).busy ∧
            ∀ r ∈ (t.job m).reads, r.ctrl = c → r.len ≤ r.have'.length))

/-- R555 to R576 and R570. -/
def Obligations.SecurityCommands : Prop :=
  ∀ s : State,
    let serves := s.down = false ∧ s.flag Reg.secStatusRotError = false
    let secOnly := fun (t : State) (f : Sec → Sec) => t = { s with sec := f s.sec }
    let open' := fun (t : State) (b : Nat) => Sparse.get (fun _ => 0) t.sec.grants b
    let grantsAt := Reg.secGrantsScope.addr
    let statusAt := Reg.secStatusLifecycle.addr
    (¬ serves → exec .nonceReq s = .next s ∧ exec .tokenSubmit s = .next s ∧ exec .tokenVerificationDone s = .next s ∧
      exec .svnCommit s = .next s ∧ exec .toField s = .next s ∧ exec .rotSelftestFailure s = .next s) ∧
    (serves → ∃ t, exec .nonceReq s = .next t ∧
      (let bs := (List.range 32).map (Config.rotByte s.sec.nonceNo)
       OnlyRegs { s with sec := { s.sec with nonce := some bs, nonceNo := s.sec.nonceNo + 1 } } t
         ((List.range 4).map (fun i => (Reg.secNonceBytes i).addr)) ∧
       ∀ i, i < 32 → t.rd (Reg.secNonceBytes (i / 8)) / 256 ^ (i % 8) % 256 = (Config.rotByte s.sec.nonceNo i).toNat)) ∧
    (∃ t, exec .nonceExpiry s = .next t ∧ secOnly t (fun x => { x with nonce := none })) ∧
    (serves → s.sec.verifying ≠ none ∨ s.sec.refused = true → ∃ t, exec .tokenSubmit s = .next t ∧ OnlyRegs s t [statusAt] ∧
      t.rd Reg.secStatusTokenResult = 8 ∧ t.rd Reg.secStatusLifecycle = s.rd Reg.secStatusLifecycle) ∧
    (serves → s.sec.verifying = none → s.sec.refused = false → ∃ t tok key, exec .tokenSubmit s = .next t ∧
      secOnly t (fun x => { x with verifying := some (tok, key, s.sec.nonce), nonce := none }) ∧ tok.length = 224 ∧ key.length = 96 ∧
      (∀ i, i < 28 → ofLeBytes ((tok.drop (8 * i)).take 8) = s.rd (Reg.secTokenData i)) ∧
      ∀ i, i < 12 → ofLeBytes ((key.drop (8 * i)).take 8) = s.rd (Reg.secTokenKeyData i)) ∧
    (s.sec.verifying = none → exec .tokenVerificationDone s = .next s) ∧
    (∀ t key nonce, serves → s.sec.verifying = some (t, key, nonce) →
      let signer := le t 5 1
      let slot := le t 6 1
      let scope := le t 8 8
      let dur := le t 16 4
      let res := if tokenFormatOk t = false then 2 else if s.keyOk signer slot key = false then 3
        else if ecdsaOk key (sha384 (t.take 128)) ((t.drop 128).take 96) = false then 4
        else if nonce ≠ some ((t.drop 24).take 32) then 5 else if (t.drop 56).take 48 ≠ Config.deviceId then 6
        else if s.scopeOk signer scope = false then 7 else 1
      ∃ u, exec .tokenVerificationDone s = .next (u.raise (if res = 1 then 0x0302 else 0x0303) 4 [signer, slot, scope, res]) ∧
        OnlyRegs { s with sec := u.sec } u [statusAt, grantsAt, Reg.secKeysErfRevoked.addr, Reg.secKeysOwnerRevoked.addr] ∧
        u.sec.verifying = none ∧ u.sec.nonce = s.sec.nonce ∧ u.rd Reg.secStatusTokenResult = res ∧
        (res ≠ 1 → u.rd Reg.secStatusTokenFails = min (s.rd Reg.secStatusTokenFails + 1) 255 ∧ u.sec.grants = s.sec.grants ∧
          u.sec.decom = s.sec.decom ∧ (s.sec.failRun < 15 → u.sec.failRun = s.sec.failRun + 1 ∧ u.sec.refused = s.sec.refused) ∧
          (15 ≤ s.sec.failRun → u.sec.failRun = 0 ∧ u.sec.refused = true)) ∧
        (res = 1 → u.rd Reg.secStatusTokenFails = 0 ∧ u.sec.failRun = 0 ∧
          (scope = 64 → u.sec.decom = true ∧ u.sec.grants = s.sec.grants) ∧
          (scope = 128 → u.sec.decom = s.sec.decom ∧ u.sec.grants = s.sec.grants ∧
            (let f := if signer = 1 then Reg.secKeysErfRevoked else Reg.secKeysOwnerRevoked;
             u.rd f = s.rd f ||| (2 ^ slot - 1))) ∧
          (scope < 64 → u.sec.decom = s.sec.decom ∧ (∀ b, open' u b = if bitOf scope b then max dur (open' s b) else open' s b) ∧
            (scope ≠ 0 → u.rd Reg.secGrantsSigner = signer % 4)))) ∧
    (∃ t, exec .tokenLockoutEnd s = .next t ∧ secOnly t (fun x => { x with refused := false })) ∧
    (∀ sec : BitVec 32, (s.sec.grants.map Prod.fst).Nodup → ∃ u,
      exec (.grantExpiry sec) s = .next (if ∃ e ∈ s.sec.grants, e.2 ≤ sec.toNat then u.raise 0x0304 4 [] else u) ∧
      OnlyRegs { s with sec := { s.sec with grants := u.sec.grants, signers := u.sec.signers } } u [grantsAt] ∧
      (∀ b, open' u b = open' s b - sec.toNat) ∧ (∀ e ∈ u.sec.grants, 0 < e.2) ∧
      (u.sec.grants = [] → u.rd Reg.secGrantsScope = 0 ∧ u.rd Reg.secGrantsRemainS = 0) ∧
      u.rd Reg.secGrantsSigner = s.rd Reg.secGrantsSigner) ∧
    (s.down = true ∨ s.sec.grants = [] → exec .relock s = .next s) ∧
    (s.down = false → s.sec.grants ≠ [] → ∃ u, exec .relock s = .next (u.raise 0x0304 4 []) ∧
      OnlyRegs { s with sec := { s.sec with grants := [], signers := [] } } u [grantsAt] ∧
      u.rd Reg.secGrantsScope = 0 ∧ u.rd Reg.secGrantsRemainS = 0) ∧
    (s.down = true ∨ s.sec.decom = false → exec .decommission s = .next s) ∧
    (s.down = false → s.sec.decom = true → ∃ u : State, exec .decommission s = .next (u.raise 0x0305 4 []) ∧ u.stns = s.stns ∧
      u.sec = { s.sec with decom := false, nonce := none, verifying := none, grants := [], signers := [] } ∧
      u.rd Reg.secStatusLifecycle = 3 ∧ u.flag Reg.glbStartStatusReady = false ∧ u.rd Reg.secGrantsScope = 0 ∧
      (∀ a, a ≠ statusAt → a ≠ grantsAt → a ≠ Reg.glbStartStatusReady.addr → u.reg a = s.reg a) ∧
      ((∀ fd, fd < 16 → s.rd (Reg.t2StatusInService fd) ≤ 8) → ∀ k, k / 2 ^ 41 < 16 → u.peek k = match regionOf (k / 2 ^ 41) (k % 2 ^ 41) with
        | .t1 => memDefault k
        | .t2 => memDefault k
        | .sc _ => memDefault k
        | .ls _ _ => memDefault k
        | _ => s.peek k)) ∧
    (serves →
      let higher := s.rd Reg.secSvnPkcFused < s.rd Reg.secSvnPkcRun ∨ s.rd Reg.secSvnIngFused < s.rd Reg.secSvnIngRun
      (¬ higher → exec .svnCommit s = .next s) ∧
      (higher → ∃ u, exec .svnCommit s = .next (u.raise 0x0306 4 []) ∧ OnlyRegs s u [Reg.secSvnPkcFused.addr] ∧
        u.rd Reg.secSvnPkcFused = max (s.rd Reg.secSvnPkcFused) (s.rd Reg.secSvnPkcRun) ∧
        u.rd Reg.secSvnIngFused = max (s.rd Reg.secSvnIngFused) (s.rd Reg.secSvnIngRun) ∧
        u.rd Reg.secSvnPkcRun = s.rd Reg.secSvnPkcRun ∧ u.rd Reg.secSvnIngRun = s.rd Reg.secSvnIngRun)) ∧
    (serves →
      let blows := s.rd Reg.secStatusLifecycle = 1 ∧ s.sec.toField = false
      (¬ blows → exec .toField s = .next s) ∧
      (blows → ∃ u, exec .toField s = .next (u.raise 0x0305 4 []) ∧ secOnly u (fun x => { x with toField := true }))) ∧
    (exec (.secLockWrite false) s = .next s) ∧
    (s.down = true → exec (.secLockWrite true) s = .next s) ∧
    (s.down = false → ∃ t, exec (.secLockWrite true) s = .next t ∧ OnlyRegs s t [Reg.secLockLock.addr] ∧ t.flag Reg.secLockLock = true) ∧
    (serves → ∃ u, exec .rotSelftestFailure s = .next (u.raise 0xC309 4 []) ∧
      RegsAndEvents { s with sec := { s.sec with nonce := none, verifying := none, grants := [], signers := u.sec.signers } } u
        [statusAt, grantsAt] ∧
      u.flag Reg.secStatusApproved = false ∧ u.flag Reg.secStatusRotError = true ∧
      u.rd Reg.secStatusLifecycle = s.rd Reg.secStatusLifecycle ∧ (s.sec.grants ≠ [] → u.rd Reg.secGrantsScope = 0)) ∧
    (∀ (mask : BitVec 4) (wipe : Bool),
      let one := fun (p : Nat) (x : State) => match exec (.tenantClear (BitVec.ofNat 4 (2 ^ p)) wipe) x with
        | .next y => y
        | _ => x
      exec (.tenantClear mask wipe) s = .next (((List.range 4).filter (bitOf mask.toNat)).foldl (fun x p => one p x) s)) ∧
    (∀ (p : Nat) (wipe : Bool), p < 4 →
      let run := exec (.tenantClear (BitVec.ofNat 4 (2 ^ p)) wipe) s
      let can := s.down = false ∧ s.parcelExists p = true ∧ s.clearing p = false
      let fds := s.parcelFds p
      (¬ can → run = .next s) ∧
      (can → s.trvIdleAt p = false → run = .next (s.parcelBusy p)) ∧
      (can → s.trvIdleAt p = true → ∃ t, run = .next t ∧ t.clearing p = true ∧ (∀ q, q < 4 → q ≠ p → t.clearing q = s.clearing q) ∧
        t.flag Reg.glbParcelCfgClearing = true ∧ (∀ e ∈ t.stns, e.1 / 256 ∉ fds) ∧ (∀ e ∈ t.lsts, e.1 / 128 ∉ fds) ∧
        (∀ fd ∈ fds, fd < 16 → ∀ o, o < 0x100000 → fdKeep o = 0 →
          t.reg (0x1000000 + fd * 0x100000 + o) = regDefault (0x1000000 + fd * 0x100000 + o)) ∧
        (∀ e ∈ t.evHeld, e.1 ≠ p) ∧ (∀ e ∈ t.atc, e.1 ≠ p + 1) ∧ t.sec = s.sec ∧
        t.rd (Reg.pwrFinalTimeMeridian p) = s.meridian.toNat ∧
        (s.NoWritesHeld fds → ∀ k, Sparse.get memDefault t.mem k =
          if fds.contains (k / 2 ^ 41) then
            match regionOf (k / 2 ^ 41) (k % 2 ^ 41) with
            | .sc _ => memDefault k
            | .ls _ _ => memDefault k
            | .t1 => if wipe then memDefault k else Sparse.get memDefault s.mem k
            | .t2 => if wipe then memDefault k else Sparse.get memDefault s.mem k
            | _ => Sparse.get memDefault s.mem k
          else Sparse.get memDefault s.mem k))) ∧
    (∀ p : BitVec 2,
      let n := p.toNat
      let ends := s.clearing n = true ∧ n ∉ s.sec.splitNew
      (¬ ends → exec (.tenantClearDone p) s = .next s) ∧
      (ends → ∃ u, exec (.tenantClearDone p) s = .next (u.raise 0x0308 n []) ∧
        OnlyRegs s u [Reg.secTenantClearBusy.addr, Reg.glbParcelCfgClearing.addr] ∧ u.clearing n = false ∧
        (∀ q, q < 4 → q ≠ n → u.clearing q = s.clearing q) ∧
        (u.flag Reg.glbParcelCfgClearing = true ↔ ∃ q, q < 4 ∧ u.clearing q = true) ∧
        u.rd Reg.glbParcelCfgSplit = s.rd Reg.glbParcelCfgSplit)) ∧
    (∀ i : TapInst,
      let j := if i = .debug ∧ s.scopeOpen 5 = false then .bypass else i
      let holds := fun (x : TapInst) => x = .extest ∨ x = .extestPulse ∨ x = .extestTrain
      ((holds j ↔ holds s.sec.tap) → ∃ t, exec (.tapInstructionSelect i) s = .next t ∧ secOnly t (fun x => { x with tap := j })) ∧
      (¬ (holds j ↔ holds s.sec.tap) → ∃ t, exec (.tapInstructionSelect i) s = .next t ∧ t.sec.tap = j ∧ (t.down = true ↔ holds j) ∧
        t.rd Reg.glbResetCauseKind = 2 ∧ t.rd Reg.glbResetCauseSource = 0 ∧ t.sec.grants = [] ∧ t.mem = [] ∧ t.stns = [] ∧
        t.tag = s.tag ∧ t.pending = s.pending))

/-- R540 to R544. -/
def Obligations.ManagementControlAndMonitoring : Prop :=
  ∀ s : State,
    let ans := fun (x : State) (typ cmd cc : Nat) (data : List Byte) =>
      (.next { x with outbox := x.outbox ++ [⟨.mctpResponse, [typ, cmd, cc], data⟩] } : Out)
    (∀ (e t m : BitVec 8) (h : BitVec 32) (id v : BitVec 16) (mode : BitVec 2), s.down = true →
      ∀ c ∈ ([.smbusTimeout, .setEndpointId e, .getEndpointId, .getEndpointUuid, .getMctpVersionSupport t, .getMessageTypeSupport,
        .getVendorDefinedMessageSupport, .settid m, .gettid, .getpldmversion t, .getpldmtypes, .getpldmcommands t,
        .getpdrrepositoryinfo, .getpdr h, .getsensorreading id, .getstatesensorreadings, .setnumericeffectervalue id v,
        .getnumericeffectervalue id, .seteventreceiver mode e, .pollforplatformeventmessage, .eventmessagebuffersize v] : List Instr),
        exec c s = .next s) ∧
    (s.down = false →
      (∃ t, exec .smbusTimeout s = .next t ∧ OnlyRegs s t [Reg.mgtSmbStatTimeouts.addr] ∧
        t.rd Reg.mgtSmbStatTimeouts = min (s.rd Reg.mgtSmbStatTimeouts + 1) (2 ^ Reg.mgtSmbStatTimeouts.w - 1)) ∧
      (∀ e : BitVec 8, exec (.setEndpointId e) s = if e = 0 ∨ e = 0xFF then ans s 0 1 2 []
        else ans { s with mgt := { s.mgt with eid := e.toNat } } 0 1 0 [e]) ∧
      (exec .getEndpointId s = ans s 0 2 0 [BitVec.ofNat 8 s.mgt.eid]) ∧
      (∃ d, d.length = 16 ∧ exec .getEndpointUuid s = ans s 0 3 0 d) ∧
      (∀ t : BitVec 8, ∃ d, exec (.getMctpVersionSupport t) s =
        if t = 0 ∨ t = 1 ∨ t = 5 ∨ t = 0x7E ∨ t = 0xFF then ans s 0 4 0 d else ans s 0 4 0x80 []) ∧
      (exec .getMessageTypeSupport s = ans s 0 5 0 [0x00, 0x01, 0x05, 0x7E]) ∧
      (exec .getVendorDefinedMessageSupport s = ans s 0 6 0 [0x5C, 0x1F]) ∧
      (∀ t : BitVec 8, exec (.settid t) s = if t = 0 ∨ t = 0xFF then ans s 1 1 2 []
        else ans { s with mgt := { s.mgt with tid := t.toNat } } 1 1 0 []) ∧
      (exec .gettid s = ans s 1 2 0 [BitVec.ofNat 8 s.mgt.tid]) ∧
      (∀ t : BitVec 8, ∃ d, exec (.getpldmversion t) s = if t = 0 ∨ t = 2 ∨ t = 5 then ans s 1 3 0 d else ans s 1 3 0x83 []) ∧
      (∃ d, exec .getpldmtypes s = ans s 1 4 0 d ∧ d.length = 8 ∧
        ∀ t, t < 64 → (bitOf (ofLeBytes d) t = true ↔ t = 0 ∨ t = 2 ∨ t = 5)) ∧
      (∀ t : BitVec 8, ¬ (t = 0 ∨ t = 2 ∨ t = 5) → exec (.getpldmcommands t) s = ans s 1 5 0x83 []) ∧
      (∀ x ∈ ([(0, [1, 2, 3, 4, 5]), (2, [0x04, 0x0A, 0x0B, 0x0D, 0x11, 0x21, 0x31, 0x32, 0x50, 0x51]),
          (5, [0x01, 0x02, 0x10, 0x13, 0x14, 0x15, 0x16, 0x17, 0x18, 0x1A, 0x1B, 0x1C, 0x1D])] : List (BitVec 8 × List Nat)),
        ∃ d, exec (.getpldmcommands x.1) s = ans s 1 5 0 d ∧ d.length = 32 ∧
          ∀ c, c < 256 → (bitOf (ofLeBytes d) c = true ↔ c ∈ x.2)) ∧
      (∃ d, d.length = 40 ∧ exec .getpdrrepositoryinfo s = ans s 1 0x250 0 d) ∧
      (∀ h : BitVec 32, ∃ d, exec (.getpdr h) s = ans s 1 0x251 0 d) ∧
      (∀ (id : BitVec 16) (v : Nat), v < 2 ^ 64 →
        (id = 0 ∧ v = s.rd Reg.pwrInputWatts) ∨ (id = 1 ∧ v = s.rd Reg.pwrInAMv) ∨ (id = 2 ∧ v = s.rd Reg.pwrInACurrent) ∨
          (id = 3 ∧ v = s.rd Reg.pwrInBMv) ∨ (id = 4 ∧ v = s.rd Reg.pwrInBCurrent) ∨
          (∃ fd, fd < 16 ∧ id.toNat = 5 + fd ∧ v = s.rd (Reg.pwrFdVTj fd)) ∨
          (∃ fd, fd < 16 ∧ id.toNat = 21 + fd ∧ v = s.rd (Reg.t1TempTemp fd)) ∨ (id = 37 ∧ v = s.pwr.met.ein) →
        ∃ d, exec (.getsensorreading id) s = ans s 1 0x211 0 d ∧ d.length = 8 ∧ ofLeBytes d = v) ∧
      (∀ id : BitVec 16, 38 ≤ id.toNat → exec (.getsensorreading id) s = ans s 1 0x211 0x80 []) ∧
      (exec .getstatesensorreadings s = ans s 1 0x221 0x80 []) ∧
      (∀ id v : BitVec 16,
        (id ≠ 0 → exec (.setnumericeffectervalue id v) s = ans s 1 0x231 0x80 [] ∧
          exec (.getnumericeffectervalue id) s = ans s 1 0x232 0x80 []) ∧
        (id = 0 → (∃ u, exec (.powerCapWrite 1 v) s = .next u ∧ exec (.setnumericeffectervalue id v) s = ans u 1 0x231 0 []) ∧
          ∃ d, exec (.getnumericeffectervalue id) s = ans s 1 0x232 0 d ∧ d.length = 2 ∧ ofLeBytes d = s.rd Reg.pwrCapMgtWatts)) ∧
      (∀ (mode : BitVec 2) (e : BitVec 8),
        (mode = 0 → exec (.seteventreceiver mode e) s = ans { s with pldmReceiver := none } 1 0x204 0 []) ∧
        (mode = 1 → 
          let sent := ⟨.mctpResponse, [1, 0x204, 0], []⟩ :: s.platQueue.map (fun r => ⟨.platformEvent, [e.toNat], r⟩)
          exec (.seteventreceiver mode e) s =
            .next { s with pldmReceiver := some (e.toNat, true), platQueue := [], outbox := s.outbox ++ sent }) ∧
        (mode ≠ 0 → mode ≠ 1 → exec (.seteventreceiver mode e) s = ans { s with pldmReceiver := some (e.toNat, false) } 1 0x204 0 [])) ∧
      (s.platQueue = [] → exec .pollforplatformeventmessage s = ans s 1 0x20B 0 []) ∧
      (∀ r rest, s.platQueue = r :: rest → exec .pollforplatformeventmessage s = ans { s with platQueue := rest } 1 0x20B 0 r) ∧
      (∀ n : BitVec 16, ∃ d, d.length = 2 ∧ ofLeBytes d = n.toNat ∧
        exec (.eventmessagebuffersize n) s = ans { s with mgt := { s.mgt with evBuf := n.toNat } } 1 0x20D 0 d))

/-- R542, R543, R561 to R563. -/
def Obligations.FirmwareUpdate : Prop :=
  ∀ s : State,
    let ans := fun (x : State) (cmd cc : Nat) (data : List Byte) =>
      (.next { x with outbox := x.outbox ++ [⟨.mctpResponse, [1, 0x500 + cmd, cc], data⟩] } : Out)
    let up := s.fw.upd
    let refused := fun (cmd : Nat) => ans s cmd (if up = 0 then 0x80 else 0x84) []
    (∀ (w : BitVec 16) (b : Bool) (r : BitVec 8) (i : List Byte) (st : BitVec 2), s.down = true →
      ∀ c ∈ ([.querydeviceidentifiers, .getfirmwareparameters, .requestupdate, .passcomponenttable w b, .updatecomponent w,
        .transfercomplete r i, .verifycomplete, .applycomplete r, .activatefirmware st, .getstatus, .cancelupdatecomponent,
        .cancelupdate] : List Instr), exec c s = .next s) ∧
    (s.down = false →
      (exec .querydeviceidentifiers s = ans s 0x01 0 [0x5C, 0x1F, 0x20, 0x74]) ∧
      (∃ d, exec .getfirmwareparameters s = ans s 0x02 0 d ∧ d.length = 128 ∧
        (∀ a, s.fw.run.getD 0 none = some a → d.take 32 = versionOf (s.fw.imgs.getD a FwImg.none')) ∧
        (∀ a, s.fw.run.getD 1 none = some a → (d.drop 64).take 32 = versionOf (s.fw.imgs.getD (2 + a) FwImg.none')) ∧
        ((0 ∉ s.fw.applied) → (d.drop 32).take 32 = List.replicate 32 0)) ∧
      (up ≠ 0 → exec .requestupdate s = ans s 0x10 0x81 []) ∧
      (up = 0 → exec .requestupdate s = ans { s with fw := { s.fw with upd := 1, table := [], applied := [] } } 0x10 0 []) ∧
      (∀ (c : BitVec 16) (last : Bool),
        (up ≠ 1 → exec (.passcomponenttable c last) s = refused 0x13) ∧
        (up = 1 → exec (.passcomponenttable c last) s =
          ans { s with fw := { s.fw with table := s.fw.table ++ [c.toNat], upd := if last then 2 else 1 } } 0x13 0 [])) ∧
      (∀ c : BitVec 16,
        let named := c.toNat ∈ s.fw.table ∧ (c = 1 ∨ c = 2)
        (up ≠ 2 → exec (.updatecomponent c) s = refused 0x14) ∧
        (up = 2 → ¬ named → exec (.updatecomponent c) s = ans s 0x14 0x82 []) ∧
        (up = 2 → named → exec (.updatecomponent c) s =
          ans { s with fw := { s.fw with comp := c.toNat, image := [], upd := 3 } } 0x14 0 [])) ∧
      (∀ (r : BitVec 8) (img : List Byte),
        (up ≠ 3 → exec (.transfercomplete r img) s = .next s) ∧
        (up = 3 → r = 0 → exec (.transfercomplete r img) s = ans { s with fw := { s.fw with image := img, upd := 4 } } 0x16 0 []) ∧
        (up = 3 → r ≠ 0 → exec (.transfercomplete r img) s = ans { s with fw := { s.fw with upd := 2 } } 0x16 r.toNat [])) ∧
      (up ≠ 4 → exec .verifycomplete s = .next s) ∧
      (up = 4 → ∃ ok : Bool,
        exec .verifycomplete s = (if ok then ans { s with fw := { s.fw with upd := 5 } } 0x17 0 []
          else ans { s with fw := { s.fw with upd := 2, image := [] } } 0x17 1 []) ∧
        (let h := s.fw.image.take 512
         let signed := fun (signer slot at' sig : Nat) => s.keyOk signer slot ((h.drop at').take 96) = true ∧
           ecdsaOk ((h.drop at').take 96) (sha384 (h.take 96)) ((h.drop sig).take 96) = true
         let form := s.flag Reg.secStatusRotError = false ∧ 512 ≤ s.fw.image.length ∧ le h 0 4 = 0x31495746 ∧ le h 4 2 = s.fw.comp ∧
           le h 7 1 < 32 ∧ le h 44 4 = 0 ∧ le h 480 32 = 0 ∧ le h 6 1 < 64 ∧ le h 40 4 = s.fw.image.length - 512 ∧
           (h.drop 48).take 48 = sha384 (s.fw.image.drop 512)
         let svn := (if s.fw.comp = 1 then s.rd Reg.secSvnPkcFused else s.rd Reg.secSvnIngFused) ≤ le h 6 1
         let owner := bitOf (le h 7 1) 0 = true ∧ signed 2 (le h 7 1 / 8 % 4) 384 192
         (ok = true ↔ form ∧ svn ∧ signed 1 (le h 7 1 / 2 % 4) 288 96 ∧ (s.flag Reg.secKeysOwnerCosign = true → owner)))) ∧
      (∀ r : BitVec 8,
        (up ≠ 5 → exec (.applycomplete r) s = .next s) ∧
        (up = 5 → r ≠ 0 → exec (.applycomplete r) s = ans { s with fw := { s.fw with upd := 2, image := [] } } 0x18 r.toNat []) ∧
        (up = 5 → r = 0 → s.fw.imgs.length = 4 → s.fw.comp = 1 ∨ s.fw.comp = 2 → (∀ a ∈ s.fw.active, a ≤ 1) →
          let c := s.fw.comp - 1
          let slot := 2 * c + (1 - s.fw.active.getD c 0)
          ∃ t, exec (.applycomplete r) s = ans t 0x18 0 [] ∧
            t = { s with fw := { s.fw with imgs := t.fw.imgs, applied := s.fw.applied ++ [c], image := [], upd := 2 } } ∧
            t.fw.imgs.length = 4 ∧ t.fw.imgs.getD slot FwImg.none' = fwImgOf s.fw.image ∧
            ∀ i, i ≠ slot → t.fw.imgs.getD i FwImg.none' = s.fw.imgs.getD i FwImg.none')) ∧
      (∀ starts : BitVec 2,
        let f := s.fw
        (up ≠ 2 → exec (.activatefirmware starts) s = refused 0x1A) ∧
        (up = 2 → f.applied = [] → exec (.activatefirmware starts) s = ans s 0x1A 0x85 []) ∧
        (up = 2 → f.applied ≠ [] → ∃ t, exec (.activatefirmware starts) s = ans t 0x1A 0 [] ∧ t.fw.upd = 0 ∧ t.fw.applied = [] ∧
          t.fw.imgs = f.imgs ∧ RegsAndEvents { s with fw := t.fw, igd := { s.igd with nvme := t.igd.nvme } } t [Reg.secSvnPkcRun.addr] ∧
          (0 ∉ f.applied ∨ bitOf starts.toNat 0 = false → t.fw.active.getD 0 0 = f.active.getD 0 0 ∧
            t.fw.run.getD 0 none = f.run.getD 0 none) ∧
          (0 ∈ f.applied → bitOf starts.toNat 0 = true → t.fw.active.getD 0 0 = 1 - f.active.getD 0 0 ∧
            t.fw.run.getD 0 none = some (1 - f.active.getD 0 0) ∧
            t.rd Reg.secSvnPkcRun = (f.imgs.getD (1 - f.active.getD 0 0) FwImg.none').svn % 64) ∧
          (1 ∉ f.applied → t.fw.active.getD 1 0 = f.active.getD 1 0 ∧ t.fw.pend = f.pend ∧ t.fw.run.getD 1 none = f.run.getD 1 none) ∧
          (let a := f.active.getD 1 0
           let busy := ∃ q, q < 4 ∧ (s.rd (Reg.ingJobCtlState 0 q) = ingRunning ∨ s.rd (Reg.ingJobCtlState 0 q) = ingStopping)
           let ok := bitOf starts.toNat 1
           1 ∈ f.applied →
             (busy → t.igd = s.igd ∧ t.fw.pend = some ok ∧ t.fw.active.getD 1 0 = 1 - a ∧ t.fw.run.getD 1 none = f.run.getD 1 none) ∧
             (¬ busy → t.fw.pend = none) ∧
             (¬ busy → ok = true → t.fw.active.getD 1 0 = 1 - a ∧ t.fw.run.getD 1 none = some (1 - a) ∧
               t.fw.run.getD 2 none = some (1 - a) ∧
               t.igd.nvme = min 16 (Config.nvmeCount (if s.igd.bifurcated then 4 else 1))) ∧
             (¬ busy → ok = false → a ≤ 1 → t.fw.active.getD 1 0 = a ∧ t.fw.run.getD 1 none = f.run.getD 1 none)))) ∧
      (exec .getstatus s = ans s 0x1B 0 [BitVec.ofNat 8 up]) ∧
      (up = 3 ∨ up = 4 ∨ up = 5 → exec .cancelupdatecomponent s = ans { s with fw := { s.fw with upd := 2, image := [] } } 0x1C 0 []) ∧
      (¬ (up = 3 ∨ up = 4 ∨ up = 5) → exec .cancelupdatecomponent s = refused 0x1C) ∧
      (up = 0 → exec .cancelupdate s = ans s 0x1D 0x80 []) ∧
      (up ≠ 0 → exec .cancelupdate s =
        ans { s with fw := { s.fw with upd := 0, table := [], image := [], applied := [] } } 0x1D 0 []))

/-- R545 to R549, R558, R560, R565. -/
def Obligations.AttestationSegmentsAndTag : Prop :=
  ∀ s : State,
    let ans := fun (cmd cc : Nat) (data : List Byte) =>
      (.next { s with outbox := s.outbox ++ [⟨.mctpResponse, [5, cmd, cc], data⟩] } : Out)
    let dead := s.rd Reg.secStatusLifecycle = 3
    let failed := s.flag Reg.secStatusRotError = true
    (∀ (sl : BitVec 1) (o l : BitVec 16) (n : List Byte) (i : BitVec 8) (g : BitVec 2) (m f : BitVec 4) (v : BitVec 64) (ok : Bool),
      s.down = true →
      ∀ c ∈ ([.getVersion, .getCapabilities, .negotiateAlgorithms, .getDigests, .getCertificate sl o l, .challenge sl n,
        .getMeasurements i n, .i2cBusClear, .i2cSegmentIsolate g, .i2cRestore m f, .nfcGo v ok] : List Instr), exec c s = .next s) ∧
    (s.down = false → failed → exec .getVersion s = ans 0x84 0xFF []) ∧
    (s.down = false → ¬ failed → exec .getVersion s = ans 0x84 0 [0x13]) ∧
    (s.down = false → ∃ (c0 c1 : List Byte) (sign : List Byte → List Byte) (m : Nat → List Byte),
      let chain := fun (x : BitVec 1) => if x = 0 then c0 else c1
      (failed ∨ dead → exec .getCapabilities s = ans 0xE1 0xFF [] ∧ exec .negotiateAlgorithms s = ans 0xE3 0xFF [] ∧
        exec .getDigests s = ans 0x81 0xFF [] ∧ ∀ (x : BitVec 1) (o l : BitVec 16) (n : List Byte),
          exec (.getCertificate x o l) s = ans 0x82 0xFF [] ∧ exec (.challenge x n) s = ans 0x83 0xFF []) ∧
      (¬ failed → ¬ dead → (∃ d, d.length = 8 ∧ exec .getCapabilities s = ans 0xE1 0 d) ∧
        (∃ d, d.length = 16 ∧ exec .negotiateAlgorithms s = ans 0xE3 0 d) ∧
        exec .getDigests s = ans 0x81 0 (sha384 c0 ++ sha384 c1) ∧ ∀ (x : BitVec 1) (o l : BitVec 16) (n : List Byte),
          exec (.getCertificate x o l) s = ans 0x82 0 (((chain x).drop o.toNat).take l.toNat) ∧
          exec (.challenge x n) s = ans 0x83 0 (sha384 (chain x) ++ sign (sha384 (chain x) ++ n))) ∧
      (∀ (i : BitVec 8) (n : List Byte),
        let d := if i = 0 then [8] else if i = 0xFF then m 1 ++ m 2 ++ m 3 ++ m 4 ++ m 5 ++ m 6 ++ m 7 ++ m 8 else m i.toNat;
        exec (.getMeasurements i n) s =
          if s.flag Reg.secStatusRotError then ans 0xE0 0xFF [] else ans 0xE0 0 (if s.rd Reg.secStatusLifecycle = 3 then d else d ++ sign (d ++ n))) ∧
      (∀ c a d, c < 3 → s.fw.run.getD c none = some a →
        (s.fw.imgs.getD ((if c = 0 then 0 else 2) + a) FwImg.none').digest = some d → m (2 + c) = d) ∧
      ofLeBytes ((m 5).take 8) = (s.reg 0x300000).toNat % 8 ∧ ofLeBytes (((m 5).drop 8).take 8) = (s.reg 0x300008).toNat ∧ ofLeBytes (m 7) = (s.reg 0x300040).toNat ∧
      (m 6).head? = some (BitVec.ofNat 8 (s.rd Reg.secGrantsScope)) ∧
      m 8 = sha384 ((List.range 4).flatMap (fun j => Config.slotDigest (4 + j)))) ∧
    (s.down = false → ∃ t, exec .i2cBusClear s = .next t ∧ OnlyRegs s t [Reg.mgtI2cStatClears.addr] ∧
      t.rd Reg.mgtI2cStatClears = min (s.rd Reg.mgtI2cStatClears + 1) (2 ^ 16 - 1) ∧
      t.rd Reg.mgtI2cStatIsolated = s.rd Reg.mgtI2cStatIsolated) ∧
    (∀ seg : BitVec 2, s.down = false →
      let off := fun (x : State) (i : Nat) => bitOf (x.rd Reg.mgtI2cStatIsolated) i
      (off s seg.toNat = true → exec (.i2cSegmentIsolate seg) s = .next s) ∧
      (off s seg.toNat = false → ∃ u, OnlyRegs s u [Reg.mgtI2cStatIsolated.addr] ∧
        (∀ i, i < 4 → off u i = (off s i || decide (i = seg.toNat))) ∧ u.rd Reg.mgtI2cStatClears = s.rd Reg.mgtI2cStatClears ∧
        exec (.i2cSegmentIsolate seg) s = (let w := u.raise 0x4402 4 [seg.toNat]
          if seg = 1 then exec (.entryLoss 0 2) w else if seg = 2 then exec (.entryLoss 1 2) w else .next w))) ∧
    (∀ mask free : BitVec 4, s.down = false →
      let off := fun (x : State) (i : Nat) => bitOf (x.rd Reg.mgtI2cStatIsolated) i
      let tried := (List.range 4).filter (fun i => bitOf mask.toNat i && off s i)
      ∃ t, exec (.i2cRestore mask free) s = .next t ∧ OnlyRegs s t [Reg.mgtI2cStatIsolated.addr] ∧
        t.rd Reg.mgtI2cStatClears = min (s.rd Reg.mgtI2cStatClears + tried.length) (2 ^ 16 - 1) ∧
        ∀ i, i < 4 → off t i = (off s i && !(bitOf mask.toNat i && bitOf free.toNat i))) ∧
    (let lockOf := fun (x : State) => x.flag Reg.nfcStatusLock
     let windows := (List.range 32).map (fun i => (Reg.nfcDataData i).addr)
     let byte := fun (x : State) (i : Nat) => x.rd (Reg.nfcDataData (i / 8)) / 256 ^ (i % 8) % 256
     let held := fun (x : State) (i : Nat) => Sparse.get tagDefault x.tag i
     let accessed := fun (v : BitVec 64) (ok : Bool) (rest : List (BitVec 64)) (gap : Bool) (t : State) =>
       let a := v.toNat % 2 ^ 13 / 4 * 4
       let n := 4 * (v.toNat / 2 ^ 16 % 64 + 1)
       let write := v.toNat / 2 ^ 24 % 2 = 1
       let keep := v.toNat / 2 ^ 25 % 2 = 1
       let cut := bitOf (s.rd Reg.mgtI2cStatIsolated) 0 = true
       RegsAndEvents { s with tag := t.tag, nfc := t.nfc, freeCtr := t.freeCtr } t (0x600000 :: Reg.nfcStatusErr.addr :: windows) ∧
       t.nfc = (if keep then ⟨some (s.nfc.lock.getD s.meridian.toNat), gap, rest⟩ else ⟨none, true, rest⟩) ∧
       (keep → s.nfc.lock = none → lockOf t = true) ∧ (¬ keep → lockOf t = false ∧ (t.flag Reg.nfcStatusBusy = true ↔ rest ≠ [])) ∧
       (cut → t.rd Reg.nfcStatusErr = 3) ∧ (cut ∨ ¬ write → t.tag = s.tag ∧ t.freeCtr = s.freeCtr) ∧
       (cut ∨ write → ∀ i, i < 256 → byte t i = byte s i) ∧
       (¬ cut → ¬ write → t.rd Reg.nfcStatusErr = 0 ∧ ∀ i, i < n → byte t i = (s.tagByte (a + i)).toNat) ∧
       (¬ cut → write → (∀ x, x < a ∨ a + n ≤ x → held t x = held s x) ∧ t.rd Reg.nfcStatusErr = (if ok then 0 else 3) ∧
         (ok = true → t.freeCtr = s.freeCtr ∧ ∀ i, i < n → (held t (a + i)).toNat = byte s i))
     (∀ (v : BitVec 64) (ok : Bool), s.down = false →
       let a := v.toNat % 2 ^ 13 / 4 * 4
       let n := 4 * (v.toNat / 2 ^ 16 % 64 + 1)
       let write := v.toNat / 2 ^ 24 % 2 = 1
       let err := if 0x2000 < a + n then 2 else if write then (if a < 0x1000 then 1 else 0) else if a < 0x400 then 1 else 0
       let run := exec (.nfcGo v ok) s
       (s.nfc.waiting ≠ [] → ∃ t, run = .next t ∧ OnlyRegs s t [0x600000]) ∧
       (s.nfc.waiting = [] → err ≠ 0 → ∃ t, run = .next t ∧ OnlyRegs s t [0x600000, Reg.nfcStatusErr.addr] ∧
         t.rd Reg.nfcStatusErr = err ∧ lockOf t = lockOf s) ∧
       (s.nfc.waiting = [] → err = 0 → s.nfc.lock = none → s.nfc.gap = true → ∃ t, run = .next t ∧
         OnlyRegs { s with nfc := ⟨none, true, [v]⟩ } t [0x600000, Reg.nfcStatusErr.addr] ∧ t.flag Reg.nfcStatusBusy = true) ∧
       (s.nfc.waiting = [] → err = 0 → s.nfc.lock ≠ none ∨ s.nfc.gap = false → ∃ t, run = .next t ∧ accessed v ok [] s.nfc.gap t)) ∧
     (∀ ok : Bool,
       (s.nfc.gap = false → exec (.nfcLockGapEnd ok) s = .next s) ∧
       (s.nfc.gap = true → s.nfc.waiting = [] → ∃ t, exec (.nfcLockGapEnd ok) s = .next t ∧
         OnlyRegs { s with nfc := ⟨s.nfc.lock, false, []⟩ } t [Reg.nfcStatusErr.addr] ∧ t.flag Reg.nfcStatusBusy = false) ∧
       (∀ v rest, s.nfc.gap = true → s.nfc.waiting = v :: rest → ∃ t, exec (.nfcLockGapEnd ok) s = .next t ∧ accessed v ok rest false t)) ∧
     (s.nfc.lock = none → exec .nfcSessionExpiry s = .next s) ∧
     (s.nfc.lock ≠ none → ∃ t, exec .nfcSessionExpiry s = .next t ∧
       OnlyRegs { s with nfc := ⟨none, true, s.nfc.waiting⟩ } t [Reg.nfcStatusErr.addr] ∧ lockOf t = false) ∧
     (∀ (block : BitVec 16) (count : BitVec 12) (write : Bool) (data : List Byte) (field : Bool),
       let a := 4 * block.toNat
       let n := 4 * count.toNat
       let w := if write then 1 else 0
       let locked := s.nfc.lock ≠ none ∧ s.down = false
       let code := if locked ∨ 0x2000 < a + n then 0x10 else if write = true ∧ a < 0x1000 then 0x12 else 0
       let silent := s.down = true ∧ failed ∧ (write = true ∨ 0x800 < a + n)
       (silent → exec (.rfRequest block count write data field) s = .next s) ∧
       (¬ silent → ∃ t, exec (.rfRequest block count write data field) s = .next t ∧
         OnlyRegs { s with tag := t.tag, outbox := t.outbox } t [Reg.nfcStatusErr.addr] ∧
         t.outbox = s.outbox ++ [⟨.tagAccess, [a, n, w, code], if code = 0 ∧ write = false then s.tagRead a n else []⟩] ∧
         (s.down = false → t.flag Reg.nfcStatusRfField = field) ∧ (s.down = true → t.regs = s.regs) ∧
         t.rd Reg.nfcStatusRfDenied = (if locked then min (s.rd Reg.nfcStatusRfDenied + 1) (2 ^ 16 - 1) else s.rd Reg.nfcStatusRfDenied) ∧
         lockOf t = lockOf s ∧ (code ≠ 0 ∨ write = false → t.tag = s.tag) ∧
         (code = 0 → write = true → (∀ i, i < n → ∀ b, data[i]? = some b → held t (a + i) = b) ∧
           ∀ x, x < a ∨ a + n ≤ x → held t x = held s x))))
end

