-- ==== Sys2Proof/Laws/Sparse.lean ====
section
/-! SUPPORT. Laws of the maps in canonical form: a read after a write, and the form kept by every operation. -/

namespace Sys2Proof.Machine

variable {α : Type} (d : Nat → α)

@[simp] theorem sparse_get_nil (k : Nat) : Sparse.get d [] k = d k := rfl

@[simp] theorem sparse_get_cons (a : Nat) (v : α) (t : Sparse α) (k : Nat) :
    Sparse.get d ((a, v) :: t) k = if a = k then v else Sparse.get d t k := rfl

/-- Every key of the map lies above `b`. -/
def sparseAbove (b : Nat) (l : Sparse α) : Prop := ∀ e ∈ l, b < e.1

theorem sparse_get_of_above {b : Nat} {l : Sparse α} (h : sparseAbove b l) {k : Nat} (hk : k ≤ b) :
    Sparse.get d l k = d k := by
  induction l with
  | nil => rfl
  | cons e t ih =>
    obtain ⟨a, v⟩ := e
    have ha : b < a := h (a, v) (by simp)
    rw [sparse_get_cons, if_neg (by omega)]
    exact ih (fun e he => h e (by simp [he]))

@[simp] theorem sparse_get_erase_same (l : Sparse α) (k : Nat) : Sparse.get d (Sparse.erase l k) k = d k := by
  induction l with
  | nil => rfl
  | cons e t ih =>
    obtain ⟨a, v⟩ := e
    by_cases h : a = k
    · simpa [Sparse.erase, h] using ih
    · simpa [Sparse.erase, h] using ih

theorem sparse_get_erase_ne (l : Sparse α) {k j : Nat} (hj : j ≠ k) :
    Sparse.get d (Sparse.erase l k) j = Sparse.get d l j := by
  induction l with
  | nil => rfl
  | cons e t ih =>
    obtain ⟨a, v⟩ := e
    by_cases h : a = k
    · have : a ≠ j := fun h' => hj (h' ▸ h)
      simpa [Sparse.erase, h, this, Ne.symm hj] using ih
    · by_cases h2 : a = j
      · subst h2
        simp [Sparse.erase, h]
      · simpa [Sparse.erase, h, h2] using ih

@[simp] theorem sparse_get_insert_same (l : Sparse α) (k : Nat) (v : α) : Sparse.get d (Sparse.insert l k v) k = v := by
  induction l with
  | nil => simp [Sparse.insert]
  | cons e t ih =>
    obtain ⟨a, x⟩ := e
    simp only [Sparse.insert]
    split
    · simp
    · split
      · simp
      · simp [*]

theorem sparse_get_insert_ne (l : Sparse α) {k j : Nat} (v : α) (hj : j ≠ k) :
    Sparse.get d (Sparse.insert l k v) j = Sparse.get d l j := by
  induction l with
  | nil => simp [Sparse.insert, Ne.symm hj]
  | cons e t ih =>
    obtain ⟨a, x⟩ := e
    simp only [Sparse.insert]
    split
    · simp [Ne.symm hj]
    · split
      · rename_i h
        simp [h, Ne.symm hj]
      · simp [ih]

variable [DecidableEq α]

/-- A read after a write to the same key gives the value written. -/
@[simp] theorem sparse_get_set_same (l : Sparse α) (k : Nat) (v : α) : Sparse.get d (Sparse.set d l k v) k = v := by
  unfold Sparse.set
  split
  · simp [*]
  · simp

/-- A write leaves every other key alone. -/
theorem sparse_get_set_ne (l : Sparse α) {k j : Nat} (v : α) (hj : j ≠ k) :
    Sparse.get d (Sparse.set d l k v) j = Sparse.get d l j := by
  unfold Sparse.set
  split
  · exact sparse_get_erase_ne d l hj
  · exact sparse_get_insert_ne d l v hj

theorem sparse_get_set (l : Sparse α) (k j : Nat) (v : α) :
    Sparse.get d (Sparse.set d l k v) j = if j = k then v else Sparse.get d l j := by
  split
  · simp [*]
  · exact sparse_get_set_ne d l v ‹_›

/-- The canonical form in two parts: no listed default, and keys strictly rising. -/
theorem sparse_wf_cons (a : Nat) (v : α) (t : Sparse α) :
    Sparse.wf d ((a, v) :: t) = true ↔ v ≠ d a ∧ sparseAbove a t ∧ Sparse.wf d t = true := by
  induction t generalizing a v with
  | nil => simp [Sparse.wf, sparseAbove]
  | cons e t ih =>
    obtain ⟨b, w⟩ := e
    simp only [Sparse.wf, Bool.and_eq_true, decide_eq_true_eq] at ih ⊢
    constructor
    · rintro ⟨⟨h1, h2⟩, h3⟩
      refine ⟨h1, ?_, h3⟩
      intro e he
      rcases List.mem_cons.1 he with rfl | he
      · exact h2
      · exact Nat.lt_trans h2 (((ih b w).1 h3).2.1 e he)
    · rintro ⟨h1, h2, h3⟩
      exact ⟨⟨h1, h2 (b, w) (by simp)⟩, h3⟩

/-- Every part of a canonical map that a filter keeps is canonical. -/
theorem sparse_wf_filter (l : Sparse α) (p : Nat × α → Bool) (h : Sparse.wf d l = true) :
    Sparse.wf d (l.filter p) = true := by
  induction l with
  | nil => rfl
  | cons e t ih =>
    obtain ⟨a, v⟩ := e
    obtain ⟨h1, h2, h3⟩ := (sparse_wf_cons d a v t).1 h
    cases hp : p (a, v)
    · simpa [List.filter, hp] using ih h3
    · rw [List.filter_cons_of_pos hp]
      exact (sparse_wf_cons d a v _).2 ⟨h1, fun e he => h2 e (List.mem_filter.1 he).1, ih h3⟩

theorem sparse_wf_erase (l : Sparse α) (k : Nat) (h : Sparse.wf d l = true) : Sparse.wf d (Sparse.erase l k) = true :=
  sparse_wf_filter d l _ h

omit [DecidableEq α] in
theorem sparse_above_insert {b : Nat} {l : Sparse α} (h : sparseAbove b l) {k : Nat} (v : α) (hk : b < k) :
    sparseAbove b (Sparse.insert l k v) := by
  induction l with
  | nil => intro e he; simp [Sparse.insert] at he; subst he; exact hk
  | cons e t ih =>
    obtain ⟨a, x⟩ := e
    have ha : b < a := h (a, x) (by simp)
    have ht : sparseAbove b t := fun e he => h e (by simp [he])
    intro e he
    simp only [Sparse.insert] at he
    split at he
    · rcases List.mem_cons.1 he with rfl | he
      · exact hk
      · exact h e he
    · split at he
      · rcases List.mem_cons.1 he with rfl | he
        · exact hk
        · exact ht e he
      · rcases List.mem_cons.1 he with rfl | he
        · exact ha
        · exact ih ht e he

theorem sparse_wf_insert (l : Sparse α) (k : Nat) (v : α) (hv : v ≠ d k) (h : Sparse.wf d l = true) :
    Sparse.wf d (Sparse.insert l k v) = true := by
  induction l with
  | nil => simp [Sparse.insert, Sparse.wf, hv]
  | cons e t ih =>
    obtain ⟨a, x⟩ := e
    obtain ⟨h1, h2, h3⟩ := (sparse_wf_cons d a x t).1 h
    simp only [Sparse.insert]
    split
    · refine (sparse_wf_cons d k v _).2 ⟨hv, ?_, h⟩
      intro e he
      rcases List.mem_cons.1 he with rfl | he
      · assumption
      · exact Nat.lt_trans ‹_› (h2 e he)
    · split
      · rename_i hak
        subst hak
        exact (sparse_wf_cons d a v t).2 ⟨hv, h2, h3⟩
      · exact (sparse_wf_cons d a x _).2 ⟨h1, sparse_above_insert h2 v (by omega), ih h3⟩

/-- A write keeps the canonical form. -/
theorem sparse_wf_set (l : Sparse α) (k : Nat) (v : α) (h : Sparse.wf d l = true) : Sparse.wf d (Sparse.set d l k v) = true := by
  unfold Sparse.set
  split
  · exact sparse_wf_erase d l k h
  · exact sparse_wf_insert d l k v ‹_› h

theorem sparse_wf_dropRange (l : Sparse α) (lo hi : Nat) (h : Sparse.wf d l = true) :
    Sparse.wf d (Sparse.dropRange l lo hi) = true :=
  sparse_wf_filter d l _ h

/-- Changed values keep the canonical form once those equal to the default are dropped. -/
theorem sparse_wf_remap (l : Sparse α) (f : Nat × α → Nat × α) (hf : ∀ e, (f e).1 = e.1) (h : Sparse.wf d l = true) :
    Sparse.wf d ((l.map f).filter (fun e => decide (e.2 ≠ d e.1))) = true := by
  induction l with
  | nil => rfl
  | cons e t ih =>
    obtain ⟨a, v⟩ := e
    obtain ⟨-, h2, h3⟩ := (sparse_wf_cons d a v t).1 h
    have hfa := hf (a, v)
    rw [List.map_cons]
    generalize f (a, v) = q at hfa ⊢
    obtain ⟨b, w⟩ := q
    simp only at hfa
    subst hfa
    by_cases hp : w = d b
    · simpa [List.filter, hp] using ih h3
    · rw [List.filter_cons_of_pos (by simpa using hp)]
      refine (sparse_wf_cons d b w _).2 ⟨hp, ?_, ih h3⟩
      intro e he
      obtain ⟨x, hx, rfl⟩ := List.mem_map.1 (List.mem_filter.1 he).1
      rw [hf x]
      exact h2 x hx

end Sys2Proof.Machine
end

