-- ==== Sys2Proof/Laws/State.lean ====
section
/-! SUPPORT. One lemma per field and per update of State, and what a register reads after a write. -/

namespace Sys2Proof.Machine

/-! ### setReg -/

@[simp] theorem State.setReg_pending (s : State) (a : Nat) (v : BitVec 64) : (s.setReg a v).pending = s.pending := rfl
@[simp] theorem State.setReg_meridian (s : State) (a : Nat) (v : BitVec 64) : (s.setReg a v).meridian = s.meridian := rfl
@[simp] theorem State.setReg_mem (s : State) (a : Nat) (v : BitVec 64) : (s.setReg a v).mem = s.mem := rfl
@[simp] theorem State.setReg_poison (s : State) (a : Nat) (v : BitVec 64) : (s.setReg a v).poison = s.poison := rfl
@[simp] theorem State.setReg_hostMem (s : State) (a : Nat) (v : BitVec 64) : (s.setReg a v).hostMem = s.hostMem := rfl
@[simp] theorem State.setReg_stns (s : State) (a : Nat) (v : BitVec 64) : (s.setReg a v).stns = s.stns := rfl
@[simp] theorem State.setReg_lsts (s : State) (a : Nat) (v : BitVec 64) : (s.setReg a v).lsts = s.lsts := rfl
@[simp] theorem State.setReg_poisonLog (s : State) (a : Nat) (v : BitVec 64) : (s.setReg a v).poisonLog = s.poisonLog := rfl
@[simp] theorem State.setReg_dir (s : State) (a : Nat) (v : BitVec 64) : (s.setReg a v).dir = s.dir := rfl
@[simp] theorem State.setReg_copies (s : State) (a : Nat) (v : BitVec 64) : (s.setReg a v).copies = s.copies := rfl
@[simp] theorem State.setReg_grants (s : State) (a : Nat) (v : BitVec 64) : (s.setReg a v).grants = s.grants := rfl
@[simp] theorem State.setReg_snoops (s : State) (a : Nat) (v : BitVec 64) : (s.setReg a v).snoops = s.snoops := rfl
@[simp] theorem State.setReg_snoopAns (s : State) (a : Nat) (v : BitVec 64) : (s.setReg a v).snoopAns = s.snoopAns := rfl
@[simp] theorem State.setReg_notices (s : State) (a : Nat) (v : BitVec 64) : (s.setReg a v).notices = s.notices := rfl
@[simp] theorem State.setReg_evictAcks (s : State) (a : Nat) (v : BitVec 64) : (s.setReg a v).evictAcks = s.evictAcks := rfl
@[simp] theorem State.setReg_readWait (s : State) (a : Nat) (v : BitVec 64) : (s.setReg a v).readWait = s.readWait := rfl
@[simp] theorem State.setReg_lostChan (s : State) (a : Nat) (v : BitVec 64) : (s.setReg a v).lostChan = s.lostChan := rfl
@[simp] theorem State.setReg_edgeSeq (s : State) (a : Nat) (v : BitVec 64) : (s.setReg a v).edgeSeq = s.edgeSeq := rfl
@[simp] theorem State.setReg_edgeRun (s : State) (a : Nat) (v : BitVec 64) : (s.setReg a v).edgeRun = s.edgeRun := rfl
@[simp] theorem State.setReg_eccTime (s : State) (a : Nat) (v : BitVec 64) : (s.setReg a v).eccTime = s.eccTime := rfl
@[simp] theorem State.setReg_dramTry (s : State) (a : Nat) (v : BitVec 64) : (s.setReg a v).dramTry = s.dramTry := rfl
@[simp] theorem State.setReg_scrubAt (s : State) (a : Nat) (v : BitVec 64) : (s.setReg a v).scrubAt = s.scrubAt := rfl
@[simp] theorem State.setReg_down (s : State) (a : Nat) (v : BitVec 64) : (s.setReg a v).down = s.down := rfl
@[simp] theorem State.setReg_pwr (s : State) (a : Nat) (v : BitVec 64) : (s.setReg a v).pwr = s.pwr := rfl
@[simp] theorem State.setReg_mer (s : State) (a : Nat) (v : BitVec 64) : (s.setReg a v).mer = s.mer := rfl
@[simp] theorem State.setReg_sbIn (s : State) (a : Nat) (v : BitVec 64) : (s.setReg a v).sbIn = s.sbIn := rfl
@[simp] theorem State.setReg_fdTrip (s : State) (a : Nat) (v : BitVec 64) : (s.setReg a v).fdTrip = s.fdTrip := rfl
@[simp] theorem State.setReg_memTrip (s : State) (a : Nat) (v : BitVec 64) : (s.setReg a v).memTrip = s.memTrip := rfl
@[simp] theorem State.setReg_edgeHot (s : State) (a : Nat) (v : BitVec 64) : (s.setReg a v).edgeHot = s.edgeHot := rfl
@[simp] theorem State.setReg_tag (s : State) (a : Nat) (v : BitVec 64) : (s.setReg a v).tag = s.tag := rfl
@[simp] theorem State.setReg_fatalLog (s : State) (a : Nat) (v : BitVec 64) : (s.setReg a v).fatalLog = s.fatalLog := rfl
@[simp] theorem State.setReg_au (s : State) (a : Nat) (v : BitVec 64) : (s.setReg a v).au = s.au := rfl
@[simp] theorem State.setReg_snapClosed (s : State) (a : Nat) (v : BitVec 64) : (s.setReg a v).snapClosed = s.snapClosed := rfl
@[simp] theorem State.setReg_shdStep (s : State) (a : Nat) (v : BitVec 64) : (s.setReg a v).shdStep = s.shdStep := rfl
@[simp] theorem State.setReg_pulls (s : State) (a : Nat) (v : BitVec 64) : (s.setReg a v).pulls = s.pulls := rfl
@[simp] theorem State.setReg_ing (s : State) (a : Nat) (v : BitVec 64) : (s.setReg a v).ing = s.ing := rfl
@[simp] theorem State.setReg_sec (s : State) (a : Nat) (v : BitVec 64) : (s.setReg a v).sec = s.sec := rfl
@[simp] theorem State.setReg_fw (s : State) (a : Nat) (v : BitVec 64) : (s.setReg a v).fw = s.fw := rfl
@[simp] theorem State.setReg_mgt (s : State) (a : Nat) (v : BitVec 64) : (s.setReg a v).mgt = s.mgt := rfl
@[simp] theorem State.setReg_nfc (s : State) (a : Nat) (v : BitVec 64) : (s.setReg a v).nfc = s.nfc := rfl
@[simp] theorem State.setReg_numVfs (s : State) (a : Nat) (v : BitVec 64) : (s.setReg a v).numVfs = s.numVfs := rfl
@[simp] theorem State.setReg_atc (s : State) (a : Nat) (v : BitVec 64) : (s.setReg a v).atc = s.atc := rfl
@[simp] theorem State.setReg_rstKind (s : State) (a : Nat) (v : BitVec 64) : (s.setReg a v).rstKind = s.rstKind := rfl
@[simp] theorem State.setReg_rstParcels (s : State) (a : Nat) (v : BitVec 64) : (s.setReg a v).rstParcels = s.rstParcels := rfl
@[simp] theorem State.setReg_ports (s : State) (a : Nat) (v : BitVec 64) : (s.setReg a v).ports = s.ports := rfl
@[simp] theorem State.setReg_ctxs (s : State) (a : Nat) (v : BitVec 64) : (s.setReg a v).ctxs = s.ctxs := rfl
@[simp] theorem State.setReg_ctxWait (s : State) (a : Nat) (v : BitVec 64) : (s.setReg a v).ctxWait = s.ctxWait := rfl
@[simp] theorem State.setReg_remote (s : State) (a : Nat) (v : BitVec 64) : (s.setReg a v).remote = s.remote := rfl
@[simp] theorem State.setReg_remoteBuf (s : State) (a : Nat) (v : BitVec 64) : (s.setReg a v).remoteBuf = s.remoteBuf := rfl
@[simp] theorem State.setReg_fdUnreach (s : State) (a : Nat) (v : BitVec 64) : (s.setReg a v).fdUnreach = s.fdUnreach := rfl
@[simp] theorem State.setReg_t2Set (s : State) (a : Nat) (v : BitVec 64) : (s.setReg a v).t2Set = s.t2Set := rfl
@[simp] theorem State.setReg_xpQueue (s : State) (a : Nat) (v : BitVec 64) : (s.setReg a v).xpQueue = s.xpQueue := rfl
@[simp] theorem State.setReg_chains (s : State) (a : Nat) (v : BitVec 64) : (s.setReg a v).chains = s.chains := rfl
@[simp] theorem State.setReg_sigs (s : State) (a : Nat) (v : BitVec 64) : (s.setReg a v).sigs = s.sigs := rfl
@[simp] theorem State.setReg_loading (s : State) (a : Nat) (v : BitVec 64) : (s.setReg a v).loading = s.loading := rfl
@[simp] theorem State.setReg_scrGen (s : State) (a : Nat) (v : BitVec 64) : (s.setReg a v).scrGen = s.scrGen := rfl
@[simp] theorem State.setReg_scrUsed (s : State) (a : Nat) (v : BitVec 64) : (s.setReg a v).scrUsed = s.scrUsed := rfl
@[simp] theorem State.setReg_colls (s : State) (a : Nat) (v : BitVec 64) : (s.setReg a v).colls = s.colls := rfl
@[simp] theorem State.setReg_ready (s : State) (a : Nat) (v : BitVec 64) : (s.setReg a v).ready = s.ready := rfl
@[simp] theorem State.setReg_readyHeld (s : State) (a : Nat) (v : BitVec 64) : (s.setReg a v).readyHeld = s.readyHeld := rfl
@[simp] theorem State.setReg_retireReq (s : State) (a : Nat) (v : BitVec 64) : (s.setReg a v).retireReq = s.retireReq := rfl
@[simp] theorem State.setReg_returns (s : State) (a : Nat) (v : BitVec 64) : (s.setReg a v).returns = s.returns := rfl
@[simp] theorem State.setReg_failed (s : State) (a : Nat) (v : BitVec 64) : (s.setReg a v).failed = s.failed := rfl
@[simp] theorem State.setReg_ringSig (s : State) (a : Nat) (v : BitVec 64) : (s.setReg a v).ringSig = s.ringSig := rfl
@[simp] theorem State.setReg_ringSeq (s : State) (a : Nat) (v : BitVec 64) : (s.setReg a v).ringSeq = s.ringSeq := rfl
@[simp] theorem State.setReg_evHeld (s : State) (a : Nat) (v : BitVec 64) : (s.setReg a v).evHeld = s.evHeld := rfl
@[simp] theorem State.setReg_evLost (s : State) (a : Nat) (v : BitVec 64) : (s.setReg a v).evLost = s.evLost := rfl
@[simp] theorem State.setReg_hostLinkDown (s : State) (a : Nat) (v : BitVec 64) : (s.setReg a v).hostLinkDown = s.hostLinkDown := rfl
@[simp] theorem State.setReg_evAwait (s : State) (a : Nat) (v : BitVec 64) : (s.setReg a v).evAwait = s.evAwait := rfl
@[simp] theorem State.setReg_pldmReceiver (s : State) (a : Nat) (v : BitVec 64) : (s.setReg a v).pldmReceiver = s.pldmReceiver := rfl
@[simp] theorem State.setReg_platQueue (s : State) (a : Nat) (v : BitVec 64) : (s.setReg a v).platQueue = s.platQueue := rfl
@[simp] theorem State.setReg_evOnce (s : State) (a : Nat) (v : BitVec 64) : (s.setReg a v).evOnce = s.evOnce := rfl
@[simp] theorem State.setReg_fab (s : State) (a : Nat) (v : BitVec 64) : (s.setReg a v).fab = s.fab := rfl
@[simp] theorem State.setReg_igd (s : State) (a : Nat) (v : BitVec 64) : (s.setReg a v).igd = s.igd := rfl
@[simp] theorem State.setReg_lockEnded (s : State) (a : Nat) (v : BitVec 64) : (s.setReg a v).lockEnded = s.lockEnded := rfl
@[simp] theorem State.setReg_outbox (s : State) (a : Nat) (v : BitVec 64) : (s.setReg a v).outbox = s.outbox := rfl
@[simp] theorem State.setReg_freeCtr (s : State) (a : Nat) (v : BitVec 64) : (s.setReg a v).freeCtr = s.freeCtr := rfl

/-! ### wr -/

@[simp] theorem State.wr_pending (s : State) (f : Fld) (x : Nat) : (s.wr f x).pending = s.pending := rfl
@[simp] theorem State.wr_meridian (s : State) (f : Fld) (x : Nat) : (s.wr f x).meridian = s.meridian := rfl
@[simp] theorem State.wr_mem (s : State) (f : Fld) (x : Nat) : (s.wr f x).mem = s.mem := rfl
@[simp] theorem State.wr_poison (s : State) (f : Fld) (x : Nat) : (s.wr f x).poison = s.poison := rfl
@[simp] theorem State.wr_hostMem (s : State) (f : Fld) (x : Nat) : (s.wr f x).hostMem = s.hostMem := rfl
@[simp] theorem State.wr_stns (s : State) (f : Fld) (x : Nat) : (s.wr f x).stns = s.stns := rfl
@[simp] theorem State.wr_lsts (s : State) (f : Fld) (x : Nat) : (s.wr f x).lsts = s.lsts := rfl
@[simp] theorem State.wr_poisonLog (s : State) (f : Fld) (x : Nat) : (s.wr f x).poisonLog = s.poisonLog := rfl
@[simp] theorem State.wr_dir (s : State) (f : Fld) (x : Nat) : (s.wr f x).dir = s.dir := rfl
@[simp] theorem State.wr_copies (s : State) (f : Fld) (x : Nat) : (s.wr f x).copies = s.copies := rfl
@[simp] theorem State.wr_grants (s : State) (f : Fld) (x : Nat) : (s.wr f x).grants = s.grants := rfl
@[simp] theorem State.wr_snoops (s : State) (f : Fld) (x : Nat) : (s.wr f x).snoops = s.snoops := rfl
@[simp] theorem State.wr_snoopAns (s : State) (f : Fld) (x : Nat) : (s.wr f x).snoopAns = s.snoopAns := rfl
@[simp] theorem State.wr_notices (s : State) (f : Fld) (x : Nat) : (s.wr f x).notices = s.notices := rfl
@[simp] theorem State.wr_evictAcks (s : State) (f : Fld) (x : Nat) : (s.wr f x).evictAcks = s.evictAcks := rfl
@[simp] theorem State.wr_readWait (s : State) (f : Fld) (x : Nat) : (s.wr f x).readWait = s.readWait := rfl
@[simp] theorem State.wr_lostChan (s : State) (f : Fld) (x : Nat) : (s.wr f x).lostChan = s.lostChan := rfl
@[simp] theorem State.wr_edgeSeq (s : State) (f : Fld) (x : Nat) : (s.wr f x).edgeSeq = s.edgeSeq := rfl
@[simp] theorem State.wr_edgeRun (s : State) (f : Fld) (x : Nat) : (s.wr f x).edgeRun = s.edgeRun := rfl
@[simp] theorem State.wr_eccTime (s : State) (f : Fld) (x : Nat) : (s.wr f x).eccTime = s.eccTime := rfl
@[simp] theorem State.wr_dramTry (s : State) (f : Fld) (x : Nat) : (s.wr f x).dramTry = s.dramTry := rfl
@[simp] theorem State.wr_scrubAt (s : State) (f : Fld) (x : Nat) : (s.wr f x).scrubAt = s.scrubAt := rfl
@[simp] theorem State.wr_down (s : State) (f : Fld) (x : Nat) : (s.wr f x).down = s.down := rfl
@[simp] theorem State.wr_pwr (s : State) (f : Fld) (x : Nat) : (s.wr f x).pwr = s.pwr := rfl
@[simp] theorem State.wr_mer (s : State) (f : Fld) (x : Nat) : (s.wr f x).mer = s.mer := rfl
@[simp] theorem State.wr_sbIn (s : State) (f : Fld) (x : Nat) : (s.wr f x).sbIn = s.sbIn := rfl
@[simp] theorem State.wr_fdTrip (s : State) (f : Fld) (x : Nat) : (s.wr f x).fdTrip = s.fdTrip := rfl
@[simp] theorem State.wr_memTrip (s : State) (f : Fld) (x : Nat) : (s.wr f x).memTrip = s.memTrip := rfl
@[simp] theorem State.wr_edgeHot (s : State) (f : Fld) (x : Nat) : (s.wr f x).edgeHot = s.edgeHot := rfl
@[simp] theorem State.wr_tag (s : State) (f : Fld) (x : Nat) : (s.wr f x).tag = s.tag := rfl
@[simp] theorem State.wr_fatalLog (s : State) (f : Fld) (x : Nat) : (s.wr f x).fatalLog = s.fatalLog := rfl
@[simp] theorem State.wr_au (s : State) (f : Fld) (x : Nat) : (s.wr f x).au = s.au := rfl
@[simp] theorem State.wr_snapClosed (s : State) (f : Fld) (x : Nat) : (s.wr f x).snapClosed = s.snapClosed := rfl
@[simp] theorem State.wr_shdStep (s : State) (f : Fld) (x : Nat) : (s.wr f x).shdStep = s.shdStep := rfl
@[simp] theorem State.wr_pulls (s : State) (f : Fld) (x : Nat) : (s.wr f x).pulls = s.pulls := rfl
@[simp] theorem State.wr_ing (s : State) (f : Fld) (x : Nat) : (s.wr f x).ing = s.ing := rfl
@[simp] theorem State.wr_sec (s : State) (f : Fld) (x : Nat) : (s.wr f x).sec = s.sec := rfl
@[simp] theorem State.wr_fw (s : State) (f : Fld) (x : Nat) : (s.wr f x).fw = s.fw := rfl
@[simp] theorem State.wr_mgt (s : State) (f : Fld) (x : Nat) : (s.wr f x).mgt = s.mgt := rfl
@[simp] theorem State.wr_nfc (s : State) (f : Fld) (x : Nat) : (s.wr f x).nfc = s.nfc := rfl
@[simp] theorem State.wr_numVfs (s : State) (f : Fld) (x : Nat) : (s.wr f x).numVfs = s.numVfs := rfl
@[simp] theorem State.wr_atc (s : State) (f : Fld) (x : Nat) : (s.wr f x).atc = s.atc := rfl
@[simp] theorem State.wr_rstKind (s : State) (f : Fld) (x : Nat) : (s.wr f x).rstKind = s.rstKind := rfl
@[simp] theorem State.wr_rstParcels (s : State) (f : Fld) (x : Nat) : (s.wr f x).rstParcels = s.rstParcels := rfl
@[simp] theorem State.wr_ports (s : State) (f : Fld) (x : Nat) : (s.wr f x).ports = s.ports := rfl
@[simp] theorem State.wr_ctxs (s : State) (f : Fld) (x : Nat) : (s.wr f x).ctxs = s.ctxs := rfl
@[simp] theorem State.wr_ctxWait (s : State) (f : Fld) (x : Nat) : (s.wr f x).ctxWait = s.ctxWait := rfl
@[simp] theorem State.wr_remote (s : State) (f : Fld) (x : Nat) : (s.wr f x).remote = s.remote := rfl
@[simp] theorem State.wr_remoteBuf (s : State) (f : Fld) (x : Nat) : (s.wr f x).remoteBuf = s.remoteBuf := rfl
@[simp] theorem State.wr_fdUnreach (s : State) (f : Fld) (x : Nat) : (s.wr f x).fdUnreach = s.fdUnreach := rfl
@[simp] theorem State.wr_t2Set (s : State) (f : Fld) (x : Nat) : (s.wr f x).t2Set = s.t2Set := rfl
@[simp] theorem State.wr_xpQueue (s : State) (f : Fld) (x : Nat) : (s.wr f x).xpQueue = s.xpQueue := rfl
@[simp] theorem State.wr_chains (s : State) (f : Fld) (x : Nat) : (s.wr f x).chains = s.chains := rfl
@[simp] theorem State.wr_sigs (s : State) (f : Fld) (x : Nat) : (s.wr f x).sigs = s.sigs := rfl
@[simp] theorem State.wr_loading (s : State) (f : Fld) (x : Nat) : (s.wr f x).loading = s.loading := rfl
@[simp] theorem State.wr_scrGen (s : State) (f : Fld) (x : Nat) : (s.wr f x).scrGen = s.scrGen := rfl
@[simp] theorem State.wr_scrUsed (s : State) (f : Fld) (x : Nat) : (s.wr f x).scrUsed = s.scrUsed := rfl
@[simp] theorem State.wr_colls (s : State) (f : Fld) (x : Nat) : (s.wr f x).colls = s.colls := rfl
@[simp] theorem State.wr_ready (s : State) (f : Fld) (x : Nat) : (s.wr f x).ready = s.ready := rfl
@[simp] theorem State.wr_readyHeld (s : State) (f : Fld) (x : Nat) : (s.wr f x).readyHeld = s.readyHeld := rfl
@[simp] theorem State.wr_retireReq (s : State) (f : Fld) (x : Nat) : (s.wr f x).retireReq = s.retireReq := rfl
@[simp] theorem State.wr_returns (s : State) (f : Fld) (x : Nat) : (s.wr f x).returns = s.returns := rfl
@[simp] theorem State.wr_failed (s : State) (f : Fld) (x : Nat) : (s.wr f x).failed = s.failed := rfl
@[simp] theorem State.wr_ringSig (s : State) (f : Fld) (x : Nat) : (s.wr f x).ringSig = s.ringSig := rfl
@[simp] theorem State.wr_ringSeq (s : State) (f : Fld) (x : Nat) : (s.wr f x).ringSeq = s.ringSeq := rfl
@[simp] theorem State.wr_evHeld (s : State) (f : Fld) (x : Nat) : (s.wr f x).evHeld = s.evHeld := rfl
@[simp] theorem State.wr_evLost (s : State) (f : Fld) (x : Nat) : (s.wr f x).evLost = s.evLost := rfl
@[simp] theorem State.wr_hostLinkDown (s : State) (f : Fld) (x : Nat) : (s.wr f x).hostLinkDown = s.hostLinkDown := rfl
@[simp] theorem State.wr_evAwait (s : State) (f : Fld) (x : Nat) : (s.wr f x).evAwait = s.evAwait := rfl
@[simp] theorem State.wr_pldmReceiver (s : State) (f : Fld) (x : Nat) : (s.wr f x).pldmReceiver = s.pldmReceiver := rfl
@[simp] theorem State.wr_platQueue (s : State) (f : Fld) (x : Nat) : (s.wr f x).platQueue = s.platQueue := rfl
@[simp] theorem State.wr_evOnce (s : State) (f : Fld) (x : Nat) : (s.wr f x).evOnce = s.evOnce := rfl
@[simp] theorem State.wr_fab (s : State) (f : Fld) (x : Nat) : (s.wr f x).fab = s.fab := rfl
@[simp] theorem State.wr_igd (s : State) (f : Fld) (x : Nat) : (s.wr f x).igd = s.igd := rfl
@[simp] theorem State.wr_lockEnded (s : State) (f : Fld) (x : Nat) : (s.wr f x).lockEnded = s.lockEnded := rfl
@[simp] theorem State.wr_outbox (s : State) (f : Fld) (x : Nat) : (s.wr f x).outbox = s.outbox := rfl
@[simp] theorem State.wr_freeCtr (s : State) (f : Fld) (x : Nat) : (s.wr f x).freeCtr = s.freeCtr := rfl

/-! ### inc -/

@[simp] theorem State.inc_pending (s : State) (f : Fld) (n : Nat) : (s.inc f n).pending = s.pending := rfl
@[simp] theorem State.inc_meridian (s : State) (f : Fld) (n : Nat) : (s.inc f n).meridian = s.meridian := rfl
@[simp] theorem State.inc_mem (s : State) (f : Fld) (n : Nat) : (s.inc f n).mem = s.mem := rfl
@[simp] theorem State.inc_poison (s : State) (f : Fld) (n : Nat) : (s.inc f n).poison = s.poison := rfl
@[simp] theorem State.inc_hostMem (s : State) (f : Fld) (n : Nat) : (s.inc f n).hostMem = s.hostMem := rfl
@[simp] theorem State.inc_stns (s : State) (f : Fld) (n : Nat) : (s.inc f n).stns = s.stns := rfl
@[simp] theorem State.inc_lsts (s : State) (f : Fld) (n : Nat) : (s.inc f n).lsts = s.lsts := rfl
@[simp] theorem State.inc_poisonLog (s : State) (f : Fld) (n : Nat) : (s.inc f n).poisonLog = s.poisonLog := rfl
@[simp] theorem State.inc_dir (s : State) (f : Fld) (n : Nat) : (s.inc f n).dir = s.dir := rfl
@[simp] theorem State.inc_copies (s : State) (f : Fld) (n : Nat) : (s.inc f n).copies = s.copies := rfl
@[simp] theorem State.inc_grants (s : State) (f : Fld) (n : Nat) : (s.inc f n).grants = s.grants := rfl
@[simp] theorem State.inc_snoops (s : State) (f : Fld) (n : Nat) : (s.inc f n).snoops = s.snoops := rfl
@[simp] theorem State.inc_snoopAns (s : State) (f : Fld) (n : Nat) : (s.inc f n).snoopAns = s.snoopAns := rfl
@[simp] theorem State.inc_notices (s : State) (f : Fld) (n : Nat) : (s.inc f n).notices = s.notices := rfl
@[simp] theorem State.inc_evictAcks (s : State) (f : Fld) (n : Nat) : (s.inc f n).evictAcks = s.evictAcks := rfl
@[simp] theorem State.inc_readWait (s : State) (f : Fld) (n : Nat) : (s.inc f n).readWait = s.readWait := rfl
@[simp] theorem State.inc_lostChan (s : State) (f : Fld) (n : Nat) : (s.inc f n).lostChan = s.lostChan := rfl
@[simp] theorem State.inc_edgeSeq (s : State) (f : Fld) (n : Nat) : (s.inc f n).edgeSeq = s.edgeSeq := rfl
@[simp] theorem State.inc_edgeRun (s : State) (f : Fld) (n : Nat) : (s.inc f n).edgeRun = s.edgeRun := rfl
@[simp] theorem State.inc_eccTime (s : State) (f : Fld) (n : Nat) : (s.inc f n).eccTime = s.eccTime := rfl
@[simp] theorem State.inc_dramTry (s : State) (f : Fld) (n : Nat) : (s.inc f n).dramTry = s.dramTry := rfl
@[simp] theorem State.inc_scrubAt (s : State) (f : Fld) (n : Nat) : (s.inc f n).scrubAt = s.scrubAt := rfl
@[simp] theorem State.inc_down (s : State) (f : Fld) (n : Nat) : (s.inc f n).down = s.down := rfl
@[simp] theorem State.inc_pwr (s : State) (f : Fld) (n : Nat) : (s.inc f n).pwr = s.pwr := rfl
@[simp] theorem State.inc_mer (s : State) (f : Fld) (n : Nat) : (s.inc f n).mer = s.mer := rfl
@[simp] theorem State.inc_sbIn (s : State) (f : Fld) (n : Nat) : (s.inc f n).sbIn = s.sbIn := rfl
@[simp] theorem State.inc_fdTrip (s : State) (f : Fld) (n : Nat) : (s.inc f n).fdTrip = s.fdTrip := rfl
@[simp] theorem State.inc_memTrip (s : State) (f : Fld) (n : Nat) : (s.inc f n).memTrip = s.memTrip := rfl
@[simp] theorem State.inc_edgeHot (s : State) (f : Fld) (n : Nat) : (s.inc f n).edgeHot = s.edgeHot := rfl
@[simp] theorem State.inc_tag (s : State) (f : Fld) (n : Nat) : (s.inc f n).tag = s.tag := rfl
@[simp] theorem State.inc_fatalLog (s : State) (f : Fld) (n : Nat) : (s.inc f n).fatalLog = s.fatalLog := rfl
@[simp] theorem State.inc_au (s : State) (f : Fld) (n : Nat) : (s.inc f n).au = s.au := rfl
@[simp] theorem State.inc_snapClosed (s : State) (f : Fld) (n : Nat) : (s.inc f n).snapClosed = s.snapClosed := rfl
@[simp] theorem State.inc_shdStep (s : State) (f : Fld) (n : Nat) : (s.inc f n).shdStep = s.shdStep := rfl
@[simp] theorem State.inc_pulls (s : State) (f : Fld) (n : Nat) : (s.inc f n).pulls = s.pulls := rfl
@[simp] theorem State.inc_ing (s : State) (f : Fld) (n : Nat) : (s.inc f n).ing = s.ing := rfl
@[simp] theorem State.inc_sec (s : State) (f : Fld) (n : Nat) : (s.inc f n).sec = s.sec := rfl
@[simp] theorem State.inc_fw (s : State) (f : Fld) (n : Nat) : (s.inc f n).fw = s.fw := rfl
@[simp] theorem State.inc_mgt (s : State) (f : Fld) (n : Nat) : (s.inc f n).mgt = s.mgt := rfl
@[simp] theorem State.inc_nfc (s : State) (f : Fld) (n : Nat) : (s.inc f n).nfc = s.nfc := rfl
@[simp] theorem State.inc_numVfs (s : State) (f : Fld) (n : Nat) : (s.inc f n).numVfs = s.numVfs := rfl
@[simp] theorem State.inc_atc (s : State) (f : Fld) (n : Nat) : (s.inc f n).atc = s.atc := rfl
@[simp] theorem State.inc_rstKind (s : State) (f : Fld) (n : Nat) : (s.inc f n).rstKind = s.rstKind := rfl
@[simp] theorem State.inc_rstParcels (s : State) (f : Fld) (n : Nat) : (s.inc f n).rstParcels = s.rstParcels := rfl
@[simp] theorem State.inc_ports (s : State) (f : Fld) (n : Nat) : (s.inc f n).ports = s.ports := rfl
@[simp] theorem State.inc_ctxs (s : State) (f : Fld) (n : Nat) : (s.inc f n).ctxs = s.ctxs := rfl
@[simp] theorem State.inc_ctxWait (s : State) (f : Fld) (n : Nat) : (s.inc f n).ctxWait = s.ctxWait := rfl
@[simp] theorem State.inc_remote (s : State) (f : Fld) (n : Nat) : (s.inc f n).remote = s.remote := rfl
@[simp] theorem State.inc_remoteBuf (s : State) (f : Fld) (n : Nat) : (s.inc f n).remoteBuf = s.remoteBuf := rfl
@[simp] theorem State.inc_fdUnreach (s : State) (f : Fld) (n : Nat) : (s.inc f n).fdUnreach = s.fdUnreach := rfl
@[simp] theorem State.inc_t2Set (s : State) (f : Fld) (n : Nat) : (s.inc f n).t2Set = s.t2Set := rfl
@[simp] theorem State.inc_xpQueue (s : State) (f : Fld) (n : Nat) : (s.inc f n).xpQueue = s.xpQueue := rfl
@[simp] theorem State.inc_chains (s : State) (f : Fld) (n : Nat) : (s.inc f n).chains = s.chains := rfl
@[simp] theorem State.inc_sigs (s : State) (f : Fld) (n : Nat) : (s.inc f n).sigs = s.sigs := rfl
@[simp] theorem State.inc_loading (s : State) (f : Fld) (n : Nat) : (s.inc f n).loading = s.loading := rfl
@[simp] theorem State.inc_scrGen (s : State) (f : Fld) (n : Nat) : (s.inc f n).scrGen = s.scrGen := rfl
@[simp] theorem State.inc_scrUsed (s : State) (f : Fld) (n : Nat) : (s.inc f n).scrUsed = s.scrUsed := rfl
@[simp] theorem State.inc_colls (s : State) (f : Fld) (n : Nat) : (s.inc f n).colls = s.colls := rfl
@[simp] theorem State.inc_ready (s : State) (f : Fld) (n : Nat) : (s.inc f n).ready = s.ready := rfl
@[simp] theorem State.inc_readyHeld (s : State) (f : Fld) (n : Nat) : (s.inc f n).readyHeld = s.readyHeld := rfl
@[simp] theorem State.inc_retireReq (s : State) (f : Fld) (n : Nat) : (s.inc f n).retireReq = s.retireReq := rfl
@[simp] theorem State.inc_returns (s : State) (f : Fld) (n : Nat) : (s.inc f n).returns = s.returns := rfl
@[simp] theorem State.inc_failed (s : State) (f : Fld) (n : Nat) : (s.inc f n).failed = s.failed := rfl
@[simp] theorem State.inc_ringSig (s : State) (f : Fld) (n : Nat) : (s.inc f n).ringSig = s.ringSig := rfl
@[simp] theorem State.inc_ringSeq (s : State) (f : Fld) (n : Nat) : (s.inc f n).ringSeq = s.ringSeq := rfl
@[simp] theorem State.inc_evHeld (s : State) (f : Fld) (n : Nat) : (s.inc f n).evHeld = s.evHeld := rfl
@[simp] theorem State.inc_evLost (s : State) (f : Fld) (n : Nat) : (s.inc f n).evLost = s.evLost := rfl
@[simp] theorem State.inc_hostLinkDown (s : State) (f : Fld) (n : Nat) : (s.inc f n).hostLinkDown = s.hostLinkDown := rfl
@[simp] theorem State.inc_evAwait (s : State) (f : Fld) (n : Nat) : (s.inc f n).evAwait = s.evAwait := rfl
@[simp] theorem State.inc_pldmReceiver (s : State) (f : Fld) (n : Nat) : (s.inc f n).pldmReceiver = s.pldmReceiver := rfl
@[simp] theorem State.inc_platQueue (s : State) (f : Fld) (n : Nat) : (s.inc f n).platQueue = s.platQueue := rfl
@[simp] theorem State.inc_evOnce (s : State) (f : Fld) (n : Nat) : (s.inc f n).evOnce = s.evOnce := rfl
@[simp] theorem State.inc_fab (s : State) (f : Fld) (n : Nat) : (s.inc f n).fab = s.fab := rfl
@[simp] theorem State.inc_igd (s : State) (f : Fld) (n : Nat) : (s.inc f n).igd = s.igd := rfl
@[simp] theorem State.inc_lockEnded (s : State) (f : Fld) (n : Nat) : (s.inc f n).lockEnded = s.lockEnded := rfl
@[simp] theorem State.inc_outbox (s : State) (f : Fld) (n : Nat) : (s.inc f n).outbox = s.outbox := rfl
@[simp] theorem State.inc_freeCtr (s : State) (f : Fld) (n : Nat) : (s.inc f n).freeCtr = s.freeCtr := rfl

/-! ### setStnAt -/

@[simp] theorem State.setStnAt_pending (s : State) (key : Nat) (x : Stn) : (s.setStnAt key x).pending = s.pending := rfl
@[simp] theorem State.setStnAt_regs (s : State) (key : Nat) (x : Stn) : (s.setStnAt key x).regs = s.regs := rfl
@[simp] theorem State.setStnAt_meridian (s : State) (key : Nat) (x : Stn) : (s.setStnAt key x).meridian = s.meridian := rfl
@[simp] theorem State.setStnAt_mem (s : State) (key : Nat) (x : Stn) : (s.setStnAt key x).mem = s.mem := rfl
@[simp] theorem State.setStnAt_poison (s : State) (key : Nat) (x : Stn) : (s.setStnAt key x).poison = s.poison := rfl
@[simp] theorem State.setStnAt_hostMem (s : State) (key : Nat) (x : Stn) : (s.setStnAt key x).hostMem = s.hostMem := rfl
@[simp] theorem State.setStnAt_lsts (s : State) (key : Nat) (x : Stn) : (s.setStnAt key x).lsts = s.lsts := rfl
@[simp] theorem State.setStnAt_poisonLog (s : State) (key : Nat) (x : Stn) : (s.setStnAt key x).poisonLog = s.poisonLog := rfl
@[simp] theorem State.setStnAt_dir (s : State) (key : Nat) (x : Stn) : (s.setStnAt key x).dir = s.dir := rfl
@[simp] theorem State.setStnAt_copies (s : State) (key : Nat) (x : Stn) : (s.setStnAt key x).copies = s.copies := rfl
@[simp] theorem State.setStnAt_grants (s : State) (key : Nat) (x : Stn) : (s.setStnAt key x).grants = s.grants := rfl
@[simp] theorem State.setStnAt_snoops (s : State) (key : Nat) (x : Stn) : (s.setStnAt key x).snoops = s.snoops := rfl
@[simp] theorem State.setStnAt_snoopAns (s : State) (key : Nat) (x : Stn) : (s.setStnAt key x).snoopAns = s.snoopAns := rfl
@[simp] theorem State.setStnAt_notices (s : State) (key : Nat) (x : Stn) : (s.setStnAt key x).notices = s.notices := rfl
@[simp] theorem State.setStnAt_evictAcks (s : State) (key : Nat) (x : Stn) : (s.setStnAt key x).evictAcks = s.evictAcks := rfl
@[simp] theorem State.setStnAt_readWait (s : State) (key : Nat) (x : Stn) : (s.setStnAt key x).readWait = s.readWait := rfl
@[simp] theorem State.setStnAt_lostChan (s : State) (key : Nat) (x : Stn) : (s.setStnAt key x).lostChan = s.lostChan := rfl
@[simp] theorem State.setStnAt_edgeSeq (s : State) (key : Nat) (x : Stn) : (s.setStnAt key x).edgeSeq = s.edgeSeq := rfl
@[simp] theorem State.setStnAt_edgeRun (s : State) (key : Nat) (x : Stn) : (s.setStnAt key x).edgeRun = s.edgeRun := rfl
@[simp] theorem State.setStnAt_eccTime (s : State) (key : Nat) (x : Stn) : (s.setStnAt key x).eccTime = s.eccTime := rfl
@[simp] theorem State.setStnAt_dramTry (s : State) (key : Nat) (x : Stn) : (s.setStnAt key x).dramTry = s.dramTry := rfl
@[simp] theorem State.setStnAt_scrubAt (s : State) (key : Nat) (x : Stn) : (s.setStnAt key x).scrubAt = s.scrubAt := rfl
@[simp] theorem State.setStnAt_down (s : State) (key : Nat) (x : Stn) : (s.setStnAt key x).down = s.down := rfl
@[simp] theorem State.setStnAt_pwr (s : State) (key : Nat) (x : Stn) : (s.setStnAt key x).pwr = s.pwr := rfl
@[simp] theorem State.setStnAt_mer (s : State) (key : Nat) (x : Stn) : (s.setStnAt key x).mer = s.mer := rfl
@[simp] theorem State.setStnAt_sbIn (s : State) (key : Nat) (x : Stn) : (s.setStnAt key x).sbIn = s.sbIn := rfl
@[simp] theorem State.setStnAt_fdTrip (s : State) (key : Nat) (x : Stn) : (s.setStnAt key x).fdTrip = s.fdTrip := rfl
@[simp] theorem State.setStnAt_memTrip (s : State) (key : Nat) (x : Stn) : (s.setStnAt key x).memTrip = s.memTrip := rfl
@[simp] theorem State.setStnAt_edgeHot (s : State) (key : Nat) (x : Stn) : (s.setStnAt key x).edgeHot = s.edgeHot := rfl
@[simp] theorem State.setStnAt_tag (s : State) (key : Nat) (x : Stn) : (s.setStnAt key x).tag = s.tag := rfl
@[simp] theorem State.setStnAt_fatalLog (s : State) (key : Nat) (x : Stn) : (s.setStnAt key x).fatalLog = s.fatalLog := rfl
@[simp] theorem State.setStnAt_au (s : State) (key : Nat) (x : Stn) : (s.setStnAt key x).au = s.au := rfl
@[simp] theorem State.setStnAt_snapClosed (s : State) (key : Nat) (x : Stn) : (s.setStnAt key x).snapClosed = s.snapClosed := rfl
@[simp] theorem State.setStnAt_shdStep (s : State) (key : Nat) (x : Stn) : (s.setStnAt key x).shdStep = s.shdStep := rfl
@[simp] theorem State.setStnAt_pulls (s : State) (key : Nat) (x : Stn) : (s.setStnAt key x).pulls = s.pulls := rfl
@[simp] theorem State.setStnAt_ing (s : State) (key : Nat) (x : Stn) : (s.setStnAt key x).ing = s.ing := rfl
@[simp] theorem State.setStnAt_sec (s : State) (key : Nat) (x : Stn) : (s.setStnAt key x).sec = s.sec := rfl
@[simp] theorem State.setStnAt_fw (s : State) (key : Nat) (x : Stn) : (s.setStnAt key x).fw = s.fw := rfl
@[simp] theorem State.setStnAt_mgt (s : State) (key : Nat) (x : Stn) : (s.setStnAt key x).mgt = s.mgt := rfl
@[simp] theorem State.setStnAt_nfc (s : State) (key : Nat) (x : Stn) : (s.setStnAt key x).nfc = s.nfc := rfl
@[simp] theorem State.setStnAt_numVfs (s : State) (key : Nat) (x : Stn) : (s.setStnAt key x).numVfs = s.numVfs := rfl
@[simp] theorem State.setStnAt_atc (s : State) (key : Nat) (x : Stn) : (s.setStnAt key x).atc = s.atc := rfl
@[simp] theorem State.setStnAt_rstKind (s : State) (key : Nat) (x : Stn) : (s.setStnAt key x).rstKind = s.rstKind := rfl
@[simp] theorem State.setStnAt_rstParcels (s : State) (key : Nat) (x : Stn) : (s.setStnAt key x).rstParcels = s.rstParcels := rfl
@[simp] theorem State.setStnAt_ports (s : State) (key : Nat) (x : Stn) : (s.setStnAt key x).ports = s.ports := rfl
@[simp] theorem State.setStnAt_ctxs (s : State) (key : Nat) (x : Stn) : (s.setStnAt key x).ctxs = s.ctxs := rfl
@[simp] theorem State.setStnAt_ctxWait (s : State) (key : Nat) (x : Stn) : (s.setStnAt key x).ctxWait = s.ctxWait := rfl
@[simp] theorem State.setStnAt_remote (s : State) (key : Nat) (x : Stn) : (s.setStnAt key x).remote = s.remote := rfl
@[simp] theorem State.setStnAt_remoteBuf (s : State) (key : Nat) (x : Stn) : (s.setStnAt key x).remoteBuf = s.remoteBuf := rfl
@[simp] theorem State.setStnAt_fdUnreach (s : State) (key : Nat) (x : Stn) : (s.setStnAt key x).fdUnreach = s.fdUnreach := rfl
@[simp] theorem State.setStnAt_t2Set (s : State) (key : Nat) (x : Stn) : (s.setStnAt key x).t2Set = s.t2Set := rfl
@[simp] theorem State.setStnAt_xpQueue (s : State) (key : Nat) (x : Stn) : (s.setStnAt key x).xpQueue = s.xpQueue := rfl
@[simp] theorem State.setStnAt_chains (s : State) (key : Nat) (x : Stn) : (s.setStnAt key x).chains = s.chains := rfl
@[simp] theorem State.setStnAt_sigs (s : State) (key : Nat) (x : Stn) : (s.setStnAt key x).sigs = s.sigs := rfl
@[simp] theorem State.setStnAt_loading (s : State) (key : Nat) (x : Stn) : (s.setStnAt key x).loading = s.loading := rfl
@[simp] theorem State.setStnAt_scrGen (s : State) (key : Nat) (x : Stn) : (s.setStnAt key x).scrGen = s.scrGen := rfl
@[simp] theorem State.setStnAt_scrUsed (s : State) (key : Nat) (x : Stn) : (s.setStnAt key x).scrUsed = s.scrUsed := rfl
@[simp] theorem State.setStnAt_colls (s : State) (key : Nat) (x : Stn) : (s.setStnAt key x).colls = s.colls := rfl
@[simp] theorem State.setStnAt_ready (s : State) (key : Nat) (x : Stn) : (s.setStnAt key x).ready = s.ready := rfl
@[simp] theorem State.setStnAt_readyHeld (s : State) (key : Nat) (x : Stn) : (s.setStnAt key x).readyHeld = s.readyHeld := rfl
@[simp] theorem State.setStnAt_retireReq (s : State) (key : Nat) (x : Stn) : (s.setStnAt key x).retireReq = s.retireReq := rfl
@[simp] theorem State.setStnAt_returns (s : State) (key : Nat) (x : Stn) : (s.setStnAt key x).returns = s.returns := rfl
@[simp] theorem State.setStnAt_failed (s : State) (key : Nat) (x : Stn) : (s.setStnAt key x).failed = s.failed := rfl
@[simp] theorem State.setStnAt_ringSig (s : State) (key : Nat) (x : Stn) : (s.setStnAt key x).ringSig = s.ringSig := rfl
@[simp] theorem State.setStnAt_ringSeq (s : State) (key : Nat) (x : Stn) : (s.setStnAt key x).ringSeq = s.ringSeq := rfl
@[simp] theorem State.setStnAt_evHeld (s : State) (key : Nat) (x : Stn) : (s.setStnAt key x).evHeld = s.evHeld := rfl
@[simp] theorem State.setStnAt_evLost (s : State) (key : Nat) (x : Stn) : (s.setStnAt key x).evLost = s.evLost := rfl
@[simp] theorem State.setStnAt_hostLinkDown (s : State) (key : Nat) (x : Stn) : (s.setStnAt key x).hostLinkDown = s.hostLinkDown := rfl
@[simp] theorem State.setStnAt_evAwait (s : State) (key : Nat) (x : Stn) : (s.setStnAt key x).evAwait = s.evAwait := rfl
@[simp] theorem State.setStnAt_pldmReceiver (s : State) (key : Nat) (x : Stn) : (s.setStnAt key x).pldmReceiver = s.pldmReceiver := rfl
@[simp] theorem State.setStnAt_platQueue (s : State) (key : Nat) (x : Stn) : (s.setStnAt key x).platQueue = s.platQueue := rfl
@[simp] theorem State.setStnAt_evOnce (s : State) (key : Nat) (x : Stn) : (s.setStnAt key x).evOnce = s.evOnce := rfl
@[simp] theorem State.setStnAt_fab (s : State) (key : Nat) (x : Stn) : (s.setStnAt key x).fab = s.fab := rfl
@[simp] theorem State.setStnAt_igd (s : State) (key : Nat) (x : Stn) : (s.setStnAt key x).igd = s.igd := rfl
@[simp] theorem State.setStnAt_lockEnded (s : State) (key : Nat) (x : Stn) : (s.setStnAt key x).lockEnded = s.lockEnded := rfl
@[simp] theorem State.setStnAt_outbox (s : State) (key : Nat) (x : Stn) : (s.setStnAt key x).outbox = s.outbox := rfl
@[simp] theorem State.setStnAt_freeCtr (s : State) (key : Nat) (x : Stn) : (s.setStnAt key x).freeCtr = s.freeCtr := rfl

/-! ### updStn -/

@[simp] theorem State.updStn_pending (s : State) (k : Loc) (f : Stn → Stn) : (s.updStn k f).pending = s.pending := rfl
@[simp] theorem State.updStn_regs (s : State) (k : Loc) (f : Stn → Stn) : (s.updStn k f).regs = s.regs := rfl
@[simp] theorem State.updStn_meridian (s : State) (k : Loc) (f : Stn → Stn) : (s.updStn k f).meridian = s.meridian := rfl
@[simp] theorem State.updStn_mem (s : State) (k : Loc) (f : Stn → Stn) : (s.updStn k f).mem = s.mem := rfl
@[simp] theorem State.updStn_poison (s : State) (k : Loc) (f : Stn → Stn) : (s.updStn k f).poison = s.poison := rfl
@[simp] theorem State.updStn_hostMem (s : State) (k : Loc) (f : Stn → Stn) : (s.updStn k f).hostMem = s.hostMem := rfl
@[simp] theorem State.updStn_lsts (s : State) (k : Loc) (f : Stn → Stn) : (s.updStn k f).lsts = s.lsts := rfl
@[simp] theorem State.updStn_poisonLog (s : State) (k : Loc) (f : Stn → Stn) : (s.updStn k f).poisonLog = s.poisonLog := rfl
@[simp] theorem State.updStn_dir (s : State) (k : Loc) (f : Stn → Stn) : (s.updStn k f).dir = s.dir := rfl
@[simp] theorem State.updStn_copies (s : State) (k : Loc) (f : Stn → Stn) : (s.updStn k f).copies = s.copies := rfl
@[simp] theorem State.updStn_grants (s : State) (k : Loc) (f : Stn → Stn) : (s.updStn k f).grants = s.grants := rfl
@[simp] theorem State.updStn_snoops (s : State) (k : Loc) (f : Stn → Stn) : (s.updStn k f).snoops = s.snoops := rfl
@[simp] theorem State.updStn_snoopAns (s : State) (k : Loc) (f : Stn → Stn) : (s.updStn k f).snoopAns = s.snoopAns := rfl
@[simp] theorem State.updStn_notices (s : State) (k : Loc) (f : Stn → Stn) : (s.updStn k f).notices = s.notices := rfl
@[simp] theorem State.updStn_evictAcks (s : State) (k : Loc) (f : Stn → Stn) : (s.updStn k f).evictAcks = s.evictAcks := rfl
@[simp] theorem State.updStn_readWait (s : State) (k : Loc) (f : Stn → Stn) : (s.updStn k f).readWait = s.readWait := rfl
@[simp] theorem State.updStn_lostChan (s : State) (k : Loc) (f : Stn → Stn) : (s.updStn k f).lostChan = s.lostChan := rfl
@[simp] theorem State.updStn_edgeSeq (s : State) (k : Loc) (f : Stn → Stn) : (s.updStn k f).edgeSeq = s.edgeSeq := rfl
@[simp] theorem State.updStn_edgeRun (s : State) (k : Loc) (f : Stn → Stn) : (s.updStn k f).edgeRun = s.edgeRun := rfl
@[simp] theorem State.updStn_eccTime (s : State) (k : Loc) (f : Stn → Stn) : (s.updStn k f).eccTime = s.eccTime := rfl
@[simp] theorem State.updStn_dramTry (s : State) (k : Loc) (f : Stn → Stn) : (s.updStn k f).dramTry = s.dramTry := rfl
@[simp] theorem State.updStn_scrubAt (s : State) (k : Loc) (f : Stn → Stn) : (s.updStn k f).scrubAt = s.scrubAt := rfl
@[simp] theorem State.updStn_down (s : State) (k : Loc) (f : Stn → Stn) : (s.updStn k f).down = s.down := rfl
@[simp] theorem State.updStn_pwr (s : State) (k : Loc) (f : Stn → Stn) : (s.updStn k f).pwr = s.pwr := rfl
@[simp] theorem State.updStn_mer (s : State) (k : Loc) (f : Stn → Stn) : (s.updStn k f).mer = s.mer := rfl
@[simp] theorem State.updStn_sbIn (s : State) (k : Loc) (f : Stn → Stn) : (s.updStn k f).sbIn = s.sbIn := rfl
@[simp] theorem State.updStn_fdTrip (s : State) (k : Loc) (f : Stn → Stn) : (s.updStn k f).fdTrip = s.fdTrip := rfl
@[simp] theorem State.updStn_memTrip (s : State) (k : Loc) (f : Stn → Stn) : (s.updStn k f).memTrip = s.memTrip := rfl
@[simp] theorem State.updStn_edgeHot (s : State) (k : Loc) (f : Stn → Stn) : (s.updStn k f).edgeHot = s.edgeHot := rfl
@[simp] theorem State.updStn_tag (s : State) (k : Loc) (f : Stn → Stn) : (s.updStn k f).tag = s.tag := rfl
@[simp] theorem State.updStn_fatalLog (s : State) (k : Loc) (f : Stn → Stn) : (s.updStn k f).fatalLog = s.fatalLog := rfl
@[simp] theorem State.updStn_au (s : State) (k : Loc) (f : Stn → Stn) : (s.updStn k f).au = s.au := rfl
@[simp] theorem State.updStn_snapClosed (s : State) (k : Loc) (f : Stn → Stn) : (s.updStn k f).snapClosed = s.snapClosed := rfl
@[simp] theorem State.updStn_shdStep (s : State) (k : Loc) (f : Stn → Stn) : (s.updStn k f).shdStep = s.shdStep := rfl
@[simp] theorem State.updStn_pulls (s : State) (k : Loc) (f : Stn → Stn) : (s.updStn k f).pulls = s.pulls := rfl
@[simp] theorem State.updStn_ing (s : State) (k : Loc) (f : Stn → Stn) : (s.updStn k f).ing = s.ing := rfl
@[simp] theorem State.updStn_sec (s : State) (k : Loc) (f : Stn → Stn) : (s.updStn k f).sec = s.sec := rfl
@[simp] theorem State.updStn_fw (s : State) (k : Loc) (f : Stn → Stn) : (s.updStn k f).fw = s.fw := rfl
@[simp] theorem State.updStn_mgt (s : State) (k : Loc) (f : Stn → Stn) : (s.updStn k f).mgt = s.mgt := rfl
@[simp] theorem State.updStn_nfc (s : State) (k : Loc) (f : Stn → Stn) : (s.updStn k f).nfc = s.nfc := rfl
@[simp] theorem State.updStn_numVfs (s : State) (k : Loc) (f : Stn → Stn) : (s.updStn k f).numVfs = s.numVfs := rfl
@[simp] theorem State.updStn_atc (s : State) (k : Loc) (f : Stn → Stn) : (s.updStn k f).atc = s.atc := rfl
@[simp] theorem State.updStn_rstKind (s : State) (k : Loc) (f : Stn → Stn) : (s.updStn k f).rstKind = s.rstKind := rfl
@[simp] theorem State.updStn_rstParcels (s : State) (k : Loc) (f : Stn → Stn) : (s.updStn k f).rstParcels = s.rstParcels := rfl
@[simp] theorem State.updStn_ports (s : State) (k : Loc) (f : Stn → Stn) : (s.updStn k f).ports = s.ports := rfl
@[simp] theorem State.updStn_ctxs (s : State) (k : Loc) (f : Stn → Stn) : (s.updStn k f).ctxs = s.ctxs := rfl
@[simp] theorem State.updStn_ctxWait (s : State) (k : Loc) (f : Stn → Stn) : (s.updStn k f).ctxWait = s.ctxWait := rfl
@[simp] theorem State.updStn_remote (s : State) (k : Loc) (f : Stn → Stn) : (s.updStn k f).remote = s.remote := rfl
@[simp] theorem State.updStn_remoteBuf (s : State) (k : Loc) (f : Stn → Stn) : (s.updStn k f).remoteBuf = s.remoteBuf := rfl
@[simp] theorem State.updStn_fdUnreach (s : State) (k : Loc) (f : Stn → Stn) : (s.updStn k f).fdUnreach = s.fdUnreach := rfl
@[simp] theorem State.updStn_t2Set (s : State) (k : Loc) (f : Stn → Stn) : (s.updStn k f).t2Set = s.t2Set := rfl
@[simp] theorem State.updStn_xpQueue (s : State) (k : Loc) (f : Stn → Stn) : (s.updStn k f).xpQueue = s.xpQueue := rfl
@[simp] theorem State.updStn_chains (s : State) (k : Loc) (f : Stn → Stn) : (s.updStn k f).chains = s.chains := rfl
@[simp] theorem State.updStn_sigs (s : State) (k : Loc) (f : Stn → Stn) : (s.updStn k f).sigs = s.sigs := rfl
@[simp] theorem State.updStn_loading (s : State) (k : Loc) (f : Stn → Stn) : (s.updStn k f).loading = s.loading := rfl
@[simp] theorem State.updStn_scrGen (s : State) (k : Loc) (f : Stn → Stn) : (s.updStn k f).scrGen = s.scrGen := rfl
@[simp] theorem State.updStn_scrUsed (s : State) (k : Loc) (f : Stn → Stn) : (s.updStn k f).scrUsed = s.scrUsed := rfl
@[simp] theorem State.updStn_colls (s : State) (k : Loc) (f : Stn → Stn) : (s.updStn k f).colls = s.colls := rfl
@[simp] theorem State.updStn_ready (s : State) (k : Loc) (f : Stn → Stn) : (s.updStn k f).ready = s.ready := rfl
@[simp] theorem State.updStn_readyHeld (s : State) (k : Loc) (f : Stn → Stn) : (s.updStn k f).readyHeld = s.readyHeld := rfl
@[simp] theorem State.updStn_retireReq (s : State) (k : Loc) (f : Stn → Stn) : (s.updStn k f).retireReq = s.retireReq := rfl
@[simp] theorem State.updStn_returns (s : State) (k : Loc) (f : Stn → Stn) : (s.updStn k f).returns = s.returns := rfl
@[simp] theorem State.updStn_failed (s : State) (k : Loc) (f : Stn → Stn) : (s.updStn k f).failed = s.failed := rfl
@[simp] theorem State.updStn_ringSig (s : State) (k : Loc) (f : Stn → Stn) : (s.updStn k f).ringSig = s.ringSig := rfl
@[simp] theorem State.updStn_ringSeq (s : State) (k : Loc) (f : Stn → Stn) : (s.updStn k f).ringSeq = s.ringSeq := rfl
@[simp] theorem State.updStn_evHeld (s : State) (k : Loc) (f : Stn → Stn) : (s.updStn k f).evHeld = s.evHeld := rfl
@[simp] theorem State.updStn_evLost (s : State) (k : Loc) (f : Stn → Stn) : (s.updStn k f).evLost = s.evLost := rfl
@[simp] theorem State.updStn_hostLinkDown (s : State) (k : Loc) (f : Stn → Stn) : (s.updStn k f).hostLinkDown = s.hostLinkDown := rfl
@[simp] theorem State.updStn_evAwait (s : State) (k : Loc) (f : Stn → Stn) : (s.updStn k f).evAwait = s.evAwait := rfl
@[simp] theorem State.updStn_pldmReceiver (s : State) (k : Loc) (f : Stn → Stn) : (s.updStn k f).pldmReceiver = s.pldmReceiver := rfl
@[simp] theorem State.updStn_platQueue (s : State) (k : Loc) (f : Stn → Stn) : (s.updStn k f).platQueue = s.platQueue := rfl
@[simp] theorem State.updStn_evOnce (s : State) (k : Loc) (f : Stn → Stn) : (s.updStn k f).evOnce = s.evOnce := rfl
@[simp] theorem State.updStn_fab (s : State) (k : Loc) (f : Stn → Stn) : (s.updStn k f).fab = s.fab := rfl
@[simp] theorem State.updStn_igd (s : State) (k : Loc) (f : Stn → Stn) : (s.updStn k f).igd = s.igd := rfl
@[simp] theorem State.updStn_lockEnded (s : State) (k : Loc) (f : Stn → Stn) : (s.updStn k f).lockEnded = s.lockEnded := rfl
@[simp] theorem State.updStn_outbox (s : State) (k : Loc) (f : Stn → Stn) : (s.updStn k f).outbox = s.outbox := rfl
@[simp] theorem State.updStn_freeCtr (s : State) (k : Loc) (f : Stn → Stn) : (s.updStn k f).freeCtr = s.freeCtr := rfl

/-! ### updLst -/

@[simp] theorem State.updLst_pending (s : State) (n : Nat) (f : Lst → Lst) : (s.updLst n f).pending = s.pending := rfl
@[simp] theorem State.updLst_regs (s : State) (n : Nat) (f : Lst → Lst) : (s.updLst n f).regs = s.regs := rfl
@[simp] theorem State.updLst_meridian (s : State) (n : Nat) (f : Lst → Lst) : (s.updLst n f).meridian = s.meridian := rfl
@[simp] theorem State.updLst_mem (s : State) (n : Nat) (f : Lst → Lst) : (s.updLst n f).mem = s.mem := rfl
@[simp] theorem State.updLst_poison (s : State) (n : Nat) (f : Lst → Lst) : (s.updLst n f).poison = s.poison := rfl
@[simp] theorem State.updLst_hostMem (s : State) (n : Nat) (f : Lst → Lst) : (s.updLst n f).hostMem = s.hostMem := rfl
@[simp] theorem State.updLst_stns (s : State) (n : Nat) (f : Lst → Lst) : (s.updLst n f).stns = s.stns := rfl
@[simp] theorem State.updLst_poisonLog (s : State) (n : Nat) (f : Lst → Lst) : (s.updLst n f).poisonLog = s.poisonLog := rfl
@[simp] theorem State.updLst_dir (s : State) (n : Nat) (f : Lst → Lst) : (s.updLst n f).dir = s.dir := rfl
@[simp] theorem State.updLst_copies (s : State) (n : Nat) (f : Lst → Lst) : (s.updLst n f).copies = s.copies := rfl
@[simp] theorem State.updLst_grants (s : State) (n : Nat) (f : Lst → Lst) : (s.updLst n f).grants = s.grants := rfl
@[simp] theorem State.updLst_snoops (s : State) (n : Nat) (f : Lst → Lst) : (s.updLst n f).snoops = s.snoops := rfl
@[simp] theorem State.updLst_snoopAns (s : State) (n : Nat) (f : Lst → Lst) : (s.updLst n f).snoopAns = s.snoopAns := rfl
@[simp] theorem State.updLst_notices (s : State) (n : Nat) (f : Lst → Lst) : (s.updLst n f).notices = s.notices := rfl
@[simp] theorem State.updLst_evictAcks (s : State) (n : Nat) (f : Lst → Lst) : (s.updLst n f).evictAcks = s.evictAcks := rfl
@[simp] theorem State.updLst_readWait (s : State) (n : Nat) (f : Lst → Lst) : (s.updLst n f).readWait = s.readWait := rfl
@[simp] theorem State.updLst_lostChan (s : State) (n : Nat) (f : Lst → Lst) : (s.updLst n f).lostChan = s.lostChan := rfl
@[simp] theorem State.updLst_edgeSeq (s : State) (n : Nat) (f : Lst → Lst) : (s.updLst n f).edgeSeq = s.edgeSeq := rfl
@[simp] theorem State.updLst_edgeRun (s : State) (n : Nat) (f : Lst → Lst) : (s.updLst n f).edgeRun = s.edgeRun := rfl
@[simp] theorem State.updLst_eccTime (s : State) (n : Nat) (f : Lst → Lst) : (s.updLst n f).eccTime = s.eccTime := rfl
@[simp] theorem State.updLst_dramTry (s : State) (n : Nat) (f : Lst → Lst) : (s.updLst n f).dramTry = s.dramTry := rfl
@[simp] theorem State.updLst_scrubAt (s : State) (n : Nat) (f : Lst → Lst) : (s.updLst n f).scrubAt = s.scrubAt := rfl
@[simp] theorem State.updLst_down (s : State) (n : Nat) (f : Lst → Lst) : (s.updLst n f).down = s.down := rfl
@[simp] theorem State.updLst_pwr (s : State) (n : Nat) (f : Lst → Lst) : (s.updLst n f).pwr = s.pwr := rfl
@[simp] theorem State.updLst_mer (s : State) (n : Nat) (f : Lst → Lst) : (s.updLst n f).mer = s.mer := rfl
@[simp] theorem State.updLst_sbIn (s : State) (n : Nat) (f : Lst → Lst) : (s.updLst n f).sbIn = s.sbIn := rfl
@[simp] theorem State.updLst_fdTrip (s : State) (n : Nat) (f : Lst → Lst) : (s.updLst n f).fdTrip = s.fdTrip := rfl
@[simp] theorem State.updLst_memTrip (s : State) (n : Nat) (f : Lst → Lst) : (s.updLst n f).memTrip = s.memTrip := rfl
@[simp] theorem State.updLst_edgeHot (s : State) (n : Nat) (f : Lst → Lst) : (s.updLst n f).edgeHot = s.edgeHot := rfl
@[simp] theorem State.updLst_tag (s : State) (n : Nat) (f : Lst → Lst) : (s.updLst n f).tag = s.tag := rfl
@[simp] theorem State.updLst_fatalLog (s : State) (n : Nat) (f : Lst → Lst) : (s.updLst n f).fatalLog = s.fatalLog := rfl
@[simp] theorem State.updLst_au (s : State) (n : Nat) (f : Lst → Lst) : (s.updLst n f).au = s.au := rfl
@[simp] theorem State.updLst_snapClosed (s : State) (n : Nat) (f : Lst → Lst) : (s.updLst n f).snapClosed = s.snapClosed := rfl
@[simp] theorem State.updLst_shdStep (s : State) (n : Nat) (f : Lst → Lst) : (s.updLst n f).shdStep = s.shdStep := rfl
@[simp] theorem State.updLst_pulls (s : State) (n : Nat) (f : Lst → Lst) : (s.updLst n f).pulls = s.pulls := rfl
@[simp] theorem State.updLst_ing (s : State) (n : Nat) (f : Lst → Lst) : (s.updLst n f).ing = s.ing := rfl
@[simp] theorem State.updLst_sec (s : State) (n : Nat) (f : Lst → Lst) : (s.updLst n f).sec = s.sec := rfl
@[simp] theorem State.updLst_fw (s : State) (n : Nat) (f : Lst → Lst) : (s.updLst n f).fw = s.fw := rfl
@[simp] theorem State.updLst_mgt (s : State) (n : Nat) (f : Lst → Lst) : (s.updLst n f).mgt = s.mgt := rfl
@[simp] theorem State.updLst_nfc (s : State) (n : Nat) (f : Lst → Lst) : (s.updLst n f).nfc = s.nfc := rfl
@[simp] theorem State.updLst_numVfs (s : State) (n : Nat) (f : Lst → Lst) : (s.updLst n f).numVfs = s.numVfs := rfl
@[simp] theorem State.updLst_atc (s : State) (n : Nat) (f : Lst → Lst) : (s.updLst n f).atc = s.atc := rfl
@[simp] theorem State.updLst_rstKind (s : State) (n : Nat) (f : Lst → Lst) : (s.updLst n f).rstKind = s.rstKind := rfl
@[simp] theorem State.updLst_rstParcels (s : State) (n : Nat) (f : Lst → Lst) : (s.updLst n f).rstParcels = s.rstParcels := rfl
@[simp] theorem State.updLst_ports (s : State) (n : Nat) (f : Lst → Lst) : (s.updLst n f).ports = s.ports := rfl
@[simp] theorem State.updLst_ctxs (s : State) (n : Nat) (f : Lst → Lst) : (s.updLst n f).ctxs = s.ctxs := rfl
@[simp] theorem State.updLst_ctxWait (s : State) (n : Nat) (f : Lst → Lst) : (s.updLst n f).ctxWait = s.ctxWait := rfl
@[simp] theorem State.updLst_remote (s : State) (n : Nat) (f : Lst → Lst) : (s.updLst n f).remote = s.remote := rfl
@[simp] theorem State.updLst_remoteBuf (s : State) (n : Nat) (f : Lst → Lst) : (s.updLst n f).remoteBuf = s.remoteBuf := rfl
@[simp] theorem State.updLst_fdUnreach (s : State) (n : Nat) (f : Lst → Lst) : (s.updLst n f).fdUnreach = s.fdUnreach := rfl
@[simp] theorem State.updLst_t2Set (s : State) (n : Nat) (f : Lst → Lst) : (s.updLst n f).t2Set = s.t2Set := rfl
@[simp] theorem State.updLst_xpQueue (s : State) (n : Nat) (f : Lst → Lst) : (s.updLst n f).xpQueue = s.xpQueue := rfl
@[simp] theorem State.updLst_chains (s : State) (n : Nat) (f : Lst → Lst) : (s.updLst n f).chains = s.chains := rfl
@[simp] theorem State.updLst_sigs (s : State) (n : Nat) (f : Lst → Lst) : (s.updLst n f).sigs = s.sigs := rfl
@[simp] theorem State.updLst_loading (s : State) (n : Nat) (f : Lst → Lst) : (s.updLst n f).loading = s.loading := rfl
@[simp] theorem State.updLst_scrGen (s : State) (n : Nat) (f : Lst → Lst) : (s.updLst n f).scrGen = s.scrGen := rfl
@[simp] theorem State.updLst_scrUsed (s : State) (n : Nat) (f : Lst → Lst) : (s.updLst n f).scrUsed = s.scrUsed := rfl
@[simp] theorem State.updLst_colls (s : State) (n : Nat) (f : Lst → Lst) : (s.updLst n f).colls = s.colls := rfl
@[simp] theorem State.updLst_ready (s : State) (n : Nat) (f : Lst → Lst) : (s.updLst n f).ready = s.ready := rfl
@[simp] theorem State.updLst_readyHeld (s : State) (n : Nat) (f : Lst → Lst) : (s.updLst n f).readyHeld = s.readyHeld := rfl
@[simp] theorem State.updLst_retireReq (s : State) (n : Nat) (f : Lst → Lst) : (s.updLst n f).retireReq = s.retireReq := rfl
@[simp] theorem State.updLst_returns (s : State) (n : Nat) (f : Lst → Lst) : (s.updLst n f).returns = s.returns := rfl
@[simp] theorem State.updLst_failed (s : State) (n : Nat) (f : Lst → Lst) : (s.updLst n f).failed = s.failed := rfl
@[simp] theorem State.updLst_ringSig (s : State) (n : Nat) (f : Lst → Lst) : (s.updLst n f).ringSig = s.ringSig := rfl
@[simp] theorem State.updLst_ringSeq (s : State) (n : Nat) (f : Lst → Lst) : (s.updLst n f).ringSeq = s.ringSeq := rfl
@[simp] theorem State.updLst_evHeld (s : State) (n : Nat) (f : Lst → Lst) : (s.updLst n f).evHeld = s.evHeld := rfl
@[simp] theorem State.updLst_evLost (s : State) (n : Nat) (f : Lst → Lst) : (s.updLst n f).evLost = s.evLost := rfl
@[simp] theorem State.updLst_hostLinkDown (s : State) (n : Nat) (f : Lst → Lst) : (s.updLst n f).hostLinkDown = s.hostLinkDown := rfl
@[simp] theorem State.updLst_evAwait (s : State) (n : Nat) (f : Lst → Lst) : (s.updLst n f).evAwait = s.evAwait := rfl
@[simp] theorem State.updLst_pldmReceiver (s : State) (n : Nat) (f : Lst → Lst) : (s.updLst n f).pldmReceiver = s.pldmReceiver := rfl
@[simp] theorem State.updLst_platQueue (s : State) (n : Nat) (f : Lst → Lst) : (s.updLst n f).platQueue = s.platQueue := rfl
@[simp] theorem State.updLst_evOnce (s : State) (n : Nat) (f : Lst → Lst) : (s.updLst n f).evOnce = s.evOnce := rfl
@[simp] theorem State.updLst_fab (s : State) (n : Nat) (f : Lst → Lst) : (s.updLst n f).fab = s.fab := rfl
@[simp] theorem State.updLst_igd (s : State) (n : Nat) (f : Lst → Lst) : (s.updLst n f).igd = s.igd := rfl
@[simp] theorem State.updLst_lockEnded (s : State) (n : Nat) (f : Lst → Lst) : (s.updLst n f).lockEnded = s.lockEnded := rfl
@[simp] theorem State.updLst_outbox (s : State) (n : Nat) (f : Lst → Lst) : (s.updLst n f).outbox = s.outbox := rfl
@[simp] theorem State.updLst_freeCtr (s : State) (n : Nat) (f : Lst → Lst) : (s.updLst n f).freeCtr = s.freeCtr := rfl

/-! ### send -/

@[simp] theorem State.send_pending (s : State) (m : OutMsg) : (s.send m).pending = s.pending := rfl
@[simp] theorem State.send_regs (s : State) (m : OutMsg) : (s.send m).regs = s.regs := rfl
@[simp] theorem State.send_meridian (s : State) (m : OutMsg) : (s.send m).meridian = s.meridian := rfl
@[simp] theorem State.send_mem (s : State) (m : OutMsg) : (s.send m).mem = s.mem := rfl
@[simp] theorem State.send_poison (s : State) (m : OutMsg) : (s.send m).poison = s.poison := rfl
@[simp] theorem State.send_hostMem (s : State) (m : OutMsg) : (s.send m).hostMem = s.hostMem := rfl
@[simp] theorem State.send_stns (s : State) (m : OutMsg) : (s.send m).stns = s.stns := rfl
@[simp] theorem State.send_lsts (s : State) (m : OutMsg) : (s.send m).lsts = s.lsts := rfl
@[simp] theorem State.send_poisonLog (s : State) (m : OutMsg) : (s.send m).poisonLog = s.poisonLog := rfl
@[simp] theorem State.send_dir (s : State) (m : OutMsg) : (s.send m).dir = s.dir := rfl
@[simp] theorem State.send_copies (s : State) (m : OutMsg) : (s.send m).copies = s.copies := rfl
@[simp] theorem State.send_grants (s : State) (m : OutMsg) : (s.send m).grants = s.grants := rfl
@[simp] theorem State.send_snoops (s : State) (m : OutMsg) : (s.send m).snoops = s.snoops := rfl
@[simp] theorem State.send_snoopAns (s : State) (m : OutMsg) : (s.send m).snoopAns = s.snoopAns := rfl
@[simp] theorem State.send_notices (s : State) (m : OutMsg) : (s.send m).notices = s.notices := rfl
@[simp] theorem State.send_evictAcks (s : State) (m : OutMsg) : (s.send m).evictAcks = s.evictAcks := rfl
@[simp] theorem State.send_readWait (s : State) (m : OutMsg) : (s.send m).readWait = s.readWait := rfl
@[simp] theorem State.send_lostChan (s : State) (m : OutMsg) : (s.send m).lostChan = s.lostChan := rfl
@[simp] theorem State.send_edgeSeq (s : State) (m : OutMsg) : (s.send m).edgeSeq = s.edgeSeq := rfl
@[simp] theorem State.send_edgeRun (s : State) (m : OutMsg) : (s.send m).edgeRun = s.edgeRun := rfl
@[simp] theorem State.send_eccTime (s : State) (m : OutMsg) : (s.send m).eccTime = s.eccTime := rfl
@[simp] theorem State.send_dramTry (s : State) (m : OutMsg) : (s.send m).dramTry = s.dramTry := rfl
@[simp] theorem State.send_scrubAt (s : State) (m : OutMsg) : (s.send m).scrubAt = s.scrubAt := rfl
@[simp] theorem State.send_down (s : State) (m : OutMsg) : (s.send m).down = s.down := rfl
@[simp] theorem State.send_pwr (s : State) (m : OutMsg) : (s.send m).pwr = s.pwr := rfl
@[simp] theorem State.send_mer (s : State) (m : OutMsg) : (s.send m).mer = s.mer := rfl
@[simp] theorem State.send_sbIn (s : State) (m : OutMsg) : (s.send m).sbIn = s.sbIn := rfl
@[simp] theorem State.send_fdTrip (s : State) (m : OutMsg) : (s.send m).fdTrip = s.fdTrip := rfl
@[simp] theorem State.send_memTrip (s : State) (m : OutMsg) : (s.send m).memTrip = s.memTrip := rfl
@[simp] theorem State.send_edgeHot (s : State) (m : OutMsg) : (s.send m).edgeHot = s.edgeHot := rfl
@[simp] theorem State.send_tag (s : State) (m : OutMsg) : (s.send m).tag = s.tag := rfl
@[simp] theorem State.send_fatalLog (s : State) (m : OutMsg) : (s.send m).fatalLog = s.fatalLog := rfl
@[simp] theorem State.send_au (s : State) (m : OutMsg) : (s.send m).au = s.au := rfl
@[simp] theorem State.send_snapClosed (s : State) (m : OutMsg) : (s.send m).snapClosed = s.snapClosed := rfl
@[simp] theorem State.send_shdStep (s : State) (m : OutMsg) : (s.send m).shdStep = s.shdStep := rfl
@[simp] theorem State.send_pulls (s : State) (m : OutMsg) : (s.send m).pulls = s.pulls := rfl
@[simp] theorem State.send_ing (s : State) (m : OutMsg) : (s.send m).ing = s.ing := rfl
@[simp] theorem State.send_sec (s : State) (m : OutMsg) : (s.send m).sec = s.sec := rfl
@[simp] theorem State.send_fw (s : State) (m : OutMsg) : (s.send m).fw = s.fw := rfl
@[simp] theorem State.send_mgt (s : State) (m : OutMsg) : (s.send m).mgt = s.mgt := rfl
@[simp] theorem State.send_nfc (s : State) (m : OutMsg) : (s.send m).nfc = s.nfc := rfl
@[simp] theorem State.send_numVfs (s : State) (m : OutMsg) : (s.send m).numVfs = s.numVfs := rfl
@[simp] theorem State.send_atc (s : State) (m : OutMsg) : (s.send m).atc = s.atc := rfl
@[simp] theorem State.send_rstKind (s : State) (m : OutMsg) : (s.send m).rstKind = s.rstKind := rfl
@[simp] theorem State.send_rstParcels (s : State) (m : OutMsg) : (s.send m).rstParcels = s.rstParcels := rfl
@[simp] theorem State.send_ports (s : State) (m : OutMsg) : (s.send m).ports = s.ports := rfl
@[simp] theorem State.send_ctxs (s : State) (m : OutMsg) : (s.send m).ctxs = s.ctxs := rfl
@[simp] theorem State.send_ctxWait (s : State) (m : OutMsg) : (s.send m).ctxWait = s.ctxWait := rfl
@[simp] theorem State.send_remote (s : State) (m : OutMsg) : (s.send m).remote = s.remote := rfl
@[simp] theorem State.send_remoteBuf (s : State) (m : OutMsg) : (s.send m).remoteBuf = s.remoteBuf := rfl
@[simp] theorem State.send_fdUnreach (s : State) (m : OutMsg) : (s.send m).fdUnreach = s.fdUnreach := rfl
@[simp] theorem State.send_t2Set (s : State) (m : OutMsg) : (s.send m).t2Set = s.t2Set := rfl
@[simp] theorem State.send_xpQueue (s : State) (m : OutMsg) : (s.send m).xpQueue = s.xpQueue := rfl
@[simp] theorem State.send_chains (s : State) (m : OutMsg) : (s.send m).chains = s.chains := rfl
@[simp] theorem State.send_sigs (s : State) (m : OutMsg) : (s.send m).sigs = s.sigs := rfl
@[simp] theorem State.send_loading (s : State) (m : OutMsg) : (s.send m).loading = s.loading := rfl
@[simp] theorem State.send_scrGen (s : State) (m : OutMsg) : (s.send m).scrGen = s.scrGen := rfl
@[simp] theorem State.send_scrUsed (s : State) (m : OutMsg) : (s.send m).scrUsed = s.scrUsed := rfl
@[simp] theorem State.send_colls (s : State) (m : OutMsg) : (s.send m).colls = s.colls := rfl
@[simp] theorem State.send_ready (s : State) (m : OutMsg) : (s.send m).ready = s.ready := rfl
@[simp] theorem State.send_readyHeld (s : State) (m : OutMsg) : (s.send m).readyHeld = s.readyHeld := rfl
@[simp] theorem State.send_retireReq (s : State) (m : OutMsg) : (s.send m).retireReq = s.retireReq := rfl
@[simp] theorem State.send_returns (s : State) (m : OutMsg) : (s.send m).returns = s.returns := rfl
@[simp] theorem State.send_failed (s : State) (m : OutMsg) : (s.send m).failed = s.failed := rfl
@[simp] theorem State.send_ringSig (s : State) (m : OutMsg) : (s.send m).ringSig = s.ringSig := rfl
@[simp] theorem State.send_ringSeq (s : State) (m : OutMsg) : (s.send m).ringSeq = s.ringSeq := rfl
@[simp] theorem State.send_evHeld (s : State) (m : OutMsg) : (s.send m).evHeld = s.evHeld := rfl
@[simp] theorem State.send_evLost (s : State) (m : OutMsg) : (s.send m).evLost = s.evLost := rfl
@[simp] theorem State.send_hostLinkDown (s : State) (m : OutMsg) : (s.send m).hostLinkDown = s.hostLinkDown := rfl
@[simp] theorem State.send_evAwait (s : State) (m : OutMsg) : (s.send m).evAwait = s.evAwait := rfl
@[simp] theorem State.send_pldmReceiver (s : State) (m : OutMsg) : (s.send m).pldmReceiver = s.pldmReceiver := rfl
@[simp] theorem State.send_platQueue (s : State) (m : OutMsg) : (s.send m).platQueue = s.platQueue := rfl
@[simp] theorem State.send_evOnce (s : State) (m : OutMsg) : (s.send m).evOnce = s.evOnce := rfl
@[simp] theorem State.send_fab (s : State) (m : OutMsg) : (s.send m).fab = s.fab := rfl
@[simp] theorem State.send_igd (s : State) (m : OutMsg) : (s.send m).igd = s.igd := rfl
@[simp] theorem State.send_lockEnded (s : State) (m : OutMsg) : (s.send m).lockEnded = s.lockEnded := rfl
@[simp] theorem State.send_freeCtr (s : State) (m : OutMsg) : (s.send m).freeCtr = s.freeCtr := rfl

/-! ### Registers -/

/-- A register reads what was written to it. -/
@[simp] theorem State.reg_setReg_same (s : State) (a : Nat) (v : BitVec 64) : (s.setReg a v).reg a = v := by
  simp [State.reg, State.setReg]

/-- A write leaves every other register alone. -/
theorem State.reg_setReg_ne (s : State) {a b : Nat} (v : BitVec 64) (h : b ≠ a) : (s.setReg a v).reg b = s.reg b := by
  simp [State.reg, State.setReg, sparse_get_set_ne _ _ _ h]

theorem State.reg_wr_ne (s : State) {f : Fld} {b : Nat} (x : Nat) (h : b ≠ f.addr) : (s.wr f x).reg b = s.reg b :=
  s.reg_setReg_ne _ h

/-- A field deposited in a register reads back, cut to its width; a field elsewhere reads as before. -/
theorem Fld.mask_getLsbD (f : Fld) (hf : f.lo + f.w ≤ 64) (i : Nat) :
    f.mask.getLsbD i = (decide (f.lo ≤ i) && decide (i < f.lo + f.w)) := by
  unfold Fld.mask
  rw [BitVec.getLsbD_ofNat, Nat.testBit_mul_two_pow, Nat.testBit_two_pow_sub_one]
  by_cases h1 : f.lo ≤ i <;> by_cases h2 : i < f.lo + f.w <;> simp [h1, h2] <;> omega

theorem Fld.deposit_getLsbD (f : Fld) (hf : f.lo + f.w ≤ 64) (v : BitVec 64) (x i : Nat) :
    (f.deposit v x).getLsbD i = if f.lo ≤ i ∧ i < f.lo + f.w then x.testBit (i - f.lo) else v.getLsbD i := by
  unfold Fld.deposit
  rw [BitVec.getLsbD_or, BitVec.getLsbD_and, BitVec.getLsbD_not, f.mask_getLsbD hf, BitVec.getLsbD_ofNat, Nat.testBit_mul_two_pow,
    Nat.testBit_mod_two_pow]
  by_cases h1 : f.lo ≤ i
  · by_cases h2 : i < f.lo + f.w
    · have h3 : i < 64 := by omega
      have h4 : i - f.lo < f.w := by omega
      simp [h1, h2, h3, h4]
    · have h4 : ¬(i - f.lo < f.w) := by omega
      by_cases h3 : i < 64
      · simp [h1, h2, h3, h4]
      · have : v.getLsbD i = false := BitVec.getLsbD_of_ge v i (by omega)
        simp [h2, h4, this]
  · by_cases h3 : i < 64
    · simp [h1, h3]
    · have : v.getLsbD i = false := BitVec.getLsbD_of_ge v i (by omega)
      simp [h1, this]

theorem Fld.extract_testBit (f : Fld) (hf : f.lo + f.w ≤ 64) (v : BitVec 64) (i : Nat) :
    (f.extract v).testBit i = (decide (i < f.w) && v.getLsbD (f.lo + i)) := by
  unfold Fld.extract
  rw [Nat.testBit_mod_two_pow, Nat.testBit_div_two_pow]
  rw [BitVec.getLsbD, Nat.add_comm i f.lo]

/-- The field written is read back, cut to its width. -/
theorem Fld.extract_deposit (f : Fld) (hf : f.lo + f.w ≤ 64) (v : BitVec 64) (x : Nat) : f.extract (f.deposit v x) = x % 2 ^ f.w := by
  refine Nat.eq_of_testBit_eq (fun i => ?_)
  rw [f.extract_testBit hf, f.deposit_getLsbD hf, Nat.testBit_mod_two_pow]
  by_cases h : i < f.w
  · have h1 : f.lo ≤ f.lo + i ∧ f.lo + i < f.lo + f.w := by omega
    simp [h]
  · simp [h]

/-- A field apart from the one written is read as before. -/
theorem Fld.extract_deposit_apart (f g : Fld) (hf : f.lo + f.w ≤ 64) (hg : g.lo + g.w ≤ 64) (v : BitVec 64) (x : Nat)
    (h : f.lo + f.w ≤ g.lo ∨ g.lo + g.w ≤ f.lo) : g.extract (f.deposit v x) = g.extract v := by
  refine Nat.eq_of_testBit_eq (fun i => ?_)
  rw [g.extract_testBit hg, g.extract_testBit hg, f.deposit_getLsbD hf]
  by_cases hi : i < g.w
  · have : ¬(f.lo ≤ g.lo + i ∧ g.lo + i < f.lo + f.w) := by omega
    simp [hi, this]
  · simp [hi]

/-- The field written reads what was written, cut to its width. -/
theorem State.rd_wr_same (s : State) (f : Fld) (hf : f.lo + f.w ≤ 64) (x : Nat) : (s.wr f x).rd f = x % 2 ^ f.w := by
  simp [State.rd, State.wr, f.extract_deposit hf]

/-- A field of another register, or apart in the same one, reads as before. -/
theorem State.rd_wr_ne (s : State) (f g : Fld) (x : Nat) (h : g.addr ≠ f.addr) : (s.wr f x).rd g = s.rd g := by
  simp [State.rd, State.wr, s.reg_setReg_ne _ h]

theorem State.rd_wr_apart (s : State) (f g : Fld) (hf : f.lo + f.w ≤ 64) (hg : g.lo + g.w ≤ 64) (x : Nat)
    (h : f.lo + f.w ≤ g.lo ∨ g.lo + g.w ≤ f.lo) : (s.wr f x).rd g = s.rd g := by
  by_cases ha : g.addr = f.addr
  · simp [State.rd, State.wr, ha, Fld.extract_deposit_apart f g hf hg _ x h]
  · exact s.rd_wr_ne f g x ha

/-- A field's value fits its width. -/
theorem State.rd_lt (s : State) (f : Fld) : s.rd f < 2 ^ f.w := Nat.mod_lt _ (Nat.two_pow_pos _)

/-- A counter's increment saturates at all ones (R11). -/
theorem State.rd_inc (s : State) (f : Fld) (hf : f.lo + f.w ≤ 64) (n : Nat) : (s.inc f n).rd f = min (s.rd f + n) (2 ^ f.w - 1) := by
  unfold State.inc
  rw [s.rd_wr_same f hf]
  have := Nat.two_pow_pos f.w
  exact Nat.mod_eq_of_lt (by omega)

/-! ### Stations -/

@[simp] theorem State.stnAt_setStnAt_same (s : State) (k : Nat) (x : Stn) : (s.setStnAt k x).stnAt k = x := by
  simp [State.stnAt, State.setStnAt]

theorem State.stnAt_setStnAt_ne (s : State) {k j : Nat} (x : Stn) (h : j ≠ k) : (s.setStnAt k x).stnAt j = s.stnAt j := by
  simp [State.stnAt, State.setStnAt, sparse_get_set_ne _ _ _ h]

@[simp] theorem State.stn_updStn_same (s : State) (k : Loc) (f : Stn → Stn) : (s.updStn k f).stn k = f (s.stn k) := by
  simp [State.stn, State.updStn]

@[simp] theorem State.lst_updLst_same (s : State) (n : Nat) (f : Lst → Lst) : (s.updLst n f).lst n = f (s.lst n) := by
  simp [State.lst, State.updLst]

theorem State.lst_updLst_ne (s : State) {n m : Nat} (f : Lst → Lst) (h : m ≠ n) : (s.updLst n f).lst m = s.lst m := by
  simp [State.lst, State.updLst, sparse_get_set_ne _ _ _ h]

end Sys2Proof.Machine
end

