-- ==== Sys2Proof/Laws/Instr.lean ====
section
/-! SUPPORT. What issue comes to when a station issues a word, and what the shared endings of scalar, descriptor and
control instructions leave. -/

namespace Sys2Proof.Machine

theorem State.issue_of_issues {s : State} {stn : BitVec 11} {w : BitVec 64} {k : Loc} (h : s.Issues stn w k) (go : Env → State → State) :
    s.issue stn w go = go (s.env k w) s := by
  simp [State.issue, h.1, h.2.1, h.2.2]

@[simp] theorem env_loc (s : State) (k : Loc) (w : BitVec 64) : (s.env k w).loc = k := rfl
@[simp] theorem env_pc (s : State) (k : Loc) (w : BitVec 64) : (s.env k w).pc = s.pcOf k := rfl
@[simp] theorem env_leg (s : State) (k : Loc) (w : BitVec 64) : (s.env k w).leg = s.legOf k := rfl
@[simp] theorem env_parcel (s : State) (k : Loc) (w : BitVec 64) : (s.env k w).parcel = s.parcelOf k.fd := rfl
@[simp] theorem env_word (s : State) (k : Loc) (w : BitVec 64) : (s.env k w).word = w := rfl

/-- Station `stn` is at the place that names it. -/
theorem num_of_issues {s : State} {stn : BitVec 11} {w : BitVec 64} {k : Loc} (h : s.Issues stn w k) : k.num = stn.toNat := by
  have h1 := h.1
  unfold State.issuable at h1
  split at h1
  · next q hq =>
    split at h1
    · cases h1
      unfold State.locate at hq
      simp only at hq
      split at hq
      · cases hq; simp [Loc.num]; omega
      · cases hq
    · cases h1
  · cases h1

/-! ### Registers apart -/

theorem OnlyRegs.refl (s : State) (as : List Nat) : OnlyRegs s s as := ⟨rfl, fun _ _ => rfl⟩

theorem OnlyRegs.trans {r s t : State} {as bs : List Nat} (h : OnlyRegs r s as) (g : OnlyRegs s t bs) : OnlyRegs r t (as ++ bs) := by
  refine ⟨?_, fun a ha => ?_⟩
  · have h1 := g.1; have h2 := h.1
    generalize t.regs = x at *
    subst h1
    generalize s.regs = y at *
    subst h2; rfl
  · simp only [List.mem_append, not_or] at ha
    rw [g.2 a ha.2, h.2 a ha.1]

theorem OnlyRegs.mono {s t : State} {as bs : List Nat} (h : OnlyRegs s t as) (hs : ∀ a ∈ as, a ∈ bs) : OnlyRegs s t bs :=
  ⟨h.1, fun a ha => h.2 a (fun h' => ha (hs a h'))⟩

theorem OnlyRegs.setReg (s : State) (a : Nat) (v : BitVec 64) : OnlyRegs s (s.setReg a v) [a] :=
  ⟨rfl, fun b hb => s.reg_setReg_ne v (by simpa using hb)⟩

theorem OnlyRegs.wr (s : State) (f : Fld) (x : Nat) : OnlyRegs s (s.wr f x) [f.addr] := OnlyRegs.setReg s _ _

theorem OnlyRegs.inc (s : State) (f : Fld) (n : Nat) : OnlyRegs s (s.inc f n) [f.addr] := OnlyRegs.setReg s _ _

theorem OnlyRegs.rd {s t : State} {as : List Nat} (h : OnlyRegs s t as) (f : Fld) (hf : f.addr ∉ as) : t.rd f = s.rd f := by
  simp [State.rd, h.2 _ hf]

/-! ### PC -/

theorem pcOf_setPc (s : State) (k : Loc) (x : Nat) : (s.setPc k x).pcOf k = x % 2 ^ 32 :=
  s.rd_wr_same (Reg.stnPcPc k.b) (by simp [Reg.stnPcPc]) x

theorem legOf_setPc (s : State) (k : Loc) (x : Nat) : (s.setPc k x).legOf k = s.legOf k :=
  s.rd_wr_apart (Reg.stnPcPc k.b) (Reg.stnPcLeg k.b) (by simp [Reg.stnPcPc]) (by simp [Reg.stnPcLeg]) x
    (by simp [Reg.stnPcPc, Reg.stnPcLeg])

theorem pcOnly_setPc (s : State) (k : Loc) (x : Nat) (hx : x < 2 ^ 32) : PcOnly s k x (s.setPc k x) :=
  ⟨OnlyRegs.wr s _ x, by rw [pcOf_setPc, Nat.mod_eq_of_lt hx], legOf_setPc s k x⟩

/-- PC one word on, and nothing else. -/
theorem pcOnly_advance (s : State) (k : Loc) : PcOnly s k (s.nextPc k) (s.advance k) :=
  ⟨OnlyRegs.wr s _ _, pcOf_setPc s k _, legOf_setPc s k _⟩

/-! ### Scalar results -/

theorem dataBit_get (m i j : Nat) (v : Bool) :
    dataBit m i v / 2 ^ j % 2 = if j = i then (if v then 1 else 0) else m / 2 ^ j % 2 := by
  have key : (dataBit m i v).testBit j = if j = i then v else m.testBit j := by
    have e : dataBit m i v = 2 ^ i * (2 * (m / 2 ^ (i + 1)) + (if v then 1 else 0)) + m % 2 ^ i := by
      unfold dataBit
      rw [Nat.pow_succ]
      generalize m / (2 ^ i * 2) = q
      generalize 2 ^ i = P
      cases v <;> simp only [Nat.mul_add, Nat.mul_one, Nat.add_zero, if_true, if_false, Bool.false_eq_true] <;>
        rw [Nat.mul_left_comm P 2 q, Nat.mul_left_comm q P 2, Nat.mul_comm q 2, Nat.mul_left_comm P 2 q]
    rw [e, Nat.testBit_two_pow_mul_add _ (Nat.mod_lt _ (Nat.two_pow_pos i))]
    by_cases h1 : j < i
    · have : j ≠ i := by omega
      simp [h1, this]
    · by_cases h2 : j = i
      · subst h2; cases v <;> simp [Nat.testBit_zero]
      · have : ∃ d, j = i + 1 + d := ⟨j - i - 1, by omega⟩
        obtain ⟨d, rfl⟩ := this
        have h3 : i + 1 + d - i = d + 1 := by omega
        have h4 : ¬(i + 1 + d < i) := by omega
        have h5 : i + 1 + d ≠ i := by omega
        rw [if_neg h4, if_neg h5, h3, Nat.testBit_succ]
        have h6 : (2 * (m / 2 ^ (i + 1)) + (if v then 1 else 0)) / 2 = m / 2 ^ (i + 1) := by cases v <;> simp <;> omega
        rw [h6, Nat.testBit_div_two_pow]
        congr 1; omega
  have t : ∀ a b : Nat, (a.testBit j = b.testBit j) → a / 2 ^ j % 2 = b / 2 ^ j % 2 := by
    intro a b h
    rw [Nat.testBit_eq_decide_div_mod_eq, Nat.testBit_eq_decide_div_mod_eq] at h
    have h1 := Nat.mod_two_eq_zero_or_one (a / 2 ^ j)
    have h2 := Nat.mod_two_eq_zero_or_one (b / 2 ^ j)
    rcases h1 with h1 | h1 <;> rcases h2 with h2 | h2 <;> simp_all
  by_cases h : j = i
  · rw [if_pos h] at key ⊢
    rw [Nat.testBit_eq_decide_div_mod_eq] at key
    cases v <;> simp_all
  · rw [if_neg h] at key ⊢
    exact t _ _ key

theorem sreg_setS_same (s : State) (b i x : Nat) (d : Bool) (hi : i ≠ 0) (h32 : i < 32) (hx : x < 2 ^ 64) : (s.setS b i x d).sreg b i = x := by
  have hne : (Reg.stnS b i).addr ≠ (Reg.stnSdataData b).addr := by simp [Reg.stnS, Reg.stnSdataData]; omega
  simp only [State.setS, hi, if_false, State.sreg]
  rw [State.rd_wr_ne _ _ _ _ hne, State.rd_wr_same _ _ (by simp [Reg.stnS])]
  exact Nat.mod_eq_of_lt hx

theorem sreg_setS_ne (s : State) (b i j x : Nat) (d : Bool) (hj : j < 32) (hij : j ≠ i) : (s.setS b i x d).sreg b j = s.sreg b j := by
  unfold State.setS
  split
  · rfl
  · have h1 : (Reg.stnS b j).addr ≠ (Reg.stnSdataData b).addr := by simp [Reg.stnS, Reg.stnSdataData]; omega
    have h2 : (Reg.stnS b j).addr ≠ (Reg.stnS b i).addr := by simp [Reg.stnS]; omega
    simp only [State.sreg]
    split
    · rfl
    · rw [State.rd_wr_ne _ _ _ _ h1, State.rd_wr_ne _ _ _ _ h2]

theorem sdata_setS (s : State) (b i j x : Nat) (d : Bool) (h32 : i < 32) (hi : i ≠ 0) (hj : j < 32) :
    (s.setS b i x d).sdata b j = if j = 0 then false else if j = i then d else s.sdata b j := by
  simp only [State.setS, hi, if_false, State.sdata]
  by_cases h0 : j = 0
  · simp [h0]
  · have hne : (Reg.stnSdataData b).addr ≠ (Reg.stnS b i).addr := by simp [Reg.stnS, Reg.stnSdataData]; omega
    rw [State.rd_wr_same _ _ (by simp [Reg.stnSdataData])]
    have hm : ∀ m : Nat, m % 2 ^ (Reg.stnSdataData b).w / 2 ^ j % 2 = m / 2 ^ j % 2 := by
      intro m
      have := Nat.testBit_mod_two_pow m 32 j
      rw [Nat.testBit_eq_decide_div_mod_eq, Nat.testBit_eq_decide_div_mod_eq] at this
      have h1 := Nat.mod_two_eq_zero_or_one (m % 2 ^ 32 / 2 ^ j)
      have h2 := Nat.mod_two_eq_zero_or_one (m / 2 ^ j)
      show m % 2 ^ 32 / 2 ^ j % 2 = _
      rcases h1 with h1 | h1 <;> rcases h2 with h2 | h2 <;> simp_all
    rw [hm, dataBit_get]
    by_cases h : j = i
    · subst h; cases d <;> simp [h0]
    · simp [h, h0]

theorem sreg_setPc (s : State) (k : Loc) (x j : Nat) : (s.setPc k x).sreg k.b j = s.sreg k.b j := by
  simp only [State.sreg, State.setPc]
  split
  · rfl
  · exact State.rd_wr_ne _ _ _ _ (by simp [Reg.stnS, Reg.stnPcPc]; omega)

theorem sdata_setPc (s : State) (k : Loc) (x j : Nat) : (s.setPc k x).sdata k.b j = s.sdata k.b j := by
  simp only [State.sdata, State.setPc]
  split
  · rfl
  · simp only [State.rd_wr_ne s (Reg.stnPcPc k.b) (Reg.stnSdataData k.b) x (by simp [Reg.stnSdataData, Reg.stnPcPc])]

theorem onlyRegs_setS (s : State) (b i x : Nat) (d : Bool) :
    OnlyRegs s (s.setS b i x d) [(Reg.stnS b i).addr, (Reg.stnSdataData b).addr] := by
  unfold State.setS
  split
  · exact OnlyRegs.refl s _
  · exact (OnlyRegs.wr s _ _).trans (OnlyRegs.wr _ _ _)

/-- S[i] written and PC advanced: a scalar result. -/
theorem scalarResult_setS (s : State) (k : Loc) (i x : Nat) (d : Bool) (h32 : i < 32) (hx : x < 2 ^ 64) :
    ScalarResult s k i x d ((s.setS k.b i x d).advance k) := by
  have hpc : (s.setS k.b i x d).pcOf k = s.pcOf k :=
    (onlyRegs_setS s k.b i x d).rd _ (by simp [Reg.stnPcPc, Reg.stnS, Reg.stnSdataData]; omega)
  have hleg : (s.setS k.b i x d).legOf k = s.legOf k :=
    (onlyRegs_setS s k.b i x d).rd _ (by simp [Reg.stnPcLeg, Reg.stnS, Reg.stnSdataData]; omega)
  refine ⟨?_, ?_, ?_, ?_, ?_, ?_⟩
  · exact (onlyRegs_setS s k.b i x d).trans (OnlyRegs.wr _ _ _)
  · rw [State.advance, pcOf_setPc, hpc]
  · rw [State.advance, legOf_setPc, hleg]
  · intro h0 a ha
    subst h0
    exact State.reg_wr_ne _ _ ha
  · intro hi
    exact ⟨by rw [State.advance, sreg_setPc, sreg_setS_same s _ _ _ _ hi h32 hx],
      by rw [State.advance, sdata_setPc, sdata_setS s _ _ _ _ _ h32 hi h32]; simp [hi]⟩
  · intro j hj hij
    refine ⟨by rw [State.advance, sreg_setPc, sreg_setS_ne s _ _ _ _ _ hj hij], ?_⟩
    rw [State.advance, sdata_setPc]
    by_cases hi : i = 0
    · simp [State.setS, hi]
    · rw [sdata_setS s _ _ _ _ _ h32 hi hj]
      by_cases h0 : j = 0
      · simp [h0, State.sdata]
      · simp [h0, hij]

end Sys2Proof.Machine
end

