-- ==== Sys2Proof/Laws/Events.lean ====
section
/-! SUPPORT. What raising an event changes: event rings and what holds events for later, nothing else. -/

namespace Sys2Proof.Machine

theorem EventsOnly.refl (s : State) : EventsOnly s s := ⟨rfl, fun _ _ => rfl⟩

theorem EventsOnly.trans {r s t : State} (h : EventsOnly r s) (g : EventsOnly s t) : EventsOnly r t := by
  refine ⟨?_, fun a ha => (g.2 a ha).trans (h.2 a ha)⟩
  rw [g.1, h.1]

/-- Any change of what reports events alone. -/
theorem EventsOnly.of (s : State) (hm : List Host.Cell) (at' : List (Nat × Nat)) (rs : Sparse RingSig) (rq : Sparse Nat)
    (eh : List (Nat × List Byte)) (el : Sparse Nat) (fl pq : List (List Byte)) (ob : List OutMsg) (eo : List (Nat × Nat)) :
    EventsOnly s { s with hostMem := hm, atc := at', ringSig := rs, ringSeq := rq, evHeld := eh, evLost := el, fatalLog := fl,
                          platQueue := pq, outbox := ob, evOnce := eo } := ⟨rfl, fun _ _ => rfl⟩

/-- A step of the event machinery that changes only its own registers. -/
theorem EventsOnly.setReg {r s : State} (h : EventsOnly r s) (a : Nat) (v : BitVec 64) (ha : 0x501000 ≤ a ∧ a < 0x506000) :
    EventsOnly r (s.setReg a v) :=
  h.trans ⟨rfl, fun _ hb => s.reg_setReg_ne v (fun e => hb (e ▸ ha))⟩

theorem EventsOnly.hostWrite (l : List Byte) : ∀ {r s : State} (_ : EventsOnly r s) (a : Nat), EventsOnly r (s.hostWrite a l) := by
  induction l with
  | nil => intro r s h a; exact h
  | cons b t ih =>
    intro r s h a
    unfold State.hostWrite
    exact ih (h.trans (EventsOnly.of s _ _ _ _ _ _ _ _ _ _)) _

theorem EventsOnly.signalRing {r s : State} (h : EventsOnly r s) (f n : Nat) : EventsOnly r (s.signalRing f n) := by
  unfold State.signalRing
  simp only
  split
  · exact h
  · exact h.trans (EventsOnly.of _ _ _ _ _ _ _ _ _ _ _)

theorem EventsOnly.noteAts {r s : State} (h : EventsOnly r s) (f a : Nat) : EventsOnly r (s.noteAts f a) := by
  unfold State.noteAts
  simp only
  split
  · exact h
  · exact h.trans (EventsOnly.of _ _ _ _ _ _ _ _ _ _ _)

theorem EventsOnly.ringWrite {r s : State} (h : EventsOnly r s) (f n : Nat) (hd rest : List Byte) (hf : f < 5) (hn : n < 4) :
    EventsOnly r (s.ringWrite f n hd rest) := by
  unfold State.ringWrite
  refine EventsOnly.signalRing (EventsOnly.setReg ?_ _ _ ?_) _ _
  · exact (EventsOnly.hostWrite _ (EventsOnly.noteAts h _ _) _).trans (EventsOnly.of _ _ _ _ _ _ _ _ _ _ _)
  · simp [Reg.hifEvqStatTail]; omega

theorem EventsOnly.incLost {r s : State} (h : EventsOnly r s) (f n : Nat) (hf : f < 5) (hn : n < 4) :
    EventsOnly r (s.inc (Reg.hifEvqStatLost f n)) :=
  EventsOnly.setReg h _ _ (by simp [Reg.hifEvqStatLost]; omega)

theorem State.ringFor_lt {s : State} {f sev n : Nat} (h : s.ringFor f sev = some n) : n < 4 := by
  have := List.mem_of_find?_eq_some h
  simpa using this

theorem EventsOnly.offer {r s : State} (h : EventsOnly r s) (f sev : Nat) (hd rest : List Byte) (hf : f < 5) :
    EventsOnly r (s.offer f sev hd rest) := by
  unfold State.offer
  split
  · split
    · split
      · exact h.trans (EventsOnly.of _ _ _ _ _ _ _ _ _ _ _)
      · exact (h.incLost f 0 hf (by omega)).trans (EventsOnly.of _ _ _ _ _ _ _ _ _ _ _)
    · exact h
  · next n hn =>
    have hn := State.ringFor_lt hn
    split
    · split
      · exact h.trans (EventsOnly.of _ _ _ _ _ _ _ _ _ _ _)
      · exact (h.incLost f n hf hn).trans (EventsOnly.of _ _ _ _ _ _ _ _ _ _ _)
    · exact h.ringWrite f n hd rest hf hn

theorem EventsOnly.platformEvent {r s : State} (h : EventsOnly r s) (l : List Byte) : EventsOnly r (s.platformEvent l) := by
  unfold State.platformEvent
  split
  · exact h.trans (EventsOnly.of _ _ _ _ _ _ _ _ _ _ _)
  · exact h.trans (EventsOnly.of _ _ _ _ _ _ _ _ _ _ _)

theorem evSets_lt (code parcel f : Nat) (h : f ∈ evSets code parcel) : f < 5 := by
  unfold evSets at h
  split at h
  · simp at h; omega
  · split at h <;> simp at h <;> omega

/-- Raising an event changes only what reports events. -/
theorem EventsOnly.raise {r s : State} (h : EventsOnly r s) (code parcel : Nat) (detail : List Nat) :
    EventsOnly r (s.raise code parcel detail) := by
  unfold State.raise
  extract_lets rec s1 r64 s2
  have h1 : EventsOnly r s1 := by
    have key : ∀ (l : List Nat) (q : State), EventsOnly r q → (∀ f ∈ l, f < 5) →
        EventsOnly r (l.foldl (fun s f => s.offer f (evSeverity code) rec.1 rec.2) q) := by
      intro l
      induction l with
      | nil => intro q hq _; exact hq
      | cons f t ih =>
        intro q hq hl
        exact ih _ (hq.offer f _ _ _ (hl f (by simp))) (fun g hg => hl g (by simp [hg]))
    exact key _ _ h (evSets_lt code parcel)
  refine EventsOnly.platformEvent ?_ _
  show EventsOnly r (if _ then _ else _)
  split
  · exact h1.trans (EventsOnly.of _ _ _ _ _ _ _ _ _ _ _)
  · exact h1

theorem EventsOnly.raiseOnce {r s : State} (h : EventsOnly r s) (key : Nat × Nat) (code parcel : Nat) (detail : List Nat) :
    EventsOnly r (s.raiseOnce key code parcel detail) := by
  unfold State.raiseOnce
  split
  · exact h
  · exact EventsOnly.raise (h.trans (EventsOnly.of _ _ _ _ _ _ _ _ _ _ _)) _ _ _

/-- What reporting events leaves alone: every field a register field outside the event rings shows. -/
theorem EventsOnly.rd {s t : State} (h : EventsOnly s t) (f : Fld) (hf : ¬(0x501000 ≤ f.addr ∧ f.addr < 0x506000)) : t.rd f = s.rd f := by
  simp [State.rd, h.2 _ hf]

theorem EventsOnly.stns {s t : State} (h : EventsOnly s t) : t.stns = s.stns := by rw [h.1]
theorem EventsOnly.lsts {s t : State} (h : EventsOnly s t) : t.lsts = s.lsts := by rw [h.1]
theorem EventsOnly.mem {s t : State} (h : EventsOnly s t) : t.mem = s.mem := by rw [h.1]
theorem EventsOnly.meridian {s t : State} (h : EventsOnly s t) : t.meridian = s.meridian := by rw [h.1]

end Sys2Proof.Machine
end

