-- ==== Sys2Proof/Laws/Keeps.lean ====
section
/-! SUPPORT. What every operation keeps (`Keeps`): the relation, the updates of State it is built from, and its form for
the outcome of an instruction. -/

namespace Sys2Proof.Machine

variable {r s : State}

@[simp ↓] theorem Keeps.refl (s : State) : Keeps s s := ⟨rfl, List.prefix_refl _, Nat.le_refl _, id⟩

theorem Keeps.trans {q : State} (h : Keeps r s) (g : Keeps s q) : Keeps r q :=
  ⟨g.1.trans h.1, h.2.1.trans g.2.1, Nat.le_trans h.2.2.1 g.2.2.1, fun c => g.2.2.2 (h.2.2.2 c)⟩

/-- A state that differs in maps without canonical form here, or in no map at all. -/
theorem Keeps.of_eqs {t : State} (h : Keeps r s) (hp : t.pending = s.pending) (ho : s.outbox <+: t.outbox)
    (hf : s.freeCtr ≤ t.freeCtr) (hr : t.regs = s.regs) (hm : t.mem = s.mem) (hh : t.hostMem = s.hostMem) : Keeps r t :=
  h.trans ⟨hp, ho, hf, fun c => by unfold State.canon; rw [hr, hm, hh]; exact c⟩

@[simp ↓] theorem State.setReg_keeps (a : Nat) (v : BitVec 64) (h : Keeps r s) : Keeps r (s.setReg a v) :=
  h.trans ⟨rfl, List.prefix_refl _, Nat.le_refl _, fun c => ⟨sparse_wf_set _ _ _ _ c.1, c.2.1, c.2.2⟩⟩

/-- The outcome of an instruction keeps what every operation keeps. -/
def KeepsR (r : State) (x : Res) : Prop :=
  match x with
  | .ok t => Keeps r t
  | .early _ _ => True
  | .late t _ _ => Keeps r t
  | .wait t => Keeps r t
  | .hold t => Keeps r t

@[simp ↓] theorem KeepsR_ok (t : State) : KeepsR r (.ok t) = Keeps r t := rfl
@[simp ↓] theorem KeepsR_early (a b : Nat) : KeepsR r (.early a b) = True := rfl
@[simp ↓] theorem KeepsR_late (t : State) (a b : Nat) : KeepsR r (.late t a b) = Keeps r t := rfl
@[simp ↓] theorem KeepsR_wait (t : State) : KeepsR r (.wait t) = Keeps r t := rfl
@[simp ↓] theorem KeepsR_hold (t : State) : KeepsR r (.hold t) = Keeps r t := rfl
@[simp ↓] theorem KeepsR_flt (f : Flt) : KeepsR r (.flt f) := trivial
@[simp ↓] theorem KeepsR_illegal : KeepsR r Res.illegal := trivial

theorem Keeps.ite {c : Prop} [Decidable c] {a b : State} (ha : c → Keeps r a) (hb : ¬c → Keeps r b) :
    Keeps r (if c then a else b) := by
  split
  · exact ha ‹_›
  · exact hb ‹_›

theorem KeepsR.ite {c : Prop} [Decidable c] {a b : Res} (ha : c → KeepsR r a) (hb : ¬c → KeepsR r b) :
    KeepsR r (if c then a else b) := by
  split
  · exact ha ‹_›
  · exact hb ‹_›

theorem Keeps.ite_fst {α : Type} {c : Prop} [Decidable c] {a b : State × α} (ha : c → Keeps r a.1) (hb : ¬c → Keeps r b.1) :
    Keeps r (if c then a else b).1 := by
  split
  · exact ha ‹_›
  · exact hb ‹_›

/-! A choice keeps what both its sides keep, whatever it is made on: the form `simp` uses, which leaves the condition alone. -/

@[simp ↓] theorem Keeps.ite_both {c : Prop} [Decidable c] {a b : State} (ha : Keeps r a) (hb : Keeps r b) :
    Keeps r (if c then a else b) :=
  Keeps.ite (fun _ => ha) (fun _ => hb)

@[simp ↓] theorem KeepsR.ite_both {c : Prop} [Decidable c] {a b : Res} (ha : KeepsR r a) (hb : KeepsR r b) :
    KeepsR r (if c then a else b) :=
  KeepsR.ite (fun _ => ha) (fun _ => hb)

@[simp ↓] theorem Keeps.ite_fst_both {α : Type} {c : Prop} [Decidable c] {a b : State × α} (ha : Keeps r a.1) (hb : Keeps r b.1) :
    Keeps r (if c then a else b).1 :=
  Keeps.ite_fst (fun _ => ha) (fun _ => hb)

/-- The outcome of a command keeps what every operation keeps, where there is a next state. -/
def KeepsO (r : State) (o : Out) : Prop := ∀ t, o = .next t → Keeps r t

@[simp ↓] theorem KeepsO_next (t : State) : KeepsO r (.next t) = Keeps r t := by
  simp [KeepsO]

/-- A body, and a way of issuing one, that keep whatever they run on. -/
def KeepsB (r : State) (g : Env → State → Res) : Prop := ∀ v s, Keeps r s → KeepsR r (g v s)
def KeepsG (r : State) (g : Env → State → State) : Prop := ∀ v s, Keeps r s → Keeps r (g v s)

theorem KeepsB.ite {c : Prop} [Decidable c] {a b : Env → State → Res} (ha : KeepsB r a) (hb : KeepsB r b) :
    KeepsB r (if c then a else b) := by
  split
  · exact ha
  · exact hb

theorem KeepsG.ite {c : Prop} [Decidable c] {a b : Env → State → State} (ha : KeepsG r a) (hb : KeepsG r b) :
    KeepsG r (if c then a else b) := by
  split
  · exact ha
  · exact hb

/-- A fold of operations that each keep. -/
@[simp ↓] theorem Keeps.foldl {α : Type} (f : State → α → State) (l : List α) (hf : ∀ s a, Keeps r s → Keeps r (f s a)) (h : Keeps r s) :
    Keeps r (l.foldl f s) := by
  induction l generalizing s with
  | nil => exact h
  | cons a t ih => exact ih (hf s a h)

/-- A fold over pairs of a state and something else. -/
@[simp ↓] theorem Keeps.foldl_pair {α β : Type} (f : State × β → α → State × β) (l : List α) (p : State × β)
    (hf : ∀ s b a, Keeps r s → Keeps r (f (s, b) a).1) (h : Keeps r p.1) : Keeps r (l.foldl f p).1 := by
  induction l generalizing p with
  | nil => exact h
  | cons a t ih =>
    obtain ⟨s, b⟩ := p
    exact ih (f (s, b) a) (hf s b a h)

/-! ### Updates of fields that are not in question -/

@[simp ↓] theorem Keeps.mk
    (meridian : BitVec 64) (poison : List Nat) (stns : Sparse Stn) (lsts : Sparse Lst) (poisonLog : Sparse (List
    PoisonEnt)) (dir : Sparse (List DirEnt)) (copies : List Copy) (grants : List Grant) (snoops : List (Nat × Nat × Nat))
    (snoopAns : List (Nat × Nat)) (notices : List (Nat × Nat × Nat)) (evictAcks : List (Nat × Nat)) (readWait : List
    HomeReq) (lostChan : List (Nat × Nat × Nat)) (edgeSeq : Sparse Nat) (edgeRun : Sparse Nat) (eccTime : Sparse Nat)
    (dramTry : Sparse Nat) (scrubAt : Sparse Nat) (down : Bool) (pwr : Pwr) (mer : Mer) (sbIn : Sparse SbIn) (fdTrip :
    List Nat) (memTrip : List Nat) (edgeHot : List Nat) (tag : Sparse Byte) (fatalLog : List (List Byte)) (au : Sparse
    AuRun) (snapClosed : List Nat) (shdStep : Sparse Nat) (pulls : Sparse PullRun) (ing : Sparse IngJob) (sec : Sec) (fw :
    Fw) (mgt : Mgt) (nfc : Nfc) (numVfs : Nat) (atc : List (Nat × Nat)) (rstKind : Nat) (rstParcels : List Nat) (ports :
    Sparse Port) (ctxs : List Ctx) (ctxWait : List (Nat × TxFlit)) (remote : List RemoteReq) (remoteBuf : Sparse Nat)
    (fdUnreach : List Nat) (t2Set : Sparse Nat) (xpQueue : List (Nat × Nat)) (chains : List ChainXfer) (sigs : List (Nat ×
    Nat × Nat × Int)) (loading : List Loading) (scrGen : Sparse Nat) (scrUsed : List Nat) (colls : List CollRun) (ready :
    List (Nat × Nat × Nat × Nat × Nat)) (readyHeld : List (Nat × Nat × Nat × Nat × Nat × Nat)) (retireReq : List (Nat ×
    Nat)) (returns : List ReturnRun) (failed : List (Nat × Nat × Nat)) (ringSig : Sparse RingSig) (ringSeq : Sparse Nat)
    (evHeld : List (Nat × List Byte)) (evLost : Sparse Nat) (hostLinkDown : Bool) (evAwait : List Nat) (pldmReceiver :
    Option (Nat × Bool)) (platQueue : List (List Byte)) (evOnce : List (Nat × Nat))
    (fab : Fab) (igd : IgDie) (lockEnded : List LockEnd)
    (h : Keeps r s) :
    Keeps r (State.mk s.pending s.regs meridian s.mem poison s.hostMem stns lsts poisonLog dir copies grants snoops snoopAns notices
      evictAcks readWait lostChan edgeSeq edgeRun eccTime dramTry scrubAt down pwr mer sbIn fdTrip memTrip edgeHot tag
      fatalLog au snapClosed shdStep pulls ing sec fw mgt nfc numVfs atc rstKind rstParcels ports ctxs ctxWait remote
      remoteBuf fdUnreach t2Set xpQueue chains sigs loading scrGen scrUsed colls ready readyHeld retireReq returns failed
      ringSig ringSeq evHeld evLost hostLinkDown evAwait pldmReceiver platQueue evOnce fab igd lockEnded s.outbox s.freeCtr) :=
  h.of_eqs rfl (List.prefix_refl _) (Nat.le_refl _) rfl rfl rfl

@[simp ↓] theorem Keeps.mk_dropRegs
    (meridian : BitVec 64) (poison : List Nat) (stns : Sparse Stn) (lsts : Sparse Lst) (poisonLog : Sparse (List
    PoisonEnt)) (dir : Sparse (List DirEnt)) (copies : List Copy) (grants : List Grant) (snoops : List (Nat × Nat × Nat))
    (snoopAns : List (Nat × Nat)) (notices : List (Nat × Nat × Nat)) (evictAcks : List (Nat × Nat)) (readWait : List
    HomeReq) (lostChan : List (Nat × Nat × Nat)) (edgeSeq : Sparse Nat) (edgeRun : Sparse Nat) (eccTime : Sparse Nat)
    (dramTry : Sparse Nat) (scrubAt : Sparse Nat) (down : Bool) (pwr : Pwr) (mer : Mer) (sbIn : Sparse SbIn) (fdTrip :
    List Nat) (memTrip : List Nat) (edgeHot : List Nat) (tag : Sparse Byte) (fatalLog : List (List Byte)) (au : Sparse
    AuRun) (snapClosed : List Nat) (shdStep : Sparse Nat) (pulls : Sparse PullRun) (ing : Sparse IngJob) (sec : Sec) (fw :
    Fw) (mgt : Mgt) (nfc : Nfc) (numVfs : Nat) (atc : List (Nat × Nat)) (rstKind : Nat) (rstParcels : List Nat) (ports :
    Sparse Port) (ctxs : List Ctx) (ctxWait : List (Nat × TxFlit)) (remote : List RemoteReq) (remoteBuf : Sparse Nat)
    (fdUnreach : List Nat) (t2Set : Sparse Nat) (xpQueue : List (Nat × Nat)) (chains : List ChainXfer) (sigs : List (Nat ×
    Nat × Nat × Int)) (loading : List Loading) (scrGen : Sparse Nat) (scrUsed : List Nat) (colls : List CollRun) (ready :
    List (Nat × Nat × Nat × Nat × Nat)) (readyHeld : List (Nat × Nat × Nat × Nat × Nat × Nat)) (retireReq : List (Nat ×
    Nat)) (returns : List ReturnRun) (failed : List (Nat × Nat × Nat)) (ringSig : Sparse RingSig) (ringSeq : Sparse Nat)
    (evHeld : List (Nat × List Byte)) (evLost : Sparse Nat) (hostLinkDown : Bool) (evAwait : List Nat) (pldmReceiver :
    Option (Nat × Bool)) (platQueue : List (List Byte)) (evOnce : List (Nat × Nat))
    (fab : Fab) (igd : IgDie) (lockEnded : List LockEnd)
    (lo hi : Nat) (h : Keeps r s) :
    Keeps r (State.mk s.pending (Sparse.dropRange s.regs lo hi) meridian s.mem poison s.hostMem stns lsts poisonLog dir copies grants snoops snoopAns notices
      evictAcks readWait lostChan edgeSeq edgeRun eccTime dramTry scrubAt down pwr mer sbIn fdTrip memTrip edgeHot tag
      fatalLog au snapClosed shdStep pulls ing sec fw mgt nfc numVfs atc rstKind rstParcels ports ctxs ctxWait remote
      remoteBuf fdUnreach t2Set xpQueue chains sigs loading scrGen scrUsed colls ready readyHeld retireReq returns failed
      ringSig ringSeq evHeld evLost hostLinkDown evAwait pldmReceiver platQueue evOnce fab igd lockEnded s.outbox s.freeCtr) :=
  h.trans ⟨rfl, List.prefix_refl _, Nat.le_refl _, fun c => ⟨sparse_wf_dropRange _ _ _ _ c.1, c.2.1, c.2.2⟩⟩

@[simp ↓] theorem Keeps.mk_outbox
    (meridian : BitVec 64) (poison : List Nat) (stns : Sparse Stn) (lsts : Sparse Lst) (poisonLog : Sparse (List
    PoisonEnt)) (dir : Sparse (List DirEnt)) (copies : List Copy) (grants : List Grant) (snoops : List (Nat × Nat × Nat))
    (snoopAns : List (Nat × Nat)) (notices : List (Nat × Nat × Nat)) (evictAcks : List (Nat × Nat)) (readWait : List
    HomeReq) (lostChan : List (Nat × Nat × Nat)) (edgeSeq : Sparse Nat) (edgeRun : Sparse Nat) (eccTime : Sparse Nat)
    (dramTry : Sparse Nat) (scrubAt : Sparse Nat) (down : Bool) (pwr : Pwr) (mer : Mer) (sbIn : Sparse SbIn) (fdTrip :
    List Nat) (memTrip : List Nat) (edgeHot : List Nat) (tag : Sparse Byte) (fatalLog : List (List Byte)) (au : Sparse
    AuRun) (snapClosed : List Nat) (shdStep : Sparse Nat) (pulls : Sparse PullRun) (ing : Sparse IngJob) (sec : Sec) (fw :
    Fw) (mgt : Mgt) (nfc : Nfc) (numVfs : Nat) (atc : List (Nat × Nat)) (rstKind : Nat) (rstParcels : List Nat) (ports :
    Sparse Port) (ctxs : List Ctx) (ctxWait : List (Nat × TxFlit)) (remote : List RemoteReq) (remoteBuf : Sparse Nat)
    (fdUnreach : List Nat) (t2Set : Sparse Nat) (xpQueue : List (Nat × Nat)) (chains : List ChainXfer) (sigs : List (Nat ×
    Nat × Nat × Int)) (loading : List Loading) (scrGen : Sparse Nat) (scrUsed : List Nat) (colls : List CollRun) (ready :
    List (Nat × Nat × Nat × Nat × Nat)) (readyHeld : List (Nat × Nat × Nat × Nat × Nat × Nat)) (retireReq : List (Nat ×
    Nat)) (returns : List ReturnRun) (failed : List (Nat × Nat × Nat)) (ringSig : Sparse RingSig) (ringSeq : Sparse Nat)
    (evHeld : List (Nat × List Byte)) (evLost : Sparse Nat) (hostLinkDown : Bool) (evAwait : List Nat) (pldmReceiver :
    Option (Nat × Bool)) (platQueue : List (List Byte)) (evOnce : List (Nat × Nat))
    (fab : Fab) (igd : IgDie) (lockEnded : List LockEnd)
    (outbox : List OutMsg) (h : Keeps r s) :
    Keeps r (State.mk s.pending s.regs meridian s.mem poison s.hostMem stns lsts poisonLog dir copies grants snoops snoopAns notices
      evictAcks readWait lostChan edgeSeq edgeRun eccTime dramTry scrubAt down pwr mer sbIn fdTrip memTrip edgeHot tag
      fatalLog au snapClosed shdStep pulls ing sec fw mgt nfc numVfs atc rstKind rstParcels ports ctxs ctxWait remote
      remoteBuf fdUnreach t2Set xpQueue chains sigs loading scrGen scrUsed colls ready readyHeld retireReq returns failed
      ringSig ringSeq evHeld evLost hostLinkDown evAwait pldmReceiver platQueue evOnce fab igd lockEnded (s.outbox ++ outbox) s.freeCtr) :=
  h.of_eqs rfl (List.prefix_append _ _) (Nat.le_refl _) rfl rfl rfl

@[simp ↓] theorem Keeps.mk_freeCtr
    (meridian : BitVec 64) (poison : List Nat) (stns : Sparse Stn) (lsts : Sparse Lst) (poisonLog : Sparse (List
    PoisonEnt)) (dir : Sparse (List DirEnt)) (copies : List Copy) (grants : List Grant) (snoops : List (Nat × Nat × Nat))
    (snoopAns : List (Nat × Nat)) (notices : List (Nat × Nat × Nat)) (evictAcks : List (Nat × Nat)) (readWait : List
    HomeReq) (lostChan : List (Nat × Nat × Nat)) (edgeSeq : Sparse Nat) (edgeRun : Sparse Nat) (eccTime : Sparse Nat)
    (dramTry : Sparse Nat) (scrubAt : Sparse Nat) (down : Bool) (pwr : Pwr) (mer : Mer) (sbIn : Sparse SbIn) (fdTrip :
    List Nat) (memTrip : List Nat) (edgeHot : List Nat) (tag : Sparse Byte) (fatalLog : List (List Byte)) (au : Sparse
    AuRun) (snapClosed : List Nat) (shdStep : Sparse Nat) (pulls : Sparse PullRun) (ing : Sparse IngJob) (sec : Sec) (fw :
    Fw) (mgt : Mgt) (nfc : Nfc) (numVfs : Nat) (atc : List (Nat × Nat)) (rstKind : Nat) (rstParcels : List Nat) (ports :
    Sparse Port) (ctxs : List Ctx) (ctxWait : List (Nat × TxFlit)) (remote : List RemoteReq) (remoteBuf : Sparse Nat)
    (fdUnreach : List Nat) (t2Set : Sparse Nat) (xpQueue : List (Nat × Nat)) (chains : List ChainXfer) (sigs : List (Nat ×
    Nat × Nat × Int)) (loading : List Loading) (scrGen : Sparse Nat) (scrUsed : List Nat) (colls : List CollRun) (ready :
    List (Nat × Nat × Nat × Nat × Nat)) (readyHeld : List (Nat × Nat × Nat × Nat × Nat × Nat)) (retireReq : List (Nat ×
    Nat)) (returns : List ReturnRun) (failed : List (Nat × Nat × Nat)) (ringSig : Sparse RingSig) (ringSeq : Sparse Nat)
    (evHeld : List (Nat × List Byte)) (evLost : Sparse Nat) (hostLinkDown : Bool) (evAwait : List Nat) (pldmReceiver :
    Option (Nat × Bool)) (platQueue : List (List Byte)) (evOnce : List (Nat × Nat))
    (fab : Fab) (igd : IgDie) (lockEnded : List LockEnd)
    (freeCtr : Nat) (h : Keeps r s) :
    Keeps r (State.mk s.pending s.regs meridian s.mem poison s.hostMem stns lsts poisonLog dir copies grants snoops snoopAns notices
      evictAcks readWait lostChan edgeSeq edgeRun eccTime dramTry scrubAt down pwr mer sbIn fdTrip memTrip edgeHot tag
      fatalLog au snapClosed shdStep pulls ing sec fw mgt nfc numVfs atc rstKind rstParcels ports ctxs ctxWait remote
      remoteBuf fdUnreach t2Set xpQueue chains sigs loading scrGen scrUsed colls ready readyHeld retireReq returns failed
      ringSig ringSeq evHeld evLost hostLinkDown evAwait pldmReceiver platQueue evOnce fab igd lockEnded s.outbox (s.freeCtr + freeCtr)) :=
  h.of_eqs rfl (List.prefix_refl _) (Nat.le_add_right _ _) rfl rfl rfl

end Sys2Proof.Machine
end

