-- ==== Sys2Proof/Laws/KeepsA.lean ====
section
/-! SUPPORT. What the operations of Machine/Ops.lean to Machine/Issue.lean keep. -/

namespace Sys2Proof.Machine

@[simp ↓] theorem State.wr_keeps {r : State} {s : State} (f : Fld) (x : Nat) (hs : Keeps r s) : Keeps r (State.wr s f x) := by
  unfold State.wr
  simp (maxDischargeDepth := 40) +contextual [*]

@[simp ↓] theorem State.inc_keeps {r : State} {s : State} (f : Fld) (n : Nat) (hs : Keeps r s) : Keeps r (State.inc s f n) := by
  unfold State.inc
  simp (maxDischargeDepth := 40) +contextual [*]

@[simp ↓] theorem State.toReset_keeps {r : State} {s : State} (f : Fld) (hs : Keeps r s) : Keeps r (State.toReset s f) := by
  unfold State.toReset
  simp (maxDischargeDepth := 40) +contextual [*]

@[simp ↓] theorem State.setStnAt_keeps {r : State} {s : State} (key : Nat) (x : Stn) (hs : Keeps r s) : Keeps r (State.setStnAt s key x) := by
  unfold State.setStnAt
  simp (maxDischargeDepth := 40) +contextual [*]

@[simp ↓] theorem State.updStn_keeps {r : State} {s : State} (k : Loc) (f : Stn → Stn) (hs : Keeps r s) : Keeps r (State.updStn s k f) := by
  unfold State.updStn
  simp (maxDischargeDepth := 40) +contextual [*]

@[simp ↓] theorem State.updLst_keeps {r : State} {s : State} (n : Nat) (f : Lst → Lst) (hs : Keeps r s) : Keeps r (State.updLst s n f) := by
  unfold State.updLst
  simp (maxDischargeDepth := 40) +contextual [*]

@[simp ↓] theorem State.send_keeps {r : State} {s : State} (m : OutMsg) (hs : Keeps r s) : Keeps r (State.send s m) := by
  unfold State.send
  simp (maxDischargeDepth := 40) +contextual [*]

@[simp ↓] theorem State.free_keeps {r : State} {s : State} (hs : Keeps r s) : Keeps r (State.free s).2 := by
  unfold State.free
  simp (maxDischargeDepth := 40) +contextual [*]

@[simp ↓] theorem State.hostWrite_keeps {r : State} {s : State} (a : Nat) (a2 : List Byte) (hs : Keeps r s) : Keeps r (State.hostWrite s a a2) := by
  induction a2 generalizing s a with
  | nil => exact hs
  | cons b t ih =>
    unfold State.hostWrite
    exact ih _ (hs.trans ⟨rfl, List.prefix_refl _, Nat.le_refl _, fun c => ⟨c.1, c.2.1, sparse_wf_set _ _ _ _ c.2.2⟩⟩)

@[simp ↓] theorem State.signalRing_keeps {r : State} {s : State} (f : Nat) (r' : Nat) (hs : Keeps r s) : Keeps r (State.signalRing s f r') := by
  unfold State.signalRing
  simp (maxDischargeDepth := 40) +contextual [*]

@[simp ↓] theorem State.refClock_keeps {r : State} {s : State} (on : Bool) (hs : Keeps r s) : Keeps r (State.refClock s on) := by
  unfold State.refClock
  (repeat' split) <;> simp (maxDischargeDepth := 40) +contextual [*]

@[simp ↓] theorem State.ppsEdge_keeps {r : State} {s : State} (hs : Keeps r s) : Keeps r (State.ppsEdge s) := by
  unfold State.ppsEdge
  (repeat' split) <;> simp (maxDischargeDepth := 40) +contextual [*]

@[simp ↓] theorem State.noteAts_keeps {r : State} {s : State} (f : Nat) (a : Nat) (hs : Keeps r s) : Keeps r (State.noteAts s f a) := by
  unfold State.noteAts
  simp (maxDischargeDepth := 40) +contextual [*]

@[simp ↓] theorem State.ringWrite_keeps {r : State} {s : State} (f : Nat) (r' : Nat) (hd : List Byte) (rest : List Byte) (hs : Keeps r s) : Keeps r (State.ringWrite s f r' hd rest) := by
  unfold State.ringWrite
  simp (maxDischargeDepth := 40) +contextual [*]

@[simp ↓] theorem State.offer_keeps {r : State} {s : State} (f : Nat) (sev : Nat) (hd : List Byte) (rest : List Byte) (hs : Keeps r s) : Keeps r (State.offer s f sev hd rest) := by
  unfold State.offer
  (repeat' split) <;> simp (maxDischargeDepth := 40) +contextual [*]

@[simp ↓] theorem State.drainHeld_keeps {r : State} (f : Nat) (a1 : Nat) {a2 : State} (ha2 : Keeps r a2) : Keeps r (State.drainHeld f a1 a2) := by
  induction a1 generalizing a2 with
  | zero => exact ha2
  | succ n ih =>
    unfold State.drainHeld
    repeat' (first | assumption | (refine ih ?_; simp (maxDischargeDepth := 40) [ha2]; done) | split | dsimp only)

@[simp ↓] theorem State.platformEvent_keeps {r : State} {s : State} (r64 : List Byte) (hs : Keeps r s) : Keeps r (State.platformEvent s r64) := by
  unfold State.platformEvent
  (repeat' split) <;> simp (maxDischargeDepth := 40) +contextual [*]

@[simp ↓] theorem State.raise_keeps {r : State} {s : State} (code : Nat) (parcel : Nat) (detail : List Nat) (hs : Keeps r s) : Keeps r (State.raise s code parcel detail) := by
  unfold State.raise
  simp (maxDischargeDepth := 40) +contextual [*]

@[simp ↓] theorem State.raiseOnce_keeps {r : State} {s : State} (key : Nat × Nat) (code : Nat) (parcel : Nat) (detail : List Nat) (hs : Keeps r s) : Keeps r (State.raiseOnce s key code parcel detail) := by
  unfold State.raiseOnce
  simp (maxDischargeDepth := 40) +contextual [*]

@[simp ↓] theorem State.updPort_keeps {r : State} {s : State} (k : Nat) (f : Port → Port) (hs : Keeps r s) : Keeps r (State.updPort s k f) := by
  unfold State.updPort
  simp (maxDischargeDepth := 40) +contextual [*]

@[simp ↓] theorem State.deal_keeps {r : State} {s : State} (k : Nat) (rest : List Nat) (data : List Byte) (hs : Keeps r s) : Keeps r (State.deal s k rest data) := by
  unfold State.deal
  simp (maxDischargeDepth := 40) +contextual [*]

@[simp ↓] theorem State.dealFlit_keeps {r : State} {s : State} (k : Nat) (x : Nat × TxFlit) (hs : Keeps r s) : Keeps r (State.dealFlit s k x) := by
  unfold State.dealFlit
  (repeat' split) <;> simp (maxDischargeDepth := 40) +contextual [*]

@[simp ↓] theorem State.dealAgain_keeps {r : State} {s : State} (k : Nat) (xs : List (Nat × TxFlit)) (hs : Keeps r s) : Keeps r (State.dealAgain s k xs) := by
  unfold State.dealAgain
  simp (maxDischargeDepth := 40) +contextual [*]

@[simp ↓] theorem State.returnCredit_keeps {r : State} {s : State} (k : Nat) (vc : Nat) (hs : Keeps r s) : Keeps r (State.returnCredit s k vc) := by
  unfold State.returnCredit
  (repeat' split) <;> simp (maxDischargeDepth := 40) +contextual [*]

@[simp ↓] theorem State.leaveRx_keeps {r : State} {s : State} (f : TxFlit) (hs : Keeps r s) : Keeps r (State.leaveRx s f) := by
  unfold State.leaveRx
  (repeat' split) <;> simp (maxDischargeDepth := 40) +contextual [*]

@[simp ↓] theorem State.txNow_keeps {r : State} {s : State} (k : Nat) (f : TxFlit) (hs : Keeps r s) : Keeps r (State.txNow s k f) := by
  unfold State.txNow
  (repeat' split) <;> simp (maxDischargeDepth := 40) +contextual [*]

@[simp ↓] theorem State.txOne_keeps {r : State} {s : State} (k : Nat) (hs : Keeps r s) : Keeps r (State.txOne s k) := by
  unfold State.txOne
  split
  · exact hs
  · dsimp only
    rename_i v d _
    have h : Keeps r (s.updPort k (fun p => { p with deficit := d, turn := if v = 0 ∨ v = 7 then p.turn else v })) :=
      State.updPort_keeps _ _ hs
    generalize s.updPort k (fun p => { p with deficit := d, turn := if v = 0 ∨ v = 7 then p.turn else v }) = t at h ⊢
    split <;> simp (maxDischargeDepth := 40) [*]

@[simp ↓] theorem State.flushPort_keeps {r : State} {s : State} (k : Nat) (hs : Keeps r s) : Keeps r (State.flushPort s k) := by
  unfold State.flushPort
  simp (maxDischargeDepth := 40) +contextual [*]

@[simp ↓] theorem State.txMsg_keeps {r : State} {s : State} (k : Nat) (fs : List TxFlit) (hs : Keeps r s) : Keeps r (State.txMsg s k fs) := by
  unfold State.txMsg
  simp (maxDischargeDepth := 40) +contextual [*]

@[simp ↓] theorem State.showCtxs_keeps {r : State} {s : State} (hs : Keeps r s) : Keeps r (State.showCtxs s) := by
  unfold State.showCtxs
  simp (maxDischargeDepth := 40) +contextual [*]

@[simp ↓] theorem State.setCtx_keeps {r : State} {s : State} (c : Ctx) (hs : Keeps r s) : Keeps r (State.setCtx s c) := by
  unfold State.setCtx
  simp (maxDischargeDepth := 40) +contextual [*]

@[simp ↓] theorem State.openCtx_keeps {r : State} {s : State} (plane : Nat) (peer : Nat) (vc : Nat) (hs : Keeps r s) : Keeps r (State.openCtx s plane peer vc).1 := by
  unfold State.openCtx
  (repeat' split) <;> simp (maxDischargeDepth := 40) +contextual [*]

@[simp ↓] theorem State.putFrame_keeps {r : State} {s : State} (c : Ctx) (x : Nat × List TxFlit) (hs : Keeps r s) : Keeps r (State.putFrame s c x) := by
  unfold State.putFrame
  simp (maxDischargeDepth := 40) +contextual [*]

@[simp ↓] theorem State.frameNow_keeps {r : State} {s : State} (c : Ctx) (fs : List TxFlit) (hs : Keeps r s) : Keeps r (State.frameNow s c fs) := by
  unfold State.frameNow
  (repeat' split) <;> simp (maxDischargeDepth := 40) +contextual [*]

@[simp ↓] theorem State.sendFrames_keeps {r : State} (plane : Nat) (a1 : Nat) {a2 : State} (ha2 : Keeps r a2) : Keeps r (State.sendFrames plane a1 a2) := by
  induction a1 generalizing a2 with
  | zero => exact ha2
  | succ n ih =>
    unfold State.sendFrames
    (repeat' (first | split | dsimp only)) <;> simp (maxDischargeDepth := 40) +contextual [*]

@[simp ↓] theorem State.flushUplink_keeps {r : State} {s : State} (plane : Nat) (hs : Keeps r s) : Keeps r (State.flushUplink s plane) := by
  unfold State.flushUplink
  simp (maxDischargeDepth := 40) +contextual [*]

@[simp ↓] theorem State.txFrame_keeps {r : State} {s : State} (plane : Nat) (peer : Nat) (vc : Nat) (fs : List TxFlit) (wait : Bool) (hs : Keeps r s) : Keeps r (State.txFrame s plane peer vc fs wait) := by
  unfold State.txFrame
  have h := State.openCtx_keeps plane peer vc hs
  generalize s.openCtx plane peer vc = q at h ⊢
  obtain ⟨t, _ | c⟩ := q
  · have h' : Keeps r (if wait then t.inc (Reg.lnkE2eStatWait (plane / 2)) else t) := by simp [*]
    exact Keeps.mk (h := h') ..
  · exact State.flushUplink_keeps _ (State.setCtx_keeps _ h)

@[simp ↓] theorem State.offerCtxs_keeps {r : State} {s : State} (hs : Keeps r s) : Keeps r (State.offerCtxs s) := by
  unfold State.offerCtxs
  simp (maxDischargeDepth := 40) +contextual [*]

@[simp ↓] theorem State.sendFlits_keeps {r : State} {s : State} (k : Nat) (fs : List TxFlit) (hs : Keeps r s) : Keeps r (State.sendFlits s k fs) := by
  unfold State.sendFlits
  (repeat' split) <;> simp (maxDischargeDepth := 40) +contextual [*]

@[simp ↓] theorem State.sendPort_keeps {r : State} {s : State} (k : Nat) (m : TxFlit) (n : Nat) (hs : Keeps r s) : Keeps r (State.sendPort s k m n) := by
  unfold State.sendPort
  simp (maxDischargeDepth := 40) +contextual [*]

@[simp ↓] theorem State.routeFlits_keeps {r : State} {s : State} (fs : List TxFlit) (hs : Keeps r s) : Keeps r (State.routeFlits s fs) := by
  unfold State.routeFlits
  (repeat' split) <;> simp (maxDischargeDepth := 40) +contextual [*]

@[simp ↓] theorem State.peerLost_keeps {r : State} {s : State} (die : Nat) (parcel : Nat) (peer : Nat) (hs : Keeps r s) : Keeps r (State.peerLost s die parcel peer) := by
  unfold State.peerLost
  simp (maxDischargeDepth := 40) +contextual [*]

@[simp ↓] theorem State.sendModule_keeps {r : State} {s : State} (m : TxFlit) (n : Nat) (hs : Keeps r s) : Keeps r (State.sendModule s m n) := by
  unfold State.sendModule
  (repeat' split) <;> simp (maxDischargeDepth := 40) +contextual [*]

@[simp ↓] theorem State.reroute_keeps {r : State} {s : State} (hs : Keeps r s) : Keeps r (State.reroute s) := by
  unfold State.reroute
  simp (maxDischargeDepth := 40) +contextual [*]

@[simp ↓] theorem State.setCwPoison_keeps {r : State} {s : State} (c : Nat) (v : Bool) (hs : Keeps r s) : Keeps r (State.setCwPoison s c v) := by
  unfold State.setCwPoison
  simp (maxDischargeDepth := 40) +contextual [*]

@[simp ↓] theorem State.loseAs_keeps {r : State} {s : State} (c : Nat × Nat × Nat) (hs : Keeps r s) : Keeps r (State.loseAs s c) := by
  unfold State.loseAs
  (repeat' split) <;> simp (maxDischargeDepth := 40) +contextual [*]

@[simp ↓] theorem State.logPoison_keeps {r : State} {s : State} (k : Nat) (found : Nat) (hs : Keeps r s) : Keeps r (State.logPoison s k found) := by
  unfold State.logPoison
  simp (maxDischargeDepth := 40) +contextual [*]

@[simp ↓] theorem State.poisonCw_keeps {r : State} {s : State} (k : Nat) (found : Nat) (hs : Keeps r s) : Keeps r (State.poisonCw s k found) := by
  unfold State.poisonCw
  simp (maxDischargeDepth := 40) +contextual [*]

@[simp ↓] theorem State.passMesh_keeps {r : State} {s : State} (a : Nat) (b : Nat) (off : Nat) (hs : Keeps r s) : Keeps r (State.passMesh s a b off) := by
  unfold State.passMesh
  simp (maxDischargeDepth := 40) +contextual [*]

@[simp ↓] theorem State.meshTrip_keeps {r : State} {s : State} (a : Nat) (b : Nat) (off : Nat) (hs : Keeps r s) : Keeps r (State.meshTrip s a b off) := by
  unfold State.meshTrip
  simp (maxDischargeDepth := 40) +contextual [*]

@[simp ↓] theorem State.meshSend_keeps {r : State} {s : State} (a : Nat) (b : Nat) (off : Nat) (rest : List Nat) (data : List Byte) (hs : Keeps r s) : Keeps r (State.meshSend s a b off rest data) := by
  unfold State.meshSend
  simp (maxDischargeDepth := 40) +contextual [*]

@[simp ↓] theorem State.sendFrom_keeps {r : State} {s : State} (src : Nat) (off : Nat) (m : TxFlit) (n : Nat) (hs : Keeps r s) : Keeps r (State.sendFrom s src off m n) := by
  unfold State.sendFrom
  simp (maxDischargeDepth := 40) +contextual [*]

@[simp ↓] theorem State.setDir_keeps {r : State} {s : State} (fd : Nat) (es : List DirEnt) (hs : Keeps r s) : Keeps r (State.setDir s fd es) := by
  unfold State.setDir
  simp (maxDischargeDepth := 40) +contextual [*]

@[simp ↓] theorem State.updEnt_keeps {r : State} {s : State} (line : Nat) (f : DirEnt → DirEnt) (hs : Keeps r s) : Keeps r (State.updEnt s line f) := by
  unfold State.updEnt
  (repeat' split) <;> simp (maxDischargeDepth := 40) +contextual [*]

@[simp ↓] theorem State.snoopAt_keeps {r : State} {s : State} (fd : Nat) (line : Nat) (hs : Keeps r s) : Keeps r (State.snoopAt s fd line) := by
  unfold State.snoopAt
  simp (maxDischargeDepth := 40) +contextual [*]

@[simp ↓] theorem State.poke_keeps {r : State} {s : State} (k : Nat) (a2 : List Byte) (hs : Keeps r s) : Keeps r (State.poke s k a2) := by
  induction a2 generalizing s k with
  | nil => exact hs
  | cons b t ih =>
    unfold State.poke
    exact ih _ (hs.trans ⟨rfl, List.prefix_refl _, Nat.le_refl _, fun c => ⟨c.1, sparse_wf_set _ _ _ _ c.2.1, c.2.2⟩⟩)

@[simp ↓] theorem State.writeCw_keeps {r : State} {s : State} (k : Nat) (bs : List Byte) (c : Nat) (hs : Keeps r s) : Keeps r (State.writeCw s k bs c) := by
  unfold State.writeCw
  simp (maxDischargeDepth := 40) +contextual [*]

@[simp ↓] theorem State.writeRaw_keeps {r : State} {s : State} (k : Nat) (bs : List Byte) (hs : Keeps r s) : Keeps r (State.writeRaw s k bs) := by
  unfold State.writeRaw
  simp (maxDischargeDepth := 40) +contextual [*]

@[simp ↓] theorem State.poisonDest_keeps {r : State} {s : State} (cws : List Nat) (hs : Keeps r s) : Keeps r (State.poisonDest s cws) := by
  unfold State.poisonDest
  simp (maxDischargeDepth := 40) +contextual [*]

@[simp ↓] theorem State.putBytes_keeps {r : State} {s : State} (k : Nat) (bs : List Byte) (poison : Bool) (hs : Keeps r s) : Keeps r (State.putBytes s k bs poison) := by
  unfold State.putBytes
  (repeat' split) <;> simp (maxDischargeDepth := 40) +contextual [*]

@[simp ↓] theorem State.grantTo_keeps {r : State} {s : State} (r' : HomeReq) (hs : Keeps r s) : Keeps r (State.grantTo s r') := by
  unfold State.grantTo
  simp (maxDischargeDepth := 40) +contextual [*]

@[simp ↓] theorem State.lockLine_keeps {r : State} {s : State} (e : DirEnt) (w : Option HomeReq) (hs : Keeps r s) : Keeps r (State.lockLine s e w) := by
  unfold State.lockLine
  simp (maxDischargeDepth := 40) +contextual [*]

@[simp ↓] theorem State.waitLine_keeps {r : State} {s : State} (r' : HomeReq) (hs : Keeps r s) : Keeps r (State.waitLine s r') := by
  unfold State.waitLine
  simp (maxDischargeDepth := 40) +contextual [*]

@[simp ↓] theorem State.waitDir_keeps {r : State} {s : State} (r' : HomeReq) (hs : Keeps r s) : Keeps r (State.waitDir s r') := by
  unfold State.waitDir
  simp (maxDischargeDepth := 40) +contextual [*]

@[simp ↓] theorem State.homeRead_keeps {r : State} {s : State} (r' : HomeReq) (hs : Keeps r s) : Keeps r (State.homeRead s r') := by
  unfold State.homeRead
  repeat' (first
    | assumption
    | (simp (maxDischargeDepth := 40) +contextual [*]; done)
    | apply Keeps.foldl
    | apply Keeps.foldl_pair
    | split
    | dsimp only
    | intro _)

@[simp ↓] theorem State.complete_keeps {r : State} {s : State} (r' : HomeReq) (hs : Keeps r s) : Keeps r (State.complete s r') := by
  unfold State.complete
  simp (maxDischargeDepth := 40) +contextual [*]

@[simp ↓] theorem State.homeWrite_keeps {r : State} {s : State} (r' : HomeReq) (late : Bool) (hs : Keeps r s) : Keeps r (State.homeWrite s r' late) := by
  unfold State.homeWrite
  (repeat' split) <;> simp (maxDischargeDepth := 40) +contextual [*]

@[simp ↓] theorem State.homeRequest_keeps {r : State} {s : State} (r' : HomeReq) (late : Bool) (hs : Keeps r s) : Keeps r (State.homeRequest s r' late) := by
  unfold State.homeRequest
  (repeat' split) <;> simp (maxDischargeDepth := 40) +contextual [*]

@[simp ↓] theorem State.request_keeps {r : State} {s : State} (r' : HomeReq) (hs : Keeps r s) : Keeps r (State.request s r') := by
  unfold State.request
  (repeat' split) <;> simp (maxDischargeDepth := 40) +contextual [*]

@[simp ↓] theorem State.retryDir_keeps {r : State} {s : State} (home : Nat) (hs : Keeps r s) : Keeps r (State.retryDir s home) := by
  unfold State.retryDir
  dsimp only
  split
  · exact hs
  · split
    · exact hs
    · exact State.homeRead_keeps _ (Keeps.mk (h := hs) ..)

@[simp ↓] theorem State.unlockLine_keeps {r : State} {s : State} (e : DirEnt) (hs : Keeps r s) : Keeps r (State.unlockLine s e) := by
  unfold State.unlockLine
  (repeat' split) <;> simp (maxDischargeDepth := 40) +contextual [*]

@[simp ↓] theorem State.drainLine_keeps {r : State} (line : Nat) (a1 : Nat) {a2 : State} (ha2 : Keeps r a2) : Keeps r (State.drainLine line a1 a2) := by
  induction a1 generalizing a2 with
  | zero => exact ha2
  | succ n ih =>
    unfold State.drainLine
    split
    · exact ha2
    · split
      · exact ha2
      · have h : Keeps r ((a2.snoops.filter (fun x => x.1 = line)).foldl (fun s x => s.snoopAt x.2.1 line) a2) :=
          Keeps.foldl _ _ (fun _ _ h => State.snoopAt_keeps _ _ h) ha2
        exact ih (State.unlockLine_keeps _ (Keeps.mk (h := h) ..))

@[simp ↓] theorem State.dirTouch_keeps {r : State} {s : State} (k : Nat) (hs : Keeps r s) : Keeps r (State.dirTouch s k) := by
  unfold State.dirTouch
  repeat' (first
    | assumption
    | (simp (maxDischargeDepth := 40) +contextual [*]; done)
    | apply Keeps.foldl
    | apply Keeps.foldl_pair
    | split
    | dsimp only
    | intro _)

@[simp ↓] theorem State.touchRun_keeps {r : State} {s : State} (k : Nat) (n : Nat) (hs : Keeps r s) : Keeps r (State.touchRun s k n) := by
  unfold State.touchRun
  (repeat' split) <;> simp (maxDischargeDepth := 40) +contextual [*]

@[simp ↓] theorem State.writeMemP_keeps {r : State} {s : State} (k : Nat) (bs : List Byte) (poison : Bool) (hs : Keeps r s) : Keeps r (State.writeMemP s k bs poison) := by
  unfold State.writeMemP
  simp (maxDischargeDepth := 40) +contextual [*]

@[simp ↓] theorem State.writeMem_keeps {r : State} {s : State} (k : Nat) (bs : List Byte) (hs : Keeps r s) : Keeps r (State.writeMem s k bs) := by
  unfold State.writeMem
  simp (maxDischargeDepth := 40) +contextual [*]

@[simp ↓] theorem State.writeLines_keeps {r : State} {s : State} (die : Nat) (stn : Nat) (k : Nat) (bs : List Byte) (poison : Bool) (hs : Keeps r s) : Keeps r (State.writeLines s die stn k bs poison) := by
  unfold State.writeLines
  (repeat' split) <;> simp (maxDischargeDepth := 40) +contextual [*]

@[simp ↓] theorem State.atomicRun_keeps {r : State} (w : Writer) (fd : Nat) (op : Nat) (a3 : Nat) (a4 : Nat) (a5 : List Byte) (a6 : State × Option Nat) (ha6 : Keeps r a6.1) : Keeps r (State.atomicRun w fd op a3 a4 a5 a6).1 := by
  induction a3 generalizing a4 a5 a6 with
  | zero => exact ha6
  | succ n ih =>
    obtain ⟨s, pz⟩ := a6
    unfold State.atomicRun
    refine ih _ _ _ ?_
    (repeat' split) <;> simp_all

@[simp ↓] theorem State.portEffect_keeps {r : State} {s : State} (n : Nat) (pc : Nat) (hs : Keeps r s) : Keeps r (State.portEffect s n pc).2 := by
  unfold State.portEffect
  repeat' (first
    | assumption
    | (simp (maxDischargeDepth := 40) +contextual [*]; done)
    | apply Keeps.foldl
    | apply Keeps.foldl_pair
    | split
    | dsimp only
    | intro _)

@[simp ↓] theorem State.setUnrep_keeps {r : State} {s : State} (fd : Nat) (log : Nat) (v : Nat) (hs : Keeps r s) : Keeps r (State.setUnrep s fd log v) := by
  unfold State.setUnrep
  simp (maxDischargeDepth := 40) +contextual [*]

@[simp ↓] theorem State.sendRemote_keeps {r : State} {s : State} (r' : RemoteReq) (hs : Keeps r s) : Keeps r (State.sendRemote s r') := by
  unfold State.sendRemote
  simp (maxDischargeDepth := 40) +contextual [*]

@[simp ↓] theorem State.writeRemote_keeps {r : State} {s : State} (r' : RemoteReq) (hs : Keeps r s) : Keeps r (State.writeRemote s r') := by
  unfold State.writeRemote
  (repeat' split) <;> simp (maxDischargeDepth := 40) +contextual [*]

@[simp ↓] theorem State.endRemote_keeps {r : State} {s : State} (r' : RemoteReq) (hs : Keeps r s) : Keeps r (State.endRemote s r') := by
  unfold State.endRemote
  (repeat' split) <;> simp (maxDischargeDepth := 40) +contextual [*]

@[simp ↓] theorem State.noteAperture_keeps {r : State} {s : State} (parcel : Nat) (a : Nat) (n : Nat) (hs : Keeps r s) : Keeps r (State.noteAperture s parcel a n) := by
  unfold State.noteAperture
  simp (maxDischargeDepth := 40) +contextual [*]

@[simp ↓] theorem State.freeBytes_keeps {r : State} {s : State} (n : Nat) (hs : Keeps r s) : Keeps r (State.freeBytes s n).2 := by
  unfold State.freeBytes
  simp (maxDischargeDepth := 40) +contextual [*]

@[simp ↓] theorem State.writeAperture_keeps {r : State} {s : State} (parcel : Nat) (a : Nat) (bs : List Byte) (poison : Bool) (hs : Keeps r s) : Keeps r (State.writeAperture s parcel a bs poison) := by
  unfold State.writeAperture
  (repeat' split) <;> simp (maxDischargeDepth := 40) +contextual [*]

@[simp ↓] theorem State.putLog_keeps {r : State} {s : State} (key : Nat) (need : Nat) (e : Inbound) (hs : Keeps r s) : Keeps r (State.putLog s key need e) := by
  unfold State.putLog
  (repeat' split) <;> simp (maxDischargeDepth := 40) +contextual [*]

@[simp ↓] theorem State.logInbound_keeps {r : State} {s : State} (fd : Nat) (log : Nat) (e : Inbound) (hs : Keeps r s) : Keeps r (State.logInbound s fd log e) := by
  unfold State.logInbound
  simp (maxDischargeDepth := 40) +contextual [*]

@[simp ↓] theorem State.writeStore_keeps {r : State} {s : State} (w : Writer) (die : Nat) (log : Nat) (b : Nat) (bs : List Byte) (poison : Bool) (hs : Keeps r s) : Keeps r (State.writeStore s w die log b bs poison) := by
  unfold State.writeStore
  (repeat' split) <;> simp (maxDischargeDepth := 40) +contextual [*]

@[simp ↓] theorem State.writeAtomic_keeps {r : State} {s : State} (w : Writer) (die : Nat) (op : Nat) (b : Nat) (bs : List Byte) (poison : Bool) (hs : Keeps r s) : Keeps r (State.writeAtomic s w die op b bs poison).1 := by
  unfold State.writeAtomic
  (repeat' split) <;> simp (maxDischargeDepth := 40) +contextual [*]

@[simp ↓] theorem State.writeAway_keeps {r : State} {s : State} (w : Writer) (r' : RemoteReq) (hs : Keeps r s) : Keeps r (State.writeAway s w r') := by
  unfold State.writeAway
  (repeat' split) <;> simp (maxDischargeDepth := 40) +contextual [*]

@[simp ↓] theorem State.writeRun_keeps {r : State} {s : State} (w : Writer) (parcel : Nat) (k : Nat) (bs : List Byte) (poison : Bool) (hs : Keeps r s) : Keeps r (State.writeRun s w parcel k bs poison).1 := by
  have hg : ∀ n pc, Keeps r (s.portEffect n pc).2 := fun n pc => State.portEffect_keeps n pc hs
  unfold State.writeRun
  repeat' (first
    | assumption
    | (simp (maxDischargeDepth := 40) +contextual [*]; done)
    | refine State.atomicRun_keeps _ _ _ _ _ _ _ ?_
    | split
    | dsimp only)

@[simp ↓] theorem State.storeP_keeps {r : State} {s : State} (w : Writer) (parcel : Nat) (ws : List (Nat × Byte)) (bad : List Nat) (hs : Keeps r s) : Keeps r (State.storeP s w parcel ws bad).1 := by
  unfold State.storeP
  (repeat' split) <;> simp (maxDischargeDepth := 40) +contextual [*]

@[simp ↓] theorem State.store_keeps {r : State} {s : State} (w : Writer) (parcel : Nat) (ws : List (Nat × Byte)) (hs : Keeps r s) : Keeps r (State.store s w parcel ws).1 := by
  unfold State.store
  simp (maxDischargeDepth := 40) +contextual [*]

@[simp ↓] theorem State.wroteRun_keeps {r : State} {s : State} (w : Writer) (parcel : Nat) (k : Nat) (bs : List Byte) (poison : Bool) (hs : Keeps r s) : Keeps r (State.wroteRun s w parcel k bs poison) := by
  unfold State.wroteRun
  simp (maxDischargeDepth := 40) +contextual [*]

@[simp ↓] theorem State.storeAll_keeps {r : State} {s : State} (w : Writer) (parcel : Nat) (ws : List (Nat × Byte)) (hs : Keeps r s) : Keeps r (State.storeAll s w parcel ws) := by
  unfold State.storeAll
  simp (maxDischargeDepth := 40) +contextual [*]

@[simp ↓] theorem State.noteRead_keeps {r : State} {s : State} (die : Nat) (parcel : Nat) (k : Nat) (n : Nat) (hs : Keeps r s) : Keeps r (State.noteRead s die parcel k n) := by
  unfold State.noteRead
  (repeat' split) <;> simp (maxDischargeDepth := 40) +contextual [*]

@[simp ↓] theorem State.askRemote_keeps {r : State} {s : State} (fd : Nat) (stn : Nat) (pc : Nat) (leg : Nat) (parcel : Nat) (needs : List (Nat × Nat)) (hs : Keeps r s) : Keeps r (State.askRemote s fd stn pc leg parcel needs) := by
  unfold State.askRemote
  simp (maxDischargeDepth := 40) +contextual [*]

@[simp ↓] theorem State.setS_keeps {r : State} {s : State} (b : Nat) (i : Nat) (v : Nat) (data : Bool) (hs : Keeps r s) : Keeps r (State.setS s b i v data) := by
  unfold State.setS
  simp (maxDischargeDepth := 40) +contextual [*]

@[simp ↓] theorem State.setP_keeps {r : State} {s : State} (b : Nat) (i : Nat) (v : Nat) (hs : Keeps r s) : Keeps r (State.setP s b i v) := by
  unfold State.setP
  simp (maxDischargeDepth := 40) +contextual [*]

@[simp ↓] theorem State.stnEvent_keeps {r : State} {s : State} (k : Loc) (code0 : Nat) (detail : List Nat) (hs : Keeps r s) : Keeps r (State.stnEvent s k code0 detail) := by
  unfold State.stnEvent
  simp (maxDischargeDepth := 40) +contextual [*]

@[simp ↓] theorem State.countNonfinite_keeps {r : State} {s : State} (k : Loc) (n : Nat) (hs : Keeps r s) : Keeps r (State.countNonfinite s k n) := by
  unfold State.countNonfinite
  simp (maxDischargeDepth := 40) +contextual [*]

@[simp ↓] theorem State.countNan_keeps {r : State} {s : State} (k : Loc) (n : Nat) (hs : Keeps r s) : Keeps r (State.countNan s k n) := by
  unfold State.countNan
  simp (maxDischargeDepth := 40) +contextual [*]

@[simp ↓] theorem State.countClamp_keeps {r : State} {s : State} (k : Loc) (n : Nat) (hs : Keeps r s) : Keeps r (State.countClamp s k n) := by
  unfold State.countClamp
  simp (maxDischargeDepth := 40) +contextual [*]

@[simp ↓] theorem State.termLimit_keeps {r : State} {s : State} (k : Loc) (hs : Keeps r s) : Keeps r (State.termLimit s k) := by
  unfold State.termLimit
  simp (maxDischargeDepth := 40) +contextual [*]

@[simp ↓] theorem State.countDrops_keeps {r : State} {s : State} (k : Loc) (range : Nat) (dup : Nat) (order : Nat) (bound : Nat) (hs : Keeps r s) : Keeps r (State.countDrops s k range dup order bound) := by
  unfold State.countDrops
  simp (maxDischargeDepth := 40) +contextual [*]

@[simp ↓] theorem State.putTile_keeps {r : State} {s : State} (k : Loc) (i : Nat) (t : Tile) (limit : Bool) (hs : Keeps r s) : Keeps r (State.putTile s k i t limit) := by
  unfold State.putTile
  simp (maxDischargeDepth := 40) +contextual [*]

@[simp ↓] theorem State.holdOthers_keeps {r : State} {s : State} (k : Loc) (hs : Keeps r s) : Keeps r (State.holdOthers s k) := by
  unfold State.holdOthers
  simp (maxDischargeDepth := 40) +contextual [*]

@[simp ↓] theorem State.stnFault_keeps {r : State} {s : State} (k : Loc) (late : Bool) (cause : Nat) (info : Nat) (word : BitVec 64) (pc : Nat) (hs : Keeps r s) : Keeps r (State.stnFault s k late cause info word pc) := by
  unfold State.stnFault
  simp (maxDischargeDepth := 40) +contextual [*]

@[simp ↓] theorem State.setPc_keeps {r : State} {s : State} (k : Loc) (pc : Nat) (hs : Keeps r s) : Keeps r (State.setPc s k pc) := by
  unfold State.setPc
  simp (maxDischargeDepth := 40) +contextual [*]

@[simp ↓] theorem State.advance_keeps {r : State} {s : State} (k : Loc) (hs : Keeps r s) : Keeps r (State.advance s k) := by
  unfold State.advance
  simp (maxDischargeDepth := 40) +contextual [*]

@[simp ↓] theorem State.setDbits_keeps {r : State} {s : State} (b : Nat) (j : Nat) (v : Nat) (hs : Keeps r s) : Keeps r (State.setDbits s b j v) := by
  unfold State.setDbits
  simp (maxDischargeDepth := 40) +contextual [*]

@[simp ↓] theorem State.platDrops_keeps {r : State} {s : State} (k : Loc) (gs : List PlatGrp) (hs : Keeps r s) : Keeps r (State.platDrops s k gs) := by
  unfold State.platDrops
  simp (maxDischargeDepth := 40) +contextual [*]

@[simp ↓] theorem Res.flt_keeps {r : State} (f : Flt) : KeepsR r (Res.flt f) := by
  unfold Res.flt
  simp (maxDischargeDepth := 40) +contextual [*]

@[simp ↓] theorem Res.illegal_keeps {r : State} : KeepsR r Res.illegal := by
  unfold Res.illegal
  simp (maxDischargeDepth := 40) +contextual [*]

@[simp ↓] theorem Res.map_keeps {r : State} (r' : Res) (g : State → State) (hr' : KeepsR r r') (hg : ∀ y0, Keeps r y0 → Keeps r (g y0)) : KeepsR r (Res.map r' g) := by
  cases r' <;> simp_all [Res.map]

@[simp ↓] theorem State.faultAt_keeps {r : State} {s : State} (v : Env) (late : Bool) (cause : Nat) (info : Nat) (hs : Keeps r s) : Keeps r (State.faultAt s v late cause info) := by
  unfold State.faultAt
  simp (maxDischargeDepth := 40) +contextual [*]

@[simp ↓] theorem State.stepIssued_keeps {r : State} {s : State} (k : Loc) (w : BitVec 64) (pc : Nat) (n : Nat) (hs : Keeps r s) : Keeps r (State.stepIssued s k w pc n) := by
  unfold State.stepIssued
  (repeat' split) <;> simp (maxDischargeDepth := 40) +contextual [*]

@[simp ↓] theorem State.issue_keeps {r : State} {s : State} (stn : BitVec 11) (w : BitVec 64) (go : Env → State → State) (hs : Keeps r s) (hgo : ∀ y0 y1, Keeps r y1 → Keeps r (go y0 y1)) : Keeps r (State.issue s stn w go) := by
  unfold State.issue
  (repeat' split) <;> simp (maxDischargeDepth := 40) +contextual [*]

@[simp ↓] theorem goZ_keeps {r : State} (body : Env → State → Res) (v : Env) {s : State} (hbody : ∀ y0 y1, Keeps r y1 → KeepsR r (body y0 y1)) (hs : Keeps r s) : Keeps r (goZ body v s) := by
  have hb' := hbody v s hs
  unfold goZ
  split <;> simp_all

@[simp ↓] theorem goJump_keeps {r : State} (body : Env → State → Res) (v : Env) {s : State} (hbody : ∀ y0 y1, Keeps r y1 → KeepsR r (body y0 y1)) (hs : Keeps r s) : Keeps r (goJump body v s) := by
  have hb' := hbody v s hs
  unfold goJump
  split <;> simp_all

@[simp ↓] theorem State.enqueue_keeps {r : State} {s : State} (v : Env) (eng : Nat) (hs : Keeps r s) : Keeps r (State.enqueue s v eng) := by
  unfold State.enqueue
  simp (maxDischargeDepth := 40) +contextual [*]

@[simp ↓] theorem goEng_keeps {r : State} (eng : Nat) (body : Env → State → Res) (v : Env) {s : State} (hbody : ∀ y0 y1, Keeps r y1 → KeepsR r (body y0 y1)) (hs : Keeps r s) : Keeps r (goEng eng body v s) := by
  have hb' := hbody v s hs
  unfold goEng
  (repeat' split) <;> simp_all

@[simp ↓] theorem State.holdNow_keeps {r : State} {s : State} (k : Loc) (hs : Keeps r s) : Keeps r (State.holdNow s k) := by
  unfold State.holdNow
  simp (maxDischargeDepth := 40) +contextual [*]

@[simp ↓] theorem goW_keeps {r : State} (w : Env → Wait) (body : Env → State → Res) (v : Env) {s : State} (hbody : ∀ y0 y1, Keeps r y1 → KeepsR r (body y0 y1)) (hs : Keeps r s) : Keeps r (goW w body v s) := by
  have hb' := hbody v s hs
  unfold goW
  (repeat' split) <;> simp_all

@[simp ↓] theorem State.dropRemote_keeps {r : State} {s : State} (needs : List (Nat × Nat)) (hs : Keeps r s) : Keeps r (State.dropRemote s needs) := by
  unfold State.dropRemote
  simp (maxDischargeDepth := 40) +contextual [*]

@[simp ↓] theorem State.ask_keeps {r : State} {s : State} (v : Env) (needs : List (Nat × Nat)) (hs : Keeps r s) : Keeps r (State.ask s v needs) := by
  unfold State.ask
  simp (maxDischargeDepth := 40) +contextual [*]

@[simp ↓] theorem State.noteReads_keeps {r : State} {s : State} (v : Env) (needs : List (Nat × Nat)) (hs : Keeps r s) : Keeps r (State.noteReads s v needs) := by
  unfold State.noteReads
  simp (maxDischargeDepth := 40) +contextual [*]

@[simp ↓] theorem withInputs_keeps {r : State} (v : Env) {s : State} (needs : List (Nat × Nat)) (f : State → Res) (hs : Keeps r s) (hf : ∀ y0, Keeps r y0 → KeepsR r (f y0)) : KeepsR r (withInputs v s needs f) := by
  unfold withInputs
  (repeat' split) <;> simp (maxDischargeDepth := 40) +contextual [*]

@[simp ↓] theorem storeResP_keeps {r : State} (v : Env) {s : State} (ws : List (Nat × Byte)) (bad : List Nat) (k : State → State) (hs : Keeps r s) (hk : ∀ y0, Keeps r y0 → Keeps r (k y0)) : KeepsR r (storeResP v s ws bad k) := by
  unfold storeResP
  have h := hk _ (State.storeP_keeps v.writer v.parcel ws bad hs)
  have hw : Keeps r (s.inc (Reg.memTrkStallCount v.loc.fd)) := by simp [*]
  dsimp only
  repeat' split
  all_goals first | exact h | exact hw

@[simp ↓] theorem storeRes_keeps {r : State} (v : Env) {s : State} (ws : List (Nat × Byte)) (k : State → State) (hs : Keeps r s) (hk : ∀ y0, Keeps r y0 → Keeps r (k y0)) : KeepsR r (storeRes v s ws k) := by
  exact storeResP_keeps v ws [] k hs hk

@[simp ↓] theorem State.shapeClamp_keeps {r : State} {s : State} (k : Loc) (x : Nat) (hs : Keeps r s) : Keeps r (State.shapeClamp s k x) := by
  unfold State.shapeClamp
  simp (maxDischargeDepth := 40) +contextual [*]

end Sys2Proof.Machine
end

