-- ==== Sys2Proof/Laws/KeepsB.lean ====
section
/-! SUPPORT. What the operations of Machine/Rng.lean to Machine/Move.lean keep. -/

namespace Sys2Proof.Machine

@[simp ↓] theorem State.countDraws_keeps {r : State} {s : State} (k : Loc) (n : Nat) (hs : Keeps r s) : Keeps r (State.countDraws s k n) := by
  unfold State.countDraws
  simp (maxDischargeDepth := 40) +contextual [*]

@[simp ↓] theorem State.countCvts_keeps {r : State} {s : State} (k : Loc) (nan : Nat) (draws : Nat) (hs : Keeps r s) : Keeps r (State.countCvts s k nan draws) := by
  unfold State.countCvts
  simp (maxDischargeDepth := 40) +contextual [*]

@[simp ↓] theorem State.countCopy_keeps {r : State} {s : State} (v : Env) (f : TensF) (c : CopyPlan) (hs : Keeps r s) : Keeps r (State.countCopy s v f c) := by
  unfold State.countCopy
  simp (maxDischargeDepth := 40) +contextual [*]

@[simp ↓] theorem withHeads_keeps {r : State} (v : Env) {s : State} (heads : List (Nat × Nat)) (f : State → Res) (hs : Keeps r s) (hf : ∀ y0, Keeps r y0 → KeepsR r (f y0)) : KeepsR r (withHeads v s heads f) := by
  unfold withHeads
  repeat' (first
    | assumption
    | (simp (maxDischargeDepth := 40) +contextual [*]; done)
    | apply Keeps.foldl
    | apply Keeps.foldl_pair
    | split
    | dsimp only
    | intro _)

@[simp ↓] theorem State.xpJoin_keeps {r : State} {s : State} (v : Env) (hs : Keeps r s) : Keeps r (State.xpJoin s v) := by
  unfold State.xpJoin
  simp (maxDischargeDepth := 40) +contextual [*]

@[simp ↓] theorem State.xpDone_keeps {r : State} {s : State} (v : Env) (hs : Keeps r s) : Keeps r (State.xpDone s v) := by
  unfold State.xpDone
  simp (maxDischargeDepth := 40) +contextual [*]

@[simp ↓] theorem copyApply_keeps {r : State} (cvld : Bool) (f : TensF) (c : CopyPlan) (v : Env) {s : State} (hs : Keeps r s) : KeepsR r (copyApply cvld f c v s) := by
  unfold copyApply
  repeat' (first
    | assumption
    | (simp (maxDischargeDepth := 40) +contextual [*]; done)
    | apply Keeps.foldl
    | apply Keeps.foldl_pair
    | apply storeRes_keeps
    | split
    | dsimp only
    | intro _)

@[simp ↓] theorem bodyMove_keeps {r : State} (cvld : Bool) (f : TensF) (v : Env) {s : State} (hs : Keeps r s) : KeepsR r (bodyMove cvld f v s) := by
  unfold bodyMove
  extract_lets used
  refine KeepsR.ite_both trivial ?_
  split
  · exact KeepsR_flt _
  refine withHeads_keeps _ _ _ hs (fun s hs => ?_)
  cases copyCheck cvld f v s with
  | error e => trivial
  | ok c =>
    dsimp only
    split
    · exact hs
    · exact withInputs_keeps _ _ _ hs (fun _ h => copyApply_keeps _ _ _ _ h)

@[simp ↓] theorem State.copyFaulted_keeps {r : State} {s : State} (v : Env) (c : Nat) (hs : Keeps r s) : Keeps r (State.copyFaulted s v c) := by
  unfold State.copyFaulted
  (repeat' split) <;> simp (maxDischargeDepth := 40) +contextual [*]

@[simp ↓] theorem goCopy_keeps {r : State} (body : Env → State → Res) (v : Env) {s : State} (hbody : ∀ y0 y1, Keeps r y1 → KeepsR r (body y0 y1)) (hs : Keeps r s) : Keeps r (goCopy body v s) := by
  unfold goCopy
  have h := hbody v s hs
  split
  · simp [*]
  · rename_i hx; rw [hx] at h; exact h
  · (repeat' split) <;> simp (maxDischargeDepth := 40) +contextual [*]

@[simp ↓] theorem bodyCopy_keeps {r : State} (f : TensF) (v : Env) {s : State} (hs : Keeps r s) : KeepsR r (bodyCopy f v s) := by
  unfold bodyCopy
  simp (maxDischargeDepth := 40) +contextual [*]

@[simp ↓] theorem execCopy_keeps {r : State} (stn : BitVec 11) (f : TensF) {s : State} (hs : Keeps r s) : KeepsO r (execCopy stn f s) := by
  unfold execCopy
  simp (maxDischargeDepth := 40) +contextual [*]

@[simp ↓] theorem bodyCvld_keeps {r : State} (f : TensF) (v : Env) {s : State} (hs : Keeps r s) : KeepsR r (bodyCvld f v s) := by
  unfold bodyCvld
  simp (maxDischargeDepth := 40) +contextual [*]

@[simp ↓] theorem execCvld_keeps {r : State} (stn : BitVec 11) (f : TensF) {s : State} (hs : Keeps r s) : KeepsO r (execCvld stn f s) := by
  unfold execCvld
  simp (maxDischargeDepth := 40) +contextual [*]

theorem State.tileLocked_keeps {r : State} {s : State} (k : Loc) (t : Nat) (hs : Keeps r s) : ∀ q, (State.tileLocked s k t) = some q → Keeps r q := by
  unfold State.tileLocked
  intro t' ht
  split at ht
  · simp only [Option.some.injEq] at ht
    subst ht
    simp [hs]
  · simp at ht

theorem State.tileExpects_keeps {r : State} {s : State} (k : Loc) (t : Nat) (hs : Keeps r s) : ∀ q, (State.tileExpects s k t) = some q → Keeps r q := by
  unfold State.tileExpects
  intro t' ht
  split at ht
  · simp only [Option.some.injEq] at ht
    subst ht
    simp [hs]
  · simp at ht

@[simp ↓] theorem State.chainServe_keeps {r : State} {s : State} (k : Loc) (hs : Keeps r s) : Keeps r (State.chainServe s k) := by
  unfold State.chainServe
  repeat' (first
    | assumption
    | (simp (maxDischargeDepth := 40) +contextual [*]; done)
    | apply Keeps.foldl
    | apply Keeps.foldl_pair
    | split
    | dsimp only
    | intro _)

@[simp ↓] theorem State.unlockTile_keeps {r : State} {s : State} (k : Loc) (t : Nat) (hs : Keeps r s) : Keeps r (State.unlockTile s k t) := by
  unfold State.unlockTile
  simp (maxDischargeDepth := 40) +contextual [*]

@[simp ↓] theorem bodyTld_keeps {r : State} (f : TensF) (v : Env) {s : State} (hs : Keeps r s) : KeepsR r (bodyTld f v s) := by
  unfold bodyTld
  extract_lets k ts s1
  have h1 : Keeps r s1 := State.updStn_keeps _ _ hs
  clear_value s1
  split
  · simp
  split
  · simp
  split
  · simp
  split
  · rename_i q hq
    split at hq
    · cases hq
    · exact State.tileLocked_keeps _ _ hs _ hq
  refine withInputs_keeps _ _ _ h1 (fun s h => ?_)
  extract_lets old addr el sv t s'
  have hs' : Keeps r s' := State.chainServe_keeps _ (State.shapeClamp_keeps _ _ (State.updStn_keeps _ _ h))
  clear_value s'
  split <;> exact hs'

@[simp ↓] theorem execTld_keeps {r : State} (stn : BitVec 11) (f : TensF) {s : State} (hs : Keeps r s) : KeepsO r (execTld stn f s) := by
  unfold execTld
  simp (maxDischargeDepth := 40) +contextual [*]

@[simp ↓] theorem bodyTst_keeps {r : State} (f : TensF) (v : Env) {s : State} (hs : Keeps r s) : KeepsR r (bodyTst f v s) := by
  unfold bodyTst
  repeat' (first
    | assumption
    | (simp (maxDischargeDepth := 40) +contextual [*]; done)
    | apply Keeps.foldl
    | apply Keeps.foldl_pair
    | exact State.tileLocked_keeps _ _ hs _ ‹_›
    | exact State.tileExpects_keeps _ _ hs _ ‹_›
    | apply storeRes_keeps
    | split
    | dsimp only
    | intro _)

@[simp ↓] theorem execTst_keeps {r : State} (stn : BitVec 11) (f : TensF) {s : State} (hs : Keeps r s) : KeepsO r (execTst stn f s) := by
  unfold execTst
  simp (maxDischargeDepth := 40) +contextual [*]

@[simp ↓] theorem State.noSlab_keeps {r : State} {s : State} (k : Loc) (hs : Keeps r s) : Keeps r (State.noSlab s k) := by
  unfold State.noSlab
  simp (maxDischargeDepth := 40) +contextual [*]

@[simp ↓] theorem bodyTclr_keeps {r : State} (f : TensF) (v : Env) {s : State} (hs : Keeps r s) : KeepsR r (bodyTclr f v s) := by
  unfold bodyTclr
  repeat' (first
    | assumption
    | (simp (maxDischargeDepth := 40) +contextual [*]; done)
    | apply Keeps.foldl
    | apply Keeps.foldl_pair
    | exact State.tileLocked_keeps _ _ hs _ ‹_›
    | split
    | dsimp only
    | intro _)

@[simp ↓] theorem execTclr_keeps {r : State} (stn : BitVec 11) (f : TensF) {s : State} (hs : Keeps r s) : KeepsO r (execTclr stn f s) := by
  unfold execTclr
  simp (maxDischargeDepth := 40) +contextual [*]

end Sys2Proof.Machine
end

