-- ==== Sys2Proof/Laws/KeepsC.lean ====
section
/-! SUPPORT. What the operations of Machine/Matrix.lean to Machine/Random.lean keep. -/

namespace Sys2Proof.Machine

@[simp ↓] theorem State.holdPasses_keeps {r : State} {s : State} (k : Loc) (mask : BitVec 4) (q : PassSeq) (hs : Keeps r s) : Keeps r (State.holdPasses s k mask q) := by
  unfold State.holdPasses
  (repeat' split) <;> simp (maxDischargeDepth := 40) +contextual [*]

@[simp ↓] theorem State.emptyFeed_keeps {r : State} {s : State} (k : Loc) (hs : Keeps r s) : Keeps r (State.emptyFeed s k) := by
  unfold State.emptyFeed
  simp (maxDischargeDepth := 40) +contextual [*]

@[simp ↓] theorem State.donePasses_keeps {r : State} {s : State} (k : Loc) (mask : BitVec 4) (q : PassSeq) (hs : Keeps r s) : Keeps r (State.donePasses s k mask q) := by
  unfold State.donePasses
  (repeat' split) <;> simp (maxDischargeDepth := 40) +contextual [*]

@[simp ↓] theorem State.countSlices_keeps {r : State} {s : State} (k : Loc) (n : Nat) (hs : Keeps r s) : Keeps r (State.countSlices s k n) := by
  unfold State.countSlices
  (repeat' split) <;> simp (maxDischargeDepth := 40) +contextual [*]

@[simp ↓] theorem State.finishPasses_keeps {r : State} {s : State} (k : Loc) (ts : Nat) (o : PassOut) (hs : Keeps r s) : Keeps r (State.finishPasses s k ts o) := by
  unfold State.finishPasses
  repeat' (first
    | assumption
    | (simp (maxDischargeDepth := 40) +contextual [*]; done)
    | apply Keeps.foldl
    | apply Keeps.foldl_pair
    | split
    | dsimp only
    | intro _)

@[simp ↓] theorem State.loadSkip_keeps {r : State} {s : State} (k : Loc) (ts : Nat) (bm : Option Desc) (c0 : Nat) (hs : Keeps r s) : Keeps r (State.loadSkip s k ts bm c0) := by
  unfold State.loadSkip
  cases bm with
  | none => exact hs
  | some d => exact State.inc_keeps _ _ (State.updStn_keeps _ _ hs)

@[simp ↓] theorem State.idleSlab_keeps {r : State} {s : State} (k : Loc) (c : MpassPlan) (hs : Keeps r s) : Keeps r (State.idleSlab s k c) := by
  unfold State.idleSlab
  (repeat' split) <;> simp (maxDischargeDepth := 40) +contextual [*]

@[simp ↓] theorem mpassApply_keeps {r : State} (f : TensF) (c : MpassPlan) (v : Env) {s : State} (hs : Keeps r s) : KeepsR r (mpassApply f c v s) := by
  unfold mpassApply
  repeat' (first
    | assumption
    | (simp (maxDischargeDepth := 40) +contextual [*]; done)
    | apply Keeps.foldl
    | apply Keeps.foldl_pair
    | split
    | dsimp only
    | intro _)

@[simp ↓] theorem State.mpassHeld_keeps {r : State} {s : State} (k : Loc) (ts : Nat) (c : MpassPlan) (hs : Keeps r s) : Keeps r (State.mpassHeld s k ts c) := by
  unfold State.mpassHeld
  (repeat' split) <;> simp (maxDischargeDepth := 40) +contextual [*]

@[simp ↓] theorem bodyMpass_keeps {r : State} (f : TensF) (v : Env) {s : State} (hs : Keeps r s) : KeepsR r (bodyMpass f v s) := by
  unfold bodyMpass
  repeat' (first
    | assumption
    | (simp (maxDischargeDepth := 40) +contextual [*]; done)
    | apply Keeps.foldl
    | apply Keeps.foldl_pair
    | exact KeepsR_early _ _
    | exact State.mpassHeld_keeps _ _ _ (State.tileLocked_keeps _ _ (by assumption) _ (by assumption))
    | split
    | dsimp only
    | intro _)

@[simp ↓] theorem execMpass_keeps {r : State} (stn : BitVec 11) (f : TensF) {s : State} (hs : Keeps r s) : KeepsO r (execMpass stn f s) := by
  unfold execMpass
  simp (maxDischargeDepth := 40) +contextual [*]

@[simp ↓] theorem State.melemHeld_keeps {r : State} {s : State} (k : Loc) (a : Desc) (asc : Option Desc) (hs : Keeps r s) : Keeps r (State.melemHeld s k a asc) := by
  unfold State.melemHeld
  (repeat' split) <;> simp (maxDischargeDepth := 40) +contextual [*]

@[simp ↓] theorem bodyMelem_keeps {r : State} (f : TensF) (v : Env) {s : State} (hs : Keeps r s) : KeepsR r (bodyMelem f v s) := by
  unfold bodyMelem
  repeat' (first
    | assumption
    | (simp (maxDischargeDepth := 40) +contextual [*]; done)
    | apply Keeps.foldl
    | apply Keeps.foldl_pair
    | exact State.melemHeld_keeps _ _ _ (State.tileLocked_keeps _ _ (by assumption) _ (by assumption))
    | split
    | dsimp only
    | intro _)

@[simp ↓] theorem execMelem_keeps {r : State} (stn : BitVec 11) (f : TensF) {s : State} (hs : Keeps r s) : KeepsO r (execMelem stn f s) := by
  unfold execMelem
  simp (maxDischargeDepth := 40) +contextual [*]

@[simp ↓] theorem bodyChin_keeps {r : State} (f : TensF) (v : Env) {s : State} (hs : Keeps r s) : KeepsR r (bodyChin f v s) := by
  unfold bodyChin
  repeat' (first
    | assumption
    | (simp (maxDischargeDepth := 40) +contextual [*]; done)
    | apply Keeps.foldl
    | apply Keeps.foldl_pair
    | exact State.tileLocked_keeps _ _ hs _ ‹_›
    | split
    | dsimp only
    | intro _)

@[simp ↓] theorem execChin_keeps {r : State} (stn : BitVec 11) (f : TensF) {s : State} (hs : Keeps r s) : KeepsO r (execChin stn f s) := by
  unfold execChin
  simp (maxDischargeDepth := 40) +contextual [*]

@[simp ↓] theorem bodyChout_keeps {r : State} (f : TensF) (v : Env) {s : State} (hs : Keeps r s) : KeepsR r (bodyChout f v s) := by
  unfold bodyChout
  extract_lets k ts d id t p s' s''
  have h1 : Keeps r s' := State.noSlab_keeps _ (State.portEffect_keeps _ _ hs)
  clear_value s'
  have h2 : Keeps r s'' := State.updStn_keeps _ _ h1
  clear_value s''
  refine KeepsR.ite (fun _ => KeepsR_illegal) (fun _ => KeepsR.ite (fun _ => trivial) (fun _ => KeepsR.ite (fun _ => trivial) (fun _ => ?_)))
  split
  · exact State.tileLocked_keeps _ _ hs _ ‹_›
  split
  · exact State.tileExpects_keeps _ _ hs _ ‹_›
  refine KeepsR.ite (fun _ => State.inc_keeps _ _ hs) (fun _ => ?_)
  exact KeepsR.ite (fun _ => Keeps.mk (h := State.passMesh_keeps _ _ _ h2) ..) (fun _ => h1)

@[simp ↓] theorem execChout_keeps {r : State} (stn : BitVec 11) (f : TensF) {s : State} (hs : Keeps r s) : KeepsO r (execChout stn f s) := by
  unfold execChout
  simp (maxDischargeDepth := 40) +contextual [*]

@[simp ↓] theorem spmmApply_keeps {r : State} (tr : Bool) (f : TensF) (c : SpmmPlan) (v : Env) {s : State} (hs : Keeps r s) : KeepsR r (spmmApply tr f c v s) := by
  unfold spmmApply
  extract_lets k ts q s1 s2 t s3
  have h1 : Keeps r s1 := State.emptyFeed_keeps _ (State.noSlab_keeps _ (State.shapeClamp_keeps _ _ hs))
  have h2 : Keeps r s2 := State.loadSkip_keeps _ _ _ _ h1
  have h3 : Keeps r s3 := State.countSlices_keeps _ _ (State.platDrops_keeps _ _ h2)
  clear_value s1 s2 s3
  refine KeepsR.ite_both h1 ?_
  split
  · exact h1
  refine KeepsR.ite_both h2 ?_
  split
  · exact h2
  · exact State.donePasses_keeps _ _ _ (State.finishPasses_keeps _ _ _ h3)

@[simp ↓] theorem State.spmmHeld_keeps {r : State} {s : State} (tr : Bool) (k : Loc) (ts : Nat) (c : SpmmPlan) (hs : Keeps r s) : Keeps r (State.spmmHeld s tr k ts c) := by
  unfold State.spmmHeld
  (repeat' split) <;> simp (maxDischargeDepth := 40) +contextual [*]

@[simp ↓] theorem bodySpmmOf_keeps {r : State} (tr : Bool) (f : TensF) (v : Env) {s : State} (hs : Keeps r s) : KeepsR r (bodySpmmOf tr f v s) := by
  unfold bodySpmmOf
  repeat' (first
    | assumption
    | (simp (maxDischargeDepth := 40) +contextual [*]; done)
    | apply Keeps.foldl
    | apply Keeps.foldl_pair
    | exact State.spmmHeld_keeps _ _ _ _ (State.tileLocked_keeps _ _ (by assumption) _ (by assumption))
    | split
    | dsimp only
    | intro _)

@[simp ↓] theorem bodySpmm_keeps {r : State} (f : TensF) (v : Env) {s : State} (hs : Keeps r s) : KeepsR r (bodySpmm f v s) := by
  unfold bodySpmm
  simp (maxDischargeDepth := 40) +contextual [*]

@[simp ↓] theorem execSpmm_keeps {r : State} (stn : BitVec 11) (f : TensF) {s : State} (hs : Keeps r s) : KeepsO r (execSpmm stn f s) := by
  unfold execSpmm
  simp (maxDischargeDepth := 40) +contextual [*]

@[simp ↓] theorem bodySpmmT_keeps {r : State} (f : TensF) (v : Env) {s : State} (hs : Keeps r s) : KeepsR r (bodySpmmT f v s) := by
  unfold bodySpmmT
  simp (maxDischargeDepth := 40) +contextual [*]

@[simp ↓] theorem execSpmmT_keeps {r : State} (stn : BitVec 11) (f : TensF) {s : State} (hs : Keeps r s) : KeepsO r (execSpmmT stn f s) := by
  unfold execSpmmT
  simp (maxDischargeDepth := 40) +contextual [*]

@[simp ↓] theorem bodyRecon_keeps {r : State} (f : TensF) (v : Env) {s : State} (hs : Keeps r s) : KeepsR r (bodyRecon f v s) := by
  unfold bodyRecon
  repeat' (first
    | assumption
    | (simp (maxDischargeDepth := 40) +contextual [*]; done)
    | apply Keeps.foldl
    | apply Keeps.foldl_pair
    | exact State.tileLocked_keeps _ _ hs _ ‹_›
    | apply withInputs_keeps
    | split
    | dsimp only
    | intro _)

@[simp ↓] theorem execRecon_keeps {r : State} (stn : BitVec 11) (f : TensF) {s : State} (hs : Keeps r s) : KeepsO r (execRecon stn f s) := by
  unfold execRecon
  simp (maxDischargeDepth := 40) +contextual [*]

@[simp ↓] theorem selApply_keeps {r : State} (c : SelPlan) (v : Env) {s : State} (rows : List (List (List (Nat × Nat) × Nat))) (hs : Keeps r s) : KeepsR r (selApply c v s rows) := by
  unfold selApply
  repeat' (first
    | assumption
    | (simp (maxDischargeDepth := 40) +contextual [*]; done)
    | apply Keeps.foldl
    | apply Keeps.foldl_pair
    | apply storeRes_keeps
    | split
    | dsimp only
    | intro _)

@[simp ↓] theorem bodyPrune_keeps {r : State} (f : TensF) (v : Env) {s : State} (hs : Keeps r s) : KeepsR r (bodyPrune f v s) := by
  unfold bodyPrune
  repeat' (first
    | exact selApply_keeps _ _ _ hs
    | trivial
    | split)

@[simp ↓] theorem execPrune_keeps {r : State} (stn : BitVec 11) (f : TensF) {s : State} (hs : Keeps r s) : KeepsO r (execPrune stn f s) := by
  unfold execPrune
  simp (maxDischargeDepth := 40) +contextual [*]

@[simp ↓] theorem bodyRegrow_keeps {r : State} (f : TensF) (v : Env) {s : State} (hs : Keeps r s) : KeepsR r (bodyRegrow f v s) := by
  unfold bodyRegrow
  repeat' (first
    | exact selApply_keeps _ _ _ hs
    | trivial
    | split)

@[simp ↓] theorem execRegrow_keeps {r : State} (stn : BitVec 11) (f : TensF) {s : State} (hs : Keeps r s) : KeepsO r (execRegrow stn f s) := by
  unfold execRegrow
  simp (maxDischargeDepth := 40) +contextual [*]

@[simp ↓] theorem State.wrV_keeps {r : State} {s : State} (k : Loc) (f : TensF) (vs : List (Option Nat)) (hs : Keeps r s) : Keeps r (State.wrV s k f vs) := by
  unfold State.wrV
  simp (maxDischargeDepth := 40) +contextual [*]

@[simp ↓] theorem bodyVld_keeps {r : State} (f : TensF) (v : Env) {s : State} (hs : Keeps r s) : KeepsR r (bodyVld f v s) := by
  unfold bodyVld
  repeat' (first
    | assumption
    | (simp (maxDischargeDepth := 40) +contextual [*]; done)
    | apply Keeps.foldl
    | apply Keeps.foldl_pair
    | apply withInputs_keeps
    | split
    | dsimp only
    | intro _)

@[simp ↓] theorem execVld_keeps {r : State} (stn : BitVec 11) (f : TensF) {s : State} (hs : Keeps r s) : KeepsO r (execVld stn f s) := by
  unfold execVld
  simp (maxDischargeDepth := 40) +contextual [*]

@[simp ↓] theorem bodyVst_keeps {r : State} (f : TensF) (v : Env) {s : State} (hs : Keeps r s) : KeepsR r (bodyVst f v s) := by
  unfold bodyVst
  extract_lets k raw sr
  refine KeepsR.ite (fun _ => KeepsR_illegal) (fun _ => KeepsR.ite (fun _ => trivial) (fun _ => ?_))
  split
  · exact KeepsR_flt _
  split
  · exact KeepsR_flt _
  refine KeepsR.ite (fun _ => trivial) (fun _ => ?_)
  extract_lets js cs spans
  refine withInputs_keeps _ _ _ hs (fun s h => ?_)
  split
  · exact State.shapeClamp_keeps _ _ h
  extract_lets ex one nan ws
  exact storeRes_keeps _ _ _ h (fun _ h => State.shapeClamp_keeps _ _ (State.countCvts_keeps _ _ _ h))

@[simp ↓] theorem execVst_keeps {r : State} (stn : BitVec 11) (f : TensF) {s : State} (hs : Keeps r s) : KeepsO r (execVst stn f s) := by
  unfold execVst
  simp (maxDischargeDepth := 40) +contextual [*]

@[simp ↓] theorem bodyVarith_keeps {r : State} (f : TensF) (v : Env) {s : State} (hs : Keeps r s) : KeepsR r (bodyVarith f v s) := by
  unfold bodyVarith
  (repeat' split) <;> simp (maxDischargeDepth := 40) +contextual [*]

@[simp ↓] theorem execVarith_keeps {r : State} (stn : BitVec 11) (f : TensF) {s : State} (hs : Keeps r s) : KeepsO r (execVarith stn f s) := by
  unfold execVarith
  simp (maxDischargeDepth := 40) +contextual [*]

@[simp ↓] theorem bodyVfma_keeps {r : State} (f : TensF) (v : Env) {s : State} (hs : Keeps r s) : KeepsR r (bodyVfma f v s) := by
  unfold bodyVfma
  (repeat' split) <;> simp (maxDischargeDepth := 40) +contextual [*]

@[simp ↓] theorem execVfma_keeps {r : State} (stn : BitVec 11) (f : TensF) {s : State} (hs : Keeps r s) : KeepsO r (execVfma stn f s) := by
  unfold execVfma
  simp (maxDischargeDepth := 40) +contextual [*]

@[simp ↓] theorem bodyVfunc_keeps {r : State} (f : TensF) (v : Env) {s : State} (hs : Keeps r s) : KeepsR r (bodyVfunc f v s) := by
  unfold bodyVfunc
  (repeat' split) <;> simp (maxDischargeDepth := 40) +contextual [*]

@[simp ↓] theorem execVfunc_keeps {r : State} (stn : BitVec 11) (f : TensF) {s : State} (hs : Keeps r s) : KeepsO r (execVfunc stn f s) := by
  unfold execVfunc
  simp (maxDischargeDepth := 40) +contextual [*]

@[simp ↓] theorem bodyVcmp_keeps {r : State} (f : TensF) (v : Env) {s : State} (hs : Keeps r s) : KeepsR r (bodyVcmp f v s) := by
  unfold bodyVcmp
  (repeat' split) <;> simp (maxDischargeDepth := 40) +contextual [*]

@[simp ↓] theorem execVcmp_keeps {r : State} (stn : BitVec 11) (f : TensF) {s : State} (hs : Keeps r s) : KeepsO r (execVcmp stn f s) := by
  unfold execVcmp
  simp (maxDischargeDepth := 40) +contextual [*]

@[simp ↓] theorem bodyVsel_keeps {r : State} (f : TensF) (v : Env) {s : State} (hs : Keeps r s) : KeepsR r (bodyVsel f v s) := by
  unfold bodyVsel
  (repeat' split) <;> simp (maxDischargeDepth := 40) +contextual [*]

@[simp ↓] theorem execVsel_keeps {r : State} (stn : BitVec 11) (f : TensF) {s : State} (hs : Keeps r s) : KeepsO r (execVsel stn f s) := by
  unfold execVsel
  simp (maxDischargeDepth := 40) +contextual [*]

@[simp ↓] theorem bodyVred_keeps {r : State} (f : TensF) (v : Env) {s : State} (hs : Keeps r s) : KeepsR r (bodyVred f v s) := by
  unfold bodyVred
  repeat' (first
    | assumption
    | (simp (maxDischargeDepth := 40) +contextual [*]; done)
    | apply Keeps.foldl
    | apply Keeps.foldl_pair
    | exact State.tileLocked_keeps _ _ hs _ ‹_›
    | split
    | dsimp only
    | intro _)

@[simp ↓] theorem execVred_keeps {r : State} (stn : BitVec 11) (f : TensF) {s : State} (hs : Keeps r s) : KeepsO r (execVred stn f s) := by
  unfold execVred
  simp (maxDischargeDepth := 40) +contextual [*]

@[simp ↓] theorem bodyVcvt_keeps {r : State} (f : TensF) (v : Env) {s : State} (hs : Keeps r s) : KeepsR r (bodyVcvt f v s) := by
  unfold bodyVcvt
  repeat' (first
    | assumption
    | (simp (maxDischargeDepth := 40) +contextual [*]; done)
    | apply Keeps.foldl
    | apply Keeps.foldl_pair
    | split
    | dsimp only
    | intro _)

@[simp ↓] theorem execVcvt_keeps {r : State} (stn : BitVec 11) (f : TensF) {s : State} (hs : Keeps r s) : KeepsO r (execVcvt stn f s) := by
  unfold execVcvt
  simp (maxDischargeDepth := 40) +contextual [*]

@[simp ↓] theorem bodyVgather_keeps {r : State} (f : TensF) (v : Env) {s : State} (hs : Keeps r s) : KeepsR r (bodyVgather f v s) := by
  unfold bodyVgather
  repeat' (first
    | assumption
    | (simp (maxDischargeDepth := 40) +contextual [*]; done)
    | apply Keeps.foldl
    | apply Keeps.foldl_pair
    | apply withInputs_keeps
    | split
    | dsimp only
    | intro _)

@[simp ↓] theorem execVgather_keeps {r : State} (stn : BitVec 11) (f : TensF) {s : State} (hs : Keeps r s) : KeepsO r (execVgather stn f s) := by
  unfold execVgather
  simp (maxDischargeDepth := 40) +contextual [*]

@[simp ↓] theorem bodyRngset_keeps {r : State} (f : ScalF) (v : Env) {s : State} (hs : Keeps r s) : KeepsR r (bodyRngset f v s) := by
  unfold bodyRngset
  extract_lets b n x
  exact KeepsR.ite (fun _ => KeepsR_illegal) (fun _ => KeepsR.ite (fun _ => State.wr_keeps _ _ hs) (fun _ =>
    KeepsR.ite (fun _ => State.wr_keeps _ _ hs) (fun _ => KeepsR.ite (fun _ => State.wr_keeps _ _ hs) (fun _ => KeepsR_illegal))))

@[simp ↓] theorem execRngset_keeps {r : State} (stn : BitVec 11) (f : ScalF) {s : State} (hs : Keeps r s) : KeepsO r (execRngset stn f s) := by
  unfold execRngset
  simp (maxDischargeDepth := 40) +contextual [*]

@[simp ↓] theorem bodyRand_keeps {r : State} (f : TensF) (v : Env) {s : State} (hs : Keeps r s) : KeepsR r (bodyRand f v s) := by
  unfold bodyRand
  repeat' (first
    | assumption
    | (simp (maxDischargeDepth := 40) +contextual [*]; done)
    | apply Keeps.foldl
    | apply Keeps.foldl_pair
    | apply storeRes_keeps
    | apply withInputs_keeps
    | split
    | dsimp only
    | intro _)

@[simp ↓] theorem execRand_keeps {r : State} (stn : BitVec 11) (f : TensF) {s : State} (hs : Keeps r s) : KeepsO r (execRand stn f s) := by
  unfold execRand
  simp (maxDischargeDepth := 40) +contextual [*]

@[simp ↓] theorem bodySample_keeps {r : State} (f : TensF) (v : Env) {s : State} (hs : Keeps r s) : KeepsR r (bodySample f v s) := by
  unfold bodySample
  repeat' (first
    | assumption
    | (simp (maxDischargeDepth := 40) +contextual [*]; done)
    | apply Keeps.foldl
    | apply Keeps.foldl_pair
    | apply storeRes_keeps
    | apply withInputs_keeps
    | split
    | dsimp only
    | intro _)

@[simp ↓] theorem execSample_keeps {r : State} (stn : BitVec 11) (f : TensF) {s : State} (hs : Keeps r s) : KeepsO r (execSample stn f s) := by
  unfold execSample
  simp (maxDischargeDepth := 40) +contextual [*]

@[simp ↓] theorem State.quantStats_keeps {r : State} {s : State} (k : Loc) (els : List QEl) (hs : Keeps r s) : Keeps r (State.quantStats s k els) := by
  unfold State.quantStats
  simp (maxDischargeDepth := 40) +contextual [*]

@[simp ↓] theorem quantApply_keeps {r : State} (f : TensF) (p : QuantPlan) (v : Env) (spans : List (Nat × Nat)) {s : State} (hs : Keeps r s) : KeepsR r (quantApply f p v spans s) := by
  unfold quantApply
  (repeat' split) <;> simp (maxDischargeDepth := 40) +contextual [*]

@[simp ↓] theorem bodyQuant_keeps {r : State} (f : TensF) (v : Env) {s : State} (hs : Keeps r s) : KeepsR r (bodyQuant f v s) := by
  unfold bodyQuant
  extract_lets k tile
  refine KeepsR.ite (fun _ => KeepsR_illegal) (fun _ => ?_)
  split
  · exact KeepsR_flt _
  refine withHeads_keeps _ _ _ hs (fun s hs => ?_)
  split
  · exact KeepsR_flt _
  split
  · rename_i s' hq
    split at hq
    · cases hl : s.tileLocked k f.ts.toNat with
      | none => rw [hl] at hq; exact State.tileExpects_keeps _ _ hs _ hq
      | some t =>
        rw [hl] at hq
        simp only [Option.orElse_some, Option.some.injEq] at hq
        subst hq
        exact State.tileLocked_keeps _ _ hs _ hl
    · simp at hq
  · exact withInputs_keeps _ _ _ hs (fun _ h => quantApply_keeps _ _ _ _ h)

@[simp ↓] theorem execQuant_keeps {r : State} (stn : BitVec 11) (f : TensF) {s : State} (hs : Keeps r s) : KeepsO r (execQuant stn f s) := by
  unfold execQuant
  simp (maxDischargeDepth := 40) +contextual [*]

@[simp ↓] theorem bodyDigest_keeps {r : State} (f : TensF) (v : Env) {s : State} (hs : Keeps r s) : KeepsR r (bodyDigest f v s) := by
  unfold bodyDigest
  repeat' (first
    | assumption
    | (simp (maxDischargeDepth := 40) +contextual [*]; done)
    | apply Keeps.foldl
    | apply Keeps.foldl_pair
    | apply storeRes_keeps
    | apply withInputs_keeps
    | apply withHeads_keeps
    | split
    | dsimp only
    | intro _)

@[simp ↓] theorem execDigest_keeps {r : State} (stn : BitVec 11) (f : TensF) {s : State} (hs : Keeps r s) : KeepsO r (execDigest stn f s) := by
  unfold execDigest
  simp (maxDischargeDepth := 40) +contextual [*]

end Sys2Proof.Machine
end

