-- ==== Sys2Proof/Laws/KeepsD.lean ====
section
/-! SUPPORT. What the operations of Machine/Traverse.lean to Machine/Sync.lean keep. -/

namespace Sys2Proof.Machine

@[simp ↓] theorem State.setLateness_keeps {r : State} {s : State} (k : Loc) (l : Int) (hs : Keeps r s) : Keeps r (State.setLateness s k l) := by
  unfold State.setLateness
  simp (maxDischargeDepth := 40) +contextual [*]

@[simp ↓] theorem State.measure_keeps {r : State} {s : State} (k : Loc) (p : Nat) (hs : Keeps r s) : Keeps r (State.measure s k p) := by
  unfold State.measure
  simp (maxDischargeDepth := 40) +contextual [*]

@[simp ↓] theorem State.setLegEnd_keeps {r : State} {s : State} (k : Loc) (p : Nat) (hs : Keeps r s) : Keeps r (State.setLegEnd s k p) := by
  unfold State.setLegEnd
  simp (maxDischargeDepth := 40) +contextual [*]

@[simp ↓] theorem State.enterLeg_keeps {r : State} {s : State} (k : Loc) (p : Nat) (i : Nat) (hs : Keeps r s) : Keeps r (State.enterLeg s k p i) := by
  unfold State.enterLeg
  simp (maxDischargeDepth := 40) +contextual [*]

@[simp ↓] theorem closeStation_keeps {r : State} (v : Env) {s : State} (go : State → Res) (hs : Keeps r s) (hgo : ∀ y0, Keeps r y0 → KeepsR r (go y0)) : KeepsR r (closeStation v s go) := by
  unfold closeStation
  (repeat' split) <;> simp (maxDischargeDepth := 40) +contextual [*]

@[simp ↓] theorem State.loadRecord_keeps {r : State} {s : State} (k : Loc) (p : Nat) (r' : BarRec) (hs : Keeps r s) : Keeps r (State.loadRecord s k p r') := by
  unfold State.loadRecord
  simp (maxDischargeDepth := 40) +contextual [*]

@[simp ↓] theorem State.putRecord_keeps {r : State} {s : State} (k : Loc) (r' : BarRec) (hs : Keeps r s) : Keeps r (State.putRecord s k r') := by
  unfold State.putRecord
  simp (maxDischargeDepth := 40) +contextual [*]

@[simp ↓] theorem State.copyRegs_keeps {r : State} {s : State} (fd : Nat) (a : Nat) (b : Nat) (hs : Keeps r s) : Keeps r (State.copyRegs s fd a b) := by
  unfold State.copyRegs
  simp (maxDischargeDepth := 40) +contextual [*]

@[simp ↓] theorem State.copyStation_keeps {r : State} {s : State} (fd : Nat) (a : Nat) (b : Nat) (hs : Keeps r s) : Keeps r (State.copyStation s fd a b) := by
  unfold State.copyStation
  repeat' (first
    | assumption
    | (simp (maxDischargeDepth := 40) +contextual [*]; done)
    | apply Keeps.foldl
    | apply Keeps.foldl_pair
    | split
    | dsimp only
    | intro _)

@[simp ↓] theorem State.clearStation_keeps {r : State} {s : State} (fd : Nat) (a : Nat) (hs : Keeps r s) : Keeps r (State.clearStation s fd a) := by
  unfold State.clearStation
  repeat' (first
    | assumption
    | (simp (maxDischargeDepth := 40) +contextual [*]; done)
    | apply Keeps.foldl
    | apply Keeps.foldl_pair
    | split
    | dsimp only
    | intro _)

@[simp ↓] theorem State.returnStep_keeps {r : State} {s : State} (k : Loc) (r' : ReturnRun) (hs : Keeps r s) : Keeps r (State.returnStep s k r') := by
  unfold State.returnStep
  simp (maxDischargeDepth := 40) +contextual [*]

@[simp ↓] theorem State.returnsAt_keeps {r : State} {s : State} (k : Loc) (hs : Keeps r s) : Keeps r (State.returnsAt s k) := by
  unfold State.returnsAt
  (repeat' split) <;> simp (maxDischargeDepth := 40) +contextual [*]

@[simp ↓] theorem State.restakeAt_keeps {r : State} {s : State} (k : Loc) (ran : Bool) (hs : Keeps r s) : Keeps r (State.restakeAt s k ran) := by
  unfold State.restakeAt
  (repeat' split) <;> simp (maxDischargeDepth := 40) +contextual [*]

@[simp ↓] theorem State.failReturns_keeps {r : State} {s : State} (p : Nat) (hs : Keeps r s) : Keeps r (State.failReturns s p) := by
  unfold State.failReturns
  simp (maxDischargeDepth := 40) +contextual [*]

@[simp ↓] theorem State.dropTraverse_keeps {r : State} {s : State} (p : Nat) (hs : Keeps r s) : Keeps r (State.dropTraverse s p) := by
  unfold State.dropTraverse
  simp (maxDischargeDepth := 40) +contextual [*]

@[simp ↓] theorem State.finishLeg_keeps {r : State} {s : State} (v : Env) (i : Nat) (hs : Keeps r s) : Keeps r (State.finishLeg s v i) := by
  unfold State.finishLeg
  repeat' (first
    | assumption
    | (simp (maxDischargeDepth := 40) +contextual [*]; done)
    | apply Keeps.foldl
    | apply Keeps.foldl_pair
    | split
    | dsimp only
    | intro _)

@[simp ↓] theorem bodyLeg_keeps {r : State} (f : CtrlF) (v : Env) {s : State} (hs : Keeps r s) : KeepsR r (bodyLeg f v s) := by
  unfold bodyLeg
  repeat' (first
    | assumption
    | (simp (maxDischargeDepth := 40) +contextual [*]; done)
    | apply Keeps.foldl
    | apply Keeps.foldl_pair
    | apply closeStation_keeps
    | split
    | dsimp only
    | intro _)

@[simp ↓] theorem goLeg_keeps {r : State} (f : CtrlF) (v : Env) {s : State} (hs : Keeps r s) : Keeps r (goLeg f v s) := by
  have hb := bodyLeg_keeps f v hs
  unfold goLeg
  generalize bodyLeg f v s = x at hb ⊢
  cases x <;> (repeat' split) <;> simp_all

@[simp ↓] theorem execLeg_keeps {r : State} (stn : BitVec 11) (f : CtrlF) {s : State} (hs : Keeps r s) : KeepsO r (execLeg stn f s) := by
  unfold execLeg
  simp (maxDischargeDepth := 40) +contextual [*]

@[simp ↓] theorem State.sendReadyOn_keeps {r : State} {s : State} (sends : List (Nat × Nat)) (p : Nat) (g : Nat) (k : Nat) (a : Nat) (hs : Keeps r s) : Keeps r (State.sendReadyOn s sends p g k a) := by
  unfold State.sendReadyOn
  refine Keeps.foldl _ _ (fun s x hs => ?_) hs
  dsimp only
  (repeat' split) <;> simp (maxDischargeDepth := 40) +contextual [*]

@[simp ↓] theorem State.sendReady_keeps {r : State} {s : State} (p : Nat) (g : Nat) (k : Nat) (a : Nat) (hs : Keeps r s) : Keeps r (State.sendReady s p g k a) := by
  unfold State.sendReady
  (repeat' split) <;> simp (maxDischargeDepth := 40) +contextual [*]

@[simp ↓] theorem State.announce_keeps {r : State} {s : State} (p : Nat) (g : Nat) (hs : Keeps r s) : Keeps r (State.announce s p g) := by
  unfold State.announce
  (repeat' split) <;> simp (maxDischargeDepth := 40) +contextual [*]

@[simp ↓] theorem State.announceEnded_keeps {r : State} {s : State} (p : Nat) (g : Nat) (k : Nat) (hs : Keeps r s) : Keeps r (State.announceEnded s p g k) := by
  unfold State.announceEnded
  (repeat' split) <;> simp (maxDischargeDepth := 40) +contextual [*]

@[simp ↓] theorem State.answerEnds_keeps {r : State} {s : State} (p : Nat) (g : Nat) (hs : Keeps r s) : Keeps r (State.answerEnds s p g) := by
  unfold State.answerEnds
  simp (maxDischargeDepth := 40) +contextual [*]

@[simp ↓] theorem State.keepLocks_keeps {r : State} {s : State} (p : Nat) (hs : Keeps r s) : Keeps r (State.keepLocks s p) := by
  unfold State.keepLocks
  (repeat' split) <;> simp (maxDischargeDepth := 40) +contextual [*]

@[simp ↓] theorem State.traverseDone_keeps {r : State} {s : State} (p : Nat) (hs : Keeps r s) : Keeps r (State.traverseDone s p) := by
  unfold State.traverseDone
  simp (maxDischargeDepth := 40) +contextual [*]

@[simp ↓] theorem State.finishEnd_keeps {r : State} {s : State} (v : Env) (hs : Keeps r s) : Keeps r (State.finishEnd s v) := by
  unfold State.finishEnd
  simp (maxDischargeDepth := 40) +contextual [*]

@[simp ↓] theorem bodyEnd_keeps {r : State} (f : CtrlF) (v : Env) {s : State} (hs : Keeps r s) : KeepsR r (bodyEnd f v s) := by
  unfold bodyEnd
  repeat' (first
    | assumption
    | (simp (maxDischargeDepth := 40) +contextual [*]; done)
    | apply Keeps.foldl
    | apply Keeps.foldl_pair
    | apply closeStation_keeps
    | split
    | dsimp only
    | intro _)

@[simp ↓] theorem State.markMember_keeps {r : State} {s : State} (g : Nat) (k : Nat) (t : Nat) (l : Int) (pl : Int) (miss : Bool) (p : Nat) (n : Nat) (hs : Keeps r s) : Keeps r (State.markMember s g k t l pl miss p n) := by
  unfold State.markMember
  (repeat' split) <;> simp (maxDischargeDepth := 40) +contextual [*]

@[simp ↓] theorem State.markComplete_keeps {r : State} {s : State} (p : Nat) (g : Nat) (learnt : Bool) (hs : Keeps r s) : Keeps r (State.markComplete s p g learnt) := by
  unfold State.markComplete
  (repeat' split) <;> simp (maxDischargeDepth := 40) +contextual [*]

@[simp ↓] theorem goEnd_keeps {r : State} (f : CtrlF) (v : Env) {s : State} (hs : Keeps r s) : Keeps r (goEnd f v s) := by
  have hb := bodyEnd_keeps f v hs
  unfold goEnd
  generalize bodyEnd f v s = x at hb ⊢
  cases x <;> (repeat' split) <;> simp_all

@[simp ↓] theorem execEnd_keeps {r : State} (stn : BitVec 11) (f : CtrlF) {s : State} (hs : Keeps r s) : KeepsO r (execEnd stn f s) := by
  unfold execEnd
  simp (maxDischargeDepth := 40) +contextual [*]

@[simp ↓] theorem bodyWaitmk_keeps {r : State} (f : SyncF) (v : Env) {s : State} (hs : Keeps r s) : KeepsR r (bodyWaitmk f v s) := by
  unfold bodyWaitmk
  extract_lets g planned now
  refine KeepsR.ite (fun _ => KeepsR_illegal) (fun _ => KeepsR.ite (fun _ => KeepsR.ite (fun _ => State.setLateness_keeps _ _ hs) (fun _ => hs)) (fun _ => ?_))
  rcases s.lockGrp v.parcel g with _ | grp
  · exact KeepsR_illegal
  · exact KeepsR.ite (fun _ => KeepsR_illegal) (fun _ => KeepsR.ite (fun _ => State.updLst_keeps _ _ hs) (fun _ => hs))

@[simp ↓] theorem goWaitmk_keeps {r : State} (f : SyncF) (v : Env) {s : State} (hs : Keeps r s) : Keeps r (goWaitmk f v s) := by
  unfold goWaitmk
  simp (maxDischargeDepth := 40) +contextual [*]

@[simp ↓] theorem execWaitmk_keeps {r : State} (stn : BitVec 11) (f : SyncF) {s : State} (hs : Keeps r s) : KeepsO r (execWaitmk stn f s) := by
  unfold execWaitmk
  simp (maxDischargeDepth := 40) +contextual [*]

@[simp ↓] theorem execWaitmkMarkReached_keeps {r : State} (stn : BitVec 11) {s : State} (hs : Keeps r s) : KeepsO r (execWaitmkMarkReached stn s) := by
  unfold execWaitmkMarkReached
  (repeat' split) <;> simp (maxDischargeDepth := 40) +contextual [*]

@[simp ↓] theorem execLockstepMarkComplete_keeps {r : State} (p : BitVec 2) (group : BitVec 16) {s : State} (hs : Keeps r s) : KeepsO r (execLockstepMarkComplete p group s) := by
  unfold execLockstepMarkComplete
  simp (maxDischargeDepth := 40) +contextual [*]

@[simp ↓] theorem State.answerLate_keeps {r : State} {s : State} (p : Nat) (g : Nat) (k : Nat) (hs : Keeps r s) : Keeps r (State.answerLate s p g k) := by
  unfold State.answerLate
  (repeat' split) <;> simp (maxDischargeDepth := 40) +contextual [*]

@[simp ↓] theorem execReadyMessage_keeps {r : State} (p : BitVec 2) (group : BitVec 16) (mark : BitVec 32) (module : BitVec 18) (time : BitVec 64) {s : State} (hs : Keeps r s) : KeepsO r (execReadyMessage p group mark module time s) := by
  unfold execReadyMessage
  simp (maxDischargeDepth := 40) +contextual [*]

@[simp ↓] theorem State.startStation_keeps {r : State} {s : State} (k : Loc) (p : Nat) (hs : Keeps r s) : Keeps r (State.startStation s k p) := by
  unfold State.startStation
  simp (maxDischargeDepth := 40) +contextual [*]

@[simp ↓] theorem execTraverseStart_keeps {r : State} (p : BitVec 2) {s : State} (hs : Keeps r s) : KeepsO r (execTraverseStart p s) := by
  unfold execTraverseStart
  simp (maxDischargeDepth := 40) +contextual [*]

@[simp ↓] theorem State.goOn_keeps {r : State} {s : State} (k : Loc) (hs : Keeps r s) : Keeps r (State.goOn s k) := by
  unfold State.goOn
  simp (maxDischargeDepth := 40) +contextual [*]

@[simp ↓] theorem State.tryBarrier_keeps {r : State} {s : State} (p : Nat) (g : Nat) (hs : Keeps r s) : Keeps r (State.tryBarrier s p g) := by
  unfold State.tryBarrier
  rcases s.barrierGrp p g with _ | ms
  · exact hs
  · refine Keeps.ite (fun _ => Keeps.foldl _ _ (fun t n h => ?_) hs) (fun _ => hs)
    rcases t.locate n with _ | k
    · exact h
    · exact State.goOn_keeps _ (State.updLst_keeps _ _ h)

@[simp ↓] theorem State.wakeDrain_keeps {r : State} {s : State} (k : Loc) (leg : Option Nat) (hs : Keeps r s) : Keeps r (State.wakeDrain s k leg) := by
  unfold State.wakeDrain
  extract_lets p
  cases leg with
  | none =>
    have hb := closeStation_keeps p (fun s => .ok (s.finishEnd p)) hs (fun t ht => State.finishEnd_keeps _ ht)
    dsimp only
    generalize closeStation p s (fun s => .ok (s.finishEnd p)) = x at hb ⊢
    cases x <;> simp_all
  | some i =>
    have hb := closeStation_keeps p (fun s => .ok (s.finishLeg p i)) hs (fun t ht => State.finishLeg_keeps _ _ ht)
    dsimp only
    generalize closeStation p s (fun s => .ok (s.finishLeg p i)) = x at hb ⊢
    cases x <;> simp_all

@[simp ↓] theorem State.bumpSignal_keeps {r : State} {s : State} (k : Loc) (c : Nat) (n : Int) (hs : Keeps r s) : Keeps r (State.bumpSignal s k c n) := by
  unfold State.bumpSignal
  (repeat' split) <;> simp (maxDischargeDepth := 40) +contextual [*]

@[simp ↓] theorem State.takeSignal_keeps {r : State} {s : State} (k : Loc) (c : Nat) (n : Int) (hs : Keeps r s) : Keeps r (State.takeSignal s k c n) := by
  unfold State.takeSignal
  simp (maxDischargeDepth := 40) +contextual [*]

@[simp ↓] theorem State.wake_keeps {r : State} {s : State} (k : Loc) (hs : Keeps r s) : Keeps r (State.wake s k) := by
  unfold State.wake
  (repeat' split) <;> simp (maxDischargeDepth := 40) +contextual [*]

@[simp ↓] theorem State.settle_keeps {r : State} {s : State} (hs : Keeps r s) : Keeps r (State.settle s) := by
  unfold State.settle
  repeat' (first
    | assumption
    | (simp (maxDischargeDepth := 40) +contextual [*]; done)
    | apply Keeps.foldl
    | apply Keeps.foldl_pair
    | split
    | dsimp only
    | intro _)

@[simp ↓] theorem bodyFence_keeps {r : State} (f : SyncF) (v : Env) {s : State} (hs : Keeps r s) : KeepsR r (bodyFence f v s) := by
  unfold bodyFence
  (repeat' split) <;> simp (maxDischargeDepth := 40) +contextual [*]

@[simp ↓] theorem execFence_keeps {r : State} (stn : BitVec 11) (f : SyncF) {s : State} (hs : Keeps r s) : KeepsO r (execFence stn f s) := by
  unfold execFence
  simp (maxDischargeDepth := 40) +contextual [*]

@[simp ↓] theorem bodyBarrier_keeps {r : State} (f : SyncF) (v : Env) {s : State} (hs : Keeps r s) : KeepsR r (bodyBarrier f v s) := by
  unfold bodyBarrier
  extract_lets g
  refine KeepsR.ite (fun _ => KeepsR_illegal) (fun _ => ?_)
  rcases s.barrierGrp v.parcel g with _ | ms
  · exact KeepsR_illegal
  · exact KeepsR.ite (fun _ => KeepsR_illegal) (fun _ => KeepsR.ite (fun _ => State.updLst_keeps _ _ hs) (fun _ => hs))

@[simp ↓] theorem goBarrier_keeps {r : State} (f : SyncF) (v : Env) {s : State} (hs : Keeps r s) : Keeps r (goBarrier f v s) := by
  unfold goBarrier
  simp (maxDischargeDepth := 40) +contextual [*]

@[simp ↓] theorem execBarrier_keeps {r : State} (stn : BitVec 11) (f : SyncF) {s : State} (hs : Keeps r s) : KeepsO r (execBarrier stn f s) := by
  unfold execBarrier
  simp (maxDischargeDepth := 40) +contextual [*]

@[simp ↓] theorem bodySignal_keeps {r : State} (f : SyncF) (v : Env) {s : State} (hs : Keeps r s) : KeepsR r (bodySignal f v s) := by
  unfold bodySignal
  extract_lets t q
  have h1 : Keeps r q.2 := State.portEffect_keeps _ _ hs
  clear_value q
  refine KeepsR.ite (fun _ => KeepsR_illegal) (fun _ => KeepsR.ite (fun _ => trivial) (fun _ => KeepsR.ite (fun _ => trivial) (fun _ => ?_)))
  refine KeepsR.ite (fun _ => hs) (fun _ => KeepsR.ite (fun _ => State.inc_keeps _ _ hs) (fun _ => ?_))
  exact KeepsR.ite (fun _ => h1) (fun _ => Keeps.mk (h := State.passMesh_keeps _ _ _ h1) ..)

@[simp ↓] theorem execSignal_keeps {r : State} (stn : BitVec 11) (f : SyncF) {s : State} (hs : Keeps r s) : KeepsO r (execSignal stn f s) := by
  unfold execSignal
  simp (maxDischargeDepth := 40) +contextual [*]

@[simp ↓] theorem bodyWaitsig_keeps {r : State} (f : SyncF) (v : Env) {s : State} (hs : Keeps r s) : KeepsR r (bodyWaitsig f v s) := by
  unfold bodyWaitsig
  repeat' (first
    | assumption
    | (simp (maxDischargeDepth := 40) +contextual [*]; done)
    | apply Keeps.foldl
    | apply Keeps.foldl_pair
    | split
    | dsimp only
    | intro _)

@[simp ↓] theorem execWaitsig_keeps {r : State} (stn : BitVec 11) (f : SyncF) {s : State} (hs : Keeps r s) : KeepsO r (execWaitsig stn f s) := by
  unfold execWaitsig
  simp (maxDischargeDepth := 40) +contextual [*]

@[simp ↓] theorem bodyCollwait_keeps {r : State} (f : SyncF) (v : Env) {s : State} (hs : Keeps r s) : KeepsR r (bodyCollwait f v s) := by
  unfold bodyCollwait
  (repeat' split) <;> simp (maxDischargeDepth := 40) +contextual [*]

@[simp ↓] theorem execCollwait_keeps {r : State} (stn : BitVec 11) (f : SyncF) {s : State} (hs : Keeps r s) : KeepsO r (execCollwait stn f s) := by
  unfold execCollwait
  simp (maxDischargeDepth := 40) +contextual [*]

@[simp ↓] theorem State.addSignal_keeps {r : State} {s : State} (k : Loc) (c : Nat) (n : Int) (hs : Keeps r s) : Keeps r (State.addSignal s k c n) := by
  unfold State.addSignal
  simp (maxDischargeDepth := 40) +contextual [*]

@[simp ↓] theorem execSignalDelivery_keeps {r : State} (source : BitVec 16) (target : BitVec 11) (counter : BitVec 4) {s : State} (hs : Keeps r s) : KeepsO r (execSignalDelivery source target counter s) := by
  unfold execSignalDelivery
  repeat' (first
    | assumption
    | (simp (maxDischargeDepth := 40) +contextual [*]; done)
    | apply Keeps.foldl
    | apply Keeps.foldl_pair
    | rw [KeepsO_next]
    | split
    | dsimp only
    | intro _)

@[simp ↓] theorem State.chainSent_keeps {r : State} {s : State} (x : ChainXfer) (hs : Keeps r s) : Keeps r (State.chainSent s x) := by
  unfold State.chainSent
  repeat' (first
    | assumption
    | (simp (maxDischargeDepth := 40) +contextual [*]; done)
    | apply Keeps.foldl
    | apply Keeps.foldl_pair
    | split
    | dsimp only
    | intro _)

@[simp ↓] theorem execChainTransferArrival_keeps {r : State} (dest : BitVec 11) {s : State} (hs : Keeps r s) : KeepsO r (execChainTransferArrival dest s) := by
  unfold execChainTransferArrival
  (repeat' split) <;> simp (maxDischargeDepth := 40) +contextual [*]

end Sys2Proof.Machine
end

