-- ==== Sys2Proof/Laws/KeepsE.lean ====
section
/-! SUPPORT. What the operations of Machine/Coll.lean to Machine/Control.lean keep. -/

namespace Sys2Proof.Machine

@[simp ↓] theorem State.setRun_keeps {r : State} {s : State} (r' : CollRun) (hs : Keeps r s) : Keeps r (State.setRun s r') := by
  unfold State.setRun
  simp (maxDischargeDepth := 40) +contextual [*]

@[simp ↓] theorem State.showActive_keeps {r : State} {s : State} (hs : Keeps r s) : Keeps r (State.showActive s) := by
  unfold State.showActive
  simp (maxDischargeDepth := 40) +contextual [*]

@[simp ↓] theorem State.collFinish_keeps {r : State} {s : State} (p : Nat) (i : Nat) (hs : Keeps r s) : Keeps r (State.collFinish s p i) := by
  unfold State.collFinish
  rcases s.collRun p i with _ | cr
  · exact hs
  · dsimp -zeta only
    extract_lets q ready s1 r1 s2 s3
    have h1 : Keeps r s1 := Keeps.foldl _ _ (fun t (m : CollMem) h => by
      extract_lets u
      have h' : Keeps r u := State.updLst_keeps _ _ h
      clear_value u
      split
      · exact State.unlockTile_keeps _ _ h'
      · exact h') hs
    clear_value s1
    have h2 : Keeps r s2 := State.setRun_keeps _ h1
    clear_value s2
    have h3 : Keeps r s3 := Keeps.ite (fun _ => State.showActive_keeps (Keeps.mk (h := h2) ..)) (fun _ => h2)
    exact State.settle_keeps h3

@[simp ↓] theorem State.collAcked_keeps {r : State} {s : State} (hs : Keeps r s) : Keeps r (State.collAcked s) := by
  unfold State.collAcked
  simp (maxDischargeDepth := 40) +contextual [*]

@[simp ↓] theorem State.openRun_keeps {r : State} {s : State} (p : Nat) (pl : Nat) (ld : Nat) (hs : Keeps r s) : Keeps r (State.openRun s p pl ld) := by
  unfold State.openRun
  (repeat' split) <;> simp (maxDischargeDepth := 40) +contextual [*]

@[simp ↓] theorem collLeaves_keeps {r : State} (v : Env) (pl : Nat) (h : Nat) (i : Nat) (q : Plan) (a : Desc) (asc : Option Desc) (d : Desc) (x : Nat) {s : State} (hs : Keeps r s) : KeepsR r (collLeaves v pl h i q a asc d x s) := by
  unfold collLeaves
  extract_lets k p
  split
  · exact State.collFinish_keeps _ _ (State.shapeClamp_keeps _ _ (State.platDrops_keeps _ _ (State.updLst_keeps _ _ (State.setRun_keeps _ hs))))
  · exact hs

@[simp ↓] theorem collJoin_keeps {r : State} (v : Env) (pl : Nat) (h : Nat) (i : Nat) (q : Plan) (a : Desc) (asc : Option Desc) (d : Desc) (x : Nat) {s : State} (hs : Keeps r s) : KeepsR r (collJoin v pl h i q a asc d x s) := by
  unfold collJoin
  refine KeepsR.ite (fun _ => State.shapeClamp_keeps _ _ (State.portEffect_keeps _ _ hs)) (fun _ => KeepsR.ite (fun _ => hs) (fun _ => ?_))
  exact withInputs_keeps _ _ _ hs (fun s h => collLeaves_keeps _ _ _ _ _ _ _ _ _ (State.openRun_keeps _ _ _ (State.portEffect_keeps _ _ h)))

@[simp ↓] theorem bodyColl_keeps {r : State} (f : TensF) (v : Env) {s : State} (hs : Keeps r s) : KeepsR r (bodyColl f v s) := by
  unfold bodyColl
  refine KeepsR.ite (fun _ => KeepsR_illegal) (fun _ => ?_)
  split
  · exact KeepsR_flt _
  dsimp only
  split
  · exact KeepsR_flt _
  refine withHeads_keeps _ _ _ hs (fun s hs => ?_)
  split
  · exact KeepsR_flt _
  · exact collJoin_keeps _ _ _ _ _ _ _ _ _ hs

@[simp ↓] theorem execColl_keeps {r : State} (stn : BitVec 11) (f : TensF) {s : State} (hs : Keeps r s) : KeepsO r (execColl stn f s) := by
  unfold execColl
  simp (maxDischargeDepth := 40) +contextual [*]

@[simp ↓] theorem State.laInto_keeps {r : State} {s : State} (k : Loc) (ts : Nat) (x : LA) (terms : Nat) (hs : Keeps r s) : Keeps r (State.laInto s k ts x terms) := by
  unfold State.laInto
  repeat' (first
    | assumption
    | (simp (maxDischargeDepth := 40) +contextual [*]; done)
    | apply Keeps.foldl
    | apply Keeps.foldl_pair
    | split
    | dsimp only
    | intro _)

@[simp ↓] theorem bodyLasum_keeps {r : State} (f : TensF) (v : Env) {s : State} (hs : Keeps r s) : KeepsR r (bodyLasum f v s) := by
  unfold bodyLasum
  extract_lets k p pl h ld ts rep lock
  have hl : ∀ s, Keeps r s → Keeps r (lock s) := fun s h => State.updStn_keeps _ _ h
  clear_value lock
  refine KeepsR.ite (fun _ => KeepsR_illegal) (fun _ => ?_)
  split
  · exact KeepsR_flt _
  refine KeepsR.ite (fun _ => ?_) (fun _ => ?_)
  · have hs' : Keeps r (s.portEffect k.num v.pc).2 := State.portEffect_keeps _ _ hs
    refine Keeps.ite (fun _ => hl _ hs') (fun _ => ?_)
    split
    · exact State.laInto_keeps _ _ _ _ hs'
    · exact hs'
  · split
    · rename_i hq
      cases hl' : s.tileLocked k ts with
      | none => rw [hl'] at hq; exact State.tileExpects_keeps _ _ hs _ hq
      | some t =>
        rw [hl'] at hq
        simp only [Option.orElse_some, Option.some.injEq] at hq
        subst hq
        exact State.tileLocked_keeps _ _ hs _ hl'
    · refine KeepsR.ite (fun _ => hs) (fun _ => ?_)
      have hs' : Keeps r ((s.portEffect k.num v.pc).2.openRun p pl ld) := State.openRun_keeps _ _ _ (State.portEffect_keeps _ _ hs)
      split
      · exact hs'
      · exact State.collFinish_keeps _ _ (hl _ (State.updLst_keeps _ _ (State.setRun_keeps _ hs')))

@[simp ↓] theorem execLasum_keeps {r : State} (stn : BitVec 11) (f : TensF) {s : State} (hs : Keeps r s) : KeepsO r (execLasum stn f s) := by
  unfold execLasum
  simp (maxDischargeDepth := 40) +contextual [*]

@[simp ↓] theorem State.collLost_keeps {r : State} {s : State} (r' : CollRun) (peer : Nat) (hs : Keeps r s) : Keeps r (State.collLost s r' peer) := by
  unfold State.collLost
  simp (maxDischargeDepth := 40) +contextual [*]

@[simp ↓] theorem execCollSend_keeps {r : State} (p : BitVec 2) (plan : BitVec 16) (step : BitVec 32) {s : State} (hs : Keeps r s) : KeepsO r (execCollSend p plan step s) := by
  unfold execCollSend
  repeat' (first
    | assumption
    | (simp (maxDischargeDepth := 40) +contextual [*]; done)
    | apply Keeps.foldl
    | apply Keeps.foldl_pair
    | split
    | dsimp only
    | intro _)

@[simp ↓] theorem State.maskMismatch_keeps {r : State} {s : State} (r' : CollRun) (port : Nat) (row : Nat) (own : Nat) (other : Nat) (hs : Keeps r s) : Keeps r (State.maskMismatch s r' port row own other) := by
  unfold State.maskMismatch
  simp (maxDischargeDepth := 40) +contextual [*]

@[simp ↓] theorem State.treeErr_keeps {r : State} {s : State} (r' : CollRun) (module : Nat) (level : Nat) (node : Nat) (hs : Keeps r s) : Keeps r (State.treeErr s r' module level node) := by
  unfold State.treeErr
  simp (maxDischargeDepth := 40) +contextual [*]

@[simp ↓] theorem execCollRecvAdd_keeps {r : State} (p : BitVec 2) (plan : BitVec 16) (step : BitVec 32) (module : BitVec 18) (level : BitVec 8) (node : BitVec 32) (vals : List (BitVec 256)) (stream : List Byte) (poison : List Bool) (terms : BitVec 32) {s : State} (hs : Keeps r s) : KeepsO r (execCollRecvAdd p plan step module level node vals stream poison terms s) := by
  unfold execCollRecvAdd
  repeat' (first
    | assumption
    | (simp (maxDischargeDepth := 40) +contextual [*]; done)
    | apply Keeps.foldl
    | apply Keeps.foldl_pair
    | split
    | dsimp only
    | intro _)

@[simp ↓] theorem State.a2aDrop_keeps {r : State} {s : State} (r' : CollRun) (n : Nat) (stn : Nat) (hs : Keeps r s) : Keeps r (State.a2aDrop s r' n stn) := by
  unfold State.a2aDrop
  simp (maxDischargeDepth := 40) +contextual [*]

@[simp ↓] theorem State.markRow_keeps {r : State} {s : State} (x : A2aRow) (acc : Bool) (bad : Bool) (hs : Keeps r s) : Keeps r (State.markRow s x acc bad) := by
  unfold State.markRow
  split
  · exact hs
  split
  · exact hs
  · extract_lets key
    exact State.wroteRun_keeps _ _ _ _ _ hs

@[simp ↓] theorem State.settleRows_keeps {r : State} {s : State} (r' : CollRun) (own : Nat) (d : Nat) (acc : A2aRow → Bool) (bad : A2aRow → Bool) (hs : Keeps r s) : Keeps r (State.settleRows s r' own d acc bad) := by
  unfold State.settleRows
  simp (maxDischargeDepth := 40) +contextual [*]

@[simp ↓] theorem execCollRecvCopy_keeps {r : State} (p : BitVec 2) (plan : BitVec 16) (step : BitVec 32) (module : BitVec 18) (vals : List (BitVec 256)) (stream : List Byte) (poison : List Bool) (terms : BitVec 32) {s : State} (hs : Keeps r s) : KeepsO r (execCollRecvCopy p plan step module vals stream poison terms s) := by
  unfold execCollRecvCopy
  rw [KeepsO_next]
  rcases s.stepOf p.toNat plan.toNat step.toNat 3 with _ | ⟨cr, q, t⟩
  · exact hs
  · dsimp -zeta only
    extract_lets own src mark iz acc bs
    have hm : ∀ u, Keeps r u → Keeps r (mark u) := fun u h => by
      show Keeps r (match u.collRun p.toNat plan.toNat with
        | some r => (u.setRun { r with steps := r.steps ++ [step.toNat] }).collFinish p.toNat plan.toNat
        | none => u)
      rcases u.collRun p.toNat plan.toNat with _ | y
      · exact h
      · exact State.collFinish_keeps _ _ (State.setRun_keeps _ h)
    clear_value mark acc iz
    have hb : Keeps r (match badBlock cr q bs with
        | some x => s.maskMismatch cr ((s.stepPort cr.ld t.port t.peer).getD 255) x.1.rowFirst (x.1.expected x.2) x.1.digest
        | none => if q.reduces then mark (s.setRun { cr with res := putBlocks bs id id cr.res })
            else mark (s.setRun { cr with prows := cr.prows ++ blockRows bs })) := by
      rcases badBlock cr q bs with _ | x
      · exact Keeps.ite (fun _ => hm _ (State.setRun_keeps _ hs)) (fun _ => hm _ (State.setRun_keeps _ hs))
      · exact State.maskMismatch_keeps _ _ _ _ _ hs
    exact Keeps.ite (fun _ => hs) (fun _ => Keeps.ite (fun _ => hm _ (State.setRun_keeps _ hs)) (fun _ => Keeps.ite
      (fun _ => Keeps.ite (fun _ => hm _ (State.setRun_keeps _ hs)) (fun _ => Keeps.ite (fun _ => hm _ (State.settleRows_keeps _ _ _ _ _ hs))
        (fun _ => hm _ (State.setRun_keeps _ hs))))
      (fun _ => Keeps.ite (fun _ => Keeps.ite (fun _ => hs) (fun _ => hb)) (fun _ => hm _ (State.setRun_keeps _ hs)))))

@[simp ↓] theorem State.collStore_keeps {r : State} {s : State} (r' : CollRun) (ws : List (Nat × Byte)) (bad : List Nat) (hs : Keeps r s) : Keeps r (State.collStore s r' ws bad) := by
  unfold State.collStore
  repeat' (first
    | assumption
    | (simp (maxDischargeDepth := 40) +contextual [*]; done)
    | apply Keeps.foldl
    | apply Keeps.foldl_pair
    | split
    | dsimp only
    | intro _)

@[simp ↓] theorem State.deliverTensor_keeps {r : State} {s : State} (r' : CollRun) (q : Plan) (t : PStep) (m : CollMem) (pm : PMem) (k : Loc) (hs : Keeps r s) : Keeps r (State.deliverTensor s r' q t m pm k) := by
  unfold State.deliverTensor
  exact State.collStore_keeps _ _ _ hs

@[simp ↓] theorem State.deliverPlat_keeps {r : State} {s : State} (r' : CollRun) (q : Plan) (m : CollMem) (pm : PMem) (k : Loc) (hs : Keeps r s) : Keeps r (State.deliverPlat s r' q m pm k) := by
  unfold State.deliverPlat
  simp (maxDischargeDepth := 40) +contextual [*]

@[simp ↓] theorem State.deliverRows_keeps {r : State} {s : State} (r' : CollRun) (q : Plan) (m : CollMem) (pm : PMem) (k : Loc) (hs : Keeps r s) : Keeps r (State.deliverRows s r' q m pm k) := by
  unfold State.deliverRows
  simp (maxDischargeDepth := 40) +contextual [*]

@[simp ↓] theorem State.deliverLa_keeps {r : State} {s : State} (r' : CollRun) (m : CollMem) (k : Loc) (hs : Keeps r s) : Keeps r (State.deliverLa s r' m k) := by
  unfold State.deliverLa
  (repeat' split) <;> simp (maxDischargeDepth := 40) +contextual [*]

@[simp ↓] theorem execCollDeliver_keeps {r : State} (p : BitVec 2) (plan : BitVec 16) (step : BitVec 32) {s : State} (hs : Keeps r s) : KeepsO r (execCollDeliver p plan step s) := by
  unfold execCollDeliver
  rw [KeepsO_next]
  rcases s.stepOf p.toNat plan.toNat step.toNat 4 with _ | ⟨cr, q, t⟩
  · exact hs
  · refine Keeps.ite (fun _ => hs) (fun _ => ?_)
    extract_lets own ok s1 s2
    have h1 : Keeps r s1 := Keeps.ite (fun _ => State.settleRows_keeps _ _ _ _ _ hs) (fun _ => hs)
    clear_value s1
    have h2 : Keeps r s2 := Keeps.foldl _ _ (fun u m h => by
      rcases q.mems[m.idx]? with _ | pm
      · exact h
      · rcases u.locate m.stn with _ | k
        · exact h
        · exact Keeps.ite (fun _ => h) (fun _ => Keeps.ite (fun _ => State.deliverLa_keeps _ _ _ h) (fun _ =>
            Keeps.ite (fun _ => Keeps.ite (fun _ => State.deliverRows_keeps _ _ _ _ _ h) (fun _ => h)) (fun _ =>
            Keeps.ite (fun _ => State.deliverPlat_keeps _ _ _ _ _ h) (fun _ => State.deliverTensor_keeps _ _ _ _ _ _ h))))) h1
    clear_value s2
    rcases s2.collRun p.toNat plan.toNat with _ | cr'
    · exact h2
    · exact State.collFinish_keeps _ _ (State.setRun_keeps _ h2)

@[simp ↓] theorem bodyNop_keeps {r : State} (f : CtrlF) (a1 : Env) {s : State} (hs : Keeps r s) : KeepsR r (bodyNop f a1 s) := by
  unfold bodyNop
  (repeat' split) <;> simp (maxDischargeDepth := 40) +contextual [*]

@[simp ↓] theorem execNop_keeps {r : State} (stn : BitVec 11) (f : CtrlF) {s : State} (hs : Keeps r s) : KeepsO r (execNop stn f s) := by
  unfold execNop
  simp (maxDischargeDepth := 40) +contextual [*]

@[simp ↓] theorem pcInvalid_keeps {r : State} (t : Int) : KeepsR r (pcInvalid t) := by
  unfold pcInvalid
  simp (maxDischargeDepth := 40) +contextual [*]

@[simp ↓] theorem State.branch_keeps {r : State} {s : State} (v : Env) (t : Int) (hs : Keeps r s) : KeepsR r (State.branch s v t) := by
  unfold State.branch
  (repeat' split) <;> simp (maxDischargeDepth := 40) +contextual [*]

@[simp ↓] theorem bodyJmp_keeps {r : State} (f : CtrlF) (v : Env) {s : State} (hs : Keeps r s) : KeepsR r (bodyJmp f v s) := by
  unfold bodyJmp
  simp (maxDischargeDepth := 40) +contextual [*]

@[simp ↓] theorem execJmp_keeps {r : State} (stn : BitVec 11) (f : CtrlF) {s : State} (hs : Keeps r s) : KeepsO r (execJmp stn f s) := by
  unfold execJmp
  simp (maxDischargeDepth := 40) +contextual [*]

@[simp ↓] theorem bodyLoop_keeps {r : State} (f : CtrlF) (v : Env) {s : State} (hs : Keeps r s) : KeepsR r (bodyLoop f v s) := by
  unfold bodyLoop
  repeat' (first
    | assumption
    | (simp (maxDischargeDepth := 40) +contextual [*]; done)
    | apply Keeps.foldl
    | apply Keeps.foldl_pair
    | split
    | dsimp only
    | intro _)

@[simp ↓] theorem execLoop_keeps {r : State} (stn : BitVec 11) (f : CtrlF) {s : State} (hs : Keeps r s) : KeepsO r (execLoop stn f s) := by
  unfold execLoop
  simp (maxDischargeDepth := 40) +contextual [*]

@[simp ↓] theorem bodySelect_keeps {r : State} (f : CtrlF) (v : Env) {s : State} (hs : Keeps r s) : KeepsR r (bodySelect f v s) := by
  unfold bodySelect
  extract_lets b n t0 i
  have hb : KeepsR r ((s.branch v (v.pc + s.variant v t0.toNat (n - 1))).map (fun s => s.inc (Reg.stnSelClampExcess b) (i - (n - 1)))) :=
    Res.map_keeps _ _ (State.branch_keeps _ _ hs) (fun _ h => State.inc_keeps _ _ h)
  clear_value i n t0
  exact KeepsR.ite (fun _ => KeepsR_illegal) (fun _ => KeepsR.ite (fun _ => pcInvalid_keeps _) (fun _ => KeepsR.ite (fun _ => pcInvalid_keeps _)
    (fun _ => KeepsR.ite (fun _ => State.branch_keeps _ _ hs) (fun _ => KeepsR.ite (fun _ => hb) (fun _ => trivial)))))

@[simp ↓] theorem execSelect_keeps {r : State} (stn : BitVec 11) (f : CtrlF) {s : State} (hs : Keeps r s) : KeepsO r (execSelect stn f s) := by
  unfold execSelect
  simp (maxDischargeDepth := 40) +contextual [*]

@[simp ↓] theorem bodyTrap_keeps {r : State} (f : CtrlF) (a1 : Env) {a2 : State} (ha2 : Keeps r a2) : KeepsR r (bodyTrap f a1 a2) := by
  unfold bodyTrap
  (repeat' split) <;> simp (maxDischargeDepth := 40) +contextual [*]

@[simp ↓] theorem execTrap_keeps {r : State} (stn : BitVec 11) (f : CtrlF) {s : State} (hs : Keeps r s) : KeepsO r (execTrap stn f s) := by
  unfold execTrap
  simp (maxDischargeDepth := 40) +contextual [*]

end Sys2Proof.Machine
end

