-- ==== Sys2Proof/Laws/KeepsF.lean ====
section
/-! SUPPORT. What the operations of Machine/Scalar.lean to Machine/Load.lean keep. -/

namespace Sys2Proof.Machine

@[simp ↓] theorem wrS_keeps {r : State} (v : Env) (f : ScalF) (x : Nat) (data : Bool) {s : State} (hs : Keeps r s) : KeepsR r (wrS v f x data s) := by
  unfold wrS
  simp (maxDischargeDepth := 40) +contextual [*]

@[simp ↓] theorem bodySli_keeps {r : State} (f : ScalF) (v : Env) {s : State} (hs : Keeps r s) : KeepsR r (bodySli f v s) := by
  unfold bodySli
  simp (maxDischargeDepth := 40) +contextual [*]

@[simp ↓] theorem execSli_keeps {r : State} (stn : BitVec 11) (f : ScalF) {s : State} (hs : Keeps r s) : KeepsO r (execSli stn f s) := by
  unfold execSli
  simp (maxDischargeDepth := 40) +contextual [*]

@[simp ↓] theorem bodySlui_keeps {r : State} (f : ScalF) (v : Env) {s : State} (hs : Keeps r s) : KeepsR r (bodySlui f v s) := by
  unfold bodySlui
  simp (maxDischargeDepth := 40) +contextual [*]

@[simp ↓] theorem execSlui_keeps {r : State} (stn : BitVec 11) (f : ScalF) {s : State} (hs : Keeps r s) : KeepsO r (execSlui stn f s) := by
  unfold execSlui
  simp (maxDischargeDepth := 40) +contextual [*]

@[simp ↓] theorem bodySadd_keeps {r : State} (f : ScalF) (v : Env) {s : State} (hs : Keeps r s) : KeepsR r (bodySadd f v s) := by
  unfold bodySadd
  simp (maxDischargeDepth := 40) +contextual [*]

@[simp ↓] theorem execSadd_keeps {r : State} (stn : BitVec 11) (f : ScalF) {s : State} (hs : Keeps r s) : KeepsO r (execSadd stn f s) := by
  unfold execSadd
  simp (maxDischargeDepth := 40) +contextual [*]

@[simp ↓] theorem bodySsub_keeps {r : State} (f : ScalF) (v : Env) {s : State} (hs : Keeps r s) : KeepsR r (bodySsub f v s) := by
  unfold bodySsub
  simp (maxDischargeDepth := 40) +contextual [*]

@[simp ↓] theorem execSsub_keeps {r : State} (stn : BitVec 11) (f : ScalF) {s : State} (hs : Keeps r s) : KeepsO r (execSsub stn f s) := by
  unfold execSsub
  simp (maxDischargeDepth := 40) +contextual [*]

@[simp ↓] theorem bodySmul_keeps {r : State} (f : ScalF) (v : Env) {s : State} (hs : Keeps r s) : KeepsR r (bodySmul f v s) := by
  unfold bodySmul
  simp (maxDischargeDepth := 40) +contextual [*]

@[simp ↓] theorem execSmul_keeps {r : State} (stn : BitVec 11) (f : ScalF) {s : State} (hs : Keeps r s) : KeepsO r (execSmul stn f s) := by
  unfold execSmul
  simp (maxDischargeDepth := 40) +contextual [*]

@[simp ↓] theorem bodySlogic_keeps {r : State} (f : ScalF) (v : Env) {s : State} (hs : Keeps r s) : KeepsR r (bodySlogic f v s) := by
  unfold bodySlogic
  (repeat' split) <;> simp (maxDischargeDepth := 40) +contextual [*]

@[simp ↓] theorem execSlogic_keeps {r : State} (stn : BitVec 11) (f : ScalF) {s : State} (hs : Keeps r s) : KeepsO r (execSlogic stn f s) := by
  unfold execSlogic
  simp (maxDischargeDepth := 40) +contextual [*]

@[simp ↓] theorem bodySshift_keeps {r : State} (f : ScalF) (v : Env) {s : State} (hs : Keeps r s) : KeepsR r (bodySshift f v s) := by
  unfold bodySshift
  (repeat' split) <;> simp (maxDischargeDepth := 40) +contextual [*]

@[simp ↓] theorem execSshift_keeps {r : State} (stn : BitVec 11) (f : ScalF) {s : State} (hs : Keeps r s) : KeepsO r (execSshift stn f s) := by
  unfold execSshift
  simp (maxDischargeDepth := 40) +contextual [*]

@[simp ↓] theorem bodySminmax_keeps {r : State} (f : ScalF) (v : Env) {s : State} (hs : Keeps r s) : KeepsR r (bodySminmax f v s) := by
  unfold bodySminmax
  (repeat' split) <;> simp (maxDischargeDepth := 40) +contextual [*]

@[simp ↓] theorem execSminmax_keeps {r : State} (stn : BitVec 11) (f : ScalF) {s : State} (hs : Keeps r s) : KeepsO r (execSminmax stn f s) := by
  unfold execSminmax
  simp (maxDischargeDepth := 40) +contextual [*]

theorem incFetch_keeps {r : State} (k : Nat) {s : State} (hs : Keeps r s) : ∀ q, (incFetch k s) = some q → Keeps r q.2 := by
  unfold incFetch
  (repeat' split) <;> simp (maxDischargeDepth := 40) +contextual [*]

@[simp ↓] theorem bodySld_keeps {r : State} (f : ScalF) (v : Env) {s : State} (hs : Keeps r s) : KeepsR r (bodySld f v s) := by
  unfold bodySld
  refine KeepsR.ite (fun _ => KeepsR_illegal) (fun _ => ?_)
  rcases memCheck v f 8 .sld s with _ | e
  · refine withInputs_keeps _ _ _ hs (fun s h => ?_)
    split
    · exact h
    · split
      · rename_i hq
        exact State.setS_keeps _ _ _ _ (incFetch_keeps _ h _ hq)
      · exact State.setS_keeps _ _ _ _ h
  · exact KeepsR_flt _

@[simp ↓] theorem execSld_keeps {r : State} (stn : BitVec 11) (f : ScalF) {s : State} (hs : Keeps r s) : KeepsO r (execSld stn f s) := by
  unfold execSld
  simp (maxDischargeDepth := 40) +contextual [*]

@[simp ↓] theorem bodySst_keeps {r : State} (f : ScalF) (v : Env) {s : State} (hs : Keeps r s) : KeepsR r (bodySst f v s) := by
  unfold bodySst
  (repeat' split) <;> simp (maxDischargeDepth := 40) +contextual [*]

@[simp ↓] theorem execSst_keeps {r : State} (stn : BitVec 11) (f : ScalF) {s : State} (hs : Keeps r s) : KeepsO r (execSst stn f s) := by
  unfold execSst
  simp (maxDischargeDepth := 40) +contextual [*]

@[simp ↓] theorem bodySmfs_keeps {r : State} (f : ScalF) (v : Env) {s : State} (hs : Keeps r s) : KeepsR r (bodySmfs f v s) := by
  unfold bodySmfs
  (repeat' split) <;> simp (maxDischargeDepth := 40) +contextual [*]

@[simp ↓] theorem execSmfs_keeps {r : State} (stn : BitVec 11) (f : ScalF) {s : State} (hs : Keeps r s) : KeepsO r (execSmfs stn f s) := by
  unfold execSmfs
  simp (maxDischargeDepth := 40) +contextual [*]

@[simp ↓] theorem bodySmfp_keeps {r : State} (f : ScalF) (v : Env) {s : State} (hs : Keeps r s) : KeepsR r (bodySmfp f v s) := by
  unfold bodySmfp
  (repeat' split) <;> simp (maxDischargeDepth := 40) +contextual [*]

@[simp ↓] theorem execSmfp_keeps {r : State} (stn : BitVec 11) (f : ScalF) {s : State} (hs : Keeps r s) : KeepsO r (execSmfp stn f s) := by
  unfold execSmfp
  simp (maxDischargeDepth := 40) +contextual [*]

@[simp ↓] theorem bodyDld_keeps {r : State} (f : ScalF) (v : Env) {s : State} (hs : Keeps r s) : KeepsR r (bodyDld f v s) := by
  unfold bodyDld
  repeat' (first
    | assumption
    | (simp (maxDischargeDepth := 40) +contextual [*]; done)
    | apply Keeps.foldl
    | apply Keeps.foldl_pair
    | apply withInputs_keeps
    | split
    | dsimp only
    | intro _)

@[simp ↓] theorem execDld_keeps {r : State} (stn : BitVec 11) (f : ScalF) {s : State} (hs : Keeps r s) : KeepsO r (execDld stn f s) := by
  unfold execDld
  simp (maxDischargeDepth := 40) +contextual [*]

@[simp ↓] theorem bodyDst_keeps {r : State} (f : ScalF) (v : Env) {s : State} (hs : Keeps r s) : KeepsR r (bodyDst f v s) := by
  unfold bodyDst
  (repeat' split) <;> simp (maxDischargeDepth := 40) +contextual [*]

@[simp ↓] theorem execDst_keeps {r : State} (stn : BitVec 11) (f : ScalF) {s : State} (hs : Keeps r s) : KeepsO r (execDst stn f s) := by
  unfold execDst
  simp (maxDischargeDepth := 40) +contextual [*]

@[simp ↓] theorem bodyDset_keeps {r : State} (f : ScalF) (v : Env) {s : State} (hs : Keeps r s) : KeepsR r (bodyDset f v s) := by
  unfold bodyDset
  refine KeepsR.ite (fun _ => KeepsR_illegal) (fun _ => ?_)
  rcases dField f.fn.toNat with _ | ⟨lo, w⟩
  · exact KeepsR_illegal
  · dsimp -zeta only
    extract_lets x fits
    clear_value x fits
    exact KeepsR.ite (fun _ => State.setDbits_keeps _ _ _ hs) (fun _ => trivial)

@[simp ↓] theorem execDset_keeps {r : State} (stn : BitVec 11) (f : ScalF) {s : State} (hs : Keeps r s) : KeepsO r (execDset stn f s) := by
  unfold execDset
  simp (maxDischargeDepth := 40) +contextual [*]

@[simp ↓] theorem bodyDadv_keeps {r : State} (f : ScalF) (v : Env) {s : State} (hs : Keeps r s) : KeepsR r (bodyDadv f v s) := by
  unfold bodyDadv
  (repeat' split) <;> simp (maxDischargeDepth := 40) +contextual [*]

@[simp ↓] theorem execDadv_keeps {r : State} (stn : BitVec 11) (f : ScalF) {s : State} (hs : Keeps r s) : KeepsO r (execDadv stn f s) := by
  unfold execDadv
  simp (maxDischargeDepth := 40) +contextual [*]

@[simp ↓] theorem bodyDcopy_keeps {r : State} (f : ScalF) (v : Env) {s : State} (hs : Keeps r s) : KeepsR r (bodyDcopy f v s) := by
  unfold bodyDcopy
  (repeat' split) <;> simp (maxDischargeDepth := 40) +contextual [*]

@[simp ↓] theorem execDcopy_keeps {r : State} (stn : BitVec 11) (f : ScalF) {s : State} (hs : Keeps r s) : KeepsO r (execDcopy stn f s) := by
  unfold execDcopy
  simp (maxDischargeDepth := 40) +contextual [*]

@[simp ↓] theorem bodyDget_keeps {r : State} (f : ScalF) (v : Env) {s : State} (hs : Keeps r s) : KeepsR r (bodyDget f v s) := by
  unfold bodyDget
  (repeat' split) <;> simp (maxDischargeDepth := 40) +contextual [*]

@[simp ↓] theorem execDget_keeps {r : State} (stn : BitVec 11) (f : ScalF) {s : State} (hs : Keeps r s) : KeepsO r (execDget stn f s) := by
  unfold execDget
  simp (maxDischargeDepth := 40) +contextual [*]

@[simp ↓] theorem issueWord_keeps {r : State} (w : BitVec 64) (a1 : Env) {a2 : State} (ha2 : Keeps r a2) : Keeps r (issueWord w a1 a2) := by
  suffices h : KeepsG r (issueWord w) from h _ _ ha2
  unfold issueWord
  refine KeepsG.ite (fun _ _ h => goZ_keeps _ _ (fun _ _ h => bodyNop_keeps _ _ h) h) ?_
  refine KeepsG.ite (fun _ _ h => goEnd_keeps _ _ h) ?_
  refine KeepsG.ite (fun _ _ h => goLeg_keeps _ _ h) ?_
  refine KeepsG.ite (fun _ _ h => goJump_keeps _ _ (fun _ _ h => bodyJmp_keeps _ _ h) h) ?_
  refine KeepsG.ite (fun _ _ h => goJump_keeps _ _ (fun _ _ h => bodyLoop_keeps _ _ h) h) ?_
  refine KeepsG.ite (fun _ _ h => goJump_keeps _ _ (fun _ _ h => bodySelect_keeps _ _ h) h) ?_
  refine KeepsG.ite (fun _ _ h => goZ_keeps _ _ (fun _ _ h => bodyTrap_keeps _ _ h) h) ?_
  refine KeepsG.ite (fun _ _ h => goZ_keeps _ _ (fun _ _ h => bodySli_keeps _ _ h) h) ?_
  refine KeepsG.ite (fun _ _ h => goZ_keeps _ _ (fun _ _ h => bodySlui_keeps _ _ h) h) ?_
  refine KeepsG.ite (fun _ _ h => goZ_keeps _ _ (fun _ _ h => bodySadd_keeps _ _ h) h) ?_
  refine KeepsG.ite (fun _ _ h => goZ_keeps _ _ (fun _ _ h => bodySsub_keeps _ _ h) h) ?_
  refine KeepsG.ite (fun _ _ h => goZ_keeps _ _ (fun _ _ h => bodySmul_keeps _ _ h) h) ?_
  refine KeepsG.ite (fun _ _ h => goZ_keeps _ _ (fun _ _ h => bodySlogic_keeps _ _ h) h) ?_
  refine KeepsG.ite (fun _ _ h => goZ_keeps _ _ (fun _ _ h => bodySshift_keeps _ _ h) h) ?_
  refine KeepsG.ite (fun _ _ h => goZ_keeps _ _ (fun _ _ h => bodySminmax_keeps _ _ h) h) ?_
  refine KeepsG.ite (fun _ _ h => goEng_keeps _ _ _ (fun _ _ h => bodySld_keeps _ _ h) h) ?_
  refine KeepsG.ite (fun _ _ h => goEng_keeps _ _ _ (fun _ _ h => bodySst_keeps _ _ h) h) ?_
  refine KeepsG.ite (fun _ _ h => goZ_keeps _ _ (fun _ _ h => bodySmfs_keeps _ _ h) h) ?_
  refine KeepsG.ite (fun _ _ h => goZ_keeps _ _ (fun _ _ h => bodySmfp_keeps _ _ h) h) ?_
  refine KeepsG.ite (fun _ _ h => goEng_keeps _ _ _ (fun _ _ h => bodyDld_keeps _ _ h) h) ?_
  refine KeepsG.ite (fun _ _ h => goEng_keeps _ _ _ (fun _ _ h => bodyDst_keeps _ _ h) h) ?_
  refine KeepsG.ite (fun _ _ h => goZ_keeps _ _ (fun _ _ h => bodyDset_keeps _ _ h) h) ?_
  refine KeepsG.ite (fun _ _ h => goZ_keeps _ _ (fun _ _ h => bodyDadv_keeps _ _ h) h) ?_
  refine KeepsG.ite (fun _ _ h => goZ_keeps _ _ (fun _ _ h => bodyDcopy_keeps _ _ h) h) ?_
  refine KeepsG.ite (fun _ _ h => goZ_keeps _ _ (fun _ _ h => bodyDget_keeps _ _ h) h) ?_
  refine KeepsG.ite (fun _ _ h => goCopy_keeps _ _ (fun _ _ h => bodyCopy_keeps _ _ h) h) ?_
  refine KeepsG.ite (fun _ _ h => goCopy_keeps _ _ (fun _ _ h => bodyCvld_keeps _ _ h) h) ?_
  refine KeepsG.ite (fun _ _ h => goEng_keeps _ _ _ (fun _ _ h => bodyTld_keeps _ _ h) h) ?_
  refine KeepsG.ite (fun _ _ h => goEng_keeps _ _ _ (fun _ _ h => bodyTst_keeps _ _ h) h) ?_
  refine KeepsG.ite (fun _ _ h => goEng_keeps _ _ _ (fun _ _ h => bodyTclr_keeps _ _ h) h) ?_
  refine KeepsG.ite (fun _ _ h => goEng_keeps _ _ _ (fun _ _ h => bodyMpass_keeps _ _ h) h) ?_
  refine KeepsG.ite (fun _ _ h => goEng_keeps _ _ _ (fun _ _ h => bodyMelem_keeps _ _ h) h) ?_
  refine KeepsG.ite (fun _ _ h => goEng_keeps _ _ _ (fun _ _ h => bodyChin_keeps _ _ h) h) ?_
  refine KeepsG.ite (fun _ _ h => goEng_keeps _ _ _ (fun _ _ h => bodyChout_keeps _ _ h) h) ?_
  refine KeepsG.ite (fun _ _ h => goEng_keeps _ _ _ (fun _ _ h => bodyVld_keeps _ _ h) h) ?_
  refine KeepsG.ite (fun _ _ h => goEng_keeps _ _ _ (fun _ _ h => bodyVst_keeps _ _ h) h) ?_
  refine KeepsG.ite (fun _ _ h => goEng_keeps _ _ _ (fun _ _ h => bodyVarith_keeps _ _ h) h) ?_
  refine KeepsG.ite (fun _ _ h => goEng_keeps _ _ _ (fun _ _ h => bodyVfma_keeps _ _ h) h) ?_
  refine KeepsG.ite (fun _ _ h => goEng_keeps _ _ _ (fun _ _ h => bodyVfunc_keeps _ _ h) h) ?_
  refine KeepsG.ite (fun _ _ h => goEng_keeps _ _ _ (fun _ _ h => bodyVcmp_keeps _ _ h) h) ?_
  refine KeepsG.ite (fun _ _ h => goEng_keeps _ _ _ (fun _ _ h => bodyVsel_keeps _ _ h) h) ?_
  refine KeepsG.ite (fun _ _ h => goEng_keeps _ _ _ (fun _ _ h => bodyVred_keeps _ _ h) h) ?_
  refine KeepsG.ite (fun _ _ h => goEng_keeps _ _ _ (fun _ _ h => bodyVcvt_keeps _ _ h) h) ?_
  refine KeepsG.ite (fun _ _ h => goEng_keeps _ _ _ (fun _ _ h => bodyVgather_keeps _ _ h) h) ?_
  refine KeepsG.ite (fun _ _ h => goEng_keeps _ _ _ (fun _ _ h => bodySpmm_keeps _ _ h) h) ?_
  refine KeepsG.ite (fun _ _ h => goEng_keeps _ _ _ (fun _ _ h => bodySpmmT_keeps _ _ h) h) ?_
  refine KeepsG.ite (fun _ _ h => goEng_keeps _ _ _ (fun _ _ h => bodyRecon_keeps _ _ h) h) ?_
  refine KeepsG.ite (fun _ _ h => goEng_keeps _ _ _ (fun _ _ h => bodyPrune_keeps _ _ h) h) ?_
  refine KeepsG.ite (fun _ _ h => goEng_keeps _ _ _ (fun _ _ h => bodyRegrow_keeps _ _ h) h) ?_
  refine KeepsG.ite (fun _ _ h => goW_keeps _ _ _ (fun _ _ h => bodyFence_keeps _ _ h) h) ?_
  refine KeepsG.ite (fun _ _ h => goBarrier_keeps _ _ h) ?_
  refine KeepsG.ite (fun _ _ h => goWaitmk_keeps _ _ h) ?_
  refine KeepsG.ite (fun _ _ h => goEng_keeps _ _ _ (fun _ _ h => bodySignal_keeps _ _ h) h) ?_
  refine KeepsG.ite (fun _ _ h => goW_keeps _ _ _ (fun _ _ h => bodyWaitsig_keeps _ _ h) h) ?_
  refine KeepsG.ite (fun _ _ h => goEng_keeps _ _ _ (fun _ _ h => bodyColl_keeps _ _ h) h) ?_
  refine KeepsG.ite (fun _ _ h => goW_keeps _ _ _ (fun _ _ h => bodyCollwait_keeps _ _ h) h) ?_
  refine KeepsG.ite (fun _ _ h => goEng_keeps _ _ _ (fun _ _ h => bodyLasum_keeps _ _ h) h) ?_
  refine KeepsG.ite (fun _ _ h => goZ_keeps _ _ (fun _ _ h => bodyRngset_keeps _ _ h) h) ?_
  refine KeepsG.ite (fun _ _ h => goEng_keeps _ _ _ (fun _ _ h => bodyRand_keeps _ _ h) h) ?_
  refine KeepsG.ite (fun _ _ h => goEng_keeps _ _ _ (fun _ _ h => bodySample_keeps _ _ h) h) ?_
  refine KeepsG.ite (fun _ _ h => goEng_keeps _ _ _ (fun _ _ h => bodyQuant_keeps _ _ h) h) ?_
  refine KeepsG.ite (fun _ _ h => goEng_keeps _ _ _ (fun _ _ h => bodyDigest_keeps _ _ h) h) ?_
  exact fun _ _ h => goZ_keeps _ _ (fun _ _ _ => KeepsR_illegal) h

@[simp ↓] theorem engineBody_keeps {r : State} (w : BitVec 64) (a1 : Env) {a2 : State} (ha2 : Keeps r a2) : KeepsR r (engineBody w a1 a2) := by
  suffices h : KeepsB r (engineBody w) from h _ _ ha2
  unfold engineBody
  refine KeepsB.ite (fun _ _ h => bodySld_keeps _ _ h) ?_
  refine KeepsB.ite (fun _ _ h => bodySst_keeps _ _ h) ?_
  refine KeepsB.ite (fun _ _ h => bodyDld_keeps _ _ h) ?_
  refine KeepsB.ite (fun _ _ h => bodyDst_keeps _ _ h) ?_
  refine KeepsB.ite (fun _ _ h => bodyCopy_keeps _ _ h) ?_
  refine KeepsB.ite (fun _ _ h => bodyCvld_keeps _ _ h) ?_
  refine KeepsB.ite (fun _ _ h => bodyTld_keeps _ _ h) ?_
  refine KeepsB.ite (fun _ _ h => bodyTst_keeps _ _ h) ?_
  refine KeepsB.ite (fun _ _ h => bodyTclr_keeps _ _ h) ?_
  refine KeepsB.ite (fun _ _ h => bodyMpass_keeps _ _ h) ?_
  refine KeepsB.ite (fun _ _ h => bodyMelem_keeps _ _ h) ?_
  refine KeepsB.ite (fun _ _ h => bodyChin_keeps _ _ h) ?_
  refine KeepsB.ite (fun _ _ h => bodyChout_keeps _ _ h) ?_
  refine KeepsB.ite (fun _ _ h => bodyVld_keeps _ _ h) ?_
  refine KeepsB.ite (fun _ _ h => bodyVst_keeps _ _ h) ?_
  refine KeepsB.ite (fun _ _ h => bodyVarith_keeps _ _ h) ?_
  refine KeepsB.ite (fun _ _ h => bodyVfma_keeps _ _ h) ?_
  refine KeepsB.ite (fun _ _ h => bodyVfunc_keeps _ _ h) ?_
  refine KeepsB.ite (fun _ _ h => bodyVcmp_keeps _ _ h) ?_
  refine KeepsB.ite (fun _ _ h => bodyVsel_keeps _ _ h) ?_
  refine KeepsB.ite (fun _ _ h => bodyVred_keeps _ _ h) ?_
  refine KeepsB.ite (fun _ _ h => bodyVcvt_keeps _ _ h) ?_
  refine KeepsB.ite (fun _ _ h => bodyVgather_keeps _ _ h) ?_
  refine KeepsB.ite (fun _ _ h => bodySpmm_keeps _ _ h) ?_
  refine KeepsB.ite (fun _ _ h => bodySpmmT_keeps _ _ h) ?_
  refine KeepsB.ite (fun _ _ h => bodyRecon_keeps _ _ h) ?_
  refine KeepsB.ite (fun _ _ h => bodyPrune_keeps _ _ h) ?_
  refine KeepsB.ite (fun _ _ h => bodyRegrow_keeps _ _ h) ?_
  refine KeepsB.ite (fun _ _ h => bodySignal_keeps _ _ h) ?_
  refine KeepsB.ite (fun _ _ h => bodyColl_keeps _ _ h) ?_
  refine KeepsB.ite (fun _ _ h => bodyLasum_keeps _ _ h) ?_
  refine KeepsB.ite (fun _ _ h => bodyRand_keeps _ _ h) ?_
  refine KeepsB.ite (fun _ _ h => bodySample_keeps _ _ h) ?_
  refine KeepsB.ite (fun _ _ h => bodyQuant_keeps _ _ h) ?_
  refine KeepsB.ite (fun _ _ h => bodyDigest_keeps _ _ h) ?_
  exact fun _ _ _ => KeepsR_illegal

@[simp ↓] theorem State.engineFault_keeps {r : State} {s : State} (v : Env) (cause : Nat) (info : Nat) (hs : Keeps r s) : Keeps r (State.engineFault s v cause info) := by
  unfold State.engineFault
  simp (maxDischargeDepth := 40) +contextual [*]

@[simp ↓] theorem State.dispatch_keeps {r : State} {s : State} (k : Loc) (q : QEnt) (hs : Keeps r s) : Keeps r (State.dispatch s k q) := by
  unfold State.dispatch
  extract_lets v drop
  have hd : ∀ s, Keeps r s → Keeps r (drop s) := fun s h => State.updStn_keeps _ _ h
  have hb := engineBody_keeps q.word v hs
  clear_value drop
  generalize engineBody q.word v s = x at hb ⊢
  cases x with
  | ok t => exact State.settle_keeps (hd _ hb)
  | early c i =>
    exact State.settle_keeps (State.engineFault_keeps _ _ _ (hd _ (Keeps.ite (fun _ => State.copyFaulted_keeps _ _ hs) (fun _ => hs))))
  | late t c i => exact State.settle_keeps (State.engineFault_keeps _ _ _ (hd _ hb))
  | wait t => exact hb
  | hold t => exact hb

@[simp ↓] theorem State.stepGo_keeps {r : State} {s : State} (k : Loc) (hs : Keeps r s) : Keeps r (State.stepGo s k) := by
  unfold State.stepGo
  repeat' (first
    | assumption
    | (simp (maxDischargeDepth := 40) +contextual [*]; done)
    | apply Keeps.foldl
    | apply Keeps.foldl_pair
    | split
    | dsimp only
    | intro _)

@[simp ↓] theorem State.stepRetry_keeps {r : State} {s : State} (k : Loc) (hs : Keeps r s) : Keeps r (State.stepRetry s k) := by
  unfold State.stepRetry
  (repeat' split) <;> simp (maxDischargeDepth := 40) +contextual [*]

@[simp ↓] theorem execEngineQueueDispatch_keeps {r : State} (stn : BitVec 11) (eng : BitVec 3) {s : State} (hs : Keeps r s) : KeepsO r (execEngineQueueDispatch stn eng s) := by
  unfold execEngineQueueDispatch
  (repeat' split) <;> simp (maxDischargeDepth := 40) +contextual [*]

@[simp ↓] theorem execStnStep_keeps {r : State} (stn : BitVec 11) {s : State} (hs : Keeps r s) : KeepsO r (execStnStep stn s) := by
  unfold execStnStep
  (repeat' split) <;> simp (maxDischargeDepth := 40) +contextual [*]

@[simp ↓] theorem State.plainWrite_keeps {r : State} {s : State} (a : Nat) (v : BitVec 64) (hs : Keeps r s) : Keeps r (State.plainWrite s a v) := by
  unfold State.plainWrite
  (repeat' split) <;> simp (maxDischargeDepth := 40) +contextual [*]

@[simp ↓] theorem State.stnWrite_keeps {r : State} {s : State} (fd : Nat) (p : Nat) (o : Nat) (v : BitVec 64) (hs : Keeps r s) : Keeps r (State.stnWrite s fd p o v) := by
  unfold State.stnWrite
  simp (maxDischargeDepth := 40) +contextual [*]

@[simp ↓] theorem execStnHaltWrite_keeps {r : State} (stn : BitVec 11) (halt : Bool) {s : State} (hs : Keeps r s) : KeepsO r (execStnHaltWrite stn halt s) := by
  unfold execStnHaltWrite
  (repeat' split) <;> simp (maxDischargeDepth := 40) +contextual [*]

@[simp ↓] theorem execStnStateRegWrite_keeps {r : State} (stn : BitVec 11) (off : BitVec 12) (v : BitVec 64) {s : State} (hs : Keeps r s) : KeepsO r (execStnStateRegWrite stn off v s) := by
  unfold execStnStateRegWrite
  (repeat' split) <;> simp (maxDischargeDepth := 40) +contextual [*]

@[simp ↓] theorem execStnRngRegWrite_keeps {r : State} (stn : BitVec 11) (off : BitVec 12) (v : BitVec 64) {s : State} (hs : Keeps r s) : KeepsO r (execStnRngRegWrite stn off v s) := by
  unfold execStnRngRegWrite
  (repeat' split) <;> simp (maxDischargeDepth := 40) +contextual [*]

@[simp ↓] theorem State.eccCorrected_keeps {r : State} {s : State} (k : Nat) (hs : Keeps r s) : Keeps r (State.eccCorrected s k) := by
  unfold State.eccCorrected
  repeat' (first
    | assumption
    | (simp (maxDischargeDepth := 40) +contextual [*]; done)
    | apply Keeps.foldl
    | apply Keeps.foldl_pair
    | split
    | dsimp only
    | intro _)

@[simp ↓] theorem State.lsPoisonAt_keeps {r : State} {s : State} (k : Nat) (hs : Keeps r s) : Keeps r (State.lsPoisonAt s k) := by
  unfold State.lsPoisonAt
  repeat' (first
    | assumption
    | (simp (maxDischargeDepth := 40) +contextual [*]; done)
    | apply Keeps.foldl
    | apply Keeps.foldl_pair
    | split
    | dsimp only
    | intro _)

@[simp ↓] theorem State.eccUncorrected_keeps {r : State} {s : State} (k : Nat) (found : Nat) (hs : Keeps r s) : Keeps r (State.eccUncorrected s k found) := by
  unfold State.eccUncorrected
  repeat' (first
    | assumption
    | (simp (maxDischargeDepth := 40) +contextual [*]; done)
    | apply Keeps.foldl
    | apply Keeps.foldl_pair
    | split
    | dsimp only
    | intro _)

@[simp ↓] theorem State.eccSees_keeps {r : State} {s : State} (k : Nat) (errs : List (BitVec 8)) (hs : Keeps r s) : Keeps r (State.eccSees s k errs).2 := by
  unfold State.eccSees
  repeat' (first
    | assumption
    | (simp (maxDischargeDepth := 40) +contextual [*]; done)
    | apply Keeps.foldl
    | apply Keeps.foldl_pair
    | split
    | dsimp only
    | intro _)

@[simp ↓] theorem State.eccFind_keeps {r : State} {s : State} (k : Nat) (errs : List (BitVec 8)) (found : Nat) (hs : Keeps r s) : Keeps r (State.eccFind s k errs found) := by
  unfold State.eccFind
  repeat' (first
    | assumption
    | (simp (maxDischargeDepth := 40) +contextual [*]; done)
    | apply Keeps.foldl
    | apply Keeps.foldl_pair
    | split
    | dsimp only
    | intro _)

@[simp ↓] theorem State.memRead_keeps {r : State} {s : State} (fd : BitVec 4) (addr : BitVec 64) (errs : List (BitVec 8)) (hs : Keeps r s) : Keeps r (State.memRead s fd addr errs) := by
  unfold State.memRead
  (repeat' split) <;> simp (maxDischargeDepth := 40) +contextual [*]

@[simp ↓] theorem State.memWrite_keeps {r : State} {s : State} (fd : BitVec 5) (addr : BitVec 64) (data : List Byte) (errs : List (BitVec 8)) (hs : Keeps r s) : Keeps r (State.memWrite s fd addr data errs) := by
  unfold State.memWrite
  (repeat' split) <;> simp (maxDischargeDepth := 40) +contextual [*]

@[simp ↓] theorem execSnoopReceive_keeps {r : State} (fd : BitVec 4) (addr : BitVec 64) {s : State} (hs : Keeps r s) : KeepsO r (execSnoopReceive fd addr s) := by
  unfold execSnoopReceive
  repeat' (first
    | assumption
    | (simp (maxDischargeDepth := 40) +contextual [*]; done)
    | apply Keeps.foldl
    | apply Keeps.foldl_pair
    | split
    | dsimp only
    | intro _)

@[simp ↓] theorem execSnoopAnswerReceive_keeps {r : State} (fd : BitVec 4) (addr : BitVec 64) {s : State} (hs : Keeps r s) : KeepsO r (execSnoopAnswerReceive fd addr s) := by
  unfold execSnoopAnswerReceive
  repeat' (first
    | assumption
    | (simp (maxDischargeDepth := 40) +contextual [*]; done)
    | apply Keeps.foldl
    | apply Keeps.foldl_pair
    | rw [KeepsO_next]
    | split
    | dsimp only
    | intro _)

@[simp ↓] theorem execSharerEviction_keeps {r : State} (fd : BitVec 4) (addr : BitVec 64) {s : State} (hs : Keeps r s) : KeepsO r (execSharerEviction fd addr s) := by
  unfold execSharerEviction
  repeat' (first
    | assumption
    | (simp (maxDischargeDepth := 40) +contextual [*]; done)
    | apply Keeps.foldl
    | apply Keeps.foldl_pair
    | split
    | dsimp only
    | intro _)

@[simp ↓] theorem execEvictionNoticeReceive_keeps {r : State} (fd : BitVec 4) (addr : BitVec 64) {s : State} (hs : Keeps r s) : KeepsO r (execEvictionNoticeReceive fd addr s) := by
  unfold execEvictionNoticeReceive
  rw [KeepsO_next]
  rcases s.lineOf addr with _ | ⟨line, home⟩
  · exact hs
  · dsimp -zeta only
    split
    · exact hs
    · extract_lets s1 e'
      have h1 : Keeps r s1 := State.passMesh_keeps _ _ _ (Keeps.mk (h := hs) ..)
      clear_value s1
      split
      · exact State.setDir_keeps _ _ h1
      · exact State.inc_keeps _ _ h1

@[simp ↓] theorem execEvictionAckReceive_keeps {r : State} (fd : BitVec 4) (addr : BitVec 64) {s : State} (hs : Keeps r s) : KeepsO r (execEvictionAckReceive fd addr s) := by
  unfold execEvictionAckReceive
  repeat' (first
    | assumption
    | (simp (maxDischargeDepth := 40) +contextual [*]; done)
    | apply Keeps.foldl
    | apply Keeps.foldl_pair
    | split
    | dsimp only
    | intro _)

@[simp ↓] theorem execReadGrantReceive_keeps {r : State} (fd : BitVec 4) (addr : BitVec 64) {s : State} (hs : Keeps r s) : KeepsO r (execReadGrantReceive fd addr s) := by
  unfold execReadGrantReceive
  repeat' (first
    | assumption
    | (simp (maxDischargeDepth := 40) +contextual [*]; done)
    | apply Keeps.foldl
    | apply Keeps.foldl_pair
    | split
    | dsimp only
    | intro _)

@[simp ↓] theorem State.atomicFault_keeps {r : State} {s : State} (n : BitVec 11) (c : Nat) (hs : Keeps r s) : Keeps r (State.atomicFault s n c) := by
  unfold State.atomicFault
  rcases s.locate n.toNat with _ | q
  · exact hs
  · exact State.stnFault_keeps _ _ _ _ _ _ hs

@[simp ↓] theorem State.incFetch_keeps {r : State} {s : State} (f : Nat) (b : Nat) (hs : Keeps r s) : Keeps r (State.incFetch s f b).2 := by
  unfold State.incFetch
  exact State.inc_keeps _ _ (State.poke_keeps _ _ hs)

@[simp ↓] theorem State.atomicFetch_keeps {r : State} {s : State} (f : Nat) (b : Nat) (n : BitVec 11) (hs : Keeps r s) : Keeps r (State.atomicFetch s f b n) := by
  unfold State.atomicFetch
  refine Keeps.ite (fun _ => hs) (fun _ => ?_)
  split
  · exact State.atomicFault_keeps _ _ hs
  · exact State.meshSend_keeps _ _ _ _ _ (State.incFetch_keeps _ _ hs)

@[simp ↓] theorem State.atomicWrite_keeps {r : State} {s : State} (k : Nat) (f : Nat) (parcel : Nat) (data : List Byte) (stn : Option (BitVec 11)) (hs : Keeps r s) : Keeps r (State.atomicWrite s k f parcel data stn) := by
  unfold State.atomicWrite
  rcases stn with _ | n
  · exact State.wroteRun_keeps _ _ _ _ _ hs
  · dsimp -zeta only
    extract_lets w
    have ht : Keeps r (s.wroteRun w parcel k data false) := State.wroteRun_keeps _ _ _ _ _ hs
    generalize (s.writeRun w parcel k data false).2 = c
    rcases c with _ | c
    · exact ht
    · exact State.atomicFault_keeps _ _ ht

@[simp ↓] theorem execAtomicOperation_keeps {r : State} (fd : BitVec 4) (op : BitVec 4) (off : BitVec 32) (data : List Byte) (stn : Option (BitVec 11)) {s : State} (hs : Keeps r s) : KeepsO r (execAtomicOperation fd op off data stn s) := by
  unfold execAtomicOperation
  extract_lets f b
  rw [KeepsO_next]
  refine Keeps.ite (fun _ => ?_) (fun _ => Keeps.ite (fun _ => hs) (fun _ => State.atomicWrite_keeps _ _ _ _ _ hs))
  rcases stn with _ | n
  · exact hs
  · exact State.atomicFetch_keeps _ _ _ hs

@[simp ↓] theorem State.logChannel_keeps {r : State} {s : State} (fd : Nat) (tier : Nat) (ch : Nat) (hs : Keeps r s) : Keeps r (State.logChannel s fd tier ch) := by
  unfold State.logChannel
  exact State.inc_keeps _ _ (Keeps.foldl _ _ (fun _ _ h => State.logPoison_keeps _ _ h) hs)

@[simp ↓] theorem State.retireT1_keeps {r : State} {s : State} (fd : Nat) (pc : Nat) (hs : Keeps r s) : Keeps r (State.retireT1 s fd pc) := by
  unfold State.retireT1
  repeat' (first
    | assumption
    | (simp (maxDischargeDepth := 40) +contextual [*]; done)
    | apply Keeps.foldl
    | apply Keeps.foldl_pair
    | split
    | dsimp only
    | intro _)

@[simp ↓] theorem State.retireT2_keeps {r : State} {s : State} (fd : Nat) (ch : Nat) (hs : Keeps r s) : Keeps r (State.retireT2 s fd ch) := by
  unfold State.retireT2
  repeat' (first
    | assumption
    | (simp (maxDischargeDepth := 40) +contextual [*]; done)
    | apply Keeps.foldl
    | apply Keeps.foldl_pair
    | split
    | dsimp only
    | intro _)

@[simp ↓] theorem execDramInterfaceError_keeps {r : State} (fd : BitVec 4) (tier2 : Bool) (ch : BitVec 6) (ok : Bool) {s : State} (hs : Keeps r s) : KeepsO r (execDramInterfaceError fd tier2 ch ok s) := by
  unfold execDramInterfaceError
  simp (maxDischargeDepth := 40) +contextual [*]

@[simp ↓] theorem execScrubStep_keeps {r : State} (fd : BitVec 4) (tier : BitVec 2) (errs : List (BitVec 8)) {s : State} (hs : Keeps r s) : KeepsO r (execScrubStep fd tier errs s) := by
  unfold execScrubStep
  simp (maxDischargeDepth := 40) +contextual [*]

@[simp ↓] theorem State.popPoison_keeps {r : State} {s : State} (fd : Nat) (hs : Keeps r s) : Keeps r (State.popPoison s fd) := by
  unfold State.popPoison
  simp (maxDischargeDepth := 40) +contextual [*]

@[simp ↓] theorem execPoisonLogPop_keeps {r : State} (fd : BitVec 4) {s : State} (hs : Keeps r s) : KeepsO r (execPoisonLogPop fd s) := by
  unfold execPoisonLogPop
  simp (maxDischargeDepth := 40) +contextual [*]

@[simp ↓] theorem State.setEdgeHeld_keeps {r : State} {s : State} (key : Nat) (l : List (Nat × Nat)) (hs : Keeps r s) : Keeps r (State.setEdgeHeld s key l) := by
  unfold State.setEdgeHeld
  simp (maxDischargeDepth := 40) +contextual [*]

@[simp ↓] theorem State.holdEdge_keeps {r : State} {s : State} (key : Nat) (seq : Nat) (cls : Nat) (hs : Keeps r s) : Keeps r (State.holdEdge s key seq cls) := by
  unfold State.holdEdge
  (repeat' split) <;> simp (maxDischargeDepth := 40) +contextual [*]

@[simp ↓] theorem execEdgeFlitReceive_keeps {r : State} (fd : BitVec 4) (edge : BitVec 2) (seq : BitVec 16) (cls : BitVec 2) (crcOk : Bool) {s : State} (hs : Keeps r s) : KeepsO r (execEdgeFlitReceive fd edge seq cls crcOk s) := by
  unfold execEdgeFlitReceive
  simp (maxDischargeDepth := 40) +contextual [*]

@[simp ↓] theorem execMeshRouterFault_keeps {r : State} (fd : BitVec 4) {s : State} (hs : Keeps r s) : KeepsO r (execMeshRouterFault fd s) := by
  unfold execMeshRouterFault
  simp (maxDischargeDepth := 40) +contextual [*]

@[simp ↓] theorem State.writeParcelIdle_keeps {r : State} {s : State} (p : Nat) (a : Nat) (v : BitVec 64) (hs : Keeps r s) : Keeps r (State.writeParcelIdle s p a v) := by
  unfold State.writeParcelIdle
  simp (maxDischargeDepth := 40) +contextual [*]

@[simp ↓] theorem State.writeIdle_keeps {r : State} {s : State} (fd : Nat) (a : Nat) (v : BitVec 64) (hs : Keeps r s) : Keeps r (State.writeIdle s fd a v) := by
  unfold State.writeIdle
  simp (maxDischargeDepth := 40) +contextual [*]

@[simp ↓] theorem execMemTrkCfgWrite_keeps {r : State} (fd : BitVec 4) (v : BitVec 64) {s : State} (hs : Keeps r s) : KeepsO r (execMemTrkCfgWrite fd v s) := by
  unfold execMemTrkCfgWrite
  simp (maxDischargeDepth := 40) +contextual [*]

@[simp ↓] theorem State.serveRemote_keeps {r : State} {s : State} (ld : Nat) (k : Nat) (n : Nat) (data : List Byte) (sld : Bool) (stn : Bool) (poison : Bool) (hs : Keeps r s) : Keeps r (State.serveRemote s ld k n data sld stn poison).2.2 := by
  unfold State.serveRemote
  extract_lets die inc q q'
  have hw : Keeps r q.1 := State.writeRun_keeps _ _ _ _ _ hs
  clear_value q inc
  split
  · split
    · split
      · exact State.atomicRun_keeps _ _ _ _ _ _ _ (State.meshTrip_keeps _ _ _ hs)
      · exact hw
    · exact hw
  · split
    · exact hs
    · rcases inc with _ | b
      · exact hs
      · have hi : Keeps r (s.incFetch die b).2 := State.incFetch_keeps _ _ hs
        cases sld
        · exact hs
        · exact hi

@[simp ↓] theorem execRemoteRequestReceive_keeps {r : State} (module : BitVec 18) (tag : BitVec 32) (addr : BitVec 64) (len : BitVec 16) (data : List Byte) (sld : Bool) (stn : Bool) (poison : Bool) {s : State} (hs : Keeps r s) : KeepsO r (execRemoteRequestReceive module tag addr len data sld stn poison s) := by
  unfold execRemoteRequestReceive
  repeat' (first
    | assumption
    | (simp (maxDischargeDepth := 40) +contextual [*]; done)
    | apply Keeps.foldl
    | apply Keeps.foldl_pair
    | split
    | dsimp only
    | intro _)

@[simp ↓] theorem State.hostAnswer_keeps {r : State} {s : State} (r' : RemoteReq) (st : Nat) (bs : List Byte) (hs : Keeps r s) : Keeps r (State.hostAnswer s r' st bs) := by
  unfold State.hostAnswer
  simp (maxDischargeDepth := 40) +contextual [*]

@[simp ↓] theorem execDomainDenialReceive_keeps {r : State} (addr : BitVec 64) {s : State} (hs : Keeps r s) : KeepsO r (execDomainDenialReceive addr s) := by
  unfold execDomainDenialReceive
  repeat' (first
    | assumption
    | (simp (maxDischargeDepth := 40) +contextual [*]; done)
    | apply Keeps.foldl
    | apply Keeps.foldl_pair
    | split
    | dsimp only
    | intro _)

@[simp ↓] theorem State.lateFault_keeps {r : State} {s : State} (r' : RemoteReq) (cause : Nat) (info : Nat) (hs : Keeps r s) : Keeps r (State.lateFault s r' cause info) := by
  unfold State.lateFault
  (repeat' split) <;> simp (maxDischargeDepth := 40) +contextual [*]

@[simp ↓] theorem execAddressRefusalReceive_keeps {r : State} (addr : BitVec 64) {s : State} (hs : Keeps r s) : KeepsO r (execAddressRefusalReceive addr s) := by
  unfold execAddressRefusalReceive
  repeat' (first
    | assumption
    | (simp (maxDischargeDepth := 40) +contextual [*]; done)
    | apply Keeps.foldl
    | apply Keeps.foldl_pair
    | rw [KeepsO_next]
    | split
    | dsimp only
    | intro _)

@[simp ↓] theorem State.portEvent_keeps {r : State} {s : State} (code : Nat) (k : Nat) (hs : Keeps r s) : Keeps r (State.portEvent s code k) := by
  unfold State.portEvent
  simp (maxDischargeDepth := 40) +contextual [*]

@[simp ↓] theorem State.setOffset_keeps {r : State} {s : State} (k : Nat) (o : Int) (hs : Keeps r s) : Keeps r (State.setOffset s k o) := by
  unfold State.setOffset
  simp (maxDischargeDepth := 40) +contextual [*]

@[simp ↓] theorem State.releasePort_keeps {r : State} {s : State} (k : Nat) (hs : Keeps r s) : Keeps r (State.releasePort s k) := by
  unfold State.releasePort
  repeat' (first
    | assumption
    | (simp (maxDischargeDepth := 40) +contextual [*]; done)
    | apply Keeps.foldl
    | apply Keeps.foldl_pair
    | split
    | dsimp only
    | intro _)

@[simp ↓] theorem State.holdLost_keeps {r : State} {s : State} (hs : Keeps r s) : Keeps r (State.holdLost s) := by
  unfold State.holdLost
  repeat' (first
    | assumption
    | (simp (maxDischargeDepth := 40) +contextual [*]; done)
    | apply Keeps.foldl
    | apply Keeps.foldl_pair
    | split
    | dsimp only
    | intro _)

@[simp ↓] theorem State.tellLost_keeps {r : State} {s : State} {old : State} (hs : Keeps r s) (hold : Keeps r old) : Keeps r (State.tellLost s old) := by
  unfold State.tellLost
  simp (maxDischargeDepth := 40) +contextual [*]

@[simp ↓] theorem State.takeDown_keeps {r : State} {s : State} (k : Nat) (st : Nat) (hs : Keeps r s) : Keeps r (State.takeDown s k st) := by
  unfold State.takeDown
  repeat' (first
    | assumption
    | (simp (maxDischargeDepth := 40) +contextual [*]; done)
    | apply Keeps.foldl
    | apply Keeps.foldl_pair
    | split
    | dsimp only
    | intro _)

@[simp ↓] theorem State.portFails_keeps {r : State} {s : State} (k : Nat) (hs : Keeps r s) : Keeps r (State.portFails s k) := by
  unfold State.portFails
  simp (maxDischargeDepth := 40) +contextual [*]

@[simp ↓] theorem State.toTrain_keeps {r : State} {s : State} (k : Nat) (hs : Keeps r s) : Keeps r (State.toTrain s k) := by
  unfold State.toTrain
  simp (maxDischargeDepth := 40) +contextual [*]

@[simp ↓] theorem State.sendHello_keeps {r : State} {s : State} (k : Nat) (hs : Keeps r s) : Keeps r (State.sendHello s k) := by
  unfold State.sendHello
  repeat' (first
    | assumption
    | (simp (maxDischargeDepth := 40) +contextual [*]; done)
    | apply Keeps.foldl
    | apply Keeps.foldl_pair
    | split
    | dsimp only
    | intro _)

@[simp ↓] theorem State.takeHello_keeps {r : State} {s : State} (k : Nat) (hs : Keeps r s) : Keeps r (State.takeHello s k) := by
  unfold State.takeHello
  (repeat' split) <;> simp (maxDischargeDepth := 40) +contextual [*]

@[simp ↓] theorem State.toHello_keeps {r : State} {s : State} (k : Nat) (hs : Keeps r s) : Keeps r (State.toHello s k) := by
  unfold State.toHello
  simp (maxDischargeDepth := 40) +contextual [*]

@[simp ↓] theorem execLinkTrainingComplete_keeps {r : State} (k : BitVec 4) (lanes : BitVec 4) {s : State} (hs : Keeps r s) : KeepsO r (execLinkTrainingComplete k lanes s) := by
  unfold execLinkTrainingComplete
  simp (maxDischargeDepth := 40) +contextual [*]

@[simp ↓] theorem execPortNoLaneRetry_keeps {r : State} (k : BitVec 4) {s : State} (hs : Keeps r s) : KeepsO r (execPortNoLaneRetry k s) := by
  unfold execPortNoLaneRetry
  simp (maxDischargeDepth := 40) +contextual [*]

@[simp ↓] theorem execHello_keeps {r : State} (k : BitVec 4) (module : BitVec 18) (port : BitVec 4) (version : BitVec 8) (credits : BitVec 128) (t1 : BitVec 64) (t2 : BitVec 64) (t3 : BitVec 64) (t4 : BitVec 64) {s : State} (hs : Keeps r s) : KeepsO r (execHello k module port version credits t1 t2 t3 t4 s) := by
  unfold execHello
  rw [KeepsO_next]
  extract_lets s1 s2 s3 o s4 c s5 s6
  refine Keeps.ite (fun _ => hs) (fun _ => ?_)
  have h1 : Keeps r s1 := State.wr_keeps _ _ (State.wr_keeps _ _ (State.takeHello_keeps _ hs))
  clear_value s1
  have h2 : Keeps r s2 := State.portEvent_keeps _ _ h1
  clear_value s2
  have h3 : Keeps r s3 := Keeps.foldl _ _ (fun _ _ h => State.wr_keeps _ _ h) h1
  clear_value s3
  have h4 : Keeps r s4 := State.setOffset_keeps _ _ h3
  clear_value s4
  have h5 : Keeps r s5 := State.updPort_keeps _ _ h4
  clear_value s5
  have h6 : Keeps r s6 := State.inc_keeps _ _ (State.wr_keeps _ _ h5)
  clear_value s6
  exact Keeps.ite (fun _ => Keeps.ite (fun _ => State.takeDown_keeps _ _ h2) (fun _ => State.wr_keeps _ _ h2))
    (fun _ => Keeps.ite (fun _ => State.sendHello_keeps _ (State.updPort_keeps _ _ h4))
    (fun _ => Keeps.ite (fun _ => State.releasePort_keeps _ (State.portEvent_keeps _ _ (State.wr_keeps _ _ h5)))
      (fun _ => State.releasePort_keeps _ (State.portEvent_keeps _ _ (State.portEvent_keeps _ _ h6)))))

@[simp ↓] theorem State.applyAck_keeps {r : State} {s : State} (k : Nat) (ack : Nat) (cr : Nat) (hs : Keeps r s) : Keeps r (State.applyAck s k ack cr) := by
  unfold State.applyAck
  repeat' (first
    | assumption
    | (simp (maxDischargeDepth := 40) +contextual [*]; done)
    | apply Keeps.foldl
    | apply Keeps.foldl_pair
    | split
    | dsimp only
    | intro _)

@[simp ↓] theorem State.answerIn_keeps {r : State} {s : State} (r' : RemoteReq) (hs : Keeps r s) : Keeps r (State.answerIn s r') := by
  unfold State.answerIn
  simp (maxDischargeDepth := 40) +contextual [*]

@[simp ↓] theorem State.memResponse_keeps {r : State} {s : State} (pay : List Byte) (poison : Bool) (hs : Keeps r s) : Keeps r (State.memResponse s pay poison) := by
  unfold State.memResponse
  extract_lets a n
  refine Keeps.ite (fun _ => ?_) (fun _ => ?_)
  · split
    · rename_i q _
      have h1 := State.settle_keeps (State.collAcked_keeps (State.endRemote_keeps q (State.answerIn_keeps q hs)))
      exact Keeps.ite (fun _ => State.lateFault_keeps _ _ _ h1)
        (fun _ => Keeps.ite (fun _ => State.lateFault_keeps _ _ _ (State.hostAnswer_keeps _ _ _ h1)) (fun _ => h1))
    · exact hs
  · split
    · exact hs
    · rename_i q _
      extract_lets s1 s2 here s3
      have h1 : Keeps r s1 := State.answerIn_keeps _ hs
      clear_value s1
      have h2 : Keeps r s2 := Keeps.foldl _ _ (fun _ _ h => Keeps.mk (h := h) ..) h1
      clear_value s2
      have h3 : Keeps r s3 := Keeps.foldl _ _ (fun _ _ h => State.endRemote_keeps _ h) h2
      clear_value s3
      exact State.settle_keeps (Keeps.foldl _ _ (fun _ _ h => State.hostAnswer_keeps _ _ _ h) h3)

@[simp ↓] theorem State.takeFlit_keeps {r : State} {s : State} (f : List Byte) (hs : Keeps r s) : Keeps r (State.takeFlit s f) := by
  unfold State.takeFlit
  simp (maxDischargeDepth := 40) +contextual [*]

@[simp ↓] theorem State.rejectFlit_keeps {r : State} {s : State} (k : Nat) (hs : Keeps r s) : Keeps r (State.rejectFlit s k) := by
  unfold State.rejectFlit
  repeat' (first
    | assumption
    | (simp (maxDischargeDepth := 40) +contextual [*]; done)
    | apply Keeps.foldl
    | apply Keeps.foldl_pair
    | split
    | dsimp only
    | intro _)

@[simp ↓] theorem State.takeCtrl_keeps {r : State} {s : State} (n : Nat) (f : List Byte) (hs : Keeps r s) : Keeps r (State.takeCtrl s n f) := by
  unfold State.takeCtrl
  (repeat' split) <;> simp (maxDischargeDepth := 40) +contextual [*]

@[simp ↓] theorem State.acceptFlit_keeps {r : State} {s : State} (n : Nat) (f : List Byte) (hs : Keeps r s) : Keeps r (State.acceptFlit s n f) := by
  unfold State.acceptFlit
  repeat' (first
    | assumption
    | (simp (maxDischargeDepth := 40) +contextual [*]; done)
    | apply Keeps.foldl
    | apply Keeps.foldl_pair
    | split
    | dsimp only
    | intro _)

@[simp ↓] theorem State.acceptEarly_keeps {r : State} (n : Nat) (a1 : Nat) {a2 : State} (ha2 : Keeps r a2) : Keeps r (State.acceptEarly n a1 a2) := by
  induction a1 generalizing a2 with
  | zero => exact ha2
  | succ m ih =>
    unfold State.acceptEarly
    split
    · exact ha2
    · exact ih (State.acceptFlit_keeps _ _ (State.updPort_keeps _ _ ha2))

@[simp ↓] theorem execFlitReceive_keeps {r : State} (k : BitVec 4) (f : List Byte) {s : State} (hs : Keeps r s) : KeepsO r (execFlitReceive k f s) := by
  unfold execFlitReceive
  simp (maxDischargeDepth := 40) +contextual [*]

@[simp ↓] theorem State.replay_keeps {r : State} {s : State} (k : Nat) (seq : Nat) (hs : Keeps r s) : Keeps r (State.replay s k seq) := by
  unfold State.replay
  repeat' (first
    | assumption
    | (simp (maxDischargeDepth := 40) +contextual [*]; done)
    | apply Keeps.foldl
    | apply Keeps.foldl_pair
    | split
    | dsimp only
    | intro _)

@[simp ↓] theorem execNakReceive_keeps {r : State} (k : BitVec 4) (seq : BitVec 16) (ack : BitVec 16) (credit : BitVec 16) {s : State} (hs : Keeps r s) : KeepsO r (execNakReceive k seq ack credit s) := by
  unfold execNakReceive
  extract_lets n s1 s2
  rw [KeepsO_next]
  have h1 : Keeps r s1 := State.applyAck_keeps _ _ _ hs
  clear_value s1
  have h2 : Keeps r s2 := by
    show Keeps r (match (s1.port n).unacked.findIdx? (fun x => x.1 = seq.toNat) with
      | some 0 => s1
      | some i => (s1.updPort n (fun p => { p with unacked := p.unacked.drop i, tries := 0 })).collAcked
      | none => s1)
    split
    · exact h1
    · exact State.collAcked_keeps (State.updPort_keeps _ _ h1)
    · exact h1
  clear_value s2
  exact Keeps.ite (fun _ => hs) (fun _ => Keeps.ite (fun _ => State.replay_keeps _ _ h2) (fun _ => h2))

@[simp ↓] theorem execReplayTimeout_keeps {r : State} (k : BitVec 4) {s : State} (hs : Keeps r s) : KeepsO r (execReplayTimeout k s) := by
  unfold execReplayTimeout
  repeat' (first
    | assumption
    | (simp (maxDischargeDepth := 40) +contextual [*]; done)
    | apply Keeps.foldl
    | apply Keeps.foldl_pair
    | rw [KeepsO_next]
    | split
    | dsimp only
    | intro _)

@[simp ↓] theorem execPortRetrainEnd_keeps {r : State} (k : BitVec 4) (ok : Bool) {s : State} (hs : Keeps r s) : KeepsO r (execPortRetrainEnd k ok s) := by
  unfold execPortRetrainEnd
  simp (maxDischargeDepth := 40) +contextual [*]

@[simp ↓] theorem State.rejoin_keeps {r : State} {s : State} (n : Nat) (mask : Nat) (hs : Keeps r s) : Keeps r (State.rejoin s n mask) := by
  unfold State.rejoin
  simp (maxDischargeDepth := 40) +contextual [*]

@[simp ↓] theorem execLaneRejoinRequest_keeps {r : State} (k : BitVec 4) (mask : BitVec 4) {s : State} (hs : Keeps r s) : KeepsO r (execLaneRejoinRequest k mask s) := by
  unfold execLaneRejoinRequest
  simp (maxDischargeDepth := 40) +contextual [*]

@[simp ↓] theorem execLaneRejoinTestEnd_keeps {r : State} (k : BitVec 4) (lane : BitVec 2) (ok : Bool) {s : State} (hs : Keeps r s) : KeepsO r (execLaneRejoinTestEnd k lane ok s) := by
  unfold execLaneRejoinTestEnd
  repeat' (first
    | assumption
    | (simp (maxDischargeDepth := 40) +contextual [*]; done)
    | apply Keeps.foldl
    | apply Keeps.foldl_pair
    | split
    | dsimp only
    | intro _)

@[simp ↓] theorem execLinkL1Entry_keeps {r : State} (k : BitVec 4) {s : State} (hs : Keeps r s) : KeepsO r (execLinkL1Entry k s) := by
  unfold execLinkL1Entry
  simp (maxDischargeDepth := 40) +contextual [*]

@[simp ↓] theorem execLinkL1Wake_keeps {r : State} (k : BitVec 4) {s : State} (hs : Keeps r s) : KeepsO r (execLinkL1Wake k s) := by
  unfold execLinkL1Wake
  simp (maxDischargeDepth := 40) +contextual [*]

@[simp ↓] theorem State.setShort_keeps {r : State} {s : State} (p : Nat) (x : List (Nat × Nat)) (hs : Keeps r s) : Keeps r (State.setShort s p x) := by
  unfold State.setShort
  simp (maxDischargeDepth := 40) +contextual [*]

@[simp ↓] theorem State.tqStatus_keeps {r : State} {s : State} (slot : Option Nat) (v : Nat) (hs : Keeps r s) : Keeps r (State.tqStatus s slot v) := by
  unfold State.tqStatus
  (repeat' split) <;> simp (maxDischargeDepth := 40) +contextual [*]

@[simp ↓] theorem State.submit_keeps {r : State} {s : State} (l : Loading) (hs : Keeps r s) : Keeps r (State.submit s l) := by
  unfold State.submit
  simp (maxDischargeDepth := 40) +contextual [*]

@[simp ↓] theorem State.setScratch_keeps {r : State} {s : State} (fpSc : Nat) (fd : Nat) (hs : Keeps r s) : Keeps r (State.setScratch s fpSc fd) := by
  unfold State.setScratch
  simp (maxDischargeDepth := 40) +contextual [*]

@[simp ↓] theorem State.endTraverse_keeps {r : State} {s : State} (p : Nat) (hs : Keeps r s) : Keeps r (State.endTraverse s p) := by
  unfold State.endTraverse
  simp (maxDischargeDepth := 40) +contextual [*]

@[simp ↓] theorem State.arm_keeps {r : State} {t : State} (l : Loading) (ht : Keeps r t) : Keeps r (State.arm t l) := by
  unfold State.arm
  simp (maxDischargeDepth := 40) +contextual [*]

@[simp ↓] theorem State.refuse_keeps {r : State} {s : State} (l : Loading) (code : Nat) (sh : Option (List (Nat × Nat))) (hs : Keeps r s) : Keeps r (State.refuse s l code sh) := by
  unfold State.refuse
  (repeat' split) <;> simp (maxDischargeDepth := 40) +contextual [*]

@[simp ↓] theorem execTraverseLoadingEnd_keeps {r : State} (p : BitVec 2) {s : State} (hs : Keeps r s) : KeepsO r (execTraverseLoadingEnd p s) := by
  unfold execTraverseLoadingEnd
  (repeat' split) <;> simp (maxDischargeDepth := 40) +contextual [*]

end Sys2Proof.Machine
end

