-- ==== Sys2Proof/Laws/KeepsG.lean ====
section
/-! SUPPORT. What the operations of Machine/Power.lean to Machine/Ingest.lean keep. -/

namespace Sys2Proof.Machine

@[simp ↓] theorem State.updPwr_keeps {r : State} {s : State} (f : Pwr → Pwr) (hs : Keeps r s) : Keeps r (State.updPwr s f) := by
  unfold State.updPwr
  simp (maxDischargeDepth := 40) +contextual [*]

@[simp ↓] theorem State.showDist_keeps {r : State} {s : State} (hs : Keeps r s) : Keeps r (State.showDist s) := by
  unfold State.showDist
  simp (maxDischargeDepth := 40) +contextual [*]

@[simp ↓] theorem State.distRecord_keeps {r : State} {s : State} (d : Dist) (hs : Keeps r s) : Keeps r (State.distRecord s d) := by
  unfold State.distRecord
  simp (maxDischargeDepth := 40) +contextual [*]

@[simp ↓] theorem execPwrDistPop_keeps {r : State} {s : State} (hs : Keeps r s) : KeepsO r (execPwrDistPop s) := by
  unfold execPwrDistPop
  simp (maxDischargeDepth := 40) +contextual [*]

@[simp ↓] theorem State.setEntry_keeps {r : State} {s : State} (e : Nat) (t : EntryTrk) (hs : Keeps r s) : Keeps r (State.setEntry s e t) := by
  unfold State.setEntry
  simp (maxDischargeDepth := 40) +contextual [*]

@[simp ↓] theorem State.endRun_keeps {r : State} {s : State} (o : Option Dist) (least : Nat) (hs : Keeps r s) : Keeps r (State.endRun s o least) := by
  unfold State.endRun
  (repeat' split) <;> simp (maxDischargeDepth := 40) +contextual [*]

@[simp ↓] theorem State.endLoss_keeps {r : State} {s : State} (o : Option Dist) (hs : Keeps r s) : Keeps r (State.endLoss s o) := by
  unfold State.endLoss
  (repeat' split) <;> simp (maxDischargeDepth := 40) +contextual [*]

@[simp ↓] theorem State.classify_keeps {r : State} {s : State} (e : Nat) (mv : Nat) (hs : Keeps r s) : Keeps r (State.classify s e mv) := by
  unfold State.classify
  extract_lets t now lost mean dev under ovr loss' sagNow swellNow sag' swell' transNow trans' longRun covered' s1 s2 s3 n sq
    full lim over10 rms s4 ripple'
  have h1 : Keeps r s1 := Keeps.ite_both hs (State.endRun_keeps _ _ hs)
  have h2 : Keeps r s2 := Keeps.ite_both h1 (State.endRun_keeps _ _ h1)
  have h3 : Keeps r s3 := by
    unfold s3
    rcases t.trans with _ | d
    · exact h2
    · exact Keeps.ite_both h2 (State.distRecord_keeps _ h2)
  have h4 : Keeps r s4 := Keeps.ite_both (State.endRun_keeps _ _ h3) h3
  exact State.setEntry_keeps _ _ h4

@[simp ↓] theorem State.takeSample_keeps {r : State} {s : State} (e : Nat) (mv : Nat) (cur : Nat) (hs : Keeps r s) : Keeps r (State.takeSample s e mv cur) := by
  unfold State.takeSample
  simp (maxDischargeDepth := 40) +contextual [*]

@[simp ↓] theorem State.meter_keeps {r : State} {s : State} (inUj : Nat) (dies : List Nat) (hs : Keeps r s) : Keeps r (State.meter s inUj dies) := by
  unfold State.meter
  simp (maxDischargeDepth := 40) +contextual [*]

@[simp ↓] theorem execSupplySample_keeps {r : State} (va : BitVec 18) (vb : BitVec 18) (ia : BitVec 16) (ib : BitVec 16) (inUj : BitVec 32) (dieUj : List (BitVec 32)) (charge : BitVec 8) {s : State} (hs : Keeps r s) : KeepsO r (execSupplySample va vb ia ib inUj dieUj charge s) := by
  unfold execSupplySample
  simp (maxDischargeDepth := 40) +contextual [*]

@[simp ↓] theorem State.retarget_keeps {r : State} {s : State} (hs : Keeps r s) : Keeps r (State.retarget s) := by
  unfold State.retarget
  simp (maxDischargeDepth := 40) +contextual [*]

@[simp ↓] theorem State.formCaps_keeps {r : State} {s : State} (loop : Bool) (hs : Keeps r s) : Keeps r (State.formCaps s loop) :=
  State.updPwr_keeps _ hs

@[simp ↓] theorem State.refreshCap_keeps {r : State} {s : State} (hs : Keeps r s) : Keeps r (State.refreshCap s) := by
  unfold State.refreshCap
  extract_lets old cs best s1 now s2 s3
  have h1 : Keeps r s1 := State.wr_keeps _ _ (State.wr_keeps _ _ (State.wr_keeps _ _ hs))
  clear_value s1
  have h3 : Keeps r s3 := State.retarget_keeps (State.updPwr_keeps _ h1)
  clear_value s3
  exact Keeps.ite (fun _ => h1) (fun _ => Keeps.ite (fun _ => h3) (fun _ => State.raise_keeps _ _ _ (State.updPwr_keeps _ h3)))

@[simp ↓] theorem execCapControlLoop_keeps {r : State} (watts : BitVec 16) (other : BitVec 16) (model : List (List (BitVec 16))) (fds : List (BitVec 10 × BitVec 10 × BitVec 10)) {s : State} (hs : Keeps r s) : KeepsO r (execCapControlLoop watts other model fds s) := by
  unfold execCapControlLoop
  rw [KeepsO_next]
  refine Keeps.ite (fun _ => hs) (fun _ => ?_)
  extract_lets s1 s2 old s3 rose s4
  have h2 : Keeps r s2 := Keeps.foldl _ _ (fun t fd h => by
    rcases fds[fd]? with _ | x
    · exact h
    · exact State.wr_keeps _ _ (State.wr_keeps _ _ h)) (State.updPwr_keeps _ hs)
  clear_value s2
  have h3 : Keeps r s3 := State.retarget_keeps h2
  clear_value s3
  have h4 : Keeps r s4 := Keeps.ite (fun _ => State.updPwr_keeps _ h3) (fun _ => h3)
  clear_value s4
  rcases s4.pwr.capFell with _ | t
  · exact h4
  · exact Keeps.ite (fun _ => State.updPwr_keeps _ h4) (fun _ => Keeps.ite (fun _ => h4)
      (fun _ => State.raise_keeps _ _ _ (State.inc_keeps _ _ (State.retarget_keeps (State.updPwr_keeps _ h4)))))

@[simp ↓] theorem execPowerCapWrite_keeps {r : State} (cap : BitVec 3) (watts : BitVec 16) {s : State} (hs : Keeps r s) : KeepsO r (execPowerCapWrite cap watts s) := by
  unfold execPowerCapWrite
  simp (maxDischargeDepth := 40) +contextual [*]

@[simp ↓] theorem execVoltageRequestWrite_keeps {r : State} (p : BitVec 2) (mv : BitVec 10) {s : State} (hs : Keeps r s) : KeepsO r (execVoltageRequestWrite p mv s) := by
  unfold execVoltageRequestWrite
  simp (maxDischargeDepth := 40) +contextual [*]

@[simp ↓] theorem execEnergySnap_keeps {r : State} {s : State} (hs : Keeps r s) : KeepsO r (execEnergySnap s) := by
  unfold execEnergySnap
  simp (maxDischargeDepth := 40) +contextual [*]

@[simp ↓] theorem execRepairRecordMeterWrite_keeps {r : State} {s : State} (hs : Keeps r s) : KeepsO r (execRepairRecordMeterWrite s) := by
  unfold execRepairRecordMeterWrite
  simp (maxDischargeDepth := 40) +contextual [*]

@[simp ↓] theorem execEntryLoss_keeps {r : State} (entry : BitVec 2) (cause : BitVec 2) {s : State} (hs : Keeps r s) : KeepsO r (execEntryLoss entry cause s) := by
  unfold execEntryLoss
  simp (maxDischargeDepth := 40) +contextual [*]

@[simp ↓] theorem execEntryRestore_keeps {r : State} (entry : BitVec 1) {s : State} (hs : Keeps r s) : KeepsO r (execEntryRestore entry s) := by
  unfold execEntryRestore
  simp (maxDischargeDepth := 40) +contextual [*]

@[simp ↓] theorem execRideThroughEnd_keeps {r : State} (entry : BitVec 1) {s : State} (hs : Keeps r s) : KeepsO r (execRideThroughEnd entry s) := by
  unfold execRideThroughEnd
  simp (maxDischargeDepth := 40) +contextual [*]

@[simp ↓] theorem State.tagWrite_keeps {r : State} {s : State} (a : Nat) (bs : List Byte) (hs : Keeps r s) : Keeps r (State.tagWrite s a bs) := by
  unfold State.tagWrite
  simp (maxDischargeDepth := 40) +contextual [*]

@[simp ↓] theorem State.closeDist_keeps {r : State} {s : State} (hs : Keeps r s) : Keeps r (State.closeDist s) := by
  unfold State.closeDist
  refine State.endRun_keeps _ _ (Keeps.foldl _ _ (fun s e h => ?_) hs)
  extract_lets t s1 s2
  have h1 : Keeps r s1 := State.endRun_keeps _ _ (State.endRun_keeps _ _ (State.endRun_keeps _ _ h))
  have h2 : Keeps r s2 := by
    show Keeps r (match t.trans with | some d => if t.covered ∨ 9 < d.dur then s1 else s1.distRecord d | none => s1)
    rcases t.trans with _ | d
    · exact h1
    · exact Keeps.ite (fun _ => h1) (fun _ => State.distRecord_keeps _ h1)
  exact Keeps.ite (fun _ => State.endLoss_keeps _ h2) (fun _ => h2)

@[simp ↓] theorem State.losePower_keeps {r : State} {s : State} (hs : Keeps r s) : Keeps r (State.losePower s) := by
  unfold State.losePower
  simp (maxDischargeDepth := 40) +contextual [*]

@[simp ↓] theorem State.announceLoss_keeps {r : State} {s : State} (cause : Nat) (k : Nat) (hs : Keeps r s) : Keeps r (State.announceLoss s cause k) := by
  unfold State.announceLoss
  (repeat' split) <;> simp (maxDischargeDepth := 40) +contextual [*]

@[simp ↓] theorem State.goDown_keeps {r : State} {s : State} (cause : Nat) (hs : Keeps r s) : Keeps r (State.goDown s cause) := by
  unfold State.goDown
  refine Keeps.ite (fun _ => hs) (fun _ => ?_)
  extract_lets detect s1 rec' s2 s3 s4 s5
  have h1 : Keeps r s1 := State.closeDist_keeps hs
  clear_value s1
  have h2 : Keeps r s2 :=
    Keeps.foldl _ _ (fun t k h => Keeps.ite (fun _ => State.wr_keeps _ _ (State.announceLoss_keeps _ _ h)) (fun _ => h)) h1
  clear_value s2
  have h3 : Keeps r s3 := State.refClock_keeps _ h2
  clear_value s3
  have h4 : Keeps r s4 := Keeps.foldl _ _ (fun t p h => Keeps.ite (fun _ => h) (fun _ => State.endTraverse_keeps _ h)) h3
  clear_value s4
  have h5 : Keeps r s5 := Keeps.ite (fun _ => h4) (fun _ => State.send_keeps _ (State.tagWrite_keeps _ _ h4))
  clear_value s5
  exact Keeps.mk (h := State.losePower_keeps h5) ..

@[simp ↓] theorem execGoDown_keeps {r : State} (cause : BitVec 2) {s : State} (hs : Keeps r s) : KeepsO r (execGoDown cause s) := by
  unfold execGoDown
  simp (maxDischargeDepth := 40) +contextual [*]

@[simp ↓] theorem State.holdParcel_keeps {r : State} {s : State} (p : Nat) (hs : Keeps r s) : Keeps r (State.holdParcel s p) := by
  unfold State.holdParcel
  simp (maxDischargeDepth := 40) +contextual [*]

@[simp ↓] theorem execFdThermalSample_keeps {r : State} (fd : BitVec 4) (temp : BitVec 8) {s : State} (hs : Keeps r s) : KeepsO r (execFdThermalSample fd temp s) := by
  unfold execFdThermalSample
  simp (maxDischargeDepth := 40) +contextual [*]

@[simp ↓] theorem State.tripStack_keeps {r : State} {s : State} (n : Nat) (hs : Keeps r s) : Keeps r (State.tripStack s n) := by
  unfold State.tripStack
  simp (maxDischargeDepth := 40) +contextual [*]

@[simp ↓] theorem execStackThermalSample_keeps {r : State} (fd : BitVec 4) (temp : BitVec 8) {s : State} (hs : Keeps r s) : KeepsO r (execStackThermalSample fd temp s) := by
  unfold execStackThermalSample
  simp (maxDischargeDepth := 40) +contextual [*]

@[simp ↓] theorem execEdgeDieThermalSample_keeps {r : State} (die : BitVec 2) (temp : BitVec 8) {s : State} (hs : Keeps r s) : KeepsO r (execEdgeDieThermalSample die temp s) := by
  unfold execEdgeDieThermalSample
  simp (maxDischargeDepth := 40) +contextual [*]

@[simp ↓] theorem State.jFix_keeps {r : State} {s : State} (fd : Nat) (c : Nat) (hs : Keeps r s) : Keeps r (State.jFix s fd c) := by
  unfold State.jFix
  simp (maxDischargeDepth := 40) +contextual [*]

@[simp ↓] theorem State.auStoreWc_keeps {r : State} {s : State} (fd : Nat) (c : AuCmd) (j : Nat) (vals : List (Nat × FVal)) (hs : Keeps r s) : Keeps r (State.auStoreWc s fd c j vals) := by
  unfold State.auStoreWc
  simp (maxDischargeDepth := 40) +contextual [*]

@[simp ↓] theorem State.setAu_keeps {r : State} {s : State} (fd : Nat) (r' : AuRun) (hs : Keeps r s) : Keeps r (State.setAu s fd r') := by
  unfold State.setAu
  simp (maxDischargeDepth := 40) +contextual [*]

@[simp ↓] theorem State.auEvent_keeps {r : State} {s : State} (fd : Nat) (code : Nat) (pos : Nat) (step : Nat) (hs : Keeps r s) : Keeps r (State.auEvent s fd code pos step) := by
  unfold State.auEvent
  simp (maxDischargeDepth := 40) +contextual [*]

@[simp ↓] theorem State.auHold_keeps {r : State} {s : State} (fd : Nat) (cause : Nat) (code : Nat) (pos : Nat) (step : Nat) (hs : Keeps r s) : Keeps r (State.auHold s fd cause code pos step) := by
  unfold State.auHold
  simp (maxDischargeDepth := 40) +contextual [*]

@[simp ↓] theorem State.auPoisoned_keeps {r : State} {s : State} (fd : Nat) (pos : Nat) (step : Nat) (hs : Keeps r s) : Keeps r (State.auPoisoned s fd pos step) := by
  unfold State.auPoisoned
  simp (maxDischargeDepth := 40) +contextual [*]

@[simp ↓] theorem State.snapMissed_keeps {r : State} {s : State} (p : Nat) (hs : Keeps r s) : Keeps r (State.snapMissed s p) := by
  unfold State.snapMissed
  simp (maxDischargeDepth := 40) +contextual [*]

@[simp ↓] theorem State.snapAppend_keeps {r : State} {s : State} (fd : Nat) (hdr : List Byte) (parts : List (Nat × Nat)) (hs : Keeps r s) : Keeps r (State.snapAppend s fd hdr parts) := by
  unfold State.snapAppend
  repeat' (first
    | assumption
    | (simp (maxDischargeDepth := 40) +contextual [*]; done)
    | apply Keeps.foldl
    | apply Keeps.foldl_pair
    | split
    | dsimp only
    | intro _)

@[simp ↓] theorem State.snapStep_keeps {r : State} {s : State} (fd : Nat) (step : Nat) (hs : Keeps r s) : Keeps r (State.snapStep s fd step) := by
  unfold State.snapStep
  simp (maxDischargeDepth := 40) +contextual [*]

@[simp ↓] theorem State.auBegin_keeps {r : State} {s : State} (fd : Nat) (pos : Nat) (bs : List Byte) (hs : Keeps r s) : Keeps r (State.auBegin s fd pos bs) := by
  unfold State.auBegin
  simp (maxDischargeDepth := 40) +contextual [*]

@[simp ↓] theorem execAuCommandTake_keeps {r : State} (fd : BitVec 4) {s : State} (hs : Keeps r s) : KeepsO r (execAuCommandTake fd s) := by
  unfold execAuCommandTake
  rw [KeepsO_next]
  exact Keeps.ite (fun _ => hs) (fun _ => Keeps.ite (fun _ => State.auPoisoned_keeps _ _ _ hs) (fun _ => Keeps.ite (fun _ => hs) (fun _ =>
    Keeps.ite (fun _ => State.auHold_keeps _ _ _ _ _ hs) (fun _ => Keeps.ite (fun _ => State.auHold_keeps _ _ _ _ _ hs) (fun _ =>
    Keeps.ite (fun _ => State.auPoisoned_keeps _ _ _ hs) (fun _ => Keeps.ite (fun _ => State.auHold_keeps _ _ _ _ _ hs)
      (fun _ => State.auBegin_keeps _ _ _ hs)))))))

@[simp ↓] theorem State.snapUpdate_keeps {r : State} {s : State} (fd : Nat) (r' : AuRun) (hs : Keeps r s) : Keeps r (State.snapUpdate s fd r') := by
  unfold State.snapUpdate
  simp (maxDischargeDepth := 40) +contextual [*]

@[simp ↓] theorem State.auDone_keeps {r : State} {s : State} (fd : Nat) (hs : Keeps r s) : Keeps r (State.auDone s fd) := by
  unfold State.auDone
  simp (maxDischargeDepth := 40) +contextual [*]

@[simp ↓] theorem State.sendShadow_keeps {r : State} {s : State} (fd : Nat) (c : AuCmd) (j : Nat) (cur : Nat) (hs : Keeps r s) : Keeps r (State.sendShadow s fd c j cur) := by
  unfold State.sendShadow
  simp (maxDischargeDepth := 40) +contextual [*]

@[simp ↓] theorem State.auPut_keeps {r : State} {s : State} (fd : Nat) (p : Nat) (hs : Keeps r s) : Keeps r (State.auPut s fd p) := by
  unfold State.auPut
  simp (maxDischargeDepth := 40) +contextual [*]

@[simp ↓] theorem State.auSkip_keeps {r : State} {s : State} (fd : Nat) (j : Nat) (hs : Keeps r s) : Keeps r (State.auSkip s fd j) := by
  unfold State.auSkip
  simp (maxDischargeDepth := 40) +contextual [*]

@[simp ↓] theorem State.auSlot_keeps {r : State} {s : State} (fd : Nat) (r' : AuRun) (c : AuCmd) (cur : Nat) (sk : Nat) (hs : Keeps r s) : Keeps r (State.auSlot s fd r' c cur sk) := by
  unfold State.auSlot
  extract_lets nf bs s1 s2
  have h1 : Keeps r s1 := State.inc_keeps _ _ (State.writeMem_keeps _ _ hs)
  clear_value s1
  exact State.auPut_keeps _ _ (Keeps.ite (fun _ => h1) (fun _ => State.auEvent_keeps _ _ _ _ (State.setAu_keeps _ _ h1)))

@[simp ↓] theorem State.auBlock_keeps {r : State} {s : State} (fd : Nat) (r' : AuRun) (c : AuCmd) (q : Nat) (ck : Nat) (word : Nat) (hs : Keeps r s) : Keeps r (State.auBlock s fd r' c q ck word) := by
  unfold State.auBlock
  extract_lets e cur write sk done
  have hw : ∀ s x, Keeps r s → Keeps r (write s x) := fun s x h => State.writeMem_keeps _ _ h
  clear_value write
  refine Keeps.ite (fun _ => State.auPut_keeps _ _ (State.inc_keeps _ _ (hw _ _ hs))) (fun _ => ?_)
  refine Keeps.ite (fun _ => State.auPut_keeps _ _ (State.auStoreWc_keeps _ _ _ _ hs)) (fun _ => ?_)
  refine Keeps.ite (fun _ => State.auPut_keeps _ _ (hw _ _ hs)) (fun _ => ?_)
  refine Keeps.ite (fun _ => Keeps.ite (fun _ => State.auPut_keeps _ _ (hw _ _ hs)) (fun _ => State.auSkip_keeps _ _ hs)) (fun _ => ?_)
  refine Keeps.ite (fun _ => Keeps.ite (fun _ => State.auSkip_keeps _ _ hs)
    (fun _ => Keeps.ite (fun _ => State.auPoisoned_keeps _ _ _ hs) (fun _ => State.auPut_keeps _ _ hs))) (fun _ => ?_)
  exact Keeps.ite (fun _ => State.auPoisoned_keeps _ _ _ hs) (fun _ => State.auSlot_keeps _ _ _ _ _ hs)

@[simp ↓] theorem State.auPhase_keeps {r : State} {s : State} (fd : Nat) (hs : Keeps r s) : Keeps r (State.auPhase s fd) := by
  unfold State.auPhase
  extract_lets r' c q ck s1
  have h1 : Keeps r s1 := State.writeMem_keeps _ _ hs
  clear_value s1
  refine Keeps.ite (fun _ => State.auDone_keeps _ (Keeps.ite (fun _ => hs) (fun _ => State.snapUpdate_keeps _ _ hs))) (fun _ => ?_)
  refine Keeps.ite (fun _ => Keeps.ite (fun _ => State.auSkip_keeps _ _ (State.sendShadow_keeps _ _ _ _ h1))
    (fun _ => Keeps.ite (fun _ => State.auSkip_keeps _ _ h1) (fun _ => State.auPut_keeps _ _ h1))) (fun _ => ?_)
  rcases s.jWord fd (q / 64) with _ | word
  · exact State.auHold_keeps _ _ _ _ _ hs
  · exact State.auBlock_keeps _ _ _ _ _ _ (State.jFix_keeps _ _ hs)

@[simp ↓] theorem State.auPhases_keeps {r : State} {s : State} (fd : Nat) (op : Nat) (a3 : Nat) (hs : Keeps r s) : Keeps r (State.auPhases s fd op a3) := by
  induction a3 generalizing s with
  | zero => exact hs
  | succ n ih =>
    unfold State.auPhases
    exact Keeps.ite (fun _ => hs) (fun _ => ih (State.auPhase_keeps _ hs))

@[simp ↓] theorem execAdamw_keeps {r : State} (fd : BitVec 4) (n : BitVec 32) {s : State} (hs : Keeps r s) : KeepsO r (execAdamw fd n s) := by
  unfold execAdamw
  simp (maxDischargeDepth := 40) +contextual [*]

@[simp ↓] theorem execSgdm_keeps {r : State} (fd : BitVec 4) (n : BitVec 32) {s : State} (hs : Keeps r s) : KeepsO r (execSgdm fd n s) := by
  unfold execSgdm
  simp (maxDischargeDepth := 40) +contextual [*]

@[simp ↓] theorem execMasksync_keeps {r : State} (fd : BitVec 4) (n : BitVec 32) {s : State} (hs : Keeps r s) : KeepsO r (execMasksync fd n s) := by
  unfold execMasksync
  simp (maxDischargeDepth := 40) +contextual [*]

@[simp ↓] theorem execRefresh_keeps {r : State} (fd : BitVec 4) (n : BitVec 32) {s : State} (hs : Keeps r s) : KeepsO r (execRefresh fd n s) := by
  unfold execRefresh
  simp (maxDischargeDepth := 40) +contextual [*]

@[simp ↓] theorem execRollback_keeps {r : State} (fd : BitVec 4) (n : BitVec 32) {s : State} (hs : Keeps r s) : KeepsO r (execRollback fd n s) := by
  unfold execRollback
  simp (maxDischargeDepth := 40) +contextual [*]

@[simp ↓] theorem execNormsq_keeps {r : State} (fd : BitVec 4) {s : State} (hs : Keeps r s) : KeepsO r (execNormsq fd s) := by
  unfold execNormsq
  simp (maxDischargeDepth := 40) +contextual [*]

@[simp ↓] theorem execSnapcopy_keeps {r : State} (fd : BitVec 4) {s : State} (hs : Keeps r s) : KeepsO r (execSnapcopy fd s) := by
  unfold execSnapcopy
  simp (maxDischargeDepth := 40) +contextual [*]

@[simp ↓] theorem execSnapend_keeps {r : State} (fd : BitVec 4) {s : State} (hs : Keeps r s) : KeepsO r (execSnapend fd s) := by
  unfold execSnapend
  simp (maxDischargeDepth := 40) +contextual [*]

@[simp ↓] theorem State.snapArm_keeps {r : State} {s : State} (p : Nat) (step : Nat) (arm : Bool) (reach : Bool) (hs : Keeps r s) : Keeps r (State.snapArm s p step arm reach) := by
  unfold State.snapArm
  simp (maxDischargeDepth := 40) +contextual [*]

@[simp ↓] theorem execSnapArm_keeps {r : State} (p : BitVec 2) (step : BitVec 32) {s : State} (hs : Keeps r s) : KeepsO r (execSnapArm p step s) := by
  unfold execSnapArm
  simp (maxDischargeDepth := 40) +contextual [*]

@[simp ↓] theorem State.shipArea_keeps {r : State} {s : State} (q : Nat) (fd : Nat) (hs : Keeps r s) : Keeps r (State.shipArea s q fd) := by
  unfold State.shipArea
  repeat' (first
    | assumption
    | (simp (maxDischargeDepth := 40) +contextual [*]; done)
    | apply Keeps.foldl
    | apply Keeps.foldl_pair
    | split
    | dsimp only
    | intro _)

@[simp ↓] theorem execSnapshotShipDone_keeps {r : State} (p : BitVec 2) {s : State} (hs : Keeps r s) : KeepsO r (execSnapshotShipDone p s) := by
  unfold execSnapshotShipDone
  simp (maxDischargeDepth := 40) +contextual [*]

@[simp ↓] theorem State.auRelease_keeps {r : State} {s : State} (fd : Nat) (skip : Bool) (hs : Keeps r s) : Keeps r (State.auRelease s fd skip) := by
  unfold State.auRelease
  simp (maxDischargeDepth := 40) +contextual [*]

@[simp ↓] theorem State.auStop_keeps {r : State} {s : State} (fd : Nat) (hs : Keeps r s) : Keeps r (State.auStop s fd) := by
  unfold State.auStop
  simp (maxDischargeDepth := 40) +contextual [*]

@[simp ↓] theorem State.countFailed_keeps {r : State} {s : State} (fd : Nat) (p : Nat) (l : Nat) (hs : Keeps r s) : Keeps r (State.countFailed s fd p l) := by
  unfold State.countFailed
  simp (maxDischargeDepth := 40) +contextual [*]

@[simp ↓] theorem State.leaveXp_keeps {r : State} {s : State} (k : Loc) (hs : Keeps r s) : Keeps r (State.leaveXp s k) := by
  unfold State.leaveXp
  simp (maxDischargeDepth := 40) +contextual [*]

@[simp ↓] theorem State.returnFails_keeps {r : State} {s : State} (r' : ReturnRun) (hs : Keeps r s) : Keeps r (State.returnFails s r') := by
  unfold State.returnFails
  simp (maxDischargeDepth := 40) +contextual [*]

@[simp ↓] theorem State.clearStore_keeps {r : State} {s : State} (fd : Nat) (log : Nat) (hs : Keeps r s) : Keeps r (State.clearStore s fd log) := by
  unfold State.clearStore
  exact hs.trans ⟨rfl, List.prefix_refl _, Nat.le_refl _, fun c => ⟨c.1, sparse_wf_dropRange _ _ _ _ c.2.1, c.2.2⟩⟩

@[simp ↓] theorem State.replay445_keeps {r : State} {s : State} (k : Loc) (r' : BarRec) (hs : Keeps r s) : Keeps r (State.replay445 s k r') := by
  unfold State.replay445
  repeat' (first
    | assumption
    | (simp (maxDischargeDepth := 40) +contextual [*]; done)
    | apply Keeps.foldl
    | apply Keeps.foldl_pair
    | split
    | dsimp only
    | intro _)

@[simp ↓] theorem State.restakeOn_keeps {r : State} {s : State} (k : Loc) (q : Nat) (hs : Keeps r s) : Keeps r (State.restakeOn s k q) := by
  unfold State.restakeOn
  extract_lets t l kept rs pos per s1 s2 n s3 s4 s5
  have h1 : Keeps r s1 := State.countFailed_keeps _ _ _ (State.inc_keeps _ _ hs)
  clear_value s1
  have h2 : Keeps r s2 := State.wr_keeps _ _ h1
  clear_value s2
  have h3 : Keeps r s3 := Keeps.foldl _ _ (fun _ _ h => State.setReg_keeps _ _ h) h2
  clear_value s3
  have h4 : Keeps r s4 := State.leaveXp_keeps _ (Keeps.mk (h := h3) ..)
  clear_value s4
  have h5 : Keeps r s5 := State.clearStore_keeps _ _ h4
  clear_value s5
  split
  · exact State.settle_keeps (State.restakeAt_keeps _ _ (State.updLst_keeps _ _ (State.replay445_keeps _ _ (State.setStnAt_keeps _ _ h5))))
  · exact State.restakeAt_keeps _ _ (State.updLst_keeps _ _ (State.setStnAt_keeps _ _ (State.setReg_keeps _ _ (State.setReg_keeps _ _ h5))))

@[simp ↓] theorem State.stopDead_keeps {r : State} {s : State} (k : Loc) (hs : Keeps r s) : Keeps r (State.stopDead s k) := by
  unfold State.stopDead
  simp (maxDischargeDepth := 40) +contextual [*]

@[simp ↓] theorem State.noSpare_keeps {r : State} {s : State} (k : Loc) (hs : Keeps r s) : Keeps r (State.noSpare s k) := by
  unfold State.noSpare
  extract_lets s1
  have h1 : Keeps r s1 := State.stopDead_keeps _ hs
  clear_value s1
  exact Keeps.ite (fun _ => h1) (fun _ => Keeps.mk (h := h1) ..)

@[simp ↓] theorem State.onSpare_keeps {r : State} {s : State} (k : Loc) (closing : Bool) (q : Nat) (hs : Keeps r s) : Keeps r (State.onSpare s k closing q) := by
  unfold State.onSpare
  exact Keeps.ite (fun _ => State.holdParcel_keeps _ (State.raise_keeps _ _ _ (State.inc_keeps _ _ hs))) (fun _ => State.restakeOn_keeps _ _ hs)

@[simp ↓] theorem State.stnError_keeps {r : State} {s : State} (k : Loc) (closing : Bool) (hs : Keeps r s) : Keeps r (State.stnError s k closing) := by
  unfold State.stnError
  extract_lets s1
  have h1 : Keeps r s1 := State.inc_keeps _ _ hs
  exact Keeps.ite (fun _ => State.noSpare_keeps _ h1) (fun _ => State.onSpare_keeps _ _ _ h1)

@[simp ↓] theorem State.spareFails_keeps {r : State} {s : State} (fd : Nat) (p : Nat) (hs : Keeps r s) : Keeps r (State.spareFails s fd p) := by
  unfold State.spareFails
  simp (maxDischargeDepth := 40) +contextual [*]

@[simp ↓] theorem State.physError_keeps {r : State} {s : State} (fd : Nat) (p : Nat) (closing : Bool) (hs : Keeps r s) : Keeps r (State.physError s fd p closing) := by
  unfold State.physError
  (repeat' split) <;> simp (maxDischargeDepth := 40) +contextual [*]

@[simp ↓] theorem execStationError_keeps {r : State} (fd : BitVec 4) (phys : BitVec 8) (closing : Bool) {s : State} (hs : Keeps r s) : KeepsO r (execStationError fd phys closing s) := by
  unfold execStationError
  simp (maxDischargeDepth := 40) +contextual [*]

@[simp ↓] theorem execWatchdogTimeout_keeps {r : State} (fd : BitVec 4) (phys : BitVec 8) {s : State} (hs : Keeps r s) : KeepsO r (execWatchdogTimeout fd phys s) := by
  unfold execWatchdogTimeout
  simp (maxDischargeDepth := 40) +contextual [*]

@[simp ↓] theorem State.storeError_keeps {r : State} {s : State} {t : State} (k : Nat) (hs : Keeps r s) (ht : Keeps r t) : Keeps r (State.storeError s t k) := by
  unfold State.storeError
  (repeat' split) <;> simp (maxDischargeDepth := 40) +contextual [*]

@[simp ↓] theorem execMemReadRequest_keeps {r : State} (fd : BitVec 4) (addr : BitVec 64) (errs : List (BitVec 8)) {s : State} (hs : Keeps r s) : KeepsO r (execMemReadRequest fd addr errs s) := by
  unfold execMemReadRequest
  repeat' (first
    | assumption
    | (simp (maxDischargeDepth := 40) +contextual [*]; done)
    | apply Keeps.foldl
    | apply Keeps.foldl_pair
    | rw [KeepsO_next]
    | split
    | dsimp only
    | intro _)

@[simp ↓] theorem execMemWriteRequest_keeps {r : State} (fd : BitVec 5) (addr : BitVec 64) (data : List Byte) (errs : List (BitVec 8)) {s : State} (hs : Keeps r s) : KeepsO r (execMemWriteRequest fd addr data errs s) := by
  unfold execMemWriteRequest
  repeat' (first
    | assumption
    | (simp (maxDischargeDepth := 40) +contextual [*]; done)
    | apply Keeps.foldl
    | apply Keeps.foldl_pair
    | rw [KeepsO_next]
    | split
    | dsimp only
    | intro _)

@[simp ↓] theorem execSpareSelfTest_keeps {r : State} (fd : BitVec 4) (phys : BitVec 8) (ok : Bool) {s : State} (hs : Keeps r s) : KeepsO r (execSpareSelfTest fd phys ok s) := by
  unfold execSpareSelfTest
  simp (maxDischargeDepth := 40) +contextual [*]

@[simp ↓] theorem State.loseT1_keeps {r : State} {s : State} (fd : Nat) (hs : Keeps r s) : Keeps r (State.loseT1 s fd) := by
  unfold State.loseT1
  repeat' (first
    | assumption
    | (simp (maxDischargeDepth := 40) +contextual [*]; done)
    | apply Keeps.foldl
    | apply Keeps.foldl_pair
    | split
    | dsimp only
    | intro _)

@[simp ↓] theorem State.retireFd_keeps {r : State} {s : State} (n : Nat) (cause : Nat) (l : Nat) (hs : Keeps r s) : Keeps r (State.retireFd s n cause l) := by
  unfold State.retireFd
  (repeat' split) <;> simp (maxDischargeDepth := 40) +contextual [*]

@[simp ↓] theorem State.returnStart_keeps {r : State} {s : State} (fd : Nat) (phys : Nat) (hs : Keeps r s) : Keeps r (State.returnStart s fd phys) := by
  unfold State.returnStart
  simp (maxDischargeDepth := 40) +contextual [*]

@[simp ↓] theorem execReturnStart_keeps {r : State} (fd : BitVec 4) (phys : BitVec 8) {s : State} (hs : Keeps r s) : KeepsO r (execReturnStart fd phys s) := by
  unfold execReturnStart
  simp (maxDischargeDepth := 40) +contextual [*]

@[simp ↓] theorem execReturnTestDone_keeps {r : State} (fd : BitVec 4) (ok : Bool) {s : State} (hs : Keeps r s) : KeepsO r (execReturnTestDone fd ok s) := by
  unfold execReturnTestDone
  repeat' (first
    | assumption
    | (simp (maxDischargeDepth := 40) +contextual [*]; done)
    | apply Keeps.foldl
    | apply Keeps.foldl_pair
    | rw [KeepsO_next]
    | split
    | dsimp only
    | intro _)

@[simp ↓] theorem State.fromModule_keeps {r : State} {s : State} (m : Nat) (fd : Nat) (hs : Keeps r s) : Keeps r (State.fromModule s m fd) := by
  unfold State.fromModule
  simp (maxDischargeDepth := 40) +contextual [*]

@[simp ↓] theorem execShadowMessageReceive_keeps {r : State} (fd : BitVec 4) (owner : BitVec 18) (mode : BitVec 2) (step : BitVec 64) (q : BitVec 32) (blocks : BitVec 32) (slot : List Byte) {s : State} (hs : Keeps r s) : KeepsO r (execShadowMessageReceive fd owner mode step q blocks slot s) := by
  unfold execShadowMessageReceive
  extract_lets n
  rw [KeepsO_next]
  refine Keeps.ite (fun _ => hs) (fun _ => ?_)
  rcases s.shdServes n owner.toNat with _ | k
  · exact State.inc_keeps _ _ (State.fromModule_keeps _ _ hs)
  · have h : Keeps r (s.fromModule owner.toNat n) := State.fromModule_keeps _ _ hs
    exact Keeps.ite (fun _ => State.sendFrom_keeps _ _ _ _ (State.writeMem_keeps _ _ (State.writeMem_keeps _ _ h)))
      (fun _ => State.writeMem_keeps _ _ (State.writeMem_keeps _ _ h))

@[simp ↓] theorem execShadowAckReceive_keeps {r : State} (fd : BitVec 4) (k : BitVec 3) (step : BitVec 32) {s : State} (hs : Keeps r s) : KeepsO r (execShadowAckReceive fd k step s) := by
  unfold execShadowAckReceive
  simp (maxDischargeDepth := 40) +contextual [*]

@[simp ↓] theorem State.setPull_keeps {r : State} {s : State} (fd : Nat) (r' : PullRun) (hs : Keeps r s) : Keeps r (State.setPull s fd r') := by
  unfold State.setPull
  simp (maxDischargeDepth := 40) +contextual [*]

@[simp ↓] theorem State.pullFails_keeps {r : State} {s : State} (fd : Nat) (hs : Keeps r s) : Keeps r (State.pullFails s fd) := by
  unfold State.pullFails
  simp (maxDischargeDepth := 40) +contextual [*]

@[simp ↓] theorem State.pullAsk_keeps {r : State} {s : State} (fd : Nat) (args : List Nat) (hs : Keeps r s) : Keeps r (State.pullAsk s fd args) := by
  unfold State.pullAsk
  simp (maxDischargeDepth := 40) +contextual [*]

@[simp ↓] theorem State.pullStart_keeps {r : State} {s : State} (fd : Nat) (owner : Nat) (step : Nat) (hs : Keeps r s) : Keeps r (State.pullStart s fd owner step) := by
  unfold State.pullStart
  simp (maxDischargeDepth := 40) +contextual [*]

@[simp ↓] theorem execShdPullStart_keeps {r : State} (fd : BitVec 4) (owner : BitVec 18) (step : BitVec 32) {s : State} (hs : Keeps r s) : KeepsO r (execShdPullStart fd owner step s) := by
  unfold execShdPullStart
  simp (maxDischargeDepth := 40) +contextual [*]

@[simp ↓] theorem execPullRequestReceive_keeps {r : State} (fd : BitVec 4) (module : BitVec 18) (owner : BitVec 18) (stripe : BitVec 3) (step : Option (BitVec 64)) {s : State} (hs : Keeps r s) : KeepsO r (execPullRequestReceive fd module owner stripe step s) := by
  unfold execPullRequestReceive
  repeat' (first
    | assumption
    | (simp (maxDischargeDepth := 40) +contextual [*]; done)
    | apply Keeps.foldl
    | apply Keeps.foldl_pair
    | rw [KeepsO_next]
    | split
    | dsimp only
    | intro _)

@[simp ↓] theorem execPullResponseReceive_keeps {r : State} (fd : BitVec 4) (stripe : BitVec 3) (step : Option (BitVec 64)) {s : State} (hs : Keeps r s) : KeepsO r (execPullResponseReceive fd stripe step s) := by
  unfold execPullResponseReceive
  (repeat' split) <;> simp (maxDischargeDepth := 40) +contextual [*]

@[simp ↓] theorem State.pullJournal_keeps {r : State} {s : State} (fd : Nat) (blocks : Nat) (r' : Nat) (hs : Keeps r s) : Keeps r (State.pullJournal s fd blocks r') := by
  unfold State.pullJournal
  simp (maxDischargeDepth := 40) +contextual [*]

@[simp ↓] theorem execPullStripeReceive_keeps {r : State} (fd : BitVec 4) (stripe : BitVec 3) (ok : Bool) (mode : BitVec 2) (data : List Byte) {s : State} (hs : Keeps r s) : KeepsO r (execPullStripeReceive fd stripe ok mode data s) := by
  unfold execPullStripeReceive
  simp (maxDischargeDepth := 40) +contextual [*]

@[simp ↓] theorem State.peerDiscard_keeps {r : State} {s : State} (p : Nat) (module : Nat) (hs : Keeps r s) : Keeps r (State.peerDiscard s p module) := by
  unfold State.peerDiscard
  simp (maxDischargeDepth := 40) +contextual [*]

@[simp ↓] theorem execPeerDiscard_keeps {r : State} (p : BitVec 2) (module : BitVec 18) {s : State} (hs : Keeps r s) : KeepsO r (execPeerDiscard p module s) := by
  unfold execPeerDiscard
  simp (maxDischargeDepth := 40) +contextual [*]

@[simp ↓] theorem State.setJob_keeps {r : State} {s : State} (q : Nat) (j : IngJob) (hs : Keeps r s) : Keeps r (State.setJob s q j) := by
  unfold State.setJob
  simp (maxDischargeDepth := 40) +contextual [*]

@[simp ↓] theorem State.showRun_keeps {r : State} {s : State} (hs : Keeps r s) : Keeps r (State.showRun s) := by
  unfold State.showRun
  simp (maxDischargeDepth := 40) +contextual [*]

@[simp ↓] theorem State.nvmeEnumerate_keeps {r : State} {s : State} (hs : Keeps r s) : Keeps r (State.nvmeEnumerate s) := by
  unfold State.nvmeEnumerate
  (repeat' split) <;> simp (maxDischargeDepth := 40) +contextual [*]

@[simp ↓] theorem State.ingSwap_keeps {r : State} {s : State} (hs : Keeps r s) : Keeps r (State.ingSwap s) := by
  unfold State.ingSwap
  (repeat' split) <;> simp (maxDischargeDepth := 40) +contextual [*]

@[simp ↓] theorem State.ingStart_keeps {r : State} {s : State} (q : Nat) (hs : Keeps r s) : Keeps r (State.ingStart s q) := by
  unfold State.ingStart
  repeat' (first
    | assumption
    | (simp (maxDischargeDepth := 40) +contextual [*]; done)
    | apply Keeps.foldl
    | apply Keeps.foldl_pair
    | split
    | dsimp only
    | intro _)

@[simp ↓] theorem execIngestStart_keeps {r : State} (q : BitVec 2) {s : State} (hs : Keeps r s) : KeepsO r (execIngestStart q s) := by
  unfold execIngestStart
  simp (maxDischargeDepth := 40) +contextual [*]

@[simp ↓] theorem State.igTrim_keeps {r : State} {s : State} (d : Nat) (q : Nat) (hs : Keeps r s) : Keeps r (State.igTrim s d q) := by
  unfold State.igTrim
  (repeat' split) <;> simp (maxDischargeDepth := 40) +contextual [*]

@[simp ↓] theorem State.igGrant_keeps {r : State} {s : State} (d : Nat) (hs : Keeps r s) : Keeps r (State.igGrant s d) := by
  unfold State.igGrant
  repeat' (first
    | assumption
    | (simp (maxDischargeDepth := 40) +contextual [*]; done)
    | apply Keeps.foldl
    | apply Keeps.foldl_pair
    | split
    | dsimp only
    | intro _)

@[simp ↓] theorem State.igDealDie_keeps {r : State} {s : State} (d : Nat) (hs : Keeps r s) : Keeps r (State.igDealDie s d) := by
  unfold State.igDealDie
  (repeat' split) <;> simp (maxDischargeDepth := 40) +contextual [*]

@[simp ↓] theorem State.igDeal_keeps {r : State} {s : State} (hs : Keeps r s) : Keeps r (State.igDeal s) := by
  exact State.igDealDie_keeps _ (State.igDealDie_keeps _ hs)

@[simp ↓] theorem State.ingDrop_keeps {r : State} {s : State} (q : Nat) (hs : Keeps r s) : Keeps r (State.ingDrop s q) := by
  unfold State.ingDrop
  simp (maxDischargeDepth := 40) +contextual [*]

@[simp ↓] theorem State.ingEnd_keeps {r : State} {s : State} (q : Nat) (hs : Keeps r s) : Keeps r (State.ingEnd s q) := by
  unfold State.ingEnd
  simp (maxDischargeDepth := 40) +contextual [*]

@[simp ↓] theorem State.ingStop_keeps {r : State} {s : State} (q : Nat) (hs : Keeps r s) : Keeps r (State.ingStop s q) := by
  unfold State.ingStop
  simp (maxDischargeDepth := 40) +contextual [*]

@[simp ↓] theorem execIngestStop_keeps {r : State} (q : BitVec 2) {s : State} (hs : Keeps r s) : KeepsO r (execIngestStop q s) := by
  unfold execIngestStop
  simp (maxDischargeDepth := 40) +contextual [*]

@[simp ↓] theorem execIngestStepBegin_keeps {r : State} (q : BitVec 2) {s : State} (hs : Keeps r s) : KeepsO r (execIngestStepBegin q s) := by
  unfold execIngestStepBegin
  repeat' (first
    | assumption
    | (simp (maxDischargeDepth := 40) +contextual [*]; done)
    | apply Keeps.foldl
    | apply Keeps.foldl_pair
    | split
    | dsimp only
    | intro _)

@[simp ↓] theorem State.nvmeErr_keeps {r : State} {s : State} (q : Nat) (c : Nat) (hs : Keeps r s) : Keeps r (State.nvmeErr s q c) := by
  unfold State.nvmeErr
  (repeat' split) <;> simp (maxDischargeDepth := 40) +contextual [*]

@[simp ↓] theorem execNvmeReadComplete_keeps {r : State} (q : BitVec 2) (b : BitVec 12) (ok : Bool) (len : BitVec 32) (data : List Byte) {s : State} (hs : Keeps r s) : KeepsO r (execNvmeReadComplete q b ok len data s) := by
  unfold execNvmeReadComplete
  repeat' (first
    | assumption
    | (simp (maxDischargeDepth := 40) +contextual [*]; done)
    | apply Keeps.foldl
    | apply Keeps.foldl_pair
    | rw [KeepsO_next]
    | split
    | dsimp only
    | intro _)

@[simp ↓] theorem execNvmeControllerLost_keeps {r : State} (ctrl : BitVec 4) {s : State} (hs : Keeps r s) : KeepsO r (execNvmeControllerLost ctrl s) := by
  unfold execNvmeControllerLost
  simp (maxDischargeDepth := 40) +contextual [*]

@[simp ↓] theorem State.countTs_keeps {r : State} {s : State} (d : Nat) (es : List Nat) (hs : Keeps r s) : Keeps r (State.countTs s d es) := by
  unfold State.countTs
  simp (maxDischargeDepth := 40) +contextual [*]

@[simp ↓] theorem State.ingPut_keeps {r : State} {s : State} (q : Nat) (b : Nat) (hs : Keeps r s) : Keeps r (State.ingPut s q b) := by
  unfold State.ingPut
  extract_lets j x o die base ws s1 s2 s3
  have h3 : Keeps r s3 := by
    refine State.countTs_keeps _ _ ?_
    iterate 4 refine State.inc_keeps _ _ ?_
    exact State.storeAll_keeps _ _ _ hs
  clear_value s3
  split
  · exact h3
  · exact Keeps.ite (fun _ => h3) (fun _ => State.raise_keeps _ _ _ (State.setJob_keeps _ _ h3))

@[simp ↓] theorem execIngestStepComplete_keeps {r : State} (q : BitVec 2) {s : State} (hs : Keeps r s) : KeepsO r (execIngestStepComplete q s) := by
  unfold execIngestStepComplete
  simp (maxDischargeDepth := 40) +contextual [*]

@[simp ↓] theorem execFdRetire_keeps {r : State} (fd : BitVec 4) {s : State} (hs : Keeps r s) : KeepsO r (execFdRetire fd s) := by
  unfold execFdRetire
  repeat' (first
    | assumption
    | (simp (maxDischargeDepth := 40) +contextual [*]; done)
    | apply Keeps.foldl
    | apply Keeps.foldl_pair
    | rw [KeepsO_next]
    | split
    | dsimp only
    | intro _)

end Sys2Proof.Machine
end

