-- ==== Sys2Proof/Laws/KeepsH.lean ====
section
/-! SUPPORT. What the operations of Machine/Clear.lean to Machine/Host.lean keep. -/

namespace Sys2Proof.Machine

@[simp ↓] theorem State.resetRegs_keeps {r : State} {s : State} (keep : Nat → BitVec 64) (hs : Keeps r s) : Keeps r (State.resetRegs s keep) := by
  unfold State.resetRegs
  exact hs.trans ⟨rfl, List.prefix_refl _, Nat.le_refl _, fun c => ⟨sparse_wf_remap _ _ _ (fun _ => rfl) c.1, c.2.1, c.2.2⟩⟩

@[simp ↓] theorem State.zeroMem_keeps {r : State} {s : State} (fds : List Nat) (cs : List Clears) (hs : Keeps r s) : Keeps r (State.zeroMem s fds cs) := by
  unfold State.zeroMem
  exact hs.trans ⟨rfl, List.prefix_refl _, Nat.le_refl _, fun c => ⟨c.1, sparse_wf_filter _ _ _ c.2.1, c.2.2⟩⟩

@[simp ↓] theorem State.landWrites_keeps {r : State} {s : State} (fds : List Nat) (hs : Keeps r s) : Keeps r (State.landWrites s fds) := by
  unfold State.landWrites
  simp (maxDischargeDepth := 40) +contextual [*]

@[simp ↓] theorem State.dropLines_keeps {r : State} {s : State} (fds : List Nat) (hs : Keeps r s) : Keeps r (State.dropLines s fds) := by
  unfold State.dropLines
  simp (maxDischargeDepth := 40) +contextual [*]

@[simp ↓] theorem State.dropFds_keeps {r : State} {s : State} (fds : List Nat) (hs : Keeps r s) : Keeps r (State.dropFds s fds) := by
  unfold State.dropFds
  simp (maxDischargeDepth := 40) +contextual [*]

@[simp ↓] theorem State.clearFds_keeps {r : State} {s : State} (fds : List Nat) (wipe : Bool) (hs : Keeps r s) : Keeps r (State.clearFds s fds wipe) := by
  unfold State.clearFds
  simp (maxDischargeDepth := 40) +contextual [*]

@[simp ↓] theorem State.latchParcel_keeps {r : State} {s : State} (p : Nat) (hs : Keeps r s) : Keeps r (State.latchParcel s p) := by
  unfold State.latchParcel
  simp (maxDischargeDepth := 40) +contextual [*]

@[simp ↓] theorem State.stopParcel_keeps {r : State} {s : State} (p : Nat) (hs : Keeps r s) : Keeps r (State.stopParcel s p) := by
  unfold State.stopParcel
  simp (maxDischargeDepth := 40) +contextual [*]

@[simp ↓] theorem State.discardReset_keeps {r : State} {s : State} (hs : Keeps r s) : Keeps r (State.discardReset s) := by
  unfold State.discardReset
  simp (maxDischargeDepth := 40) +contextual [*]

@[simp ↓] theorem State.parcelBusy_keeps {r : State} {s : State} (p : Nat) (hs : Keeps r s) : Keeps r (State.parcelBusy s p) := by
  unfold State.parcelBusy
  simp (maxDischargeDepth := 40) +contextual [*]

@[simp ↓] theorem State.resetSet_keeps {r : State} {s : State} (f : Nat) (hs : Keeps r s) : Keeps r (State.resetSet s f) := by
  unfold State.resetSet
  simp (maxDischargeDepth := 40) +contextual [*]

@[simp ↓] theorem State.dropHeld_keeps {r : State} {s : State} (f : Nat) (hs : Keeps r s) : Keeps r (State.dropHeld s f) := by
  unfold State.dropHeld
  simp (maxDischargeDepth := 40) +contextual [*]

@[simp ↓] theorem State.updSec_keeps {r : State} {s : State} (f : Sec → Sec) (hs : Keeps r s) : Keeps r (State.updSec s f) := by
  unfold State.updSec
  simp (maxDischargeDepth := 40) +contextual [*]

@[simp ↓] theorem State.showGrants_keeps {r : State} {s : State} (hs : Keeps r s) : Keeps r (State.showGrants s) := by
  unfold State.showGrants
  simp (maxDischargeDepth := 40) +contextual [*]

@[simp ↓] theorem State.endGrants_keeps {r : State} {s : State} (hs : Keeps r s) : Keeps r (State.endGrants s) := by
  unfold State.endGrants
  simp (maxDischargeDepth := 40) +contextual [*]

@[simp ↓] theorem State.nonceReq_keeps {r : State} {s : State} (hs : Keeps r s) : Keeps r (State.nonceReq s) := by
  unfold State.nonceReq
  simp (maxDischargeDepth := 40) +contextual [*]

@[simp ↓] theorem execNonceReq_keeps {r : State} {s : State} (hs : Keeps r s) : KeepsO r (execNonceReq s) := by
  unfold execNonceReq
  simp (maxDischargeDepth := 40) +contextual [*]

@[simp ↓] theorem execNonceExpiry_keeps {r : State} {s : State} (hs : Keeps r s) : KeepsO r (execNonceExpiry s) := by
  unfold execNonceExpiry
  simp (maxDischargeDepth := 40) +contextual [*]

@[simp ↓] theorem State.tokenSubmit_keeps {r : State} {s : State} (hs : Keeps r s) : Keeps r (State.tokenSubmit s) := by
  unfold State.tokenSubmit
  simp (maxDischargeDepth := 40) +contextual [*]

@[simp ↓] theorem execTokenSubmit_keeps {r : State} {s : State} (hs : Keeps r s) : KeepsO r (execTokenSubmit s) := by
  unfold execTokenSubmit
  simp (maxDischargeDepth := 40) +contextual [*]

@[simp ↓] theorem State.acceptToken_keeps {r : State} {s : State} (signer : Nat) (slot : Nat) (scope : Nat) (dur : Nat) (hs : Keeps r s) : Keeps r (State.acceptToken s signer slot scope dur) := by
  unfold State.acceptToken
  simp (maxDischargeDepth := 40) +contextual [*]

@[simp ↓] theorem execTokenVerificationDone_keeps {r : State} {s : State} (hs : Keeps r s) : KeepsO r (execTokenVerificationDone s) := by
  unfold execTokenVerificationDone
  (repeat' split) <;> simp (maxDischargeDepth := 40) +contextual [*]

@[simp ↓] theorem execTokenLockoutEnd_keeps {r : State} {s : State} (hs : Keeps r s) : KeepsO r (execTokenLockoutEnd s) := by
  unfold execTokenLockoutEnd
  simp (maxDischargeDepth := 40) +contextual [*]

@[simp ↓] theorem execGrantExpiry_keeps {r : State} (sec : BitVec 32) {s : State} (hs : Keeps r s) : KeepsO r (execGrantExpiry sec s) := by
  unfold execGrantExpiry
  simp (maxDischargeDepth := 40) +contextual [*]

@[simp ↓] theorem execRelock_keeps {r : State} {s : State} (hs : Keeps r s) : KeepsO r (execRelock s) := by
  unfold execRelock
  simp (maxDischargeDepth := 40) +contextual [*]

@[simp ↓] theorem execDecommission_keeps {r : State} {s : State} (hs : Keeps r s) : KeepsO r (execDecommission s) := by
  unfold execDecommission
  simp (maxDischargeDepth := 40) +contextual [*]

@[simp ↓] theorem State.svnCommit_keeps {r : State} {s : State} (hs : Keeps r s) : Keeps r (State.svnCommit s) := by
  unfold State.svnCommit
  simp (maxDischargeDepth := 40) +contextual [*]

@[simp ↓] theorem execSvnCommit_keeps {r : State} {s : State} (hs : Keeps r s) : KeepsO r (execSvnCommit s) := by
  unfold execSvnCommit
  simp (maxDischargeDepth := 40) +contextual [*]

@[simp ↓] theorem State.toField_keeps {r : State} {s : State} (hs : Keeps r s) : Keeps r (State.toField s) := by
  unfold State.toField
  simp (maxDischargeDepth := 40) +contextual [*]

@[simp ↓] theorem execToField_keeps {r : State} {s : State} (hs : Keeps r s) : KeepsO r (execToField s) := by
  unfold execToField
  simp (maxDischargeDepth := 40) +contextual [*]

@[simp ↓] theorem execSecLockWrite_keeps {r : State} (lock : Bool) {s : State} (hs : Keeps r s) : KeepsO r (execSecLockWrite lock s) := by
  unfold execSecLockWrite
  simp (maxDischargeDepth := 40) +contextual [*]

@[simp ↓] theorem execRotSelftestFailure_keeps {r : State} {s : State} (hs : Keeps r s) : KeepsO r (execRotSelftestFailure s) := by
  unfold execRotSelftestFailure
  simp (maxDischargeDepth := 40) +contextual [*]

@[simp ↓] theorem State.setClearing_keeps {r : State} {s : State} (p : Nat) (on : Bool) (hs : Keeps r s) : Keeps r (State.setClearing s p on) := by
  unfold State.setClearing
  simp (maxDischargeDepth := 40) +contextual [*]

@[simp ↓] theorem State.clearParcel_keeps {r : State} {s : State} (p : Nat) (fds : List Nat) (wipe : Bool) (hs : Keeps r s) : Keeps r (State.clearParcel s p fds wipe) := by
  unfold State.clearParcel
  simp (maxDischargeDepth := 40) +contextual [*]

@[simp ↓] theorem execTenantClear_keeps {r : State} (mask : BitVec 4) (wipe : Bool) {s : State} (hs : Keeps r s) : KeepsO r (execTenantClear mask wipe s) := by
  unfold execTenantClear
  simp (maxDischargeDepth := 40) +contextual [*]

@[simp ↓] theorem execTenantClearDone_keeps {r : State} (p : BitVec 2) {s : State} (hs : Keeps r s) : KeepsO r (execTenantClearDone p s) := by
  unfold execTenantClearDone
  simp (maxDischargeDepth := 40) +contextual [*]

@[simp ↓] theorem State.arbDiscard_keeps {r : State} {s : State} (q : Req) (cls : Nat) (a : Nat) (v : BitVec 64) (hs : Keeps r s) : Keeps r (State.arbDiscard s q cls a v) := by
  unfold State.arbDiscard
  simp (maxDischargeDepth := 40) +contextual [*]

@[simp ↓] theorem State.trainPorts_keeps {r : State} {s : State} (hs : Keeps r s) : Keeps r (State.trainPorts s) := by
  unfold State.trainPorts
  simp (maxDischargeDepth := 40) +contextual [*]

@[simp ↓] theorem State.moduleNumWrite_keeps {r : State} {s : State} (q : Req) (w : BitVec 64) (v : BitVec 64) (hs : Keeps r s) : Keeps r (State.moduleNumWrite s q w v) := by
  unfold State.moduleNumWrite
  simp (maxDischargeDepth := 40) +contextual [*]

@[simp ↓] theorem execModuleNumWrite_keeps {r : State} (q : Req) (v : BitVec 64) {s : State} (hs : Keeps r s) : KeepsO r (execModuleNumWrite q v s) := by
  unfold execModuleNumWrite
  (repeat' split) <;> simp (maxDischargeDepth := 40) +contextual [*]

@[simp ↓] theorem State.splitWrite_keeps {r : State} {s : State} (new : Nat) (hs : Keeps r s) : Keeps r (State.splitWrite s new) := by
  unfold State.splitWrite
  repeat' (first
    | assumption
    | (simp (maxDischargeDepth := 40) +contextual [*]; done)
    | apply Keeps.foldl
    | apply Keeps.foldl_pair
    | split
    | dsimp only
    | intro _)

@[simp ↓] theorem execParcelCfgWrite_keeps {r : State} (q : Req) (split : BitVec 3) {s : State} (hs : Keeps r s) : KeepsO r (execParcelCfgWrite q split s) := by
  unfold execParcelCfgWrite
  (repeat' split) <;> simp (maxDischargeDepth := 40) +contextual [*]

@[simp ↓] theorem execParcelClearingEnd_keeps {r : State} {s : State} (hs : Keeps r s) : KeepsO r (execParcelClearingEnd s) := by
  unfold execParcelClearingEnd
  simp (maxDischargeDepth := 40) +contextual [*]

@[simp ↓] theorem State.doorbell_keeps {r : State} {s : State} (p : Nat) (q : Nat) (tail : Nat) (hs : Keeps r s) : Keeps r (State.doorbell s p q tail) := by
  unfold State.doorbell
  simp (maxDischargeDepth := 40) +contextual [*]

@[simp ↓] theorem State.tqTake_keeps {r : State} {s : State} (p : Nat) (q : Nat) (hs : Keeps r s) : Keeps r (State.tqTake s p q) := by
  unfold State.tqTake
  simp (maxDischargeDepth := 40) +contextual [*]

@[simp ↓] theorem State.tqSweep_keeps {r : State} (p : Nat) (q : Nat) (a2 : Nat) {a3 : State} (ha3 : Keeps r a3) : Keeps r (State.tqSweep p q a2 a3) := by
  induction a2 generalizing a3 with
  | zero => exact ha3
  | succ n ih =>
    unfold State.tqSweep
    exact Keeps.ite (fun _ => ih (State.tqTake_keeps _ _ (State.tqStatus_keeps _ _ ha3))) (fun _ => ha3)

@[simp ↓] theorem State.tqSweepAll_keeps {r : State} {s : State} (hs : Keeps r s) : Keeps r (State.tqSweepAll s) := by
  unfold State.tqSweepAll
  simp (maxDischargeDepth := 40) +contextual [*]

@[simp ↓] theorem State.tqHead_keeps {r : State} {s : State} (p : Nat) (q : Nat) (op : Nat) (hs : Keeps r s) : Keeps r (State.tqHead s p q op).1 := by
  unfold State.tqHead
  simp (maxDischargeDepth := 40) +contextual [*]

@[simp ↓] theorem execTqDoorbell_keeps {r : State} (req : Req) (p : BitVec 2) (q : BitVec 1) (tail : BitVec 16) {s : State} (hs : Keeps r s) : KeepsO r (execTqDoorbell req p q tail s) := by
  unfold execTqDoorbell
  simp (maxDischargeDepth := 40) +contextual [*]

@[simp ↓] theorem State.unpark_keeps {r : State} {s : State} (fd : Nat) (hs : Keeps r s) : Keeps r (State.unpark s fd) := by
  unfold State.unpark
  simp (maxDischargeDepth := 40) +contextual [*]

@[simp ↓] theorem execSubmit_keeps {r : State} (p : BitVec 2) {s : State} (hs : Keeps r s) : KeepsO r (execSubmit p s) := by
  unfold execSubmit
  extract_lets n
  rw [KeepsO_next]
  have h1 := State.tqHead_keeps n 0 opSubmit hs
  generalize s.tqHead n 0 opSubmit = x at h1 ⊢
  obtain ⟨t, _ | e⟩ := x
  · exact h1
  · exact Keeps.ite (fun _ => h1) (fun _ => State.tqSweep_keeps _ _ _ (State.submit_keeps _
      (Keeps.foldl _ _ (fun _ _ h => State.unpark_keeps _ h) (State.tqTake_keeps _ _ h1))))

@[simp ↓] theorem State.tqControl_keeps {r : State} {s : State} (p : Nat) (op : Nat) (act : List Byte → Nat → State → State × Option Nat) (hs : Keeps r s) (hact : ∀ y0 y1 y2, Keeps r y2 → Keeps r (act y0 y1 y2).1) : Keeps r (State.tqControl s p op act) := by
  unfold State.tqControl
  have h1 := State.tqHead_keeps p 1 op hs
  generalize s.tqHead p 1 op = x at h1 ⊢
  obtain ⟨t, _ | e⟩ := x
  · exact h1
  · refine State.tqSweep_keeps _ _ _ ?_
    have h2 := hact e (t.tqSlot p 1 + 1) (t.tqTake p 1) (State.tqTake_keeps _ _ h1)
    generalize act e (t.tqSlot p 1 + 1) (t.tqTake p 1) = y at h2 ⊢
    obtain ⟨u, _ | st⟩ := y
    · exact h2
    · exact State.tqStatus_keeps _ _ h2

@[simp ↓] theorem execAbandon_keeps {r : State} (p : BitVec 2) {s : State} (hs : Keeps r s) : KeepsO r (execAbandon p s) := by
  unfold execAbandon
  extract_lets n
  rw [KeepsO_next]
  refine State.tqControl_keeps _ _ _ hs (fun _ slot s h => ?_)
  exact Keeps.ite_fst (fun _ => h) (fun _ => Keeps.ite_fst (fun _ => Keeps.mk (h := h) ..)
    (fun _ => State.raise_keeps _ _ _ (State.endTraverse_keeps _ h)))

@[simp ↓] theorem State.goAgain_keeps {r : State} {s : State} (p : Nat) (hs : Keeps r s) : Keeps r (State.goAgain s p) := by
  unfold State.goAgain
  simp (maxDischargeDepth := 40) +contextual [*]

@[simp ↓] theorem execResume_keeps {r : State} (p : BitVec 2) {s : State} (hs : Keeps r s) : KeepsO r (execResume p s) := by
  unfold execResume
  extract_lets n
  rw [KeepsO_next]
  refine State.tqControl_keeps _ _ _ hs (fun _ slot s h => ?_)
  exact Keeps.ite_fst (fun _ => h) (fun _ => State.goAgain_keeps _ (Keeps.foldl _ _ (fun t k ht =>
    State.updStn_keeps _ _ (State.wr_keeps _ _ (Keeps.ite (fun _ => State.advance_keeps _ ht) (fun _ => ht)))) h))

@[simp ↓] theorem execResumeBarrier_keeps {r : State} (p : BitVec 2) {s : State} (hs : Keeps r s) : KeepsO r (execResumeBarrier p s) := by
  unfold execResumeBarrier
  extract_lets n
  rw [KeepsO_next]
  refine State.tqControl_keeps _ _ _ hs (fun _ slot s h => ?_)
  refine Keeps.ite_fst (fun _ => h) (fun _ => State.goAgain_keeps _ (Keeps.foldl _ _ (fun t k ht => ?_) h))
  rcases (t.lst k.num).barrec with _ | b
  · exact ht
  · exact State.replay445_keeps _ _ (State.leaveXp_keeps _ (State.updStn_keeps _ _ (State.wr_keeps _ _ ht)))

@[simp ↓] theorem execAuRelease_keeps {r : State} (p : BitVec 2) {s : State} (hs : Keeps r s) : KeepsO r (execAuRelease p s) := by
  unfold execAuRelease
  extract_lets n
  rw [KeepsO_next]
  refine State.tqControl_keeps _ _ _ hs (fun _ slot s h => ?_)
  exact Keeps.ite_fst (fun _ => h) (fun _ => Keeps.foldl _ _ (fun _ _ ht => State.auRelease_keeps _ _ ht) h)

@[simp ↓] theorem State.rearm_keeps {r : State} {s : State} (f : Nat) (r' : Nat) (hs : Keeps r s) : Keeps r (State.rearm s f r') := by
  unfold State.rearm
  simp (maxDischargeDepth := 40) +contextual [*]

@[simp ↓] theorem State.updRing_keeps {r : State} {s : State} (f : Nat) (r' : Nat) (g : RingSig → RingSig) (hs : Keeps r s) : Keeps r (State.updRing s f r' g) := by
  unfold State.updRing
  simp (maxDischargeDepth := 40) +contextual [*]

@[simp ↓] theorem State.evqHead_keeps {r : State} {s : State} (f : Nat) (r' : Nat) (hd : Nat) (hs : Keeps r s) : Keeps r (State.evqHead s f r' hd) := by
  unfold State.evqHead
  simp (maxDischargeDepth := 40) +contextual [*]

@[simp ↓] theorem execEvqHeadWrite_keeps {r : State} (req : Req) (f : BitVec 3) (r' : BitVec 2) (hd : BitVec 16) {s : State} (hs : Keeps r s) : KeepsO r (execEvqHeadWrite req f r' hd s) := by
  unfold execEvqHeadWrite
  simp (maxDischargeDepth := 40) +contextual [*]

@[simp ↓] theorem State.evqCfg_keeps {r : State} {s : State} (f : Nat) (r' : Nat) (v : BitVec 64) (hs : Keeps r s) : Keeps r (State.evqCfg s f r' v) := by
  unfold State.evqCfg
  simp (maxDischargeDepth := 40) +contextual [*]

@[simp ↓] theorem execEvqCfgWrite_keeps {r : State} (req : Req) (f : BitVec 3) (r' : BitVec 2) (v : BitVec 64) {s : State} (hs : Keeps r s) : KeepsO r (execEvqCfgWrite req f r' v s) := by
  unfold execEvqCfgWrite
  simp (maxDischargeDepth := 40) +contextual [*]

@[simp ↓] theorem execMsixHoldoffExpiry_keeps {r : State} (f : BitVec 3) (r' : BitVec 2) {s : State} (hs : Keeps r s) : KeepsO r (execMsixHoldoffExpiry f r' s) := by
  unfold execMsixHoldoffExpiry
  simp (maxDischargeDepth := 40) +contextual [*]

@[simp ↓] theorem State.bar2_keeps {r : State} {s : State} (q : Req) (off : Nat) (len : Nat) (data : List Byte) (hs : Keeps r s) : Keeps r (State.bar2 s q off len data) := by
  unfold State.bar2
  extract_lets f fail n a who k
  have hf : Keeps r fail := State.send_keeps _ hs
  clear_value fail
  exact Keeps.ite (fun _ => hs) (fun _ => Keeps.ite (fun _ => hf) (fun _ => Keeps.ite (fun _ => hf) (fun _ => Keeps.ite (fun _ => hf) (fun _ =>
    Keeps.ite (fun _ => State.sendRemote_keeps _ hs) (fun _ => Keeps.ite
      (fun _ => Keeps.ite (fun _ => State.send_keeps _ hs) (fun _ => Keeps.ite (fun _ => hs) (fun _ => State.settle_keeps (State.wroteRun_keeps _ _ _ _ _ hs))))
      (fun _ => Keeps.ite (fun _ => hf) (fun _ => Keeps.ite (fun _ => State.send_keeps _ (State.noteRead_keeps _ _ _ _ hs))
        (fun _ => State.settle_keeps (State.wroteRun_keeps _ _ _ _ _ hs)))))))))

@[simp ↓] theorem execBar2Access_keeps {r : State} (req : Req) (off : BitVec 40) (len : BitVec 13) (data : List Byte) {s : State} (hs : Keeps r s) : KeepsO r (execBar2Access req off len data s) := by
  unfold execBar2Access
  simp (maxDischargeDepth := 40) +contextual [*]

@[simp ↓] theorem State.linkReset_keeps {r : State} {s : State} (hs : Keeps r s) : Keeps r (State.linkReset s) := by
  unfold State.linkReset
  simp (maxDischargeDepth := 40) +contextual [*]

@[simp ↓] theorem execHostLinkDown_keeps {r : State} {s : State} (hs : Keeps r s) : KeepsO r (execHostLinkDown s) := by
  unfold execHostLinkDown
  simp (maxDischargeDepth := 40) +contextual [*]

@[simp ↓] theorem execHostLinkRestored_keeps {r : State} {s : State} (hs : Keeps r s) : KeepsO r (execHostLinkRestored s) := by
  unfold execHostLinkRestored
  simp (maxDischargeDepth := 40) +contextual [*]

@[simp ↓] theorem State.flrSet_keeps {r : State} {s : State} (f : Nat) (hs : Keeps r s) : Keeps r (State.flrSet s f) := by
  unfold State.flrSet
  simp (maxDischargeDepth := 40) +contextual [*]

@[simp ↓] theorem execFlrPf_keeps {r : State} {s : State} (hs : Keeps r s) : KeepsO r (execFlrPf s) := by
  unfold execFlrPf
  simp (maxDischargeDepth := 40) +contextual [*]

@[simp ↓] theorem execFlrVf_keeps {r : State} (p : BitVec 2) {s : State} (hs : Keeps r s) : KeepsO r (execFlrVf p s) := by
  unfold execFlrVf
  simp (maxDischargeDepth := 40) +contextual [*]

@[simp ↓] theorem execSriovVfEnable_keeps {r : State} (n : BitVec 3) {s : State} (hs : Keeps r s) : KeepsO r (execSriovVfEnable n s) := by
  unfold execSriovVfEnable
  simp (maxDischargeDepth := 40) +contextual [*]

@[simp ↓] theorem execAtsInvalidateRequest_keeps {r : State} (fn : BitVec 3) (page : BitVec 52) (count : BitVec 52) {s : State} (hs : Keeps r s) : KeepsO r (execAtsInvalidateRequest fn page count s) := by
  unfold execAtsInvalidateRequest
  simp (maxDischargeDepth := 40) +contextual [*]

end Sys2Proof.Machine
end

