-- ==== Sys2Proof/Laws/KeepsI.lean ====
section
/-! SUPPORT. What the operations of Machine/Uplink.lean to Machine/Readback.lean keep. -/

namespace Sys2Proof.Machine

@[simp ↓] theorem State.putAgain_keeps {r : State} {s : State} (c : Ctx) (seq : Nat) (hs : Keeps r s) : Keeps r (State.putAgain s c seq) := by
  unfold State.putAgain
  (repeat' split) <;> simp (maxDischargeDepth := 40) +contextual [*]

@[simp ↓] theorem State.replyCtx_keeps {r : State} {s : State} (c : Ctx) (nak : Bool) (hs : Keeps r s) : Keeps r (State.replyCtx s c nak) := by
  unfold State.replyCtx
  (repeat' split) <;> simp (maxDischargeDepth := 40) +contextual [*]

@[simp ↓] theorem State.flushPlane_keeps {r : State} {s : State} (plane : Nat) (hs : Keeps r s) : Keeps r (State.flushPlane s plane) := by
  unfold State.flushPlane
  extract_lets s1 s2
  have h1 : Keeps r s1 := Keeps.foldl _ _ (fun t c h => by
    rcases c.owed with _ | q
    · exact h
    · exact State.putAgain_keeps _ _ h) hs
  clear_value s1
  exact State.flushUplink_keeps _ (Keeps.foldl _ _ (fun t c h => by
    rcases c.reply with _ | q
    · exact h
    · exact State.replyCtx_keeps _ _ h) h1)

@[simp ↓] theorem State.showUplink_keeps {r : State} {s : State} (k : Nat) (hs : Keeps r s) : Keeps r (State.showUplink s k) := by
  unfold State.showUplink
  simp (maxDischargeDepth := 40) +contextual [*]

@[simp ↓] theorem State.showUplinks_keeps {r : State} {s : State} (hs : Keeps r s) : Keeps r (State.showUplinks s) := by
  unfold State.showUplinks
  simp (maxDischargeDepth := 40) +contextual [*]

@[simp ↓] theorem State.moveCtxs_keeps {r : State} {s : State} (plane : Nat) (q : Option Nat) (hs : Keeps r s) : Keeps r (State.moveCtxs s plane q) := by
  unfold State.moveCtxs
  rcases q with _ | q
  · exact State.holdLost_keeps hs
  · exact State.offerCtxs_keeps (Keeps.foldl _ _ (fun _ _ h => State.txFrame_keeps _ _ _ _ _ (State.showCtxs_keeps (Keeps.mk (h := h) ..)))
      (Keeps.mk (h := hs) ..))

@[simp ↓] theorem execUplinkUp_keeps {r : State} (plane : BitVec 2) {s : State} (hs : Keeps r s) : KeepsO r (execUplinkUp plane s) := by
  unfold execUplinkUp
  repeat' (first
    | assumption
    | (simp (maxDischargeDepth := 40) +contextual [*]; done)
    | apply Keeps.foldl
    | apply Keeps.foldl_pair
    | split
    | dsimp only
    | intro _)

@[simp ↓] theorem State.uplinkStops_keeps {r : State} {s : State} (plane st : Nat) (hs : Keeps r s) : Keeps r (State.uplinkStops s plane st) := by
  unfold State.uplinkStops
  exact State.tellLost_keeps (State.moveCtxs_keeps _ _ (State.wr_keeps _ _ (State.wr_keeps _ _ hs))) hs

@[simp ↓] theorem State.uplinkFails_keeps {r : State} {s : State} (plane : Nat) (hs : Keeps r s) : Keeps r (State.uplinkFails s plane) := by
  unfold State.uplinkFails
  exact State.uplinkStops_keeps _ _ (State.portEvent_keeps _ _ hs)

@[simp ↓] theorem State.enablePort_keeps {r : State} {s : State} (n : Nat) (en : Bool) (hs : Keeps r s) : Keeps r (State.enablePort s n en) := by
  unfold State.enablePort
  repeat' (first
    | (simp (maxDischargeDepth := 40) +contextual [*]; done)
    | split
    | dsimp only)

@[simp ↓] theorem execPortEnable_keeps {r : State} (k : BitVec 4) (en : Bool) {s : State} (hs : Keeps r s) : KeepsO r (execPortEnable k en s) := by
  unfold execPortEnable
  simp (maxDischargeDepth := 40) +contextual [*]

@[simp ↓] theorem execUplinkDown_keeps {r : State} (plane : BitVec 2) {s : State} (hs : Keeps r s) : KeepsO r (execUplinkDown plane s) := by
  unfold execUplinkDown
  simp (maxDischargeDepth := 40) +contextual [*]

@[simp ↓] theorem State.laneShows_keeps {r : State} {s : State} (n : Nat) (l : Nat) (uncorr : Nat) (lockLost : Bool) (hs : Keeps r s) : Keeps r (State.laneShows s n l uncorr lockLost) := by
  unfold State.laneShows
  extract_lets s1 s2 s3 live
  have h1 : Keeps r s1 := State.inc_keeps _ _ hs
  clear_value s1
  have h3 : Keeps r s3 := State.portEvent_keeps _ _ (State.wr_keeps _ _ (State.wr_keeps _ _ h1))
  clear_value s3
  refine Keeps.ite (fun _ => h1) (fun _ => Keeps.ite (fun _ => Keeps.ite (fun _ => State.uplinkFails_keeps _ h1) (fun _ => h1))
    (fun _ => Keeps.ite (fun _ => h1) (fun _ => Keeps.ite (fun _ => State.portFails_keeps _ h3) (fun _ => Keeps.ite (fun _ => h3) (fun _ => ?_)))))
  rcases (s3.port n).unacked.head? with _ | x
  · exact h3
  · exact State.replay_keeps _ _ h3

@[simp ↓] theorem execLaneRetire_keeps {r : State} (k : BitVec 4) (lane : BitVec 2) (uncorr : BitVec 32) (lockLost : Bool) {s : State} (hs : Keeps r s) : KeepsO r (execLaneRetire k lane uncorr lockLost s) := by
  unfold execLaneRetire
  rw [KeepsO_next]
  exact State.inc_keeps _ _ (State.laneShows_keeps _ _ _ _ (State.free_keeps hs))

@[simp ↓] theorem State.ackCtx_keeps {r : State} {s : State} (plane : Nat) (peer : Nat) (vc : Nat) (seq : Nat) (hs : Keeps r s) : Keeps r (State.ackCtx s plane peer vc seq) := by
  unfold State.ackCtx
  repeat' (first
    | assumption
    | (simp (maxDischargeDepth := 40) +contextual [*]; done)
    | apply Keeps.foldl
    | apply Keeps.foldl_pair
    | split
    | dsimp only
    | intro _)

@[simp ↓] theorem State.nakCtx_keeps {r : State} {s : State} (c : Ctx) (hs : Keeps r s) : Keeps r (State.nakCtx s c) := by
  unfold State.nakCtx
  simp (maxDischargeDepth := 40) +contextual [*]

@[simp ↓] theorem execUplinkFrameReceive_keeps {r : State} (plane : BitVec 2) (f : List Byte) {s : State} (hs : Keeps r s) : KeepsO r (execUplinkFrameReceive plane f s) := by
  unfold execUplinkFrameReceive
  extract_lets q k src vc
  rw [KeepsO_next]
  refine Keeps.ite (fun _ => hs) (fun _ => Keeps.ite (fun _ => State.inc_keeps _ _ hs) (fun _ => ?_))
  have h1 := State.openCtx_keeps q src vc hs
  generalize s.openCtx q src vc = x at h1 ⊢
  obtain ⟨t, _ | c⟩ := x
  · exact h1
  · dsimp -zeta only
    extract_lets t1 t2 t3 t4
    have h2 : Keeps r t1 := State.ackCtx_keeps _ _ _ _ h1
    clear_value t1
    have h3 : Keeps r t2 := Keeps.ite (fun _ => State.flushUplink_keeps _ h2) (fun _ => h2)
    clear_value t2
    have h4 : Keeps r t3 := by
      show Keeps r (match t2.ctx q src vc with
        | some c => t2.setCtx { c with rxSeq := (c.rxSeq + 1) % 2 ^ 32, nakSent := false }
        | none => t2)
      rcases t2.ctx q src vc with _ | c'
      · exact h3
      · exact State.setCtx_keeps _ h3
    clear_value t3
    have h5 : Keeps r t4 := Keeps.foldl _ _ (fun _ _ h =>
      Keeps.ite (fun _ => State.takeFlit_keeps _ (State.inc_keeps _ _ h)) (fun _ => State.inc_keeps _ _ h)) h4
    clear_value t4
    refine Keeps.ite (fun _ => ?_) (fun _ => ?_)
    · rcases t2.ctx q src vc with _ | c'
      · exact h3
      · exact State.nakCtx_keeps _ h3
    · rcases t4.ctx q src vc with _ | c'
      · exact h5
      · exact State.replyCtx_keeps _ _ h5

@[simp ↓] theorem State.resend_keeps {r : State} {s : State} (c : Ctx) (seq : Nat) (hs : Keeps r s) : Keeps r (State.resend s c seq) := by
  unfold State.resend
  (repeat' (first | split | dsimp only)) <;> simp (maxDischargeDepth := 40) +contextual [*]

@[simp ↓] theorem execE2eNakReceive_keeps {r : State} (plane : BitVec 2) (peer : BitVec 18) (vc : BitVec 3) (seq : BitVec 32) {s : State} (hs : Keeps r s) : KeepsO r (execE2eNakReceive plane peer vc seq s) := by
  unfold execE2eNakReceive
  repeat' (first
    | assumption
    | (simp (maxDischargeDepth := 40) +contextual [*]; done)
    | apply Keeps.foldl
    | apply Keeps.foldl_pair
    | split
    | dsimp only
    | intro _)

@[simp ↓] theorem execE2eRtoExpiry_keeps {r : State} (plane : BitVec 2) (peer : BitVec 18) (vc : BitVec 3) {s : State} (hs : Keeps r s) : KeepsO r (execE2eRtoExpiry plane peer vc s) := by
  unfold execE2eRtoExpiry
  (repeat' split) <;> simp (maxDischargeDepth := 40) +contextual [*]

@[simp ↓] theorem execE2eContextClose_keeps {r : State} (plane : BitVec 2) (peer : BitVec 18) (vc : BitVec 3) {s : State} (hs : Keeps r s) : KeepsO r (execE2eContextClose plane peer vc s) := by
  unfold execE2eContextClose
  repeat' (first
    | assumption
    | (simp (maxDischargeDepth := 40) +contextual [*]; done)
    | apply Keeps.foldl
    | apply Keeps.foldl_pair
    | split
    | dsimp only
    | intro _)

@[simp ↓] theorem execPfcFrameReceive_keeps {r : State} (plane : BitVec 2) (enable : BitVec 8) (quanta : BitVec 128) {s : State} (hs : Keeps r s) : KeepsO r (execPfcFrameReceive plane enable quanta s) := by
  unfold execPfcFrameReceive
  simp (maxDischargeDepth := 40) +contextual [*]

@[simp ↓] theorem execPfcPauseExpiry_keeps {r : State} (plane : BitVec 2) (vc : BitVec 3) {s : State} (hs : Keeps r s) : KeepsO r (execPfcPauseExpiry plane vc s) := by
  unfold execPfcPauseExpiry
  simp (maxDischargeDepth := 40) +contextual [*]

@[simp ↓] theorem execPauseFrameReceive_keeps {r : State} (plane : BitVec 2) {s : State} (hs : Keeps r s) : KeepsO r (execPauseFrameReceive plane s) := by
  unfold execPauseFrameReceive
  simp (maxDischargeDepth := 40) +contextual [*]

@[simp ↓] theorem State.updMer_keeps {r : State} {s : State} (f : Mer → Mer) (hs : Keeps r s) : Keeps r (State.updMer s f) := by
  unfold State.updMer
  simp (maxDischargeDepth := 40) +contextual [*]

@[simp ↓] theorem State.stepMeridian_keeps {r : State} {s : State} (v : BitVec 64) (hs : Keeps r s) : Keeps r (State.stepMeridian s v) := by
  unfold State.stepMeridian
  simp (maxDischargeDepth := 40) +contextual [*]

@[simp ↓] theorem State.setRefOffset_keeps {r : State} {s : State} (o : Int) (hs : Keeps r s) : Keeps r (State.setRefOffset s o) := by
  unfold State.setRefOffset
  simp (maxDischargeDepth := 40) +contextual [*]

@[simp ↓] theorem State.discipline_keeps {r : State} {s : State} (o : Int) (ppm : Nat) (slew : Bool) (hs : Keeps r s) : Keeps r (State.discipline s o ppm slew) := by
  unfold State.discipline
  simp (maxDischargeDepth := 40) +contextual [*]

@[simp ↓] theorem State.sendStamps_keeps {r : State} {s : State} (k : Nat) (t1 : BitVec 64) (t4 : BitVec 64) (hs : Keeps r s) : Keeps r (State.sendStamps s k t1 t4) := by
  unfold State.sendStamps
  simp (maxDischargeDepth := 40) +contextual [*]

@[simp ↓] theorem execMeridianStampExchange_keeps {r : State} (k : BitVec 4) (t1 : BitVec 64) (t2 : BitVec 64) (t3 : BitVec 64) (t4 : BitVec 64) {s : State} (hs : Keeps r s) : KeepsO r (execMeridianStampExchange k t1 t2 t3 t4 s) := by
  unfold execMeridianStampExchange
  simp (maxDischargeDepth := 40) +contextual [*]

@[simp ↓] theorem execResyncRound_keeps {r : State} (k : BitVec 4) (t1 : BitVec 64) (t2 : BitVec 64) (t3 : BitVec 64) (t4 : BitVec 64) {s : State} (hs : Keeps r s) : KeepsO r (execResyncRound k t1 t2 t3 t4 s) := by
  unfold execResyncRound
  simp (maxDischargeDepth := 40) +contextual [*]

@[simp ↓] theorem execMerSetWrite_keeps {r : State} (v : BitVec 64) {s : State} (hs : Keeps r s) : KeepsO r (execMerSetWrite v s) := by
  unfold execMerSetWrite
  simp (maxDischargeDepth := 40) +contextual [*]

@[simp ↓] theorem State.ptpSend_keeps {r : State} {s : State} (plane : Nat) (typ : Nat) (rest : List Nat) (hs : Keeps r s) : Keeps r (State.ptpSend s plane typ rest) := by
  unfold State.ptpSend
  simp (maxDischargeDepth := 40) +contextual [*]

@[simp ↓] theorem State.ptpNegotiate_keeps {r : State} {s : State} (hs : Keeps r s) : Keeps r (State.ptpNegotiate s) := by
  unfold State.ptpNegotiate
  (repeat' split) <;> simp (maxDischargeDepth := 40) +contextual [*]

@[simp ↓] theorem execMerCtlWrite_keeps {r : State} (v : BitVec 64) {s : State} (hs : Keeps r s) : KeepsO r (execMerCtlWrite v s) := by
  unfold execMerCtlWrite
  simp (maxDischargeDepth := 40) +contextual [*]

@[simp ↓] theorem State.ppsAccept_keeps {r : State} {s : State} (hs : Keeps r s) : Keeps r (State.ppsAccept s) := by
  unfold State.ppsAccept
  simp (maxDischargeDepth := 40) +contextual [*]

@[simp ↓] theorem execMerPpsEdge_keeps {r : State} {s : State} (hs : Keeps r s) : KeepsO r (execMerPpsEdge s) := by
  unfold execMerPpsEdge
  simp (maxDischargeDepth := 40) +contextual [*]

@[simp ↓] theorem State.loseReference_keeps {r : State} {s : State} (hs : Keeps r s) : Keeps r (State.loseReference s) := by
  unfold State.loseReference
  simp (maxDischargeDepth := 40) +contextual [*]

@[simp ↓] theorem execMerReferenceLoss_keeps {r : State} {s : State} (hs : Keeps r s) : KeepsO r (execMerReferenceLoss s) := by
  unfold execMerReferenceLoss
  simp (maxDischargeDepth := 40) +contextual [*]

@[simp ↓] theorem execMerReferenceReturn_keeps {r : State} {s : State} (hs : Keeps r s) : KeepsO r (execMerReferenceReturn s) := by
  unfold execMerReferenceReturn
  simp (maxDischargeDepth := 40) +contextual [*]

@[simp ↓] theorem execPtpSync_keeps {r : State} (mac : BitVec 48) (domain : BitVec 8) (seq : BitVec 16) {s : State} (hs : Keeps r s) : KeepsO r (execPtpSync mac domain seq s) := by
  unfold execPtpSync
  simp (maxDischargeDepth := 40) +contextual [*]

@[simp ↓] theorem execPtpFollowUp_keeps {r : State} (seq : BitVec 16) (sec : BitVec 48) (ns : BitVec 32) {s : State} (hs : Keeps r s) : KeepsO r (execPtpFollowUp seq sec ns s) := by
  unfold execPtpFollowUp
  (repeat' split) <;> simp (maxDischargeDepth := 40) +contextual [*]

@[simp ↓] theorem execPtpDelayResp_keeps {r : State} (seq : BitVec 16) (sec : BitVec 48) (ns : BitVec 32) {s : State} (hs : Keeps r s) : KeepsO r (execPtpDelayResp seq sec ns s) := by
  unfold execPtpDelayResp
  (repeat' split) <;> simp (maxDischargeDepth := 40) +contextual [*]

@[simp ↓] theorem execPaceWindowEnd_keeps {r : State} (fd : BitVec 4) (phys : BitVec 8) (handshakes : BitVec 16) (whole : Bool) {s : State} (hs : Keeps r s) : KeepsO r (execPaceWindowEnd fd phys handshakes whole s) := by
  unfold execPaceWindowEnd
  simp (maxDischargeDepth := 40) +contextual [*]

@[simp ↓] theorem State.setSb_keeps {r : State} {s : State} (i : Nat) (x : SbIn) (hs : Keeps r s) : Keeps r (State.setSb s i x) := by
  unfold State.setSb
  simp (maxDischargeDepth := 40) +contextual [*]

@[simp ↓] theorem State.sbAccept_keeps {r : State} {s : State} (i : Nat) (v : Bool) (hs : Keeps r s) : Keeps r (State.sbAccept s i v) := by
  unfold State.sbAccept
  simp (maxDischargeDepth := 40) +contextual [*]

@[simp ↓] theorem State.sbChange_keeps {r : State} {s : State} (i : Nat) (v : Bool) (held : Bool) (hs : Keeps r s) : Keeps r (State.sbChange s i v held) := by
  unfold State.sbChange
  simp (maxDischargeDepth := 40) +contextual [*]

@[simp ↓] theorem State.sbSettle_keeps {r : State} {s : State} (i : Nat) (hs : Keeps r s) : Keeps r (State.sbSettle s i) := by
  unfold State.sbSettle
  simp (maxDischargeDepth := 40) +contextual [*]

@[simp ↓] theorem State.sbStart_keeps {r : State} {s : State} (hs : Keeps r s) : Keeps r (State.sbStart s) := by
  unfold State.sbStart
  (repeat' split) <;> simp (maxDischargeDepth := 40) +contextual [*]

@[simp ↓] theorem execHaltNChange_keeps {r : State} (active : Bool) (held : Bool) {s : State} (hs : Keeps r s) : KeepsO r (execHaltNChange active held s) := by
  unfold execHaltNChange
  simp (maxDischargeDepth := 40) +contextual [*]

@[simp ↓] theorem execPwrCapNChange_keeps {r : State} (active : Bool) (held : Bool) {s : State} (hs : Keeps r s) : KeepsO r (execPwrCapNChange active held s) := by
  unfold execPwrCapNChange
  simp (maxDischargeDepth := 40) +contextual [*]

@[simp ↓] theorem execPerstNChange_keeps {r : State} (active : Bool) (held : Bool) {s : State} (hs : Keeps r s) : KeepsO r (execPerstNChange active held s) := by
  unfold execPerstNChange
  simp (maxDischargeDepth := 40) +contextual [*]

@[simp ↓] theorem execThermAlertNChange_keeps {r : State} (active : Bool) (held : Bool) {s : State} (hs : Keeps r s) : KeepsO r (execThermAlertNChange active held s) := by
  unfold execThermAlertNChange
  simp (maxDischargeDepth := 40) +contextual [*]

@[simp ↓] theorem execSidebandHeld10s_keeps {r : State} (i : BitVec 3) {s : State} (hs : Keeps r s) : KeepsO r (execSidebandHeld10s i s) := by
  unfold execSidebandHeld10s
  simp (maxDischargeDepth := 40) +contextual [*]

@[simp ↓] theorem State.reform_keeps {r : State} {s : State} (fd : Nat) (hs : Keeps r s) : Keeps r (State.reform s fd) := by
  unfold State.reform
  simp (maxDischargeDepth := 40) +contextual [*]

@[simp ↓] theorem State.cutRetired_keeps {r : State} {s : State} (fds : List Nat) (hs : Keeps r s) : Keeps r (State.cutRetired s fds) := by
  unfold State.cutRetired
  simp (maxDischargeDepth := 40) +contextual [*]

@[simp ↓] theorem State.resetTrips_keeps {r : State} {s : State} (fds : List Nat) (hs : Keeps r s) : Keeps r (State.resetTrips s fds) := by
  unfold State.resetTrips
  simp (maxDischargeDepth := 40) +contextual [*]

@[simp ↓] theorem State.nvmePerst_keeps {r : State} {s : State} (high : Bool) (hs : Keeps r s) : Keeps r (State.nvmePerst s high) := by
  unfold State.nvmePerst
  (repeat' split) <;> simp (maxDischargeDepth := 40) +contextual [*]

@[simp ↓] theorem State.nvmeClocks_keeps {r : State} {s : State} (hs : Keeps r s) : Keeps r (State.nvmeClocks s) := by
  unfold State.nvmeClocks
  (repeat' split) <;> simp (maxDischargeDepth := 40) +contextual [*]

@[simp ↓] theorem State.latchCold_keeps {r : State} {s : State} (kind : Nat) (hs : Keeps r s) : Keeps r (State.latchCold s kind) := by
  unfold State.latchCold
  (repeat' split) <;> simp (maxDischargeDepth := 40) +contextual [*]

@[simp ↓] theorem State.coldReset_keeps {r : State} {s : State} (kind : Nat) (source : Nat) (hs : Keeps r s) : Keeps r (State.coldReset s kind source) := by
  unfold State.coldReset
  extract_lets s1 s2 s3 met ein met' hold src1 sec pins src2 src3 src4 src5 t t1 t2
  have h1 : Keeps r s1 := State.nvmePerst_keeps _ (State.resetTrips_keeps _ (State.latchCold_keeps _ (State.endGrants_keeps (State.refClock_keeps _ hs))))
  clear_value s1
  have h2 : Keeps r s2 := Keeps.foldl _ _ (fun _ _ h => State.reform_keeps _ h) h1
  clear_value s2
  have h3 : Keeps r s3 := State.resetRegs_keeps _ h2
  have ht : Keeps r t := h3.trans ⟨rfl, List.prefix_refl _, Nat.le_refl _, fun c => ⟨c.1, rfl, c.2.2⟩⟩
  clear_value t
  have ht1 : Keeps r t1 := Keeps.ite (fun _ => State.wr_keeps _ _ ht) (fun _ => ht)
  clear_value t1
  exact State.wr_keeps _ _ (State.wr_keeps _ _ (State.cutRetired_keeps _ ht1))

@[simp ↓] theorem State.warmReset_keeps {r : State} {s : State} (source : Nat) (hs : Keeps r s) : Keeps r (State.warmReset s source) := by
  unfold State.warmReset
  simp (maxDischargeDepth := 40) +contextual [*]

@[simp ↓] theorem State.askCold_keeps {r : State} {s : State} (q : Req) (hs : Keeps r s) : Keeps r (State.askCold s q) := by
  unfold State.askCold
  repeat' (first
    | assumption
    | (simp (maxDischargeDepth := 40) +contextual [*]; done)
    | apply Keeps.foldl
    | apply Keeps.foldl_pair
    | split
    | dsimp only
    | intro _)

@[simp ↓] theorem State.askWarm_keeps {r : State} {s : State} (q : Req) (hs : Keeps r s) : Keeps r (State.askWarm s q) := by
  unfold State.askWarm
  repeat' (first
    | assumption
    | (simp (maxDischargeDepth := 40) +contextual [*]; done)
    | apply Keeps.foldl
    | apply Keeps.foldl_pair
    | split
    | dsimp only
    | intro _)

@[simp ↓] theorem execResetCold_keeps {r : State} (req : Req) {s : State} (hs : Keeps r s) : KeepsO r (execResetCold req s) := by
  unfold execResetCold
  simp (maxDischargeDepth := 40) +contextual [*]

@[simp ↓] theorem execResetWarm_keeps {r : State} (req : Req) {s : State} (hs : Keeps r s) : KeepsO r (execResetWarm req s) := by
  unfold execResetWarm
  simp (maxDischargeDepth := 40) +contextual [*]

@[simp ↓] theorem execWarmResetEnd_keeps {r : State} {s : State} (hs : Keeps r s) : KeepsO r (execWarmResetEnd s) := by
  unfold execWarmResetEnd
  simp (maxDischargeDepth := 40) +contextual [*]

@[simp ↓] theorem execColdReset_keeps {r : State} {s : State} (hs : Keeps r s) : KeepsO r (execColdReset s) := by
  unfold execColdReset
  simp (maxDischargeDepth := 40) +contextual [*]

@[simp ↓] theorem State.parcelReset_keeps {r : State} {s : State} (p : Nat) (hs : Keeps r s) : Keeps r (State.parcelReset s p) := by
  unfold State.parcelReset
  simp (maxDischargeDepth := 40) +contextual [*]

@[simp ↓] theorem State.askParcel_keeps {r : State} {s : State} (q : Req) (mask : Nat) (hs : Keeps r s) : Keeps r (State.askParcel s q mask) := by
  unfold State.askParcel
  repeat' (first
    | assumption
    | (simp (maxDischargeDepth := 40) +contextual [*]; done)
    | apply Keeps.foldl
    | apply Keeps.foldl_pair
    | split
    | dsimp only
    | intro _)

@[simp ↓] theorem execResetParcel_keeps {r : State} (req : Req) (mask : BitVec 4) {s : State} (hs : Keeps r s) : KeepsO r (execResetParcel req mask s) := by
  unfold execResetParcel
  simp (maxDischargeDepth := 40) +contextual [*]

@[simp ↓] theorem execParcelResetComplete_keeps {r : State} (p : BitVec 2) {s : State} (hs : Keeps r s) : KeepsO r (execParcelResetComplete p s) := by
  unfold execParcelResetComplete
  simp (maxDischargeDepth := 40) +contextual [*]

@[simp ↓] theorem State.resetStation_keeps {r : State} {s : State} (k : Loc) (hs : Keeps r s) : Keeps r (State.resetStation s k) := by
  unfold State.resetStation
  simp (maxDischargeDepth := 40) +contextual [*]

@[simp ↓] theorem State.stnReset_keeps {r : State} {s : State} (fd : Nat) (m : Nat) (mask : Nat) (hs : Keeps r s) : Keeps r (State.stnReset s fd m mask) := by
  unfold State.stnReset
  repeat' (first
    | assumption
    | (simp (maxDischargeDepth := 40) +contextual [*]; done)
    | apply Keeps.foldl
    | apply Keeps.foldl_pair
    | split
    | dsimp only
    | intro _)

@[simp ↓] theorem execStationReset_keeps {r : State} (fd : BitVec 4) (m : BitVec 1) (mask : BitVec 64) {s : State} (hs : Keeps r s) : KeepsO r (execStationReset fd m mask s) := by
  unfold execStationReset
  simp (maxDischargeDepth := 40) +contextual [*]

@[simp ↓] theorem State.park_keeps {r : State} {s : State} (fd : Nat) (on : Bool) (hs : Keeps r s) : Keeps r (State.park s fd on) := by
  unfold State.park
  simp (maxDischargeDepth := 40) +contextual [*]

@[simp ↓] theorem execLpPark_keeps {r : State} (fd : BitVec 4) (on : Bool) {s : State} (hs : Keeps r s) : KeepsO r (execLpPark fd on s) := by
  unfold execLpPark
  simp (maxDischargeDepth := 40) +contextual [*]

@[simp ↓] theorem State.standby_keeps {r : State} {s : State} (on : Bool) (hs : Keeps r s) : Keeps r (State.standby s on) := by
  unfold State.standby
  simp (maxDischargeDepth := 40) +contextual [*]

@[simp ↓] theorem execLpStandby_keeps {r : State} (on : Bool) {s : State} (hs : Keeps r s) : KeepsO r (execLpStandby on s) := by
  unfold execLpStandby
  simp (maxDischargeDepth := 40) +contextual [*]

@[simp ↓] theorem State.failsAtStart_keeps {r : State} {s : State} (fd : Nat) (p : Nat) (hs : Keeps r s) : Keeps r (State.failsAtStart s fd p) := by
  unfold State.failsAtStart
  refine Keeps.ite (fun _ => hs) (fun _ => ?_)
  split
  · exact State.countFailed_keeps _ _ _ hs
  · exact State.wr_keeps _ _ (State.countFailed_keeps _ _ _ hs)
  · exact State.retireFd_keeps _ _ _ hs

@[simp ↓] theorem State.reportGasp_keeps {r : State} {s : State} (hs : Keeps r s) : Keeps r (State.reportGasp s) := by
  unfold State.reportGasp
  (repeat' split) <;> simp (maxDischargeDepth := 40) +contextual [*]

@[simp ↓] theorem execStartUpComplete_keeps {r : State} (rotOk : Bool) (good : BitVec 4) (fails : List (BitVec 4 × BitVec 8)) {s : State} (hs : Keeps r s) : KeepsO r (execStartUpComplete rotOk good fails s) := by
  unfold execStartUpComplete
  repeat' (first
    | assumption
    | (simp (maxDischargeDepth := 40) +contextual [*]; done)
    | apply Keeps.foldl
    | apply Keeps.foldl_pair
    | split
    | dsimp only
    | intro _)

@[simp ↓] theorem execTapInstructionSelect_keeps {r : State} (i : TapInst) {s : State} (hs : Keeps r s) : KeepsO r (execTapInstructionSelect i s) := by
  unfold execTapInstructionSelect
  simp (maxDischargeDepth := 40) +contextual [*]

@[simp ↓] theorem State.setNfc_keeps {r : State} {s : State} (x : Nfc) (hs : Keeps r s) : Keeps r (State.setNfc s x) := by
  unfold State.setNfc
  simp (maxDischargeDepth := 40) +contextual [*]

@[simp ↓] theorem State.nfcAccess_keeps {r : State} {s : State} (v : BitVec 64) (ok : Bool) (hs : Keeps r s) : Keeps r (State.nfcAccess s v ok) := by
  unfold State.nfcAccess
  simp (maxDischargeDepth := 40) +contextual [*]

@[simp ↓] theorem State.nfcStart_keeps {r : State} {s : State} (v : BitVec 64) (ok : Bool) (hs : Keeps r s) : Keeps r (State.nfcStart s v ok) := by
  unfold State.nfcStart
  simp (maxDischargeDepth := 40) +contextual [*]

@[simp ↓] theorem State.nfcGo_keeps {r : State} {s : State} (v : BitVec 64) (ok : Bool) (hs : Keeps r s) : Keeps r (State.nfcGo s v ok) := by
  unfold State.nfcGo
  simp (maxDischargeDepth := 40) +contextual [*]

@[simp ↓] theorem execNfcGo_keeps {r : State} (v : BitVec 64) (ok : Bool) {s : State} (hs : Keeps r s) : KeepsO r (execNfcGo v ok s) := by
  unfold execNfcGo
  simp (maxDischargeDepth := 40) +contextual [*]

@[simp ↓] theorem execNfcSessionExpiry_keeps {r : State} {s : State} (hs : Keeps r s) : KeepsO r (execNfcSessionExpiry s) := by
  unfold execNfcSessionExpiry
  simp (maxDischargeDepth := 40) +contextual [*]

@[simp ↓] theorem execNfcLockGapEnd_keeps {r : State} (ok : Bool) {s : State} (hs : Keeps r s) : KeepsO r (execNfcLockGapEnd ok s) := by
  unfold execNfcLockGapEnd
  rw [KeepsO_next]
  refine Keeps.ite (fun _ => hs) (fun _ => ?_)
  extract_lets ws src s1
  have h1 : Keeps r s1 := State.setNfc_keeps _ hs
  clear_value s1
  rcases ws.head? with _ | v
  · exact h1
  · exact State.nfcStart_keeps _ _ h1

@[simp ↓] theorem execRfRequest_keeps {r : State} (block : BitVec 16) (count : BitVec 12) (write : Bool) (data : List Byte) (field : Bool) {s : State} (hs : Keeps r s) : KeepsO r (execRfRequest block count write data field s) := by
  unfold execRfRequest
  simp (maxDischargeDepth := 40) +contextual [*]

@[simp ↓] theorem State.rbFill_keeps {r : State} {s : State} (b : Nat) (err : Nat) (size : Nat) (poison : Bool) (bytes : List Byte) (hs : Keeps r s) : Keeps r (State.rbFill s b err size poison bytes) := by
  unfold State.rbFill
  simp (maxDischargeDepth := 40) +contextual [*]

@[simp ↓] theorem State.rbVendor_keeps {r : State} {s : State} (b : Nat) (hs : Keeps r s) : Keeps r (State.rbVendor s b) := by
  unfold State.rbVendor
  exact State.rbFill_keeps _ _ _ _ _ (State.free_keeps (State.free_keeps hs))

@[simp ↓] theorem State.rbFrom_keeps {r : State} {s : State} (fd : Nat) (p : Nat) (b : Nat) (obj : Nat) (off : Nat) (st : Nat) (size : Nat) (hs : Keeps r s) : Keeps r (State.rbFrom s fd p b obj off st size) := by
  unfold State.rbFrom
  exact Keeps.ite (fun _ => State.rbFill_keeps _ _ _ _ _ hs) (fun _ => Keeps.ite (fun _ => State.rbFill_keeps _ _ _ _ _ hs)
    (fun _ => State.rbFill_keeps _ _ _ _ _ hs))

@[simp ↓] theorem State.rbSelect_keeps {r : State} {s : State} (q : Req) (fd : Nat) (p : Nat) (v : BitVec 64) (hs : Keeps r s) : Keeps r (State.rbSelect s q fd p v) := by
  unfold State.rbSelect
  extract_lets b s1 obj
  have h1 : Keeps r s1 := State.plainWrite_keeps _ _ hs
  clear_value s1
  refine Keeps.ite (fun _ => State.rbFill_keeps _ _ _ _ _ h1) (fun _ => Keeps.ite (fun _ => State.rbVendor_keeps _ h1) (fun _ => ?_))
  rcases rbSize obj with _ | size
  · exact State.rbFill_keeps _ _ _ _ _ h1
  · exact State.rbFrom_keeps _ _ _ _ _ _ _ h1

@[simp ↓] theorem execRbSelect_keeps {r : State} (req : Req) (fd : BitVec 4) (phys : BitVec 8) (v : BitVec 64) {s : State} (hs : Keeps r s) : KeepsO r (execRbSelect req fd phys v s) := by
  unfold execRbSelect
  (repeat' split) <;> simp (maxDischargeDepth := 40) +contextual [*]

end Sys2Proof.Machine
end

