-- ==== Sys2Proof/Laws/KeepsJ.lean ====
section
/-! SUPPORT. What the operations of Machine/Bar0.lean to Machine/Step.lean keep. -/

namespace Sys2Proof.Machine

@[simp ↓] theorem State.afterRead_keeps {r : State} {s : State} (q : Req) (a : Nat) (m : BitVec 64) (hs : Keeps r s) : Keeps r (State.afterRead s q a m) := by
  unfold State.afterRead
  (repeat' split) <;> simp (maxDischargeDepth := 40) +contextual [*]

@[simp ↓] theorem execRcRegisterRead_keeps {r : State} (x : RegAcc) {s : State} (hs : Keeps r s) : KeepsO r (execRcRegisterRead x s) := by
  unfold execRcRegisterRead
  simp (maxDischargeDepth := 40) +contextual [*]

@[simp ↓] theorem State.maskedWrite_keeps {r : State} {s : State} (a : Nat) (v : BitVec 64) (m : BitVec 64) (hs : Keeps r s) : Keeps r (State.maskedWrite s a v m) := by
  unfold State.maskedWrite
  (repeat' split) <;> simp (maxDischargeDepth := 40) +contextual [*]

@[simp ↓] theorem outState_keeps {r : State} {s : State} (o : Out) (hs : Keeps r s) (ho : KeepsO r o) : Keeps r (outState s o) := by
  unfold outState
  split
  · simpa using ho
  · exact hs

@[simp ↓] theorem State.i2cRestore_keeps {r : State} {s : State} (mask : Nat) (free : Nat) (hs : Keeps r s) : Keeps r (State.i2cRestore s mask free) := by
  unfold State.i2cRestore
  simp (maxDischargeDepth := 40) +contextual [*]

@[simp ↓] theorem State.writeGlb_keeps {r : State} {s : State} (q : Req) (a : Nat) (v : BitVec 64) (e : BitVec 64) (m : BitVec 64) (hs : Keeps r s) : Keeps r (State.writeGlb s q a v e m) := by
  unfold State.writeGlb
  extract_lets s1 p o
  refine Keeps.ite (fun _ => State.moduleNumWrite_keeps _ _ _ hs) (fun _ => ?_)
  refine Keeps.ite (fun _ => State.splitWrite_keeps _ hs) (fun _ => ?_)
  refine Keeps.ite (fun _ => Keeps.ite (fun _ => State.askCold_keeps _ hs) (fun _ =>
    Keeps.ite (fun _ => State.askWarm_keeps _ hs) (fun _ => State.askParcel_keeps _ _ hs))) (fun _ => ?_)
  refine Keeps.ite (fun _ => Keeps.ite (fun _ => State.maskedWrite_keeps _ _ _ hs) (fun _ => hs)) (fun _ => ?_)
  have h1 : Keeps r s1 := Keeps.foldl _ _ (fun _ _ h => Keeps.ite (fun _ => h) (fun _ => State.park_keeps _ _ h)) hs
  clear_value s1
  refine Keeps.ite (fun _ => State.wr_keeps _ _ (State.standby_keeps _ h1)) (fun _ => ?_)
  refine Keeps.ite (fun _ => ?_) (fun _ => State.maskedWrite_keeps _ _ _ hs)
  refine Keeps.ite (fun _ => State.snapArm_keeps _ _ _ _ hs) (fun _ => ?_)
  refine Keeps.ite (fun _ => Keeps.ite (fun _ => hs) (fun _ => Keeps.ite (fun _ => State.peerDiscard_keeps _ _ hs)
    (fun _ => Keeps.ite (fun _ => State.raise_keeps _ _ _ hs) (fun _ => State.maskedWrite_keeps _ _ _ hs)))) (fun _ => ?_)
  exact Keeps.ite (fun _ => Keeps.ite (fun _ => State.writeParcelIdle_keeps _ _ _ hs) (fun _ => hs)) (fun _ => State.maskedWrite_keeps _ _ _ hs)

@[simp ↓] theorem State.writePkc_keeps {r : State} {s : State} (a : Nat) (v : BitVec 64) (e : BitVec 64) (m : BitVec 64) (hs : Keeps r s) : Keeps r (State.writePkc s a v e m) := by
  unfold State.writePkc
  extract_lets s1 s2 s3 s4
  have hm : Keeps r (s.maskedWrite a v m) := State.maskedWrite_keeps _ _ _ hs
  have h1 : Keeps r s1 := Keeps.ite (fun _ => State.nonceReq_keeps hs) (fun _ => hs)
  clear_value s1
  have h2 : Keeps r s2 := Keeps.ite (fun _ => State.tokenSubmit_keeps h1) (fun _ => h1)
  clear_value s2
  have h3 : Keeps r s3 := Keeps.ite (fun _ => State.endGrants_keeps h2) (fun _ => h2)
  clear_value s3
  have h4 : Keeps r s4 := Keeps.ite (fun _ => State.svnCommit_keeps h3) (fun _ => h3)
  clear_value s4
  refine Keeps.ite (fun _ => Keeps.ite (fun _ => outState_keeps _ hs (execPwrDistPop_keeps hm)) (fun _ => hm)) (fun _ => ?_)
  refine Keeps.ite (fun _ => State.retarget_keeps (State.refreshCap_keeps hm)) (fun _ => ?_)
  refine Keeps.ite (fun _ => State.retarget_keeps hm) (fun _ => ?_)
  refine Keeps.ite (fun _ => Keeps.ite (fun _ => outState_keeps _ hs (execEnergySnap_keeps hs)) (fun _ => hs)) (fun _ => ?_)
  refine Keeps.ite (fun _ => outState_keeps _ hs (execMerCtlWrite_keeps _ hs)) (fun _ => ?_)
  refine Keeps.ite (fun _ => outState_keeps _ hs (execMerSetWrite_keeps _ hs)) (fun _ => ?_)
  refine Keeps.ite (fun _ => Keeps.ite (fun _ => State.wr_keeps _ _ hs) (fun _ => hs)) (fun _ => ?_)
  refine Keeps.ite (fun _ => Keeps.ite (fun _ => State.toField_keeps h4) (fun _ => h4)) (fun _ => ?_)
  refine Keeps.ite (fun _ => outState_keeps _ hs (execTenantClear_keeps _ _ hs)) (fun _ => ?_)
  refine Keeps.ite (fun _ => Keeps.ite (fun _ => State.setReg_keeps _ _ hs) (fun _ => hs)) (fun _ => ?_)
  refine Keeps.ite (fun _ => State.i2cRestore_keeps _ _ hm) (fun _ => ?_)
  exact Keeps.ite (fun _ => Keeps.ite (fun _ => State.nfcGo_keeps _ _ hs) (fun _ => hm)) (fun _ => hm)

@[simp ↓] theorem State.writeSet_keeps {r : State} {s : State} (q : Req) (f : Nat) (a : Nat) (v : BitVec 64) (e : BitVec 64) (m : BitVec 64) (hs : Keeps r s) : Keeps r (State.writeSet s q f a v e m) := by
  unfold State.writeSet
  simp (maxDischargeDepth := 40) +contextual [*]

@[simp ↓] theorem State.writeFd_keeps {r : State} {s : State} (q : Req) (fd : Nat) (a : Nat) (v : BitVec 64) (e : BitVec 64) (m : BitVec 64) (hs : Keeps r s) : Keeps r (State.writeFd s q fd a v e m) := by
  unfold State.writeFd
  extract_lets o s1 p i b s2
  have hm : Keeps r (s.maskedWrite a v m) := State.maskedWrite_keeps _ _ _ hs
  have h1 : Keeps r s1 := hm
  clear_value s1
  have h2 : Keeps r s2 := State.stnWrite_keeps _ _ _ _ hs
  clear_value s2
  refine Keeps.ite (fun _ => ?_) (fun _ => ?_)
  · refine Keeps.ite (fun _ => State.stnReset_keeps _ _ _ hs) (fun _ => ?_)
    refine Keeps.ite (fun _ => Keeps.ite (fun _ => State.popPoison_keeps _ h1) (fun _ => h1)) (fun _ => ?_)
    refine Keeps.ite (fun _ => State.maskedWrite_keeps _ _ _ hs) (fun _ => ?_)
    refine Keeps.ite (fun _ => State.writeIdle_keeps _ _ _ hs) (fun _ => ?_)
    refine Keeps.ite (fun _ => Keeps.ite (fun _ => State.returnStart_keeps _ _ hs) (fun _ => hm)) (fun _ => ?_)
    exact Keeps.ite (fun _ => Keeps.ite (fun _ => State.pullStart_keeps _ _ _ hs) (fun _ => hm)) (fun _ => hm)
  · refine Keeps.ite (fun _ => State.rbSelect_keeps _ _ _ _ hs) (fun _ => ?_)
    refine Keeps.ite (fun _ => Keeps.ite (fun _ => ?_) (fun _ => h2)) (fun _ => ?_)
    · rcases s2.logOf fd p with _ | l
      · exact h2
      · exact outState_keeps _ h2 (execStnStep_keeps _ h2)
    · exact Keeps.ite (fun _ => State.stnWrite_keeps _ _ _ _ hs) (fun _ => hm)

@[simp ↓] theorem State.writeEdge_keeps {r : State} {s : State} (a : Nat) (v : BitVec 64) (e : BitVec 64) (m : BitVec 64) (hs : Keeps r s) : Keeps r (State.writeEdge s a v e m) := by
  unfold State.writeEdge
  simp (maxDischargeDepth := 40) +contextual [*]

@[simp ↓] theorem State.bar0Write_keeps {r : State} {s : State} (q : Req) (a : Nat) (v : BitVec 64) (m : BitVec 64) (hs : Keeps r s) : Keeps r (State.bar0Write s q a v m) := by
  unfold State.bar0Write
  refine Keeps.ite (fun _ => hs) (fun _ => ?_)
  rcases regRowAt a with _ | row
  · exact hs
  · dsimp -zeta only
    extract_lets e
    split
    · exact State.writeFd_keeps _ _ _ _ _ _ hs
    · exact State.writeSet_keeps _ _ _ _ _ _ hs
    · exact Keeps.ite (fun _ => State.writeGlb_keeps _ _ _ _ _ hs) (fun _ =>
        Keeps.ite (fun _ => State.writePkc_keeps _ _ _ _ hs) (fun _ => State.writeEdge_keeps _ _ _ _ hs))

@[simp ↓] theorem State.writeAcc_keeps {r : State} {s : State} (x : RegAcc) (hs : Keeps r s) : Keeps r (State.writeAcc s x) := by
  unfold State.writeAcc
  simp (maxDischargeDepth := 40) +contextual [*]

@[simp ↓] theorem State.arbitrate_keeps {r : State} {s : State} (x : RegAcc) (y : RegAcc) (hs : Keeps r s) : Keeps r (State.arbitrate s x y) := by
  unfold State.arbitrate
  simp (maxDischargeDepth := 40) +contextual [*]

@[simp ↓] theorem execRegisterWrite_keeps {r : State} (x : RegAcc) (y : Option RegAcc) {s : State} (hs : Keeps r s) : KeepsO r (execRegisterWrite x y s) := by
  unfold execRegisterWrite
  (repeat' split) <;> simp (maxDischargeDepth := 40) +contextual [*]

@[simp ↓] theorem execMgtRegRead_keeps {r : State} (a : BitVec 32) {s : State} (hs : Keeps r s) : KeepsO r (execMgtRegRead a s) := by
  unfold execMgtRegRead
  simp (maxDischargeDepth := 40) +contextual [*]

@[simp ↓] theorem execMgtRegWrite_keeps {r : State} (a : BitVec 32) (v : BitVec 64) {s : State} (hs : Keeps r s) : KeepsO r (execMgtRegWrite a v s) := by
  unfold execMgtRegWrite
  simp (maxDischargeDepth := 40) +contextual [*]

@[simp ↓] theorem execI2cBusClear_keeps {r : State} {s : State} (hs : Keeps r s) : KeepsO r (execI2cBusClear s) := by
  unfold execI2cBusClear
  simp (maxDischargeDepth := 40) +contextual [*]

@[simp ↓] theorem execI2cSegmentIsolate_keeps {r : State} (seg : BitVec 2) {s : State} (hs : Keeps r s) : KeepsO r (execI2cSegmentIsolate seg s) := by
  unfold execI2cSegmentIsolate
  repeat' (first
    | assumption
    | (simp (maxDischargeDepth := 40) +contextual [*]; done)
    | apply Keeps.foldl
    | apply Keeps.foldl_pair
    | split
    | dsimp only
    | intro _)

@[simp ↓] theorem execI2cRestore_keeps {r : State} (mask : BitVec 4) (free : BitVec 4) {s : State} (hs : Keeps r s) : KeepsO r (execI2cRestore mask free s) := by
  unfold execI2cRestore
  simp (maxDischargeDepth := 40) +contextual [*]

@[simp ↓] theorem State.answer_keeps {r : State} {s : State} (typ : Nat) (cmd : Nat) (cc : Nat) (data : List Byte) (hs : Keeps r s) : Keeps r (State.answer s typ cmd cc data) := by
  unfold State.answer
  simp (maxDischargeDepth := 40) +contextual [*]

@[simp ↓] theorem execSmbusTimeout_keeps {r : State} {s : State} (hs : Keeps r s) : KeepsO r (execSmbusTimeout s) := by
  unfold execSmbusTimeout
  simp (maxDischargeDepth := 40) +contextual [*]

@[simp ↓] theorem execSetEndpointId_keeps {r : State} (eid : BitVec 8) {s : State} (hs : Keeps r s) : KeepsO r (execSetEndpointId eid s) := by
  unfold execSetEndpointId
  simp (maxDischargeDepth := 40) +contextual [*]

@[simp ↓] theorem execGetEndpointId_keeps {r : State} {s : State} (hs : Keeps r s) : KeepsO r (execGetEndpointId s) := by
  unfold execGetEndpointId
  simp (maxDischargeDepth := 40) +contextual [*]

@[simp ↓] theorem execGetEndpointUuid_keeps {r : State} {s : State} (hs : Keeps r s) : KeepsO r (execGetEndpointUuid s) := by
  unfold execGetEndpointUuid
  simp (maxDischargeDepth := 40) +contextual [*]

@[simp ↓] theorem execGetMctpVersionSupport_keeps {r : State} (typ : BitVec 8) {s : State} (hs : Keeps r s) : KeepsO r (execGetMctpVersionSupport typ s) := by
  unfold execGetMctpVersionSupport
  simp (maxDischargeDepth := 40) +contextual [*]

@[simp ↓] theorem execGetMessageTypeSupport_keeps {r : State} {s : State} (hs : Keeps r s) : KeepsO r (execGetMessageTypeSupport s) := by
  unfold execGetMessageTypeSupport
  simp (maxDischargeDepth := 40) +contextual [*]

@[simp ↓] theorem execGetVendorDefinedMessageSupport_keeps {r : State} {s : State} (hs : Keeps r s) : KeepsO r (execGetVendorDefinedMessageSupport s) := by
  unfold execGetVendorDefinedMessageSupport
  simp (maxDischargeDepth := 40) +contextual [*]

@[simp ↓] theorem State.pldm_keeps {r : State} {s : State} (typ : Nat) (cmd : Nat) (cc : Nat) (data : List Byte) (hs : Keeps r s) : Keeps r (State.pldm s typ cmd cc data) := by
  unfold State.pldm
  simp (maxDischargeDepth := 40) +contextual [*]

@[simp ↓] theorem execSettid_keeps {r : State} (tid : BitVec 8) {s : State} (hs : Keeps r s) : KeepsO r (execSettid tid s) := by
  unfold execSettid
  simp (maxDischargeDepth := 40) +contextual [*]

@[simp ↓] theorem execGettid_keeps {r : State} {s : State} (hs : Keeps r s) : KeepsO r (execGettid s) := by
  unfold execGettid
  simp (maxDischargeDepth := 40) +contextual [*]

@[simp ↓] theorem execGetpldmversion_keeps {r : State} (typ : BitVec 8) {s : State} (hs : Keeps r s) : KeepsO r (execGetpldmversion typ s) := by
  unfold execGetpldmversion
  simp (maxDischargeDepth := 40) +contextual [*]

@[simp ↓] theorem execGetpldmtypes_keeps {r : State} {s : State} (hs : Keeps r s) : KeepsO r (execGetpldmtypes s) := by
  unfold execGetpldmtypes
  simp (maxDischargeDepth := 40) +contextual [*]

@[simp ↓] theorem execGetpldmcommands_keeps {r : State} (typ : BitVec 8) {s : State} (hs : Keeps r s) : KeepsO r (execGetpldmcommands typ s) := by
  unfold execGetpldmcommands
  (repeat' split) <;> simp (maxDischargeDepth := 40) +contextual [*]

@[simp ↓] theorem execGetpdrrepositoryinfo_keeps {r : State} {s : State} (hs : Keeps r s) : KeepsO r (execGetpdrrepositoryinfo s) := by
  unfold execGetpdrrepositoryinfo
  simp (maxDischargeDepth := 40) +contextual [*]

@[simp ↓] theorem execGetpdr_keeps {r : State} (handle : BitVec 32) {s : State} (hs : Keeps r s) : KeepsO r (execGetpdr handle s) := by
  unfold execGetpdr
  simp (maxDischargeDepth := 40) +contextual [*]

@[simp ↓] theorem execGetsensorreading_keeps {r : State} (id : BitVec 16) {s : State} (hs : Keeps r s) : KeepsO r (execGetsensorreading id s) := by
  unfold execGetsensorreading
  (repeat' split) <;> simp (maxDischargeDepth := 40) +contextual [*]

@[simp ↓] theorem execGetstatesensorreadings_keeps {r : State} {s : State} (hs : Keeps r s) : KeepsO r (execGetstatesensorreadings s) := by
  unfold execGetstatesensorreadings
  simp (maxDischargeDepth := 40) +contextual [*]

@[simp ↓] theorem execSetnumericeffectervalue_keeps {r : State} (id : BitVec 16) (v : BitVec 16) {s : State} (hs : Keeps r s) : KeepsO r (execSetnumericeffectervalue id v s) := by
  unfold execSetnumericeffectervalue
  simp (maxDischargeDepth := 40) +contextual [*]

@[simp ↓] theorem execGetnumericeffectervalue_keeps {r : State} (id : BitVec 16) {s : State} (hs : Keeps r s) : KeepsO r (execGetnumericeffectervalue id s) := by
  unfold execGetnumericeffectervalue
  simp (maxDischargeDepth := 40) +contextual [*]

@[simp ↓] theorem execSeteventreceiver_keeps {r : State} (mode : BitVec 2) (eid : BitVec 8) {s : State} (hs : Keeps r s) : KeepsO r (execSeteventreceiver mode eid s) := by
  unfold execSeteventreceiver
  simp (maxDischargeDepth := 40) +contextual [*]

@[simp ↓] theorem execPollforplatformeventmessage_keeps {r : State} {s : State} (hs : Keeps r s) : KeepsO r (execPollforplatformeventmessage s) := by
  unfold execPollforplatformeventmessage
  (repeat' split) <;> simp (maxDischargeDepth := 40) +contextual [*]

@[simp ↓] theorem execEventmessagebuffersize_keeps {r : State} (n : BitVec 16) {s : State} (hs : Keeps r s) : KeepsO r (execEventmessagebuffersize n s) := by
  unfold execEventmessagebuffersize
  simp (maxDischargeDepth := 40) +contextual [*]

@[simp ↓] theorem State.spdm_keeps {r : State} {s : State} (dead : Bool) (cmd : Nat) (data : List Byte) (hs : Keeps r s) : Keeps r (State.spdm s dead cmd data) := by
  unfold State.spdm
  simp (maxDischargeDepth := 40) +contextual [*]

@[simp ↓] theorem execGetVersion_keeps {r : State} {s : State} (hs : Keeps r s) : KeepsO r (execGetVersion s) := by
  unfold execGetVersion
  simp (maxDischargeDepth := 40) +contextual [*]

@[simp ↓] theorem execGetCapabilities_keeps {r : State} {s : State} (hs : Keeps r s) : KeepsO r (execGetCapabilities s) := by
  unfold execGetCapabilities
  simp (maxDischargeDepth := 40) +contextual [*]

@[simp ↓] theorem execNegotiateAlgorithms_keeps {r : State} {s : State} (hs : Keeps r s) : KeepsO r (execNegotiateAlgorithms s) := by
  unfold execNegotiateAlgorithms
  simp (maxDischargeDepth := 40) +contextual [*]

@[simp ↓] theorem execGetDigests_keeps {r : State} {s : State} (hs : Keeps r s) : KeepsO r (execGetDigests s) := by
  unfold execGetDigests
  simp (maxDischargeDepth := 40) +contextual [*]

@[simp ↓] theorem execGetCertificate_keeps {r : State} (slot : BitVec 1) (off : BitVec 16) (len : BitVec 16) {s : State} (hs : Keeps r s) : KeepsO r (execGetCertificate slot off len s) := by
  unfold execGetCertificate
  simp (maxDischargeDepth := 40) +contextual [*]

@[simp ↓] theorem execChallenge_keeps {r : State} (slot : BitVec 1) (nonce : List Byte) {s : State} (hs : Keeps r s) : KeepsO r (execChallenge slot nonce s) := by
  unfold execChallenge
  simp (maxDischargeDepth := 40) +contextual [*]

@[simp ↓] theorem execGetMeasurements_keeps {r : State} (idx : BitVec 8) (nonce : List Byte) {s : State} (hs : Keeps r s) : KeepsO r (execGetMeasurements idx nonce s) := by
  unfold execGetMeasurements
  simp (maxDischargeDepth := 40) +contextual [*]

@[simp ↓] theorem State.updFw_keeps {r : State} {s : State} (f : Fw → Fw) (hs : Keeps r s) : Keeps r (State.updFw s f) := by
  unfold State.updFw
  simp (maxDischargeDepth := 40) +contextual [*]

@[simp ↓] theorem execQuerydeviceidentifiers_keeps {r : State} {s : State} (hs : Keeps r s) : KeepsO r (execQuerydeviceidentifiers s) := by
  unfold execQuerydeviceidentifiers
  simp (maxDischargeDepth := 40) +contextual [*]

@[simp ↓] theorem execGetfirmwareparameters_keeps {r : State} {s : State} (hs : Keeps r s) : KeepsO r (execGetfirmwareparameters s) := by
  unfold execGetfirmwareparameters
  simp (maxDischargeDepth := 40) +contextual [*]

@[simp ↓] theorem execRequestupdate_keeps {r : State} {s : State} (hs : Keeps r s) : KeepsO r (execRequestupdate s) := by
  unfold execRequestupdate
  simp (maxDischargeDepth := 40) +contextual [*]

@[simp ↓] theorem execPasscomponenttable_keeps {r : State} (comp : BitVec 16) (last : Bool) {s : State} (hs : Keeps r s) : KeepsO r (execPasscomponenttable comp last s) := by
  unfold execPasscomponenttable
  simp (maxDischargeDepth := 40) +contextual [*]

@[simp ↓] theorem execUpdatecomponent_keeps {r : State} (comp : BitVec 16) {s : State} (hs : Keeps r s) : KeepsO r (execUpdatecomponent comp s) := by
  unfold execUpdatecomponent
  simp (maxDischargeDepth := 40) +contextual [*]

@[simp ↓] theorem State.fwReport_keeps {r : State} {s : State} (cmd : Nat) (result : Nat) (hs : Keeps r s) : Keeps r (State.fwReport s cmd result) := by
  unfold State.fwReport
  simp (maxDischargeDepth := 40) +contextual [*]

@[simp ↓] theorem execTransfercomplete_keeps {r : State} (result : BitVec 8) (image : List Byte) {s : State} (hs : Keeps r s) : KeepsO r (execTransfercomplete result image s) := by
  unfold execTransfercomplete
  simp (maxDischargeDepth := 40) +contextual [*]

@[simp ↓] theorem execVerifycomplete_keeps {r : State} {s : State} (hs : Keeps r s) : KeepsO r (execVerifycomplete s) := by
  unfold execVerifycomplete
  simp (maxDischargeDepth := 40) +contextual [*]

@[simp ↓] theorem execApplycomplete_keeps {r : State} (result : BitVec 8) {s : State} (hs : Keeps r s) : KeepsO r (execApplycomplete result s) := by
  unfold execApplycomplete
  simp (maxDischargeDepth := 40) +contextual [*]

@[simp ↓] theorem State.activate_keeps {r : State} {s : State} (c : Nat) (ok : Bool) (hs : Keeps r s) : Keeps r (State.activate s c ok) := by
  unfold State.activate
  simp (maxDischargeDepth := 40) +contextual [*]

@[simp ↓] theorem execActivatefirmware_keeps {r : State} (starts : BitVec 2) {s : State} (hs : Keeps r s) : KeepsO r (execActivatefirmware starts s) := by
  unfold execActivatefirmware
  simp (maxDischargeDepth := 40) +contextual [*]

@[simp ↓] theorem execGetstatus_keeps {r : State} {s : State} (hs : Keeps r s) : KeepsO r (execGetstatus s) := by
  unfold execGetstatus
  simp (maxDischargeDepth := 40) +contextual [*]

@[simp ↓] theorem execCancelupdatecomponent_keeps {r : State} {s : State} (hs : Keeps r s) : KeepsO r (execCancelupdatecomponent s) := by
  unfold execCancelupdatecomponent
  simp (maxDischargeDepth := 40) +contextual [*]

@[simp ↓] theorem execCancelupdate_keeps {r : State} {s : State} (hs : Keeps r s) : KeepsO r (execCancelupdate s) := by
  unfold execCancelupdate
  simp (maxDischargeDepth := 40) +contextual [*]

@[simp ↓] theorem State.slotTick_keeps {r : State} {s : State} (k : Nat) (hs : Keeps r s) : Keeps r (State.slotTick s k) := by
  unfold State.slotTick
  (repeat' split) <;> simp (maxDischargeDepth := 40) +contextual [*]

@[simp ↓] theorem State.tick_keeps {r : State} {s : State} (hs : Keeps r s) : Keeps r (State.tick s) := by
  unfold State.tick
  simp (maxDischargeDepth := 40) +contextual [*]

end Sys2Proof.Machine
end

