-- ==== Sys2Proof/WellFormed.lean ====
section
/-! DEFINITION. Which commands are well formed: the bounds on payloads that their types do not state. A command that is not
well formed cannot come about; `exec` is total and answers a next state for one all the same. -/

namespace Sys2Proof

/-- Whether a command's payload fits the message or signal that carries it. -/
def Instr.wf (i : Instr) : Bool :=
  match i with
  /- An FD has 136 physical stations (architecture section). -/
  | .startUpComplete _ _ fails => fails.all (fun x => decide (x.2.toNat < 136))
  /- One triple per FD (R486). -/
  | .capControlLoop _ _ _ fds => decide (fds.length = 16)
  /- A flit is 32 blocks of 64 bits (R328). -/
  | .flitReceive _ f => decide (f.length = 256)
  /- A model bound, below what a message can carry: elements are keyed by 32 bits (the valKey of Coll). -/
  | .collRecvAdd _ _ _ _ _ _ vals _ _ _ => decide (vals.length < 2 ^ 32)
  | .collRecvCopy _ _ _ _ vals _ _ _ => decide (vals.length < 2 ^ 32)
  /- A write holds the bytes it writes; a read holds none (R528, R291). -/
  | .bar2Access _ _ len data => data.isEmpty || decide (data.length = len.toNat)
  | .remoteRequestReceive _ _ _ len data _ _ _ => data.isEmpty || decide (data.length = len.toNat)
  /- A write of the coherent memory lies in one line of 128 bytes (R309). -/
  | .memWriteRequest _ addr data _ => decide (addr.toNat % 128 + data.length ≤ 128)
  /- INC_FETCH carries no data and has a station that reads (R314, R315). -/
  | .atomicOperation _ op _ data stn => decide (op ≠ 0xA) || (data.isEmpty && stn.isSome)
  /- A read that succeeds brings the bytes asked for; one that fails none (R439). -/
  | .nvmeReadComplete _ _ ok len data => if ok then decide (data.length = len.toNat) else data.isEmpty
  /- A stripe that fails brings no blocks (R464). -/
  | .pullStripeReceive _ _ ok _ data => ok || data.isEmpty
  /- The requester's nonce of 32 bytes (R565; the length is SPDM's). -/
  | .challenge _ nonce => decide (nonce.length = 32)
  | .getMeasurements _ nonce => decide (nonce.length = 32)
  /- A write brings 4 bytes a block, a read none (R547). -/
  | .rfRequest _ count write data _ => if write then decide (data.length = 4 * count.toNat) else data.isEmpty
  | _ => true

end Sys2Proof
end

