-- ==== Sys2Proof/Tests/Slice0.lean ====
section
/-! SUPPORT. The model's own tests: one step each on small states, expected values from the spec; and a witness for the
hypotheses of each statement. -/

set_option maxRecDepth 100000
set_option exponentiation.threshold 600

namespace Sys2Proof.Tests

open Sys2Proof Sys2Proof.Machine

/-! ## States and helpers -/

/-- The state an outcome goes on in. -/
def nx (o : Out) : State :=
  match o with
  | .next t => t
  | _ => State.reset

/-- The first station of FD 0. -/
def k0 : Loc := ⟨0, 0, 0⟩

/-- The module after start-up. -/
def up : State := { State.reset with rstKind := 0 }

/-- A module whose station 0 runs. -/
def r0 : State := { State.reset with stns := [(0, { Stn.idle with active := true })] }

/-- `s` with registers of station 0 set: number, value, DATA. -/
def withS (s : State) (l : List (Nat × Nat × Bool)) : State := l.foldl (fun s x => s.setS k0.b x.1 x.2.1 x.2.2) s

theorem apart_of {s : State} {k n : Nat} (h : ∀ i, i < n → s.homeKey (k + i) = k + i) : s.Apart k n := fun i j hi hj e => by
  rw [h i hi, h j hj] at e; omega

/-- A state as it is, its queue holding `c`. -/
def queued (c : Instr) (s : State) : State := { s with pending := [c] }

/-! ## The queue, reset, formats -/

theorem test_step_runs_front : step (queued (.nop 0 ⟨0, 0, 0, 0, 0⟩) r0) = exec (.nop 0 ⟨0, 0, 0, 0, 0⟩) r0 := rfl
theorem test_idle_step_is_a_tick : (nx (step State.reset)).meridian = 1 := by decide
theorem test_idle_step_hypotheses : State.reset.down = false ∧ State.reset.sbIn = [] ∧ State.reset.rd Reg.merCtlRefOutEn = 0 ∧
  ∀ k, (State.reset.port k).txq = [] := ⟨by decide, by decide, by decide, fun _ => rfl⟩
theorem test_idle_step_down : (nx (step { State.reset with down := true })).meridian = 0 := by decide
theorem test_reset_row : isP0 0 = false ∧ regRowAt 0 ≠ none ∧ State.reset.reg (Reg.stnPcPc k0.b).addr = 0 := by decide
theorem test_reset_canon : State.reset.canon := by decide
theorem test_step_keeps_canon : (nx (step (queued (.nop 0 ⟨0, 0, 0, 0, 0⟩) State.reset))).canon := by decide
theorem test_no_table_word : decodeTableWord 64 0 = none ∧ (State.reset.withFetchWord 64 0) = State.reset := ⟨rfl, rfl⟩
theorem test_formats : ctrlOf (ctrlWord 0x03 ⟨31, 1, 0x3FF, 0xFFFF, 0xFFFFFFFF⟩) = ⟨31, 1, 0x3FF, 0xFFFF, 0xFFFFFFFF⟩ ∧
  (scalWord 0x12 ⟨1, 2, 3, 4, 0, 5⟩).toNat / 2 ^ 56 = 0x12 := by decide
theorem test_zero_registers : (withS r0 [(0, 7, true)]).sreg k0.b 0 = 0 ∧ (withS r0 [(0, 7, true)]).sdata k0.b 0 = false ∧
  r0.pred k0.b 0 = 0xFFFFFFFFFFFFFFFF := by decide

/-! ## Well-formed commands: an ill-formed term for each check, refused -/

theorem test_wf_start_up : Instr.wf (.startUpComplete true 15 [(0, 136)]) = false ∧ Instr.wf (.startUpComplete true 15 [(0, 135)]) = true := by decide
theorem test_wf_cap_loop : Instr.wf (.capControlLoop 0 0 [] []) = false ∧
  Instr.wf (.capControlLoop 0 0 [] (List.replicate 16 (0, 0, 0))) = true := by decide
theorem test_wf_flit : Instr.wf (.flitReceive 0 [0]) = false ∧ Instr.wf (.flitReceive 0 (List.replicate 256 0)) = true := by decide
theorem test_wf_bar2 : Instr.wf (.bar2Access .pf 0 8 [0]) = false ∧ Instr.wf (.bar2Access .pf 0 8 []) = true := by decide
theorem test_wf_remote : Instr.wf (.remoteRequestReceive 0 0 0 8 [0] false false false) = false ∧
  Instr.wf (.remoteRequestReceive 0 0 0 1 [0] false false false) = true := by decide
theorem test_wf_write : Instr.wf (.memWriteRequest 0 127 [0, 0] []) = false ∧ Instr.wf (.memWriteRequest 0 126 [0, 0] []) = true := by decide
theorem test_wf_atomic : Instr.wf (.atomicOperation 0 0xA 0 [0] (some 0)) = false ∧ Instr.wf (.atomicOperation 0 0xA 0 [] (some 0)) = true := by
  decide
theorem test_wf_nvme : Instr.wf (.nvmeReadComplete 0 0 true 8 [0]) = false ∧ Instr.wf (.nvmeReadComplete 0 0 false 8 [0]) = false := by decide
theorem test_wf_stripe : Instr.wf (.pullStripeReceive 0 0 false 0 [0]) = false ∧ Instr.wf (.pullStripeReceive 0 0 true 0 [0]) = true := by decide
theorem test_wf_challenge : Instr.wf (.challenge 0 [0]) = false ∧ Instr.wf (.challenge 0 (List.replicate 32 0)) = true := by decide
theorem test_wf_measurements : Instr.wf (.getMeasurements 0 [0]) = false ∧ Instr.wf (.getMeasurements 0 (List.replicate 32 0)) = true := by
  decide
theorem test_wf_rf : Instr.wf (.rfRequest 0 1 true [0] false) = false ∧ Instr.wf (.rfRequest 0 1 false [0] false) = false ∧
  Instr.wf (.rfRequest 0 1 true [0, 0, 0, 0] false) = true := by decide

theorem test_wf_collective : Instr.wf (.collRecvAdd 0 0 0 0 0 0 (List.replicate (2 ^ 32) 0) [] [] 0) = false ∧
  Instr.wf (.collRecvCopy 0 0 0 0 (List.replicate (2 ^ 32) 0) [] [] 0) = false := by
  unfold Instr.wf
  constructor <;> exact decide_eq_false (by rw [List.length_replicate]; exact Nat.lt_irrefl _)
theorem test_wf_collective_ok : Instr.wf (.collRecvAdd 0 0 0 0 0 0 [0] [] [] 0) = true ∧
  Instr.wf (.collRecvCopy 0 0 0 0 [0] [] [] 0) = true := by decide

/-! ## Scalar instructions -/

/-- A running station with S1 to S4 set: 5, 3 marked DATA, −1, and 2^63. -/
def s1 : State := withS r0 [(1, 5, false), (2, 3, true), (3, 2 ^ 64 - 1, false), (4, 2 ^ 63, false)]

/-- What S7 and its DATA hold after an instruction of station 0 of `s`. -/
def s7 (c : Instr) (s : State) : Nat × Bool := ((nx (exec c s)).sreg k0.b 7, (nx (exec c s)).sdata k0.b 7)

theorem test_issues : s1.Issues 0 (scalWord 0x12 ⟨7, 3, 1, 0, 0, 1⟩) k0 := ⟨by decide, by decide⟩
theorem test_sli : s7 (.sli 0 ⟨7, 0, 0, 0, 0, 0xFFFFFFFF⟩) s1 = (2 ^ 64 - 1, false) := by decide
theorem test_slui : s7 (.slui 0 ⟨7, 0, 0, 0, 0, 0xFFFFFFFF⟩) s1 = (0xFFFFFFFF00000000, false) := by decide
theorem test_sadd_wraps : s7 (.sadd 0 ⟨7, 3, 2, 0, 0, 1⟩) s1 = (3, true) := by decide
theorem test_ssub : s7 (.ssub 0 ⟨7, 1, 3, 0, 0, 0⟩) s1 = (6, false) := by decide
theorem test_smul : s7 (.smul 0 ⟨7, 3, 3, 0, 0, 0⟩) s1 = (1, false) := by decide
theorem test_slogic : s7 (.slogic 0 ⟨7, 1, 2, 3, 0, 0⟩) s1 = (4, true) ∧ s7 (.slogic 0 ⟨7, 1, 2, 2, 0, 0⟩) s1 = (6, true) := by decide
theorem test_sshift : s7 (.sshift 0 ⟨7, 4, 2, 2, 0, 0⟩) s1 = (0xF000000000000000, true) ∧ s7 (.sshift 0 ⟨7, 4, 2, 1, 0, 0⟩) s1 = (2 ^ 60, true) := by
  decide
theorem test_sminmax : s7 (.sminmax 0 ⟨7, 1, 3, 0, 0, 0⟩) s1 = (2 ^ 64 - 1, false) ∧ s7 (.sminmax 0 ⟨7, 1, 3, 2, 0, 0⟩) s1 = (5, false) := by
  decide
theorem test_smfs : s7 (.smfs 0 ⟨7, 0, 0, 7, 0, 0⟩) s1 = (2 ^ 20 + 2 ^ 19, true) ∧ s7 (.smfs 0 ⟨7, 0, 0, 3, 0, 0⟩) s1 = (0, true) := by decide
theorem test_smfp : s7 (.smfp 0 ⟨7, 0, 0, 1, 0, 0⟩) s1 = (64, true) ∧ s7 (.smfp 0 ⟨7, 0, 0, 2, 0, 0⟩) s1 = (0, true) := by decide
/-- D1 with BASE 256, E0 5 and STRIDE1 64 by DSET. -/
def s2 : State := nx (exec (.dset 0 ⟨1, 0, 0, 6, 0, 64⟩) (nx (exec (.dset 0 ⟨1, 1, 0, 1, 0, 0⟩) (nx (exec (.dset 0 ⟨1, 0, 0, 0, 0, 256⟩) s1)))))
theorem test_dset_dget : s7 (.dget 0 ⟨7, 1, 0, 1, 0, 0⟩) s2 = (5, true) ∧ s7 (.dget 0 ⟨7, 1, 0, 6, 0, 0⟩) s2 = (64, true) := by decide
theorem test_dadv : s7 (.dget 0 ⟨7, 1, 0, 0, 0, 0⟩) (nx (exec (.dadv 0 ⟨1, 1, 0, 1, 0, 0xFFFFFFFF⟩) s2)) = (512, true) := by decide
theorem test_dcopy : (nx (exec (.dcopy 0 ⟨2, 1, 0, 0, 0, 0⟩) s2)).dbits k0.b 2 = s2.dbits k0.b 1 ∧ s2.dbits k0.b 1 ≠ 0 := by decide

/-- The running station alone in its parcel: SPLIT makes four parcels and FDs 1 to 3 of the first are retired. -/
def lone : State :=
  [1, 2, 3].foldl (fun s fd => s.wr (Reg.fdStatusRetired fd) 1) (s1.wr Reg.glbParcelCfgSplit 7)

theorem test_lone_parcel : lone.parcelFds 0 = [0] ∧ lone.Issues 0 (scalWord 0x15 ⟨7, 1, 2, 4, 0, 0⟩) k0 := ⟨by decide, by decide, by decide⟩
theorem test_fault_recorded : ((nx (exec (.slogic 0 ⟨7, 1, 2, 4, 0, 0⟩) lone)).rd (Reg.stnFaultCause k0.b),
  (nx (exec (.slogic 0 ⟨7, 1, 2, 4, 0, 0⟩) lone)).stateAt k0) = (fcIllegalOp, stFaulted) := by decide


/-! ## Control flow -/

/-- `s` with a traverse image at key 0: station 0 has 16 words at 128, two legs; a variant table at word 4. -/
def imaged (s : State) : State :=
  { s with mem := [(20, 64), (64, 128), (68, 16), (72, 96), (76, 2), (96, 10), (100, 1), (112, 10), (160, 5), (164, 6)] }

/-- A running station with a program. -/
def c1 : State := imaged s1

/-- PC after an instruction of station 0. -/
def pcAfter (c : Instr) (s : State) : Nat := (nx (exec c s)).pcOf k0

theorem test_program : c1.progWords 0 0 = 16 ∧ c1.legCount 0 0 = 2 ∧ c1.issuable 0 = some k0 := by decide
theorem test_nop : pcAfter (.nop 0 ⟨0, 0, 0, 0, 0⟩) c1 = 1 := by decide
theorem test_jmp : pcAfter (.jmp 0 ⟨0, 0, 0, 0, 15⟩) c1 = 15 ∧ c1.Issues 0 (ctrlWord 0x03 ⟨0, 0, 0, 0, 15⟩) k0 := ⟨by decide, by decide, by decide⟩
theorem test_jmp_outside : c1.Issues 0 (ctrlWord 0x03 ⟨0, 0, 0, 0, 16⟩) k0 ∧ ¬ ((c1.pcOf k0 : Int) + (16 : BitVec 32).toInt < c1.progWords 0 0) :=
  ⟨⟨by decide, by decide⟩, by decide⟩
theorem test_loop : (pcAfter (.loop 0 ⟨1, 0, 0, 0, 2⟩) c1, (nx (exec (.loop 0 ⟨1, 0, 0, 0, 2⟩) c1)).sreg k0.b 1) = (2, 4) := by decide
theorem test_loop_ends : pcAfter (.loop 0 ⟨0, 0, 0, 0, 2⟩) c1 = 1 ∧ c1.sdata k0.b 2 = true := by decide
theorem test_select : pcAfter (.select 0 ⟨0, 0, 0, 2, 4⟩) c1 = 5 := by decide
theorem test_select_clamps : (pcAfter (.select 0 ⟨1, 1, 0, 2, 4⟩) c1,
  (nx (exec (.select 0 ⟨1, 1, 0, 2, 4⟩) c1)).rd (Reg.stnSelClampExcess k0.b)) = (6, 4) := by decide
theorem test_trap_hypotheses : c1.Issues 0 (ctrlWord 0x06 ⟨0, 0, 0, 9, 0⟩) k0 := ⟨by decide, by decide⟩
theorem test_trap : (nx (exec (.trap 0 ⟨0, 0, 0, 9, 0⟩) lone)).rd (Reg.stnFaultInfoInfo k0.b) = 9 := by decide
theorem test_reserved_hypotheses : c1.Issues 0 (ctrlWord 0x00 ⟨0, 0, 1, 0, 0⟩) k0 ∧ c1.Issues 0 (scalWord 0x10 ⟨0, 0, 0, 0, 1, 0⟩) k0 ∧
  c1.Issues 0 (syncWord 0x70 ⟨0, 1, 0, 0⟩) k0 := ⟨⟨by decide, by decide⟩, ⟨by decide, by decide⟩, ⟨by decide, by decide⟩⟩
theorem test_leg : ((nx (exec (.leg 0 ⟨0, 0, 0, 1, 0⟩) c1)).legOf k0, pcAfter (.leg 0 ⟨0, 0, 0, 1, 0⟩) c1) = (1, 1) := by decide
theorem test_leg_barrier_hypotheses : c1.drained k0 = true ∧ c1.openInfo k0 = 0 ∧ (c1.stn k0).chainBuf = none ∧ c1.returns = [] ∧
  c1.retireReq = [] ∧ (c1.stn k0).holdReq = false ∧ c1.Issues 0 (ctrlWord 0x02 ⟨0, 1, 0, 1, 0⟩) k0 :=
  ⟨by decide, by decide, by decide, by decide, by decide, by decide, by decide, by decide⟩
theorem test_leg_open : (c1.wr (Reg.stnSg k0.b 3) 1).openInfo k0 = 2 ^ 19 := by decide
theorem test_leg_not_drained : ({ c1 with lsts := [(0, { Lst.empty with handles := [(0, 1)] })] }).drained k0 = false := by decide
theorem test_end : ((nx (exec (.end_ 0 ⟨0, 0, 0, 0, 0⟩) lone)).stn k0).ended = true := by decide


/-! ## Loads, stores, copies -/

/-- A tensor descriptor from its fields: selector (R198) and value. -/
def dbitsOf (l : List (Nat × Nat)) : Nat :=
  l.foldl (fun a x => a + (match dField x.1 with | some (lo, w) => x.2 % 2 ^ w * 2 ^ lo | none => 0)) 0

/-- `s` with descriptor register `j` of station 0 set. -/
def withD (s : State) (j : Nat) (l : List (Nat × Nat)) : State := s.setDbits k0.b j (dbitsOf l)

/-- A running station with bytes 1 to 8 at 64 in its local store and 9 at 0 in FD 0's tier 1. -/
def m1 : State :=
  { withS r0 [(1, 64, false)] with mem := (0, 9) :: (List.range 8).map (fun i => (lsKey 0 0 (64 + i), BitVec.ofNat 8 (i + 1))) }

theorem test_engages : m1.Engages 0 (scalWord 0x18 ⟨7, 1, 0, 0, 0, 0⟩) k0 engSeq := ⟨⟨by decide, by decide⟩, by decide⟩
theorem test_open_word_local : m1.OpenWord k0 0 64 8 .sld (lsKey 0 0 64) ∧ m1.poisonAt (lsKey 0 0 64) 8 = none :=
  ⟨⟨by decide, .inl ⟨rfl, by decide, by decide⟩⟩, by decide⟩
theorem test_open_word_survey : m1.OpenWord k0 1 0 8 .sld 0 :=
  ⟨by decide, .inr ⟨rfl, by decide, by decide, by decide, by decide, .inl (by decide)⟩⟩
theorem test_sld : s7 (.sld 0 ⟨7, 1, 0, 0, 0, 0⟩) m1 = (0x0807060504030201, true) ∧ s7 (.sld 0 ⟨7, 0, 0, 1, 0, 0⟩) m1 = (9, true) := by decide
theorem test_sld_poisoned : ({ m1 with poison := [lsKey 0 0 64 / 32] } : State).poisonAt (lsKey 0 0 64) 8 = some (lsKey 0 0 64) := by decide
theorem test_inc_fetch : let m1 := m1.wr (Reg.scPartScratchKib 0) 4
  regionOf (m1.keyOf (atomBase + 10 * 2 ^ 32) / 2 ^ 41) (m1.keyOf (atomBase + 10 * 2 ^ 32) % 2 ^ 41) = .atomic 0xA 0 ∧
  m1.spanCheck (some (m1.parcelOf k0.fd)) .sld (atomBase + 10 * 2 ^ 32) 8 = none := by decide
theorem test_sld_remote : addrModule (2 ^ 46) ≠ m1.ownModule ∧ m1.remoteHere [(m1.keyOf (2 ^ 46), 8)] = false := by decide
theorem test_sst : (nx (exec (.sst 0 ⟨0, 0, 1, 0, 0, 8⟩) m1)).natAt (lsKey 0 0 8) 8 = 64 := by decide
theorem test_sst_hypotheses : m1.OpenWord k0 0 8 8 .write (lsKey 0 0 8) ∧ m1.Lands 0 (lsKey 0 0 8) 8 :=
  ⟨⟨by decide, .inl ⟨rfl, by decide, by decide⟩⟩, apart_of (by decide), by decide, by decide⟩
theorem test_sst_image : ({ m1 with regs := (m1.wr (Reg.glbTrvStatusState 0) trvRunning).regs, mem := [(12, 1)] } : State).inImage 0 8 =
  true := by decide
theorem test_dld : (nx (exec (.dld 0 ⟨1, 1, 0, 0, 0, 0⟩) m1)).dbits k0.b 1 = 0x0807060504030201 := by decide
theorem test_dst : (nx (exec (.dst 0 ⟨0, 0, 0, 0, 0, 0⟩) (withD m1 0 [(0, 5)]))).natAt (lsKey 0 0 0) 8 = 5 := by decide
theorem test_dst_hypotheses : m1.OpenWord k0 0 0 64 .write (lsKey 0 0 0) ∧ m1.Lands 0 (lsKey 0 0 0) 64 :=
  ⟨⟨by decide, .inl ⟨rfl, by decide, by decide⟩⟩, apart_of (by decide), by decide, by decide⟩

/-- D1: eight dense UINT8 at 64; D2: the same at 128. -/
def m2 : State := withD (withD m1 1 [(0, 64), (1, 8), (2, 1), (3, 1), (4, 1), (5, 1), (21, fUint8)]) 2 [(0, 128), (1, 8), (2, 1), (3, 1), (4, 1), (5, 1), (21, fUint8)]
/-- COPY of D1 to D2 as it is. -/
def copyF : TensF := ⟨2, 1, 0, 0, 0, 0, 0, 0, 18056⟩
theorem test_copy : (nx (exec (.copy 0 copyF) m2)).natAt (lsKey 0 0 128) 8 = 0x0807060504030201 := by decide


/-! ## Products, selections, vectors -/

/-- Two rows of four INT8: 1 2 3 4 and 5 6 7 8, at 64 in the local store (D1); one row −1 1 2 0 at 128 (D2). -/
def p1 : State :=
  let m := (List.range 8).map (fun i => (lsKey 0 0 (64 + i), BitVec.ofNat 8 (i + 1))) ++
    [(lsKey 0 0 128, 255), (lsKey 0 0 129, 1), (lsKey 0 0 130, 2)]
  withD (withD { r0 with mem := m } 1 [(0, 64), (1, 4), (2, 2), (3, 1), (4, 1), (5, 1), (6, 4)])
    2 [(0, 128), (1, 4), (2, 1), (3, 1), (4, 1), (5, 1), (6, 4)]
def mpassF : TensF := ⟨0, 1, 2, 0, 0, 0, 0, 0, 0⟩

/-- A plat of one row of four INT8, two kept: 3 at position 1 and 4 at position 3, at 256 (D3); an empty one at 512 (D4); one that
keeps three at 768 (D5); scores 1 to 4 in BF16 at 1024 (D6); a bitmap at 1088 (D7). -/
def p2 : State :=
  let hdr := fun (b keep : Nat) => [(b, 4), (b + 4, 1), (b + 10, keep), (b + 16, 64), (b + 20, 128)]
  let m := hdr 256 2 ++ [(320, 3), (321, 4), (384, 0x31)] ++ hdr 512 2 ++ hdr 768 3 ++ [(1024, 0x80), (1025, 0x3F), (1027, 0x40), (1028, 0x40), (1029, 0x40), (1030, 0x80), (1031, 0x40)]
  let plat := fun (s : State) (j b : Nat) => withD s j [(0, b), (1, 4), (2, 1), (3, 1), (4, 1), (5, 1), (20, layPlat)]
  let s := plat (plat (plat { p1 with mem := p1.mem ++ m.map (fun x => (lsKey 0 0 x.1, BitVec.ofNat 8 x.2)) } 3 256) 4 512) 5 768
  withD (withD (withD s 8 [(0, 64), (1, 1), (2, 2), (3, 1), (4, 1), (5, 1), (6, 4)]) 6 [(0, 1024), (1, 4), (2, 1), (3, 1), (4, 1), (5, 1), (6, 8), (21, fBf16)]) 7
    [(0, 1088), (1, 1), (2, 2), (3, 1), (4, 1), (5, 1), (20, layBitmap)]
def spmmF : TensF := ⟨0, 1, 3, 0, 0, 1, 0, 0, 0⟩
def pruneF : TensF := ⟨4, 2, 0, 0, 0, 0, 0, 0, 0⟩
def regrowF : TensF := ⟨5, 3, 0, 6, 0, 0, 0, 0, 1⟩
def reconF : TensF := ⟨7, 1, 3, 0, 0, 0, 0, 0, 0⟩
def spmmTF : TensF := ⟨0, 8, 3, 0, 0, 1, 0, 0, 0⟩

/-- Whether a check settles a plan with `p`. -/
def settled {ε α : Type} (r : Except ε α) (p : α → Bool := fun _ => true) : Bool :=
  match r with
  | .ok a => p a
  | .error _ => false

/-- Whether station 0 may read the spans now, and finds them clean. -/
def fed (s : State) (l : List (Nat × Nat)) : Bool :=
  s.remoteHere l && s.linesFree 0 l && (l.all (ownSpan k0) || s.trkRoom 0 0) && (s.poisoned l).isNone

/-- Whether station 0's writes land clean. -/
def lands (s : State) (w : BitVec 64) (ws : List (Nat × Byte)) : Bool := s.storeRoom k0 ws && (s.store (s.env k0 w).writer 0 ws).2.isNone

theorem test_fed : m1.Fed k0 [(lsKey 0 0 64, 8)] ∧ m1.Fed k0 [(0, 8)] := ⟨⟨by decide, by decide, by decide⟩, by decide, by decide, by decide⟩
theorem test_not_fed : let s := { m1 with dir := [(0, [⟨0, 2, 0, true, 2, none, false, []⟩])] }
  s.OpenWord k0 1 0 8 .sld 0 ∧ s.linesFree 0 [(0, 8)] = false :=
  ⟨⟨by decide, .inr ⟨rfl, by decide, by decide, by decide, by decide, .inl (by decide)⟩⟩, by decide⟩
theorem test_copy_hypotheses : m2.Engages 0 (tensWord 0x30 copyF) k0 engMov ∧ m2.platHeads (m2.env k0 (tensWord 0x30 copyF)) .read 1 = [] ∧
  settled (copyCheck false copyF (m2.env k0 (tensWord 0x30 copyF)) m2) (fun c => decide (m2.dieCopy k0 (tensWord 0x30 copyF) = false) &&
    fed m2 (m2.copySpans k0 c) && lands m2 (tensWord 0x30 copyF) (m2.stageWrites k0 c ++ (copyWrites copyF c k0 m2).1)) = true ∧
  copyF.okFor (uDD + uDA) (2 ^ 21 - 1) = true := ⟨⟨⟨by decide, by decide⟩, by decide⟩, by decide, by decide, by decide⟩
/-- D1: a tile image at 4096; D2: a plat in module 5's tier 1, whose header is not here. -/
def m3 : State :=
  withD (withD ((m1.wr Reg.glbModuleNumValid 1).wr (Reg.glbMemReachLast 0) 9) 1 [(0, 4096), (1, 64), (2, 16), (3, 1), (4, 1), (5, 1), (6, 32768), (20, layTile1664), (21, fLa192)])
    2 [(0, 5 * 2 ^ 46), (1, 4), (2, 2), (3, 1), (4, 1), (5, 1), (20, layPlat), (21, fInt8), (30, 1)]
def tldF : TensF := ⟨0, 1, 0, 0, 0, 2, 0, 0, 0⟩
def tstF : TensF := ⟨1, 0, 0, 0, 0, 2, 0, 0, 0⟩
theorem test_tld_hypotheses : m3.Engages 0 (tensWord 0x32 tldF) k0 engMov ∧ tldF.okFor (uDA + uTS + uSX) 0 = true ∧
  settled (m3.useDesc (m3.env k0 (tensWord 0x32 tldF)) .read 1) (fun r => tileImage r.1 && (m3.spansOf k0 r.1 none).all (ownSpan k0)) = true :=
  ⟨⟨⟨by decide, by decide⟩, by decide⟩, by decide, by decide⟩
theorem test_tst_hypotheses : m3.Engages 0 (tensWord 0x33 tstF) k0 engMov ∧ tstF.okFor (uDD + uTS + uSX) 0 = true ∧
  settled (m3.useDesc (m3.env k0 (tensWord 0x33 tstF)) .write 1) (fun r => tileImage r.1) = true ∧ m3.poison = [] ∧ m3.lostChan = [] :=
  ⟨⟨⟨by decide, by decide⟩, by decide⟩, by decide, by decide, rfl, rfl⟩
theorem test_plat_elsewhere : m3.platHeads (m3.env k0 (tensWord 0x30 ⟨1, 2, 0, 0, 0, 0, 0, 0, 18056⟩)) .read 2 ≠ [] ∧
  m3.remoteHere (m3.platHeads (m3.env k0 (tensWord 0x30 ⟨1, 2, 0, 0, 0, 0, 0, 0, 18056⟩)) .read 2) = false := by decide
theorem test_mpass : (((nx (exec (.mpass 0 mpassF) p1)).stn k0).tile 0).el = [(0, ⟨7 * 2 ^ 112, false, false⟩), (64, ⟨15 * 2 ^ 112, false, false⟩)] := by
  decide
theorem test_mpass_hypotheses : settled (mpassCheck mpassF (p1.env k0 (tensWord 0x40 mpassF)) p1) = true ∧
  ((p1.stn k0).tile 0).lockedBy = none ∧ (p1.stn k0).chainBuf = none ∧ p1.poison = [] ∧ mpassF.okFor (uDA + uTS + uDB) 15 = true ∧
  p1.Engages 0 (tensWord 0x40 mpassF) k0 engMat :=
  ⟨by decide, by decide, by decide, rfl, by decide, ⟨by decide, by decide⟩, by decide⟩
theorem test_melem : (((nx (exec (.melem 0 ⟨0, 2, 2, 0, 0, 1, 0, 0, 0x10⟩) p1)).stn k0).tile 1).el =
  [(0, ⟨2 ^ 112, false, false⟩), (1, ⟨2 ^ 112, false, false⟩), (2, ⟨4 * 2 ^ 112, false, false⟩)] := by decide
theorem test_spmm : (((nx (exec (.spmm 0 spmmF) p2)).stn k0).tile 1).el = [(0, ⟨22 * 2 ^ 112, false, false⟩), (64, ⟨50 * 2 ^ 112, false, false⟩)] := by
  decide
theorem test_spmm_t : ((((nx (exec (.spmmT 0 spmmTF) p2)).stn k0).tile 1).at 1 3).l = 20 * 2 ^ 112 := by decide
theorem test_spmm_hypotheses : settled (spmmCheck spmmF (p2.env k0 (tensWord 0x60 spmmF)) p2) (fun c => (p2.poisoned [(p2.dkey k0 c.w 0, 64)]).isNone) = true ∧
  settled (spmmTCheck spmmTF (p2.env k0 (tensWord 0x61 spmmTF)) p2) = true ∧ p2.poison = [] ∧ p2.lostChan = [] := by decide
theorem test_prune_hypotheses : settled (selCheck false pruneF (p2.env k0 (tensWord 0x63 pruneF)) p2) (fun c => (p2.poisoned (p2.selSpans k0 c)).isNone &&
  lands p2 (tensWord 0x63 pruneF) (p2.selWrites k0 c (p2.pruneRows k0 c))) = true := by decide
theorem test_prune : (nx (exec (.prune 0 pruneF) p2)).bytesAt (lsKey 0 0 576) 2 = [0xFF, 2] := by decide
theorem test_regrow : (nx (exec (.regrow 0 regrowF) p2)).bytesAt (lsKey 0 0 832) 3 = [3, 0, 4] := by decide
theorem test_recon_hypotheses : settled (reconCheck reconF (p2.env k0 (tensWord 0x62 reconF)) p2) (fun c =>
  lands p2 (tensWord 0x62 reconF) (spread (p2.dkey k0 c.o 0) [0])) = true := by decide
theorem test_recon_keeps : (nx (exec (.recon 0 reconF) p2)).bytesAt (lsKey 0 0 1088) 1 = [0] := by decide
theorem test_la_sum : (LA.add ⟨2 ^ 191, true, false⟩ ⟨2 ^ 191, false, true⟩) = ⟨0, true, true⟩ := by decide


/-- A running station with 1.0, 2.0 in lanes 0 and 1 of V1, and −0.5, a NaN in those of V2; P1 enables lane 0 alone. -/
def v1 : State :=
  let s := { m2 with stns := [(0, { Stn.idle with active := true, vregs := [(64, 0x3F800000), (65, 0x40000000), (128, 0xBF000000), (129, 0x7FC00000)] })] }
  s.wr (Reg.stnP k0.b 1) 1
/-- Lane `j` of V3 after an instruction. -/
def lane3 (c : Instr) (j : Nat) : Nat := ((nx (exec c v1)).stn k0).lane 3 j

/-- D3: 1.0, 2.0, −3.5, 0 in FP32 at 256; D4: sixteen UINT8 at 512; D5: four N32 at 640; D6: four INT8 at 704; a witness record in
the image at key 0. -/
def g1 : State :=
  let m := [(258, 0x80), (259, 0x3F), (263, 0x40), (266, 0x60), (267, 0xC0)].map (fun x => (lsKey 0 0 x.1, BitVec.ofNat 8 x.2))
  let d := fun (s : State) (j b n f : Nat) => withD s j [(0, b), (1, n), (2, 1), (3, 1), (4, 1), (5, 1), (21, f)]
  d (d (d (d { r0 with mem := (52, 1) :: (56, 64) :: m } 3 256 4 fFp32) 4 512 16 fUint8) 5 640 4 fN32) 6 704 4 fInt8
def randF : TensF := ⟨5, 0, 0, 0, 0, 0, 0, 0, 0⟩
def sampleF : TensF := ⟨4, 3, 0, 0, 0, 0, 0, 31, 0⟩
def quantF : TensF := ⟨6, 3, 0, 0, 0, 0, 0, 0, 0⟩
def digestF : TensF := ⟨4, 3, 0, 0, 0, 0, 0, 0, 0⟩

theorem test_vector_hypotheses : v1.Engages 0 (tensWord 0x52 ⟨3, 1, 2, 0, 0, 0, 0, 0, 0⟩) k0 engVec := ⟨⟨by decide, by decide⟩, by decide⟩
theorem test_varith : lane3 (.varith 0 ⟨3, 1, 2, 0, 0, 0, 0, 0, 0⟩) 0 = 0x3F000000 ∧ lane3 (.varith 0 ⟨3, 1, 2, 0, 1, 0, 0, 0, 0⟩) 1 = 0 := by decide
theorem test_vfma : lane3 (.vfma 0 ⟨3, 1, 1, 2, 0, 0, 0, 0, 0⟩) 0 = 0x3F000000 := by decide
theorem test_vfunc_hypotheses : (⟨3, 1, 0, 0, 0, 0, 0, 0, 0⟩ : TensF).okFor (uDD + uDA + uPM) 7 = true := by decide
theorem test_vcmp : (nx (exec (.vcmp 0 ⟨2, 1, 2, 0, 0, 0, 0, 0, 6⟩) v1)).pred k0.b 2 = 2 := by decide
theorem test_vsel : lane3 (.vsel 0 ⟨3, 1, 2, 1, 0, 0, 0, 0, 0⟩) 0 = 0x3F800000 ∧ lane3 (.vsel 0 ⟨3, 1, 2, 1, 0, 0, 0, 0, 0⟩) 1 = 0x7FC00000 := by decide
theorem test_vcvt : lane3 (.vcvt 0 ⟨3, 1, 0, 0, 0, 0, 0, 0, 8⟩) 1 = 0x40000000 := by decide
theorem test_vld : lane3 (.vld 0 ⟨3, 1, 0, 0, 0, 0, 0, 0, 0⟩) 7 = 0x41000000 := by decide
theorem test_vst : (nx (exec (.vst 0 ⟨2, 1, 0, 0, 0, 0, 0, 0, 0⟩) v1)).bytesAt (lsKey 0 0 128) 2 = [1, 2] := by decide
theorem test_vgather : lane3 (.vgather 0 ⟨3, 3, 1, 0, 1, 0, 0, 0, 0⟩) 0 = 0x3F800000 := by decide
theorem test_vred : ((((nx (exec (.vred 0 ⟨0, 1, 0, 0, 0, 2, 0, 0, 0x10⟩) v1)).stn k0).tile 2).at 0 0).l = 3 * 2 ^ 112 := by decide
theorem test_quant : (nx (exec (.quant 0 quantF) g1)).bytesAt (lsKey 0 0 704) 4 = [1, 2, 0xFC, 0] := by decide
theorem test_vld_hypotheses : settled (v1.useDesc (v1.env k0 (tensWord 0x50 ⟨3, 1, 0, 0, 0, 0, 0, 0, 0⟩)) .read 1)
  (fun r => (vecFmt r.1 false).isNone && fed v1 (v1.touched k0 r.1 r.2.1 [0, 0, 0, 0, 0])) = true := by decide
theorem test_vst_hypotheses : settled (v1.useDesc (v1.env k0 (tensWord 0x51 ⟨2, 1, 0, 0, 0, 0, 0, 0, 0⟩)) .write 2)
  (fun r => (vecFmt r.1 false).isNone && decide (r.1.fmt ≠ fE8m0) && fed v1 (v1.vstOld k0 r.1 [0, 1])) = true ∧
  lands v1 (tensWord 0x51 ⟨2, 1, 0, 0, 0, 0, 0, 0, 0⟩) [(lsKey 0 0 128, 1)] = true := by decide
theorem test_quant_hypotheses : g1.platHeads (g1.env k0 (tensWord 0x83 quantF)) .write 6 = [] ∧
  settled (quantCheck quantF (g1.env k0 (tensWord 0x83 quantF)) g1) (fun c => match c.src with
    | some (a, sc) => fed g1 (g1.spansOf k0 a sc) && lands g1 (tensWord 0x83 quantF) (g1.quantWrites k0 quantF c (g1.quantEls k0 quantF c))
    | none => false) = true := by decide
theorem test_rand_hypotheses : settled (randCheck randF (g1.env k0 (tensWord 0x81 randF)) g1) = true ∧
  lands g1 (tensWord 0x81 randF) [(lsKey 0 0 640, 1)] = true := by decide
theorem test_sample_hypotheses : settled (sampleCheck sampleF (g1.env k0 (tensWord 0x82 sampleF)) g1) (fun c => fed g1 (g1.spansOf k0 c.src c.ssc)) = true ∧
  lands g1 (tensWord 0x82 sampleF) [(lsKey 0 0 512, 1)] = true := by decide
theorem test_digest_hypotheses : g1.platHeads (g1.env k0 (tensWord 0x84 digestF)) .read 3 = [] ∧
  settled (digCheck digestF (g1.env k0 (tensWord 0x84 digestF)) g1) (fun r => fed g1 (g1.digSpans k0 r.1)) = true ∧
  lands g1 (tensWord 0x84 digestF) [(lsKey 0 0 512, 1)] = true := by decide
theorem test_rngset : (nx (exec (.rngset 0 ⟨0, 1, 0, 8, 0, 1⟩) s1)).rd (Reg.stnRngStreamStream k0.b 0) = 6 := by decide


/-! ## Synchronisation, chains, traverses -/

/-- Stations 0 and 1 run; the image has barrier group 1 of both and lockstep group 2 of station 0. -/
def b1 : State :=
  { c1 with stns := [(0, { Stn.idle with active := true }), (1, { Stn.idle with active := true })]
            mem := [(20, 64), (30, 1), (32, 192), (36, 224), (40, 1), (64, 128), (68, 16), (72, 96), (76, 2), (80, 128), (84, 16), (96, 10),
              (100, 1), (112, 10), (160, 5), (164, 6), (192, 1), (194, 2), (196, 208), (210, 1), (224, 2), (226, 1), (228, 208)] }
/-- Station 1 waits in the barrier, or for 3 signals of counter 2. -/
def b2 (w : Wait) : State := { b1 with stns := [(0, { Stn.idle with active := true }), (1, { Stn.idle with active := true, waiting := some w })] }
/-- The second station. -/
def k1 : Loc := ⟨0, 1, 1⟩

theorem test_fence : pcAfter (.fence 0 ⟨0, 0, 0, 0⟩) b1 = 1 ∧ b1.fenceOk k0 = true := by decide
theorem test_waitsig : pcAfter (.waitsig 0 ⟨0, 0, 3, 2⟩) (b1.wr (Reg.stnSg k0.b 3) 5) = 1 ∧
  (nx (exec (.waitsig 0 ⟨0, 0, 3, 2⟩) (b1.wr (Reg.stnSg k0.b 3) 5))).rd (Reg.stnSg k0.b 3) = 3 := by decide
theorem test_waitsig_waits : ((nx (exec (.waitsig 0 ⟨0, 0, 3, 2⟩) b1)).stn k0).waiting = some (.sig 3 2) := by decide
theorem test_collwait : pcAfter (.collwait 0 ⟨0, 0, 15, 0⟩) b1 = 1 ∧
  ((nx (exec (.collwait 0 ⟨0, 0, 4, 0⟩) { b1 with lsts := [(0, { Lst.empty with handles := [(4, 0)] })] })).stn k0).waiting = some (.coll 4) := by
  decide
theorem test_signal : (nx (exec (.signal 0 ⟨1, 0, 3, 2⟩) b1)).sigs = [(0, 5, 3, 2)] := by decide
theorem test_signal_hypotheses : b1.Engages 0 (syncWord 0x73 ⟨1, 0, 3, 2⟩) k0 engCol ∧ (b1.parcelFds 0).contains 0 = true ∧
  (b1.lst 0).repeating = false ∧ (lone.parcelFds 0).contains 1 = false := ⟨⟨⟨by decide, by decide⟩, by decide⟩, by decide, by decide, by decide⟩
theorem test_signal_room : b1.colFenceOk k0 = true ∧ b1.trkTotal 0 < 16384 := by decide
theorem test_barrier_hypotheses : b1.barrierGrp 0 1 = some [0, 1] ∧ (b2 (.barrier 1)).arrived 1 1 = true ∧ b1.arrived 1 1 = false ∧
  (([0, 1].filterMap b1.locate).map Loc.key).Nodup := by decide
theorem test_barrier : pcAfter (.barrier 0 ⟨0, 0, 1, 0⟩) (b2 (.barrier 1)) = 1 ∧
  (nx (exec (.barrier 0 ⟨0, 0, 1, 0⟩) (b2 (.barrier 1)))).pcOf k1 = 1 := by decide
theorem test_signal_delivery : ((nx (exec (.signalDelivery 0 1 2) { b2 (.sig 2 3) with sigs := [(0, 1, 2, 4)] })).rd (Reg.stnSg k1.b 2),
  (nx (exec (.signalDelivery 0 1 2) { b2 (.sig 2 3) with sigs := [(0, 1, 2, 4)] })).pcOf k1) = (1, 1) := by decide
theorem test_signal_delivery_none_waits : (nx (exec (.signalDelivery 0 1 2) { b1 with sigs := [(0, 1, 2, 4)] })).rd (Reg.stnSg k1.b 2) = 4 := by
  decide

/-- A chain's tile on its way to tile 1 of station 1, which expects one, or none. -/
def b3 (expect : Nat) : State :=
  { b1 with chains := [⟨0, 0, 1, 1, 7, 5, false, [(3, ⟨9, false, true⟩)]⟩]
            stns := [(0, { Stn.idle with active := true }), (1, ({ Stn.idle with active := true } : Stn).setTile 1
              ⟨[(3, ⟨1, true, false⟩)], 2, false, 0, expect, 7, true, none⟩)] }
theorem test_chain_arrival : (let t := (nx (exec (.chainTransferArrival 1) (b3 1))).stn k1
  ((t.tile 1).expect, (t.tile 1).terms, (t.tile 1).at 0 3)) = (0, 7, ⟨10, true, true⟩) := by decide
theorem test_chain_arrival_early : ((nx (exec (.chainTransferArrival 1) (b3 0))).stn k1).chainBuf.isSome = true := by decide
theorem test_chain_hypotheses : (b3 1).NoneWaits ∧ ((b3 1).stn k1).chainBuf = none ∧ (b3 1).locate 0 = some k0 ∧ ((b3 1).stn k0).chainBuf = none ∧
  k0.key ≠ k1.key := by unfold State.NoneWaits; decide
theorem test_chin : (((nx (exec (.chin 0 ⟨0, 0, 0, 0, 0, 1, 0, 0, 0x1D⟩) b1)).stn k0).tile 1).expect = 1 ∧
  (((nx (exec (.chin 0 ⟨0, 0, 0, 0, 0, 1, 0, 0, 0x1D⟩) b1)).stn k0).tile 1).chainId = 7 := by decide
theorem test_chout : (nx (exec (.chout 0 ⟨0, 0, 0, 0, 0, 1, 0, 1, 0x1D⟩) b1)).chains = [⟨0, 1, 5, 1, 7, 0, false, []⟩] := by decide
theorem test_chout_outside : let t := nx (exec (.chout 0 ⟨0, 0, 0, 0, 0, 1, 0, 1, 0x1D⟩) (lone.setReg (k0.b + 0x608) 128))
  t.rd (Reg.stnFaultCause k0.b) = fcChainUnexpected := by decide
/-- A TCLR of tile 2 in the queue of the arrays. -/
def b4 : State := { b1 with stns := [(0, { (({ Stn.idle with active := true } : Stn).setTile 2 ⟨[(0, ⟨1, false, false⟩)], 1, false, 0, 0, 0, true, none⟩)
  with engq := [⟨engMat, tensWord 0x34 ⟨0, 0, 0, 0, 0, 2, 0, 0, 0⟩, 0, 0⟩] })] }
theorem test_engine_dispatch : ((nx (exec (.engineQueueDispatch 0 (BitVec.ofNat 3 engMat)) b4)).stn k0).engq = [] ∧
  (((nx (exec (.engineQueueDispatch 0 (BitVec.ofNat 3 engMat)) b4)).stn k0).tile 2).terms = 0 := by decide
theorem test_dispatch_hypotheses : b4.ordered k0 (tensWord 0x34 ⟨0, 0, 0, 0, 0, 2, 0, 0, 0⟩) [] = false ∧ (b4.stn k0).step = .none' ∧
  (b4.stn k0).chainBuf = none ∧ b4.NoneWaits := by unfold State.NoneWaits; decide
theorem test_tclr : (((nx (exec (.tclr 0 ⟨0, 0, 0, 0, 0, 2, 0, 0, 0⟩) { b4 with stns := b4.stns.map (fun e => (e.1, { e.2 with engq := [] })) })).stn k0).tile 2).el = [] := by
  decide

/-- Station 0 halted, its program NOPs. -/
def h1 : State := nx (exec (.stnHaltWrite 0 true) b1)
theorem test_halt : h1.stateAt k0 = stHalted := by decide
theorem test_step : (nx (exec (.stnStep 0) h1)).pcOf k0 = 1 ∧ (nx (exec (.stnStep 0) b1)).pcOf k0 = 0 := by decide
theorem test_step_hypotheses : let s := h1.updStn k0 (fun t => { t with step := .issue })
  s.wordAt 0 0 0 = 0 ∧ h1.pcOf k0 < s.progWords 0 0 ∧ s.hazard k0 0 = false ∧ s.stalls k0 0 = false ∧ h1.NoneWaits := by
  unfold State.NoneWaits; decide
theorem test_state_reg_write : (nx (exec (.stnStateRegWrite 0 0x608 9) h1)).sreg k0.b 1 = 9 ∧
  (nx (exec (.stnStateRegWrite 0 0x608 9) b1)).rd (Reg.stnStatusWrDiscard k0.b) = 1 := by decide
theorem test_rng_reg_write : (nx (exec (.stnRngRegWrite 0 0x500 9) h1)).rd (Reg.stnRngSeedSeed k0.b) = 9 := by decide

theorem test_waitmk : pcAfter (.waitmk 0 ⟨0, 0, 0, 5⟩) { b1 with meridian := 7 } = 1 ∧
  (nx (exec (.waitmk 0 ⟨0, 0, 0, 5⟩) { b1 with meridian := 7 })).rd (Reg.stnLatenessLateness k0.b) = 2 := by decide
theorem test_waitmk_early : ((nx (exec (.waitmk 0 ⟨0, 0, 0, 5⟩) b1)).stn k0).waiting = some (.mark 0 5) := by decide
theorem test_mark_reached : (nx (exec (.waitmkMarkReached 1) { b2 (.mark 3 5) with meridian := 9 })).pcOf k1 = 1 ∧
  (nx (exec (.waitmkMarkReached 1) { b2 (.mark 3 5) with meridian := 9 })).rd (Reg.stnWaitmkTicks k1.b) = 6 := by decide
theorem test_lockstep_hypotheses : b1.barrierGrp 0 1 ≠ none ∧ (b1.lockGrp 0 2).map (·.members) = some [0] ∧
  (b1.lockGrp 0 2).map (·.span) = some false := by decide
/-- Station 0 waits at its first lockstep mark. -/
def l1 : State := { b1 with meridian := 9, stns := [(0, { Stn.idle with active := true, waiting := some (.lockstep 2 1 6 5) })] }
theorem test_lockstep_complete : l1.formed 2 [0] = some (1, 5, 6) ∧ pcAfter (.lockstepMarkComplete 0 2) l1 = 1 := by decide
theorem test_ready_message : (nx (exec (.readyMessage 0 2 1 5 8) (b1.wr (Reg.glbTrvStatusState 0) trvRunning))).ready = [(0, 2, 1, 5, 8)] ∧
  (nx (exec (.readyMessage 0 2 1 5 8) b1)).ready = [] := by decide


/-- An image of no program at 4096: header, and a station table of zeros at 128; a loading of it for parcel 0. -/
def i1 : State :=
  { State.reset with mem := [(0, 0x54), (1, 0x52), (2, 0x56), (3, 0x31), (4, 1), (9, 0x82), (16, 100), (20, 128)].map (fun x => (4096 + x.1, x.2))
                     loading := [⟨0, 0, 4096, 50, none, []⟩] }

/-- The loading's parcel with BASE at the image. -/
def i2 : State := i1.wr (Reg.glbTrvBaseBase 0) 4096
theorem i2_byte (o : Nat) (h : 24 ≤ o) (h2 : o < 2 ^ 33) : i2.byteAt (4096 + o) = 0 := by
  have hr : regionOf ((4096 + o) / 2 ^ 41) ((4096 + o) % 2 ^ 41) = .t1 := by
    have h0 : (4096 + o) / 2 ^ 41 = 0 := by omega
    have h1 : (4096 + o) % 2 ^ 41 = 4096 + o := by omega
    rw [h0, h1]; unfold regionOf; rw [if_pos (by decide), if_pos (by omega)]
  have hk : keyRemote (4096 + o) = false := by unfold keyRemote; simp; omega
  have hh : i2.homeKey (4096 + o) = 4096 + o := by
    have hu : i2.flag (Reg.t1RedirectUsed 0) = false := by decide
    have h0 : (4096 + o) / 2 ^ 41 = 0 := by omega
    unfold State.homeKey
    simp only [h0, hu]; simp
  unfold State.byteAt
  rw [if_neg (by simp [hk]), hr]
  show Sparse.get memDefault i2.mem (i2.homeKey (4096 + o)) ^^^ i2.scrMask (i2.homeKey (4096 + o)) = 0
  rw [hh]
  have hm : i2.mem = i1.mem := rfl
  have hs : i2.scrMask (4096 + o) = 0 := by
    unfold State.scrMask; rw [show i2.scrGen = [] from rfl]; rfl
  rw [hs, hm]
  have hl : ∀ a v (t : Sparse Byte), a < 4096 + o → Sparse.get memDefault ((a, v) :: t) (4096 + o) = Sparse.get memDefault t (4096 + o) :=
    fun a v t ha => by unfold Sparse.get; rw [if_neg (by omega)]; cases t <;> rfl
  unfold i1
  simp only [List.map_cons, List.map_nil]
  iterate 8 rw [hl _ _ _ (by omega)]
  show memDefault _ ^^^ 0 = 0
  simp [memDefault]
theorem i2_base : i2.imgKey 0 = 4096 := by decide
theorem i2_img (o n : Nat) (h : 24 ≤ o) (h2 : o + n < 2 ^ 33) : i2.img 0 o n = 0 := by
  have hb : i2.bytesAt (4096 + o) n = List.replicate n 0 := by
    apply List.ext_getElem (by simp [State.bytesAt])
    intro i h3 h4
    simp [State.bytesAt] at h3 ⊢
    rw [Nat.add_assoc]; exact i2_byte _ (by omega) (by omega)
  unfold State.img State.natAt
  rw [i2_base, hb]
  clear hb h h2
  induction n with
  | zero => rfl
  | succ n ih => 
    have h1 : ofLeBytes (List.replicate (n + 1) 0) = 0 + 256 * ofLeBytes (List.replicate n 0) := rfl
    rw [h1]
    omega
theorem i2_entry (n : Nat) : i2.stnEntry 0 n = 128 + 16 * n := by
  have : i2.img 0 20 4 = 128 := by decide
  unfold State.stnEntry; rw [this]
theorem i2_words (n : Nat) (h : n < 2048) : i2.progWords 0 n = 0 := by
  unfold State.progWords; rw [i2_entry]; exact i2_img _ _ (by omega) (by omega)
theorem i2_stations : i2.stationsOk 0 = true := by
  unfold State.stationsOk
  simp only [List.all_eq_true, List.mem_range]
  intro n h; simp [i2_words n h]
theorem i2_schedule : i2.scheduleOk 0 = true := by
  unfold State.scheduleOk
  rw [i2_img 40 2 (by decide) (by decide)]
  simp only [List.all_eq_true, List.mem_range, Bool.and_eq_true]
  exact ⟨fun n h => by simp [i2_words n h], fun n h => absurd h (by omega)⟩
theorem i2_format : i2.formatOk 0 = true := by
  have hs : (List.range 2048).all (i2.stationOk 0) = true := by
    simp only [List.all_eq_true, List.mem_range]
    intro n h
    unfold State.stationOk
    rw [i2_entry, i2_img _ _ (by omega) (by omega), i2_words n h]; simp
  unfold State.formatOk
  rw [hs]
  have h1 : i2.headerOk 0 = true := by
    have hz : (List.range 44).all (fun i => decide (i2.img 0 (84 + i) 1 = 0)) = true := by
      simp only [List.all_eq_true, List.mem_range]
      intro i h; rw [i2_img _ _ (by omega) (by omega)]; rfl
    unfold State.headerOk
    show (_ && (List.range 44).all (fun i => decide (i2.img 0 (84 + i) 1 = 0)) && _ && _ && _ && _) = true
    rw [hz]; decide
  have h2 : (i2.poisonAt (i2.imgKey 0) (i2.imgBytes 0)).isNone = true := by decide
  have h3 : i2.tabOk 0 (i2.img 0 20 4) 32768 = true := by decide
  have h4 : i2.tabOk 0 (i2.img 0 24 4) (320 * i2.img 0 28 2) = true := by
    rw [i2_img 24 4 (by decide) (by decide), i2_img 28 2 (by decide) (by decide)]; decide
  have h5 : i2.barriersOk 0 = true := by decide
  have h6 : i2.lockstepsOk 0 = true := by decide
  have h7 : i2.plansOk 0 = true := by decide
  rw [h1, h2, h3, h4, h5, h6, h7]; rfl
theorem i2_placed : ¬ (i2.rd (Reg.glbTrvBaseBase 0) % 4096 ≠ 0 ∨ (!i2.placed 0 (i2.rd (Reg.glbTrvBaseBase 0)) 128) = true ∨
    (!i2.placed 0 (i2.rd (Reg.glbTrvBaseBase 0)) (max 128 (i2.imgBytes 0))) = true) := by decide
theorem i2_short : ¬ ((i2.shortfalls 0).any (fun x => decide (x.1 ≠ 0)) = true) := by decide
theorem load_passes (s : State) (p : Nat) (h1 : ¬ (s.rd (Reg.glbTrvBaseBase p) % 4096 ≠ 0 ∨ (!s.placed p (s.rd (Reg.glbTrvBaseBase p)) 128) = true ∨
    (!s.placed p (s.rd (Reg.glbTrvBaseBase p)) (max 128 (s.imgBytes p))) = true)) (h2 : s.formatOk p = true) (h3 : s.stationsOk p = true)
    (h4 : s.scheduleOk p = true) (h5 : ¬ ((s.shortfalls p).any (fun x => decide (x.1 ≠ 0)) = true)) : (s.loadChecks p).1 = 0 := by
  unfold State.loadChecks
  simp only [h1, h2, h3, h4, h5, if_false, Bool.not_true]
  rfl
theorem test_load_refused : ((i1.wr (Reg.glbTrvBaseBase 0) 4097).loadChecks 0).1 = rfPlacement := by decide
theorem test_load_passes : (i2.loadChecks 0).1 = 0 := load_passes i2 0 i2_placed i2_format i2_stations i2_schedule i2_short
theorem test_image_in_tiers : i2.ImageInTiers 0 := by
  intro o h
  have h0 : (i2.imgKey 0 + o) / 2 ^ 41 = 0 := by rw [i2_base]; omega
  have h1 : (i2.imgKey 0 + o) % 2 ^ 41 = 4096 + o := by rw [i2_base]; omega
  left
  show regionOf ((i2.imgKey 0 + o) / 2 ^ 41) ((i2.imgKey 0 + o) % 2 ^ 41) = .t1
  rw [h0, h1]; unfold regionOf; rw [if_pos (by decide), if_pos (by omega)]

/-- Parcel 0 of the lone station's module, armed, its image at 0. -/
def a1 : State := { lone.wr (Reg.glbTrvStatusState 0) trvArmed with mem := [(20, 64), (68, 16), (76, 1)], stns := [] }
theorem test_start_hypotheses : a1.rd (Reg.glbTrvOriginOrigin 0) ≤ a1.meridian.toNat ∧ a1.programmed 0 = [k0] := by decide
theorem test_start : ((nx (exec (.traverseStart 0) a1)).rd (Reg.glbTrvStatusState 0), ((nx (exec (.traverseStart 0) a1)).stn k0).active) =
  (trvRunning, true) := by decide


/-! ## Traverse queues -/

/-- Parcel 0 of the lone station's module with one entry `op` in its queue `q`, at 0x1000 in host memory. -/
def tq (q : Nat) (op : Byte) (state : Nat) (s : State) : State :=
  let s := ((s.wr Reg.glbStartStatusReady 1).wr (Reg.hifTqCfgEnable 0 q) 1).wr (Reg.hifTqBaseAddr 0 q) 0x1000
  { (s.wr (Reg.hifTqDbTail 0 q) 1).wr (Reg.glbTrvStatusState 0) state with rstKind := 0, hostMem := (0x1000, op) :: (if op = 1 then [(0x1004, 9), (0x1009, 0x10)] else []) }
/-- STATUS of the entry, and HEAD. -/
def tqAfter (q : Nat) (c : Instr) (s : State) : Nat × Nat :=
  ((Sparse.get hostDefault (nx (exec c s)).hostMem 0x1001).toNat, (nx (exec c s)).rd (Reg.hifTqHeadHead 0 q))

theorem test_tq_head : (tq 0 1 trvIdle lone).tqReady 0 0 = true ∧ (tq 0 1 trvIdle lone).rd (Reg.hifTqDbTail 0 0) = 1 ∧
  (tq 0 1 trvIdle lone).rd (Reg.hifTqHeadHead 0 0) = 0 ∧
  (tq 0 1 trvIdle lone).tqBad 0 0 ((tq 0 1 trvIdle lone).hostRead ((tq 0 1 trvIdle lone).tqSlot 0 0) 64) = false := by decide
theorem test_doorbell : (nx (exec (.tqDoorbell .pf 0 0 17) (tq 0 1 trvIdle lone))).rd (Reg.hifTqCfgBadDb 0 0) = 1 ∧
  (nx (exec (.tqDoorbell .pf 0 0 16) (tq 0 1 trvIdle lone))).rd (Reg.hifTqDbTail 0 0) = 16 := by decide
theorem test_doorbell_management : (nx (exec (.tqDoorbell .mgt 0 0 16) (tq 0 1 trvIdle lone))).rd (Reg.hifTqDbTail 0 0) = 1 := by decide
theorem test_submit : (nx (exec (.submit 0) (tq 0 1 trvIdle lone))).loading = [⟨0, 9, 0x1000, 0, some 0x1001, []⟩] := by decide
theorem test_abandon_idle : tqAfter 1 (.abandon 0) (tq 1 0x10 trvIdle lone) = (tqNotApplicable, 1) := by decide
theorem test_abandon : ((nx (exec (.abandon 0) (tq 1 0x10 trvRunning lone))).stn k0).active = false ∧ (lone.stn k0).active = true := by decide
theorem test_resume_held_hypotheses : (tq 1 0x11 trvHeld lone).rd (Reg.glbTrvStatusState 0) = trvHeld ∧
  ((lone.parcelStns 0).map Loc.key).Nodup := by decide
theorem test_resume : (nx (exec (.resume 0) (tq 1 0x11 trvHeld lone))).rd (Reg.glbTrvStatusState 0) = trvRunning := by decide
theorem test_resume_not_held : tqAfter 1 (.resume 0) (tq 1 0x11 trvIdle lone) = (tqNotApplicable, 1) := by decide
/-- Its station faulted behind a barrier record at PC 3. -/
def f1 : State :=
  { tq 1 0x12 trvHeld lone with stns := [(0, { Stn.idle with active := true, faulted := true })]
                                lsts := [(0, { Lst.empty with barrec := some ⟨[], [], 3, 0, 0⟩ })] }
theorem test_resume_barrier : (nx (exec (.resumeBarrier 0) f1)).pcOf k0 = 3 ∧ ((nx (exec (.resumeBarrier 0) f1)).stn k0).faulted = false := by
  decide
theorem test_au_release : tqAfter 1 (.auRelease 0) (tq 1 0x13 trvIdle lone) = (tqNotApplicable, 1) := by decide
/-- The unit of FD 0 held at entry 4, and named. -/
def u1 : State :=
  let s := (tq 1 0x13 trvIdle lone).wr (Reg.auQstatHeld 0) 1
  { s.wr (Reg.auFaultEntry 0) 4 with hostMem := [(0x1000, 0x13), (0x1002, 1), (0x1018, 1)] }
theorem test_au_release_skips : tqAfter 1 (.auRelease 0) u1 = (tqDone, 1) ∧ (nx (exec (.auRelease 0) u1)).rd (Reg.auQstatHead 0) = 5 := by decide


/-! ## Collectives -/

/-- A plan of two modules and one member in the image: op `op` of two FP32 elements; SEND, RECV_ADD, RECV_COPY, and `last`. -/
def planMem (op last : Byte) : List (Nat × Byte) :=
  [(42, 1), (45, 1), (256, op), (258, 10), (259, 10), (260, 1), (261, 19), (268, 1), (272, 2), (285, 2), (288, 1), (293, 3), (296, 0x40), (297, 3),
    (300, 4), (312, 2), (524, 2), (772, 1), (832, 1), (836, 1), (844, 2), (848, 2), (849, 1), (852, 1), (860, 2), (864, 3), (865, 1), (868, 1), (876, 2), (880, last), (892, 2)]
/-- Station 0 runs under the plan; D1 has 1.0 and 2.0 at 64, D2 two FP32 at 128. -/
def cl (op last : Byte) : State :=
  let d := fun (s : State) (j b : Nat) => withD s j [(0, b), (1, 2), (2, 1), (3, 1), (4, 1), (5, 1), (21, fFp32)]
  d (d { r0 with mem := planMem op last ++ [(lsKey 0 0 66, 0x80), (lsKey 0 0 67, 0x3F), (lsKey 0 0 71, 0x40)] } 1 64) 2 128
def collF : TensF := ⟨2, 1, 0, 0, 0, 0, 0, 0, 0x30000⟩
/-- After station 0 has joined with handle 3. -/
def cj (last : Byte) : State := nx (exec (.coll 0 collF) (cl 0 last))
/-- The same with its port up, and steps before `j` taken. -/
def cs (j : Nat) (s : State) : State :=
  { s.wr (Reg.lnkStatusState 0) lnkUpSync with colls := s.colls.map (fun r => { r with steps := List.range j }) }
/-- LASUM's station, with a tile of L = 7 and three terms. -/
def cla : State :=
  { cl 5 4 with stns := [(0, ({ Stn.idle with active := true } : Stn).setTile 1 ⟨[(0, ⟨7, false, false⟩)], 3, false, 0, 0, 0, true, none⟩)] }
def lasumF : TensF := ⟨0, 0, 0, 0, 0, 1, 0, 0, 0x30000⟩

theorem test_coll_hypotheses : settled ((cl 0 4).collCheck ((cl 0 4).env k0 (tensWord 0x75 collF)) 0 3 false false) = true ∧
  (cl 0 4).collMayJoin ((cl 0 4).env k0 (tensWord 0x75 collF)) 0 0 = true ∧ (cl 0 4).portRepeats 0 0 = false := by decide
theorem test_coll_operands : settled (collOperands collF ((cl 0 4).env k0 (tensWord 0x75 collF)) (cl 0 4) ((cl 0 4).plan 0 0)) = true := by decide
theorem test_coll_ready : (cl 0 4).colFenceOk k0 = true ∧ settled (collOperands collF ((cl 0 4).env k0 (tensWord 0x75 collF)) (cl 0 4)
  ((cl 0 4).plan 0 0)) (fun x => fed (cl 0 4) ((cl 0 4).spansOf k0 x.1 x.2.1)) = true := by decide
theorem test_coll : (cj 4).colls.map (fun r => (r.mems.map (·.stn), r.vals.map (·.1))) = [([0], [0, 1])] ∧ (cj 4).stns = (cl 0 4).stns := by decide
theorem test_coll_unfinished : ((cl 0 4).plan 0 0).Unfinished { CollRun.fresh 0 0 0 with mems := [⟨0, 3, none, 0, 2, 0, [], false⟩] } 4 :=
  ⟨⟨0, ⟨1, 0, 0, 1, 0, 2⟩, by decide, by decide, by decide, .inl (by decide)⟩, by decide, by decide⟩
theorem test_lasum : (nx (exec (.lasum 0 lasumF) cla)).colls.map (fun r => (r.la, r.laTerms)) = [(⟨7, false, false⟩, 3)] := by decide
theorem test_coll_send : (nx (exec (.collSend 0 0 0) (cs 0 (cj 1)))).colls.map (·.steps) = [[0]] := by decide
theorem test_coll_send_no_port : (nx (exec (.collSend 0 0 0) (cj 1))).colls.map (·.held) = [true] := by decide
theorem test_coll_recv_add : (nx (exec (.collRecvAdd 0 0 1 1 0 1 [5, 6] [] [] 0) (cs 1 (cj 1)))).colls.map (·.steps) = [[0, 1]] := by decide
theorem test_coll_recv_add_mismatch : (nx (exec (.collRecvAdd 0 0 1 1 0 4 [5, 6] [] [] 0) (cs 1 (cj 1)))).rd (Reg.colTreeErrCount 0) = 1 := by decide
theorem test_coll_recv_add_again : (nx (exec (.collRecvAdd 0 0 1 1 0 1 [5, 6] [] [] 0) (cs 2 (cj 1)))).rd (Reg.colTreeErrCount 0) = 1 := by decide
theorem test_coll_recv_copy : (nx (exec (.collRecvCopy 0 0 2 1 [5, 6] [] [] 0) (cs 2 (cj 1)))).colls.map (fun r => (r.steps, r.res.map (·.1))) =
  [([0, 1, 2], [0, 1])] := by decide
theorem test_coll_deliver : (nx (exec (.collDeliver 0 0 3) (nx (exec (.collRecvCopy 0 0 2 1 [5, 6] [] [] 0) (cs 2 (cj 4)))))).bytesAt
  (lsKey 0 0 128) 8 = [5, 0, 0, 0, 6, 0, 0, 0] := by decide
theorem test_coll_deliver_early : ((cs 3 (cj 4)).stepOf 0 0 3 4).isSome = true ∧ (nx (exec (.collDeliver 0 0 3) (cs 2 (cj 4)))).mem = (cl 0 4).mem := by
  decide

/-! ## Registers and host memory -/

/-- An access of `v`, 64 bits wide. -/
def accW (q : Req) (a : Nat) (v : BitVec 64) : RegAcc := ⟨q, BitVec.ofNat 26 a, .w64, v⟩
/-- FD 0's stack temperature 90, its maximum 95. -/
def tmp0 : State := (State.reset.wr (Reg.t1TempTemp 0) 90).wr (Reg.t1TempMax 0) 95

theorem test_register_read_clears : ((nx (exec (.rcRegisterRead (accW .pf 0x1001120 0)) tmp0)).rd (Reg.t1TempTemp 0),
  (nx (exec (.rcRegisterRead (accW .pf 0x1001120 0)) tmp0)).rd (Reg.t1TempMax 0), (nx (exec (.rcRegisterRead (accW .pf 0x1001120 0)) tmp0)).outbox) =
  (90, 0, [⟨.completion, [0, 0], [90, 0, 95, 0, 0, 0, 0, 0]⟩]) := by decide
theorem test_register_reach : State.reset.lands (accW .pf 0x1001868 0) = true ∧ State.reset.lands (accW .mgt 0x1001868 0) = true ∧
  accBase (accW .pf 0x1001868 0) = accBase (accW .mgt 0x1001868 0) ∧ State.reset.lands (accW (.vf 0) 0 0) = false ∧
  idleReg 0x1868 = false ∧ regRowAt 0x1001868 ≠ none := by decide
theorem test_register_write : (nx (exec (.registerWrite (accW .pf 0x1001868 0x100) none) (State.reset.wr (Reg.auFaultValid 0) 1))).rd (Reg.auFaultValid 0) =
  0 := by decide
theorem test_register_arbitration : let t := nx (exec (.registerWrite (accW .pf 0x1001100 7) (some (accW .mgt 0x1001100 9))) State.reset)
  (t.rd (Reg.t1EccCorr 0), t.rd Reg.glbArbStatusCount, t.reg Reg.glbArbValueValue.addr) = (7, 1, 9) := by decide
theorem test_mgt_reg_read : ((nx (exec (.mgtRegRead 0x1001120) tmp0)).outbox, (nx (exec (.mgtRegRead 0x4000000) tmp0)).outbox,
  tmp0.rbWindowShut 0x1001120, tmp0.reaches .mgt 0x1001120) =
  ([⟨.mgtResponse, [0], [90, 0, 95, 0, 0, 0, 0, 0]⟩], [⟨.mgtResponse, [2], [0, 0, 0, 0, 0, 0, 0, 0]⟩], false, true) := by decide
theorem test_mgt_reg_write : ((nx (exec (.mgtRegWrite 0x1001100 5) tmp0)).rd (Reg.t1EccCorr 0), (nx (exec (.mgtRegWrite 0x1001104 5) tmp0)).outbox,
  tmp0.reaches .mgt 0x1001100) = (5, [⟨.mgtResponse, [2], []⟩], true) ∧ idleReg 0x1100 = false := by decide
theorem test_mgt_reg_write_trusted : isTqReg 0x501000 = true ∧ (nx (exec (.mgtRegWrite 0x501000 5) tmp0)).outbox = [⟨.mgtResponse, [1], []⟩] := by decide
theorem test_host_memory_hypotheses : State.reset.ownsSet .pf 4 = true ∧ State.reset.spanCheck none .read 128 4 = none ∧
  State.reset.spanCheck none .write 128 4 = none ∧ State.reset.keyOf 128 = 128 ∧ keyRemote 128 = false ∧ State.reset.hostBlind .pf 128 = false ∧
  State.reset.inImage 128 4 = false ∧ regionOf 0 128 = .t1 := by decide
theorem test_host_memory_lands : State.reset.Lands 18 128 4 ∧ State.reset.NoneWaits :=
  ⟨⟨apart_of (by decide), by decide, by decide⟩, by unfold State.NoneWaits; decide⟩
theorem test_host_memory_write : (nx (exec (.bar2Access .pf 128 0 [1, 2, 3, 4]) State.reset)).bytesAt 128 4 = [1, 2, 3, 4] := by decide
/-- Parcel 0 is being cleared. -/
def hc : State := nx (exec (.parcelCfgWrite .pf 7) State.reset)
theorem test_host_memory_clearing : hc.hostBlind .pf (lsKey 0 0 0) = true ∧ (nx (exec (.bar2Access .pf (BitVec.ofNat 40 (lsKey 0 0 0)) 0 [1])
  (hc.wr (Reg.hifBar2BaseAddr 4) 0x10000000000))).mem = [] := by decide
theorem test_host_memory_read : (nx (exec (.bar2Access .pf 128 4 []) { State.reset with mem := [(129, 7)] })).outbox =
  [⟨.completion, [0, 0], [0, 7, 0, 0]⟩] := by decide
theorem test_host_memory_refused : State.reset.ownsSet (.vf 0) 0 = false ∧
  (nx (exec (.bar2Access (.vf 0) 128 4 []) State.reset)).outbox = [⟨.completion, [1, 1], []⟩] := by decide

/-! ## Poison log, power, temperatures -/

/-- FD 0's poison log at `n` entries. -/
def pl (n : Nat) : State := { State.reset with poisonLog := [(0, List.replicate n ⟨0, 0, 0, 0, 0, 0⟩)] }

theorem test_poison_log : (((pl 15).logPoison 64 1).plog 0).length = 16 ∧ ((pl 16).logPoison 64 1).rd (Reg.memPoisonStatOvf 0) = 1 ∧
  ((((pl 16).wr (Reg.memPoisonStatOvf 0) 65535).logPoison 64 1).rd (Reg.memPoisonStatOvf 0)) = 65535 := by decide
theorem test_poison_log_pop : ((nx (exec (.poisonLogPop 0) (pl 2))).plog 0).length = 1 := by decide
theorem test_power_cap : (nx (exec (.powerCapWrite 1 500) State.reset)).rd (capFld 1) = 500 := by decide
theorem test_voltage_request : (nx (exec (.voltageRequestWrite 2 700) State.reset)).rd (Reg.pwrVreqMv 2) = 700 := by decide
/-- A cap of 100 W in effect that fell at time `f`; the meridian at 4 000 010. -/
def cap0 (f : Nat) : State :=
  { State.reset.wr Reg.pwrCapStatusEffective 100 with meridian := 4000010, pwr := { State.reset.pwr with capFell := some f } }
theorem test_cap_loop_met : (nx (exec (.capControlLoop 100 10 [] []) (cap0 11))).pwr.capFell = none := by decide
theorem test_cap_loop_waits : (nx (exec (.capControlLoop 101 10 [] []) (cap0 11))).pwr.capFell = some 11 := by decide
theorem test_energy_snap : (nx (exec .energySnap { State.reset with pwr := { State.reset.pwr with met := ⟨9, [4], [3], 5⟩ } })).rd (Reg.pwrEnergyDieUj 0) = 4 := by
  decide
theorem test_meter_write : (nx (exec .repairRecordMeterWrite { State.reset with pwr := { State.reset.pwr with met := ⟨9, [4], [3], 5⟩ } })).pwr.saved = ⟨9, [4], [3], 5⟩ := by
  decide
theorem test_supply_sample : let t := nx (exec (.supplySample 54000 53000 100 90 7 [3] 80) State.reset)
  (t.rd Reg.pwrInAMv, t.rd Reg.pwrInBCurrent, t.pwr.met.ein, t.pwr.met.loss) = (54000, 90, 7, 4) := by decide
theorem test_entry_loss : let t := nx (exec (.entryLoss 1 0) State.reset)
  State.reset.feeds 1 = true ∧ (t.flag (fldLost 1), t.flag (fldLost 0), t.flag Reg.pwrHoldRiding) = (true, false, false) := by decide
theorem test_entry_loss_both : (nx (exec (.entryLoss 2 0) State.reset)).flag Reg.pwrHoldRiding = true := by decide
theorem test_entry_restore : (nx (exec (.entryRestore 1) (State.reset.wr (fldLost 1) 1))).flag (fldLost 1) = false := by decide
theorem test_ride_through_end : let t := nx (exec (.rideThroughEnd 0) (State.reset.wr Reg.pwrHoldRiding 1))
  (t.flag Reg.pwrHoldRiding, t.pwr.alone, t.rd Reg.pwrHoldRides) = (false, some 0, 1) := by decide
theorem test_go_down : let t := nx (exec (.goDown 2) State.reset)
  (t.down, t.tagRead 0x800 6) = (true, [0x4C, 0x47, 0x52, 0x31, 1, 2]) := by decide
theorem test_go_down_riding : (nx (exec (.goDown 1) (State.reset.wr Reg.pwrHoldRiding 1))).down = true ∧ (nx (exec (.goDown 1) State.reset)).down = false := by
  decide
theorem test_fd_thermal : ((nx (exec (.fdThermalSample 0 99) State.reset)).rd (Reg.pwrFdVTlevel 0), (nx (exec (.fdThermalSample 0 100) State.reset)).rd (Reg.pwrFdVTlevel 0),
  (nx (exec (.fdThermalSample 0 98) (State.reset.wr (Reg.pwrFdVTlevel 0) 1))).rd (Reg.pwrFdVTlevel 0), (nx (exec (.fdThermalSample 0 97) (State.reset.wr (Reg.pwrFdVTlevel 0) 1))).rd (Reg.pwrFdVTlevel 0)) =
  (0, 1, 1, 0) := by decide
theorem test_fd_thermal_trip : (nx (exec (.fdThermalSample 0 120) lone)).fdTrip = [0] := by decide
theorem test_stack_thermal : ((nx (exec (.stackThermalSample 0 95) State.reset)).rd (Reg.t1TempLevel 0), (nx (exec (.stackThermalSample 0 95) State.reset)).rd (Reg.t1TempMax 0)) =
  (2, 95) := by decide
theorem test_edge_thermal : (nx (exec (.edgeDieThermalSample 0 105) State.reset)).edgeHot = [16] ∧ (nx (exec (.edgeDieThermalSample 0 115) State.reset)).down = true ∧
  (nx (exec (.edgeDieThermalSample 0 101) { State.reset with edgeHot := [16] })).edgeHot = [] ∧
  (nx (exec (.edgeDieThermalSample 0 102) { State.reset with edgeHot := [16] })).edgeHot = [16] := by decide
theorem test_sideband_glitch : (nx (exec (.pwrCapNChange true false) up)).rd (Reg.mgtSbStatGlitch 1) = 1 := by decide
theorem test_sideband_hypotheses : up.sbLocked 1 = false ∧ up.flag (Reg.mgtSbStatActive 1) = false ∧
  (nx (exec (.pwrCapNChange true true) up)).sbLocked 1 = true := by decide
theorem test_sideband_change : (nx (exec (.pwrCapNChange true true) up)).flag Reg.pwrCapStatusPin = true := by decide
theorem test_sideband_collapse : (nx (exec (.pwrCapNChange false true) (nx (exec (.pwrCapNChange true true) up)))).rd (Reg.mgtSbStatCollapse 1) = 1 := by
  decide
theorem test_perst : (nx (exec (.perstNChange true true) up)).hostLinkDown = true := by decide
theorem test_sideband_stuck : (nx (exec (.sidebandHeld10s 0) (State.reset.wr (Reg.mgtSbStatActive 0) 1))).flag (Reg.mgtSbStatStuck 0) = true := by decide

/-! ## Module number, parcels, resets -/

/-- The module is number 5. -/
def mn : State := (State.reset.wr Reg.glbModuleNumValid 1).wr Reg.glbModuleNumModule 5
def mnV (n : Nat) (v : Bool) : BitVec 64 := BitVec.ofNat 64 (n + v.toNat * 2 ^ 63)

theorem test_module_number_set : let t := nx (exec (.moduleNumWrite .pf (mnV 7 true)) State.reset)
  (t.rd Reg.glbModuleNumModule, t.flag Reg.glbModuleNumValid) = (7, true) := by decide
theorem test_module_number_kept : let t := nx (exec (.moduleNumWrite .mgt (mnV 7 true)) mn)
  (t.rd Reg.glbModuleNumModule, t.rd Reg.glbArbStatusCount) = (5, 1) := by decide
theorem test_module_number_cleared : (nx (exec (.moduleNumWrite .pf (mnV 7 false)) mn)).flag Reg.glbModuleNumValid = false ∧ mn.flag Reg.secLockLock = false := by
  decide
theorem test_parcel_split_hypotheses : splitMoved 7 0 = [0] ∧ State.reset.flag Reg.glbParcelCfgClearing = false ∧ State.reset.busyParcel 0 = false := by decide
theorem test_parcel_split : let t := nx (exec (.parcelCfgWrite .pf 7) { State.reset with mem := [(64, 1), (lsKey 0 0 0, 1)] })
  (t.rd Reg.glbParcelCfgSplit, t.flag Reg.glbParcelCfgClearing, t.mem, t.sec.splitNew) = (7, true, [(64, 1)], [0, 1, 2, 3]) := by decide
theorem test_parcel_clearing_end : let t := nx (exec .parcelClearingEnd (nx (exec (.parcelCfgWrite .pf 7) State.reset)))
  (t.sec.splitNew, t.flag Reg.glbParcelCfgClearing, t.rd Reg.glbParcelCfgCount) = ([], false, 4) := by decide
theorem test_tracking_config : (nx (exec (.memTrkCfgWrite 3 0x1FF) State.reset)).reg (Reg.memTrkCfgLockResv 3).addr =
  (0x1FF &&& BitVec.ofNat 64 ((regRowAt (Reg.memTrkCfgLockResv 3).addr).map (·.rw) |>.getD 0)) := by decide
theorem test_reset_cold : let t := nx (exec (.resetCold .pf) up)
  (t.rstKind, t.rd Reg.glbResetCauseKind, t.rd Reg.glbResetCauseSource) = (2, kindCold, 1) := by decide
theorem test_reset_cold_discarded : (nx (exec (.resetCold .pf) State.reset)).rd Reg.glbResetCauseDiscard = 1 := by decide
theorem test_reset_warm : let t := nx (exec (.resetWarm .mgt) { up with mem := [(64, 1), (lsKey 0 0 0, 1)] })
  (t.rstKind, t.rd Reg.glbResetCauseKind, t.rd Reg.glbResetCauseSource, t.mem) = (3, kindWarm, 2, [(64, 1)]) := by decide
theorem test_cold_reset_gasp : let t := nx (exec .coldReset (nx (exec (.goDown 2) { State.reset with tag := [(0x800, 1)] })))
  (t.down, t.mem, t.rd Reg.glbResetCauseKind) = (false, [], kindGasp) := by decide
theorem test_warm_reset_end : (nx (exec .warmResetEnd { State.reset with rstKind := 3 })).rstKind = 0 := by decide
theorem test_start_up : let t := nx (exec (.startUpComplete true 15 []) State.reset)
  (State.reset.bootSlot 15 0).isSome = true ∧ (t.rstKind, t.flag Reg.secStatusApproved, t.flag Reg.glbStartStatusReady) = (0, true, true) := by decide
theorem test_start_up_rot_error : let t := nx (exec (.startUpComplete false 15 []) State.reset)
  (t.down, t.flag Reg.secStatusRotError) = (true, true) := by decide
theorem test_start_up_failure : let t := nx (exec (.startUpComplete true 15 [(0, 3)]) State.reset)
  (t.physOf 0 3, t.rd (Reg.fdStatusSparesLeft 0), t.rd (Reg.fdStatusFailed 0), t.igd.released, t.igd.clocks) = (128, 7, 1, true, true) := by decide
theorem test_start_up_no_image : State.reset.bootSlot 0 0 = none ∧ (nx (exec (.startUpComplete true 0 []) State.reset)).down = true := by decide
theorem test_parcel_reset : let t := nx (exec (.resetParcel .pf 1) { lone with rstKind := 0 })
  (t.rstParcels, t.stns.map (·.1), t.rd (Reg.glbTrvStatusState 0)) = ([0], [], trvIdle) ∧ lone.parcelExists 0 = true := by decide
theorem test_parcel_reset_complete : (nx (exec (.parcelResetComplete 0) { lone with rstParcels := [0] })).rstParcels = [] := by decide
theorem test_station_reset : (r0.locate 0).isSome = true ∧ ((nx (exec (.stationReset 0 0 1) { r0 with rstKind := 0 })).stn k0).active = false ∧
  (nx (exec (.stationReset 0 0 1) { s1 with rstKind := 0 })).sreg k0.b 1 = 0 := by decide
theorem test_park : (nx (exec (.lpPark 3 true) State.reset)).rd (Reg.fdStatusParked 3) = 1 := by decide
theorem test_standby : let t := nx (exec (.lpStandby true) { r0 with mem := [(64, 1)] })
  (t.flag Reg.glbLpCtlStandby, t.stns, t.mem) = (true, [], [(64, 1)]) ∧ r0.allIdle = true := by decide
theorem test_standby_end : (nx (exec (.lpStandby false) (State.reset.wr Reg.glbLpCtlStandby 1))).flag Reg.glbLpCtlStandby = false := by decide

/-! ## Event rings, functions, readback -/

/-- Ring 0 of the PF's set, enabled, with a signal outstanding; `h` says whether the hold-off has expired. -/
def er (h : Bool) : State :=
  { (State.reset.wr (Reg.hifEvqCfgEnable 4 0) 1).wr (Reg.hifEvqStatTail 4 0) 3 with ringSig := [(16, ⟨true, h, false⟩)] }

theorem test_ring_hypotheses : (er true).ownsSet .pf 4 = true ∧ (er true).heldOf 4 = 0 ∧ (er true).ownsSet (.vf 0) 4 = false := by decide
theorem test_head_write_equal : let t := nx (exec (.evqHeadWrite .pf 4 0 3) (er true))
  (t.rd (Reg.hifEvqHeadHead 4 0), Sparse.get (fun _ => RingSig.ready) t.ringSig 16, t.outbox) = (3, RingSig.ready, []) := by decide
theorem test_head_write_signals : let t := nx (exec (.evqHeadWrite .pf 4 0 2) (er true))
  (Sparse.get (fun _ => RingSig.ready) t.ringSig 16, t.outbox) = (⟨true, false, false⟩, [⟨.msix, [4, 0], []⟩]) := by decide
theorem test_head_write_early : Sparse.get (fun _ => RingSig.ready) (nx (exec (.evqHeadWrite .pf 4 0 3) (er false))).ringSig 16 = ⟨true, false, true⟩ := by decide
theorem test_holdoff_expiry : Sparse.get (fun _ => RingSig.ready) (nx (exec (.msixHoldoffExpiry 4 0) (er false))).ringSig 16 = ⟨true, true, false⟩ := by decide
theorem test_holdoff_expiry_written : (nx (exec (.msixHoldoffExpiry 4 0) { er false with ringSig := [(16, ⟨true, false, true⟩)] })).outbox =
  [⟨.msix, [4, 0], []⟩] := by decide
theorem test_ring_config : let v : BitVec 64 := 1 <<< (Reg.hifEvqCfgEnable 4 0).lo
  State.reset.vectors 4 ≠ 0 ∧ (nx (exec (.evqCfgWrite .pf 4 0 v) State.reset)).rd (Reg.hifEvqCfgEnable 4 0) = 1 := by decide
/-- One event held for the PF; its ring has 64 slots at 0x1000 of host memory. -/
def eh : State :=
  { ((er false).wr (Reg.hifEvqBaseAddr 4 0) 0x1000) with evHeld := [(4, 0x11 :: 0 :: List.replicate 57 7)] }
theorem test_held_event_hypotheses : eh.setInReset 4 = false ∧ eh.ringFor 4 0 = some 0 ∧ ((eh.wr (Reg.hifEvqHeadHead 4 0) 3).ringFull 4 0) = false := by decide
theorem test_held_event_delivered : let t := nx (exec (.evqHeadWrite .pf 4 0 3) eh)
  (t.evHeld, t.rd (Reg.hifEvqStatTail 4 0)) = ([], 4) := by decide
theorem test_host_link_down : let t := nx (exec .hostLinkDown (er true))
  (t.hostLinkDown, t.rd (Reg.hifEvqCfgEnable 4 0), t.rd Reg.glbResetCausePerst) = (true, 0, 1) := by decide
theorem test_host_link_restored : (nx (exec .hostLinkRestored { State.reset with hostLinkDown := true })).hostLinkDown = false ∧
  State.reset.flag (Reg.mgtSbStatActive 2) = false ∧ State.reset.heldOf 4 = 0 := by decide
theorem test_flr_pf : (nx (exec .flrPf { er true with rstKind := 0, atc := [(0, 5), (1, 5)] })).atc = [(1, 5)] ∧
  (nx (exec .flrPf { er true with rstKind := 0 })).rd (Reg.hifEvqCfgEnable 4 0) = 0 := by
  decide
theorem test_flr_vf : (nx (exec (.flrVf 0) { lone with rstKind := 0, numVfs := 1, atc := [(1, 5)] })).atc = [] := by decide
theorem test_flr_discarded : (nx (exec .flrPf State.reset)).rd Reg.glbResetCauseDiscard = 1 ∧
  (nx (exec (.flrVf 0) { State.reset with numVfs := 1 })).rd Reg.glbResetCauseDiscard = 1 := by decide
theorem test_sriov : (nx (exec (.sriovVfEnable 4) { State.reset with atc := [(4, 1), (5, 1)] })).numVfs = 4 ∧ (nx (exec (.sriovVfEnable 5) State.reset)).numVfs = 0 := by
  decide
theorem test_ats_invalidate : (nx (exec (.atsInvalidateRequest 1 5 2) { State.reset with atc := [(1, 5), (1, 6), (1, 7)] })).atc = [(1, 7)] := by decide
/-- What the readback window of FD 0's first station shows: ERR, SIZE, the first word. -/
def rbOf (s : State) (v : BitVec 64) : Nat × Nat × Nat :=
  let t := nx (exec (.rbSelect .pf 0 0 v) s)
  (t.rd (Reg.stnRbStatusErr k0.b), t.rd (Reg.stnRbStatusSize k0.b), t.rd (Reg.stnRbDataData k0.b 0))
theorem test_readback : State.reset.rbShut .pf 0 1 = false ∧ rbOf State.reset 6 = (0, 64, 0) ∧ rbOf State.reset 7 = (rbRange, 0, 0) := by decide
theorem test_readback_busy : rbOf r0 6 = (rbBusy, 64, 0) := by decide
theorem test_readback_range : (rbOf State.reset (6 + 0x100 * 2 ^ (Reg.stnRbSelOffset k0.b).lo)).1 = rbRange := by decide

/-! ## The meridian and its references -/

/-- The meridian at `m` ticks, disciplined by source `src` in state `st`. -/
def me (m : BitVec 64) (src st : Nat) : State := { (State.reset.wr Reg.merCtlSrc src).wr Reg.merStatusState st with meridian := m }
/-- SRC and PORT of MER_CTL. -/
def mc (src port : Nat) : BitVec 64 := BitVec.ofNat 64 (src * 2 ^ Reg.merCtlSrc.lo + port * 2 ^ Reg.merCtlPort.lo)
def off (s : State) : Int := toSigned 32 (s.rd Reg.merStatusOffsetPs)

theorem test_mer_set : let t := nx (exec (.merSetWrite 77) State.reset)
  State.reset.mayStep = true ∧ (t.meridian, t.rd Reg.merStepsSteps) = (77, 1) := by decide
/-- Traverses run, so the meridian does not step. -/
def noStep : State := (me 4000000000 1 merLocked).wr (Reg.glbTrvStatusState 0) trvRunning
theorem test_mer_set_discarded : let t := nx (exec (.merSetWrite 77) noStep)
  noStep.mayStep = false ∧ (t.meridian, t.rd Reg.merStepsDiscard) = (4000000000, 1) := by decide
theorem test_mer_ctl : let t := nx (exec (.merCtlWrite (mc 1 0)) State.reset)
  (t.rd Reg.merStatusSrcActive, t.rd Reg.merStatusState) = (1, merAcquiring) := by decide
theorem test_mer_ctl_free : (nx (exec (.merCtlWrite (mc 0 0)) (me 0 1 merLocked))).rd Reg.merStatusState = merFree := by decide
theorem test_mer_ctl_uplink : isUplink 6 = true ∧ (nx (exec (.merCtlWrite (mc 2 6)) State.reset)).rd Reg.merCtlSrc = 0 := by decide
theorem test_pps_step : let t := nx (exec .merPpsEdge (me 4000000003 1 merAcquiring))
  (t.meridian, off t, t.rd Reg.merStepsSteps) = (4000000000, -750, 1) := by decide
theorem test_pps_slew : let t := nx (exec .merPpsEdge { noStep with meridian := 4000000003 })
  (t.meridian, off t, t.mer.slewLeft) = (4000000003, -750, -750) := by decide
theorem test_pps_lock : let t := nx (exec .merPpsEdge { me 4000000000 1 merAcquiring with mer := { Mer.idle with lockCnt := 15 } })
  t.rd Reg.merStatusState = merLocked := by decide
/-- Port 0 in state `st`. -/
def po (st : Nat) (p : Port) : State := { State.reset.wr (Reg.lnkStatusState 0) st with ports := [(0, p)] }
theorem test_stamps_in_guard : (po 0 Port.idle).stampOffset 0 0 0 0 0 = 0 ∧
  (nx (exec (.meridianStampExchange 0 0 0 0 0) (po lnkUpSync Port.idle))).rd (Reg.lnkStatusState 0) = lnkUpSync := by decide
theorem test_stamps_third_high : let t := nx (exec (.meridianStampExchange 0 0 100000 100000 0) (po lnkUpSync { Port.idle with high := 2 }))
  (t.rd (Reg.lnkStatusState 0), t.rd (Reg.merPortOffResyncs 0)) = (lnkUpUnsync, 1) := by decide
theorem test_stamps_second_high : let t := nx (exec (.meridianStampExchange 0 0 100000 100000 0) (po lnkUpSync { Port.idle with high := 1 }))
  (t.rd (Reg.lnkStatusState 0), (t.port 0).high) = (lnkUpSync, 2) := by decide
theorem test_resync : (nx (exec (.resyncRound 0 0 0 0 0) (po lnkUpUnsync { Port.idle with batch := 15 }))).rd (Reg.lnkStatusState 0) = lnkUpSync := by decide
theorem test_resync_bad : let t := nx (exec (.resyncRound 0 0 0 0 0) (po lnkUpUnsync { Port.idle with batch := 15, batchBad := true }))
  (t.rd (Reg.lnkStatusState 0), (t.port 0).rounds, (t.port 0).batch, (t.port 0).batchBad) = (lnkUpUnsync, 1, 0, false) := by decide
theorem test_resync_more : ((nx (exec (.resyncRound 0 0 0 0 0) (po lnkUpUnsync { Port.idle with batch := 14 }))).port 0).batch = 15 := by decide
theorem test_reference_loss : (nx (exec .merReferenceLoss (me 0 1 merLocked))).rd Reg.merStatusState = merHoldover ∧
  (nx (exec .merReferenceLoss (me 0 1 merFree))).rd Reg.merStatusState = merFree := by decide
theorem test_reference_return : (nx (exec .merReferenceReturn (me 0 1 merHoldover))).rd Reg.merStatusState = merAcquiring := by decide
/-- The module follows PTP through the uplink of plane 0. -/
def pt : State := (me 5000 3 merAcquiring).wr (Reg.lnkStatusState 6) lnkUpUnsync
theorem test_ptp_sync : pt.ptpPlane = some 0 ∧ pt.rd Reg.merPtpMacMac = 0 ∧ pt.rd Reg.merPtpCfgDomain = 0 ∧
  (nx (exec (.ptpSync 0 0 9) pt)).mer.sync = some (9, 5000) := by decide
theorem test_ptp_follow_up : (nx (exec (.ptpFollowUp 9 0 1250) (nx (exec (.ptpSync 0 0 9) pt)))).mer.delay = some (9, 5000, 5000, 5000) := by decide
theorem test_ptp_delay_resp : let t := nx (exec (.ptpDelayResp 9 0 1252) { pt with mer := { Mer.idle with delay := some (9, 5000, 5000, 5000) } })
  (t.mer.delay, off t, t.meridian) = (none, 1000, 5004) := by decide
theorem test_pace_window : let t := nx (exec (.paceWindowEnd 0 0 32 true) { r0 with stns := [(0, { Stn.idle with paceHist := List.replicate 15 33 })] })
  (t.rd (Reg.stnPacePace k0.b), t.rd (Reg.stnPacePaceMin k0.b)) = (17, 17) := by decide

/-! ## Torus ports -/

/-- A good flit of KIND and VC `kv`, SEQ `q`, ACK `a`, CREDIT `c`; the rest zero. -/
def flit (q kv a c : Nat) : List Byte :=
  let b : List Byte := leBytes 2 q ++ [BitVec.ofNat 8 kv, 0] ++ leBytes 2 a ++ leBytes 2 c ++ List.replicate 244 0
  b ++ leBytes 4 (crc32 b).toNat
/-- Port 0 up, its port state `p`, lanes 0 and 1 running. -/
def pu (p : Port) : State := (po lnkUpSync p).wr (Reg.lnkStatusLanes 0) 3
def tf : TxFlit := .msg 7 0 0 0 0 [] []
/-- Port 0 in state `st`, enabled, on module 0. -/
def pe (st : Nat) : State := ((State.reset.wr (Reg.lnkStatusState 0) st).wr (Reg.lnkCfgEnable 0) 1).wr Reg.glbModuleNumValid 1
def stOf (c : Instr) (s : State) : Nat := (nx (exec c s)).rd (Reg.lnkStatusState 0)

theorem test_training : stOf (.linkTrainingComplete 0 3) ((pe lnkTrain).wr (Reg.lnkCfgLaneMask 0) 15) = lnkHello ∧
  stOf (.linkTrainingComplete 0 0) (pe lnkTrain) = lnkDown := by decide
theorem test_no_lane_retry : stOf (.portNoLaneRetry 0) { pe lnkDown with ports := [(0, { Port.idle with noLane := true })] } = lnkTrain := by decide
/-- In HELLO, the neighbour's HELLO on port 1, with its offset. -/
def he (m : BitVec 18) (ps : BitVec 64) (rounds : Nat) : Nat :=
  stOf (.hello 0 m 1 1 0 0 ps ps 0) { pe lnkHello with ports := [(0, { Port.idle with rounds := rounds })] }
theorem test_hello : (pe lnkHello).neighbour 0 = 1 ∧ (he 1 0 0, he 1 0 1, he 1 0 2, he 1 64000 2, he 1 64001 2, he 2 0 2) =
  (lnkHello, lnkHello, lnkUpSync, lnkUpSync, lnkUpUnsync, lnkMiswired) := by decide
theorem test_port_enable : stOf (.portEnable 0 true) (State.reset.wr (Reg.lnkCfgEnable 0) 0) = lnkTrain ∧ stOf (.portEnable 0 false) (pe lnkUpSync) = lnkDisabled := by decide
theorem test_flit_kinds : flitOk (flit 0 0 0 0) = false ∧ flitOk (flit 0 7 0 0) = true := by decide
theorem test_flit_bad : let t := nx (exec (.flitReceive 0 (List.replicate 256 0)) (pu Port.idle))
  (t.rd (Reg.lnkReplayCrcErr 0), (t.port 0).nakSent) = (1, true) := by decide
theorem test_flit_control : let t := nx (exec (.flitReceive 0 (flit 9 7 5 25)) (pu { Port.idle with unacked := [(4, tf), (5, tf), (6, tf)] }))
  (((t.port 0).unacked.map (·.1)), t.rd (creditFld 0 1)) = ([6], 3) := by decide
theorem test_flit_sequenced : let t := nx (exec (.flitReceive 0 (flit 0 15 0 0)) (pu Port.idle))
  ((t.port 0).rxSeq, t.rd (Reg.lnkRxFlitsCount 0)) = (1, 1) := by decide
theorem test_flit_ahead : let t := nx (exec (.flitReceive 0 (flit 1 15 0 0)) (pu Port.idle))
  ((t.port 0).early.map (·.1), (nx (exec (.flitReceive 0 (flit 0 15 0 0)) t)).rd (Reg.lnkRxFlitsCount 0)) = ([1], 2) := by decide
theorem test_flit_beyond : (nx (exec (.flitReceive 0 (flit 2 15 0 0)) (pu Port.idle))).rd (Reg.lnkReplayCrcErr 0) = 1 := by decide
theorem test_nak : let t := nx (exec (.nakReceive 0 5 4 0) (pu { Port.idle with unacked := [(4, tf), (5, tf)] }))
  ((t.port 0).unacked.map (·.1), t.rd (Reg.lnkStatusState 0)) = ([5], lnkUpSync) := by decide
theorem test_replay_timeout : ((nx (exec (.replayTimeout 0) (pu { Port.idle with unacked := [(4, tf)] }))).port 0).tries = 1 := by decide
theorem test_retrain_end : (stOf (.portRetrainEnd 0 true) { pe lnkTrain with ports := [(0, { Port.idle with retrain := true })] },
  stOf (.portRetrainEnd 0 false) { pe lnkTrain with ports := [(0, { Port.idle with retrain := true })] }) = (lnkHello, lnkDown) := by decide
theorem test_lane_retire : let t := (pu Port.idle).laneShows 0 1 0 true
  (t.rd (Reg.lnkStatusLanes 0), t.rd (Reg.lnkStatusRetired 0), t.rd (Reg.lnkStatusState 0)) = (1, 2, lnkUpSync) := by decide
theorem test_lane_retire_last : (((pu Port.idle).wr (Reg.lnkStatusLanes 0) 2).laneShows 0 1 0 true).rd (Reg.lnkStatusState 0) = lnkDown := by decide
theorem test_lane_kept : ((pu Port.idle).laneShows 0 1 0 false).rd (Reg.lnkStatusLanes 0) = 3 := by decide
theorem test_lane_rejoin : let t := nx (exec (.laneRejoinRequest 0 3) ((pu Port.idle).wr (Reg.lnkStatusRetired 0) 2))
  t.rd (Reg.lnkCfgRejoin 0) = 2 ∧ (nx (exec (.laneRejoinTestEnd 0 1 true) t)).rd (Reg.lnkStatusRetired 0) = 0 := by decide
theorem test_l1 : ((nx (exec (.linkL1Entry 0) ((pu Port.idle).wr Reg.glbLpCtlL1IdleUs 1))).port 0).l1 = true ∧
  ((nx (exec (.linkL1Entry 0) (pu Port.idle))).port 0).l1 = false := by decide
theorem test_l1_wake : stOf (.linkL1Wake 0) (pu { Port.idle with l1 := true }) = lnkTrain := by decide

/-! ## Uplinks -/

/-- The uplink of plane 0 up, with context `cs`. -/
def up0 (cs : List Ctx) : State := { ((State.reset.wr Reg.glbModuleNumValid 1).wr (Reg.lnkStatusState 6) lnkUpUnsync) with ctxs := cs }
def cx : Ctx := Ctx.fresh 0 5 0
/-- An end-to-end frame of module 5 with no flits: E2E_SEQ `q`. -/
def fr (q : Nat) : List Byte :=
  let b := (leBytes 6 ((up0 []).macOf 0 0)).reverse ++ (leBytes 6 ((up0 []).macOf 5 0)).reverse ++ [0x81, 0, 0, 0] ++
    (leBytes 2 ((up0 []).rd (Reg.lnkEtypeType 0))).reverse ++ [1, 0] ++ leBytes 4 q ++ List.replicate 8 0
  b ++ leBytes 4 (crc32 b).toNat

theorem test_uplink_up : (nx (exec (.uplinkUp 0) (State.reset.wr Reg.glbModuleNumValid 1))).rd (Reg.lnkStatusState 6) = lnkUpUnsync ∧
  State.reset.portUp 6 = false ∧ State.reset.flag (Reg.lnkCfgEnable 6) = true := by decide
theorem test_uplink_down : (nx (exec (.uplinkDown 0) (up0 []))).rd (Reg.lnkStatusState 6) = lnkDown := by decide
theorem test_uplink_down_moves : (nx (exec (.uplinkDown 0) ((up0 [{ cx with unacked := [(0, [])] }]).wr (Reg.lnkStatusState 7) lnkUpUnsync))).ctxs.map (·.plane) = [1] := by decide
theorem test_uplink_down_waits : let t := nx (exec (.uplinkDown 0) { (up0 []).wr (Reg.lnkStatusState 7) lnkUpUnsync with ctxWait := [(0, tf)] })
  (t.ctxWait, t.ctxs.map (·.plane)) = ([], [1]) := by decide
theorem test_frame_ok : (up0 []).frameOk 0 (fr 0) = true ∧ (up0 []).frameOk 0 ((fr 0).drop 1) = false := by decide
theorem test_frame : let t := nx (exec (.uplinkFrameReceive 0 (fr 0)) (up0 []))
  ((t.ctx 0 5 0).map (·.rxSeq), t.outbox) = (some 1, [⟨.frame, [0, 5, 0, 0, 0, 0, 0], []⟩]) := by decide
theorem test_frame_gap : let t := nx (exec (.uplinkFrameReceive 0 (fr 2)) (up0 [cx]))
  ((t.ctx 0 5 0).map (fun c => (c.rxSeq, c.nakSent)), t.outbox) = (some (0, true), [⟨.frame, [0, 5, 0, 0, 0, 1], []⟩]) := by decide
theorem test_frame_filter : (nx (exec (.uplinkFrameReceive 0 []) (up0 []))).rd (Reg.lnkRxDiscardFilter 0) = 1 := by decide
theorem test_e2e_nak : ((nx (exec (.e2eNakReceive 0 5 0 4) (up0 [{ cx with unacked := [(3, []), (4, [])], tries := 9 }]))).ctx 0 5 0).map (fun c => (c.unacked, c.tries)) =
  some ([(4, [])], 1) := by decide
theorem test_e2e_timeout : ((nx (exec (.e2eRtoExpiry 0 5 0) (up0 [{ cx with unacked := [(4, [])], tries := 21 }]))).ctx 0 5 0).map (·.tries) = some 21 ∧
  ((nx (exec (.e2eRtoExpiry 0 5 0) (up0 [{ cx with unacked := [(4, [])], tries := 20 }]))).ctx 0 5 0).map (·.tries) = some 21 := by decide
theorem test_e2e_close : (nx (exec (.e2eContextClose 0 5 0) (up0 [cx]))).ctxs = [] := by decide
theorem test_pfc : ((nx (exec (.pfcFrameReceive 0 3 1) (up0 []))).port 6).paused = 1 ∧
  ((nx (exec (.pfcPauseExpiry 0 0) { up0 [] with ports := [(6, { Port.idle with paused := 3 })] })).port 6).paused = 2 := by decide
theorem test_pause_frame : (nx (exec (.pauseFrameReceive 0) (up0 []))).rd (Reg.lnkRxDiscardPause 0) = 1 := by decide

/-! ## Memory requests and the directory -/

/-- Home FD 0; line 1 (byte 128) has the directory entry of FDs `sh`. -/
def dr (sh : BitVec 16) (lock : Bool) : State := { State.reset with mem := [(128, 7)], dir := [(0, [⟨1, sh, 0, lock, sh, none, false, []⟩])] }
/-- A request of die `d` for byte 128: a read, or a write of `b`. -/
def hq (d : Nat) (b : List Byte) : HomeReq := ⟨d, 0xFFFF, 128, !b.isEmpty, b, false, false⟩
/-- The same while a write of byte 128 waits for FD 1. -/
def dw : State := { dr 2 true with dir := [(0, [⟨1, 2, 1, true, 2, some (hq 0 [9]), false, []⟩])], snoopAns := [(1, 1)] }

theorem test_directory_hypotheses : State.reset.keyOf 128 = 128 ∧ State.reset.fdMemory 128 1 = true ∧ cacheable 128 = true ∧
  State.reset.lineOf 128 = some (1, 0) ∧ State.reset.lineOf (2 ^ 63) = none := by decide
theorem test_read_shared : let t := nx (exec (.memReadRequest 1 128 []) State.reset)
  (t.dirOf 0, t.grants.map (fun g => (g.fd, g.line))) = ([⟨1, 2, 0, false, 0, none, false, []⟩], [(1, 1)]) := by decide
theorem test_read_locked : ((nx (exec (.memReadRequest 2 128 []) (dr 2 true))).dirOf 0).map (·.queue) = [[hq 2 []]] := by decide
theorem test_read_own : (nx (exec (.memReadRequest 0 128 [1]) State.reset)).rd (Reg.t1EccCorr 0) = 1 := by decide
theorem test_write_unshared : (nx (exec (.memWriteRequest 0 128 [5] []) State.reset)).byteAt 128 = 5 := by decide
theorem test_write_shared : let t := nx (exec (.memWriteRequest 0 128 [5] []) (dr 2 false))
  (t.byteAt 128, t.dirOf 0, t.snoops) = (7, [⟨1, 2, 1, true, 2, some (hq 0 [5]), false, []⟩], [(1, 1, 1)]) := by decide
theorem test_write_locked : ((nx (exec (.memWriteRequest 0 128 [5] []) (dr 2 true))).dirOf 0).map (·.queue) = [[hq 0 [5]]] := by decide
/-- FD 1 is evict-pending for the line. -/
def ep : State := { dr 2 false with copies := [⟨1, 1, 1, 0, [], true⟩] }
theorem test_evict_pending : (nx (exec (.memWriteRequest 1 128 [5] []) ep)).readWait = [hq 1 [5]] ∧
  (nx (exec (.memReadRequest 1 128 []) ep)).readWait = [hq 1 []] := by decide
theorem test_mesh_route : meshPath 13 2 0 = [13, 14, 10, 6, 2] ∧ meshPath 16 6 0 = [4, 5, 6] ∧ meshPath 18 19 0x1000 = [1, 5, 9, 13] ∧
  meshPath 16 17 0x2000 = [8, 9, 10, 11] ∧ meshPath 17 19 0 = [15] ∧
  (nx (exec (.memReadRequest 1 (BitVec.ofNat 64 (dieKey 3 128)) []) State.reset)).fab.forwards = [(2, 1)] := by decide
theorem test_slices : lineSlice (dieKey 3 (0x80 + 0x800 * 2 + 0x8000 * 4 + 0x80000 * 8) / 128) = 1 ^^^ 2 ^^^ 4 ^^^ 8 ^^^ 3 ∧ scratchSlice 0x880 = 1 := by
  decide
theorem test_snoop : let t := nx (exec (.snoopReceive 1 128) { dr 2 true with snoops := [(1, 1, 1)], copies := [⟨1, 1, 1, 0, [], false⟩] })
  (t.copies.map (·.evicting), t.snoopAns, t.rd (Reg.scSnoopNpCount 1)) = ([], [(1, 1)], 0) := by decide
theorem test_snoop_not_present : (nx (exec (.snoopReceive 1 128) { dr 2 true with snoops := [(1, 1, 1)] })).rd (Reg.scSnoopNpCount 1) = 1 := by decide
theorem test_snoop_answer : let t := nx (exec (.snoopAnswerReceive 1 128) dw)
  (t.byteAt 128, t.dirOf 0) = (9, [⟨1, 0, 1, false, 0, none, false, []⟩]) := by decide
theorem test_eviction : let t := nx (exec (.sharerEviction 1 128) { dr 2 false with copies := [⟨1, 1, 1, 0, [], false⟩] })
  (t.copies.map (·.evicting), t.notices) = ([true], [(1, 1, 0)]) := by decide
theorem test_eviction_notice : let t := nx (exec (.evictionNoticeReceive 1 128) { dr 6 false with notices := [(1, 1, 0)] })
  (t.evictAcks, (t.dirOf 0).map (·.sharers), t.rd (Reg.scStaleNoteCount 0)) = ([(1, 1)], [4], 0) := by decide
theorem test_eviction_stale : (nx (exec (.evictionNoticeReceive 1 128) { dr 6 false with notices := [(1, 1, 9)] })).rd (Reg.scStaleNoteCount 0) = 1 := by decide
theorem test_eviction_ack : (nx (exec (.evictionAckReceive 1 128) { dr 4 false with evictAcks := [(1, 1)], copies := [⟨1, 1, 1, 0, [], true⟩] })).copies = [] := by decide
theorem test_read_grant : ((nx (exec (.readGrantReceive 1 128) { dr 2 false with grants := [⟨1, 1, 0, false, [7]⟩] })).copies,
  (nx (exec (.readGrantReceive 1 128) { dr 2 false with grants := [⟨1, 1, 0, true, [7]⟩] })).rd (Reg.scFillOnceCount 1)) = ([⟨1, 1, 1, 0, [7], false⟩], 1) := by decide
/-- 1 KiB of scratch; the eight bytes at 8 count 1. -/
def sc8 : State := { r0.wr (Reg.scPartScratchKib 0) 1 with mem := (List.range 8).map (fun i => (scBase + 8 + i, if i = 0 then 1 else 0)) }
theorem test_fetch_increment : let t := nx (exec (.atomicOperation 0 0xA 8 [] (some 0)) sc8)
  (t.natAt (dieKey 0 (scBase + 8)) 8, t.rd (Reg.scAtomicOpsCount 0)) = (2, 1) := by decide
theorem test_fetch_increment_refused : (nx (exec (.atomicOperation 0 0xA 4 [] (some 0)) sc8)).rd (Reg.scAtomicOpsCount 0) = 0 := by decide
theorem test_atomic : atomicSize 1 = 4 ∧ (nx (exec (.atomicOperation 0 1 8 [1, 0, 0, 0] (some 0)) sc8)).rd (Reg.scAtomicOpsCount 0) = 1 := by decide

/-! ## Memory errors, other modules -/

theorem test_interface_error : let t := nx (exec (.dramInterfaceError 0 false 3 false) State.reset)
  (t.rd (Reg.t1RetryCount 0), Sparse.get (fun _ => 0) t.dramTry 3) = (1, 1) := by decide
theorem test_interface_fifth : let t := nx (exec (.dramInterfaceError 0 false 3 false) { State.reset with dramTry := [(3, 4)] })
  (t.rd (Reg.t1PcRetiredMask 0), t.rd (Reg.t1RedirectPc 0), t.flag (Reg.t1RedirectUsed 0)) = (8, 3, true) := by decide
theorem test_interface_good : (nx (exec (.dramInterfaceError 0 false 3 true) { State.reset with dramTry := [(3, 4)] })).dramTry = [] := by decide
/-- Scrubbing enabled, tier 1 at its second codeword. -/
def sb0 : State := { State.reset.wr (Reg.memScrubCtlEnable 0) 1 with scrubAt := [(0, 1)] }
theorem test_scrub : let t := nx (exec (.scrubStep 0 0 [1]) sb0)
  (t.scrubAt, t.rd (Reg.t1EccCorr 0)) = ([(0, 2)], 1) := by decide
theorem test_scrub_uncorrectable : (nx (exec (.scrubStep 0 0 [1, 1]) sb0)).cwPoison 1 = true ∧ (nx (exec (.scrubStep 0 0 [1, 1]) sb0)).rd (Reg.t1EccUncorr 0) = 1 := by decide
theorem test_edge_flit : ((nx (exec (.edgeFlitReceive 0 1 0 2 true) State.reset)).edgeSeq, (nx (exec (.edgeFlitReceive 0 1 0 2 false) State.reset)).rd (Reg.fdEdgeErrReplays 0 1)) =
  ([(1, 1)], 1) := by decide
theorem test_edge_run : let t := nx (exec (.edgeFlitReceive 0 1 0 2 false) { State.reset with edgeRun := [(1, 15)] })
  (t.rd (Reg.fdEdgeErrReplays 0 1), t.rd (Reg.fdEdgeErrMaxRun 0 1)) = (0, 16) := by decide
theorem test_router_fault : (nx (exec (.meshRouterFault 3) State.reset)).mem = [] := by decide
/-- Module 1 with a domain tag 9 on its parcel 0, port 1 up and with credit. -/
def rm : State :=
  [(Reg.glbModuleNumValid, 1), (Reg.glbModuleNumModule, 1), (Reg.glbMemDomainValid 0, 1), (Reg.glbMemDomainDomain 0, 9)].foldl (fun s x => s.wr x.1 x.2) State.reset
/-- The survey address of byte `o` of FD 0's tier 1. -/
def sv (o : Nat) : BitVec 64 := BitVec.ofNat 64 (2 ^ 46 + o)
theorem test_remote_hypotheses : addrModule (sv 128).toNat = 1 ∧ addrDie (sv 128).toNat = 0 ∧ addrOff (sv 128).toNat = 128 ∧ rm.ownModule = 1 ∧
  rm.addrBad 0 128 1 .write true = false ∧ rm.fdAnswers 0 = true ∧ rm.inImage 128 1 = false := by decide
theorem test_remote_write : (nx (exec (.remoteRequestReceive 0 9 (sv 128) 1 [5] false false false) rm)).byteAt 128 = 5 := by decide
theorem test_remote_write_untagged : (nx (exec (.remoteRequestReceive 0 8 (sv 128) 1 [5] false false false) rm)).byteAt 128 = 0 := by decide
/-- A read of eight bytes at `a` by station 0. -/
def rrq (a : Nat) : RemoteReq := ⟨0, 0, 0, 0, 0, a, 8, false, false, [], false⟩
/-- Such a request to module 0 waits. -/
def rq : State := { { rm with stns := r0.stns } with remote := [rrq 64] }
theorem test_denial : rq.NoneWaits ∧ (nx (exec (.domainDenialReceive 64) rq)).remote = [] := by unfold State.NoneWaits; decide
theorem test_refusal : let t := nx (exec (.addressRefusalReceive 64) { lone with remote := [rrq 64] })
  (t.remote, t.rd (Reg.stnFaultCause k0.b), t.flag (Reg.stnFaultLate k0.b)) = ([], fcAddrInvalid, true) := by decide
/-- A memory-response flit of the first eight bytes at address 64, to module 1. -/
def mrsp : List Byte :=
  let b : List Byte := [0, 0, 28, 0, 0, 0, 0, 0, 1, 0, 0, 0] ++ leBytes 8 64 ++ leBytes 2 8 ++ List.replicate 6 0 ++ [1, 2, 3, 4, 5, 6, 7, 8] ++ List.replicate 216 0
  b ++ leBytes 4 (crc32 b).toNat
theorem test_response : flitOk mrsp = true ∧ (nx (exec (.flitReceive 0 mrsp) (rq.wr (Reg.lnkStatusState 0) lnkUpSync))).remote = [] := by decide

/-! ## The adjustment unit -/

/-- A command: OP, FLAGS, FMT, STEP, PARAMS, GRAD, WC; no station to signal, journal base 0. -/
def auC (op flags fmt step params grad wc : Nat) : List Byte :=
  [BitVec.ofNat 8 op, BitVec.ofNat 8 flags, BitVec.ofNat 8 fmt, 0] ++ leBytes 4 step ++ leBytes 4 params ++ [0xFF, 0xFF, 0, 0] ++
    leBytes 8 0 ++ leBytes 8 grad ++ leBytes 8 wc ++ List.replicate 24 0
/-- FD 0 with 1 KiB of scratch: its ring at 0 with the command `c`, its tail, at 512, reading `tail`. -/
def aq (c : List Byte) (tail : Nat) : State :=
  { ([(Reg.scPartScratchKib 0, 1), (Reg.auQtailOffset 0, 512), (Reg.auQcfgLog2Entries 0, 4), (Reg.glbParcelCfgSplit, 7)].foldl
      (fun s x => s.wr x.1 x.2) State.reset) with mem := ((c.zipIdx.map (fun x => (scBase + x.2, x.1))) ++
        ((leBytes 8 tail).zipIdx.map (fun x => (scBase + 512 + x.2, x.1)))) }
/-- FD 0 running a command, at block 0 in `phase`. -/
def ar (c : List Byte) (phase : Nat) : State := { State.reset.wr Reg.glbParcelCfgSplit 7 with au := [(0, ⟨c, 0, [], 0x3F800000, 0, phase, false⟩)] }
def snapC : List Byte := auC 8 0 0 7 0 0 0

theorem test_au_hypotheses : (aq snapC 1).flag (Reg.auQstatHeld 0) = false ∧ (aq snapC 1).auInSc 0 512 8 8 = true ∧ (aq snapC 1).auInSc 0 0 64 64 = true ∧
  (aq snapC 1).auCheck 0 (auCmdOf snapC) = 0 ∧ (aq snapC 1).poisonAt (dieKey 0 scBase) 64 = none := by decide
theorem test_au_take : let t := nx (exec (.auCommandTake 0) (aq snapC 1))
  (t.rd (Reg.auQstatHead 0), t.flag (Reg.auQstatBusy 0), (t.auRun 0).cmd) = (1, true, snapC) := by decide
theorem test_au_take_none : (nx (exec (.auCommandTake 0) (aq snapC 0))).au = [] := by decide
/-- HELD, CAUSE and HEAD after a take. -/
def auHeldOf (s : State) : Bool × Nat × Nat :=
  let t := nx (exec (.auCommandTake 0) s)
  (t.flag (Reg.auQstatHeld 0), t.rd (Reg.auFaultCause 0), t.rd (Reg.auQstatHead 0))
theorem test_au_overrun : auHeldOf (aq snapC 17) = (true, auOverrun, 0) ∧ auHeldOf (aq snapC 16) = (false, 0, 1) := by decide
theorem test_au_reserved : auHeldOf (aq (auC 9 0 0 0 0 0 0) 1) = (true, auReserved, 0) := by decide
theorem test_au_poison : auHeldOf { aq snapC 1 with poison := [scBase / 32] } = (true, auPoison, 0) := by decide
theorem test_adamw_no_blocks : let t := nx (exec (.adamw 0 1) (ar (auC 1 0 8 1 0 0 0) 0))
  (t.rd (Reg.auCmdsCount 0), t.au) = (1, []) := by decide
theorem test_sgdm_others_idle : (nx (exec (.sgdm 0 1) (ar (auC 1 0 8 1 0 0 0) 0))).au = (ar (auC 1 0 8 1 0 0 0) 0).au := by decide
theorem test_au_journal : let t := nx (exec (.sgdm 0 1) { ar (auC 2 0 8 1 1 0 0) 0 with poison := [t2Base / 32, t2Base / 32 + 8] })
  (t.flag (Reg.auQstatHeld 0), t.rd (Reg.auFaultCause 0)) = (true, auJournal) := by decide
theorem test_au_phases : let t := nx (exec (.sgdm 0 1) (ar (auC 2 0 8 1 1 0 0) 1))
  ((t.auRun 0).phase, t.natAt (dieKey 0 t2Base) 32, t.rd (Reg.auParamsDoneCount 0)) = (2, 7, 1) := by decide
theorem test_au_journal_copy : let t := nx (exec (.sgdm 0 1) { ar (auC 2 0 8 1 1 0 0) 2 with mem := [(t2Base, 7)] })
  ((t.auRun 0).phase, t.natAt (dieKey 0 (t2Base + 256)) 32) = (3, 7) := by decide
theorem test_au_phase_hypotheses : (ar (auC 2 0 8 1 1 0 0) 1).jWord 0 0 = some 0 ∧ (ar (auC 2 0 8 1 1 0 0) 1).jFix 0 0 = ar (auC 2 0 8 1 1 0 0) 1 := by decide
theorem test_au_lands : (ar (auC 2 0 8 1 1 0 0) 1).Lands 0 t2Base 32 ∧ (ar (auC 2 0 8 1 1 0 0) 1).Lands 0 (t2Base + 256) 32 :=
  ⟨⟨apart_of (by decide), by decide⟩, ⟨apart_of (by decide), by decide⟩⟩
theorem test_rollback : ((nx (exec (.rollback 0 1) { ar (auC 6 0 8 1 1 0 0) 0 with mem := [(t2Base, 7)] })).natAt (dieKey 0 t2Base) 32,
  (nx (exec (.rollback 0 1) (ar (auC 6 0 8 1 1 0 0) 0))).mem) = (2, []) := by decide
theorem test_refresh_clean : let t := nx (exec (.refresh 0 1) (ar (auC 5 0 8 1 1 0 0) 0))
  (t.mem, (t.auRun 0).j) = ([], 1) := by decide
/-- NORMSQ of one gradient, 2.0, at tier-1 byte 64, onto 32 bytes of scratch. -/
def nq : State :=
  { ar (auC 3 0 0 0 1 64 0) 0 with mem := (67, 0x40) :: (List.range 32).map (fun i => (scBase + i, 0)) }.wr (Reg.scPartScratchKib 0) 1
theorem test_normsq : let t := nx (exec (.normsq 0) nq)
  (t.natAt (dieKey 0 scBase) 32, t.rd (Reg.auCmdsCount 0)) = ((auNorm [0x40000000]).encode, 1) := by decide
theorem test_normsq_value : auNorm [0x40000000] = ⟨4 * 2 ^ 112, false, false⟩ := by decide
/-- A snapshot of step 7 armed for parcel 0. -/
def sn (c : List Byte) : State := ((ar c 0).wr (Reg.glbSnapCtlState 0) snArmed).wr (Reg.glbSnapCtlStep 0) 7
theorem test_snapcopy : let t := nx (exec (.snapcopy 0) { (sn (auC 7 0 0 7 2 64 0)).wr (Reg.glbSnapStrideBytes 0) 2 with mem := [(64, 9)] })
  (t.rd (Reg.auSnapLenBytes 0), t.byteAt (dieKey 0 t2Base), t.rd (Reg.glbSnapCtlState 0)) = (2, 9, snCopying) := by decide
theorem test_snapcopy_missed : (nx (exec (.snapcopy 0) ((sn (auC 7 0 0 7 2 64 0)).wr (Reg.glbSnapStrideBytes 0) 1))).rd (Reg.glbSnapCtlState 0) = snMissed := by decide
theorem test_snapend : let t := nx (exec (.snapend 0) { sn snapC with snapClosed := [1, 2, 3] })
  (t.snapClosed, t.rd (Reg.glbSnapCtlState 0)) = ([0, 1, 2, 3], snShipping) := by decide

/-! ## Snapshots and shadows -/

theorem test_snap_arm : let t := nx (exec (.snapArm 0 7) { State.reset.wr (Reg.auSnapLenBytes 0) 5 with snapClosed := [0, 4] })
  (t.rd (Reg.glbSnapCtlState 0), t.rd (Reg.glbSnapCtlStep 0), t.rd (Reg.auSnapLenBytes 0), t.parcelOf 4) = (snArmed, 7, 0, 0) ∧ t.snapClosed = [] := by decide
theorem test_snap_arm_busy : (nx (exec (.snapArm 0 7) (State.reset.wr (Reg.glbSnapCtlState 0) snCopying))).rd (Reg.glbSnapCtlStep 0) = 0 := by decide
/-- Parcel 0, of FD 0 alone, ships two bytes to tier-1 byte 4096. -/
def ss : State :=
  { [(Reg.glbSnapCtlState 0, snShipping), (Reg.auSnapLenBytes 0, 2), (Reg.glbSnapDestAddr 0, 4096)].foldl (fun s x => s.wr x.1 x.2) lone with
    mem := [(t2Base, 8), (t2Base + 1, 9)] }
theorem test_snapshot_shipped : let t := nx (exec (.snapshotShipDone 0) ss)
  (t.rd (Reg.glbSnapCtlState 0), t.rd (Reg.glbSnapBytesBytes 0), t.bytesAt (dieKey 0 4096) 2) = (snDone, 2, [8, 9]) ∧ ss.keyOf 4096 = 4096 := by decide
theorem test_shadow_message_rejected : (nx (exec (.shadowMessageReceive 0 5 2 7 0 8 [1, 2]) (State.reset.wr Reg.glbModuleNumValid 1))).rd (Reg.fdShdStatReject 0) = 1 ∧
  State.reset.flag Reg.glbModuleNumValid = false := by decide
/-- Peer 0 of FD 0 serves module 5; its area begins at tier-2 byte 0. -/
def sv5 : State := [(Reg.fdShdServedValid 0 0, 1), (Reg.fdShdServedModule 0 0, 5), (Reg.fdShdLstrideStride 0, 65536), (Reg.glbModuleNumValid, 1)].foldl (fun s x => s.wr x.1 x.2) State.reset
theorem test_shadow_message : let t := nx (exec (.shadowMessageReceive 0 5 2 7 8 8 [1, 2]) sv5)
  (t.peek (t2Base + 32768 + 64 + 6208), t.peek (t2Base + 32768 + 64 + 6209), t.peek (t2Base + 32768), t.peek (t2Base + 32768 + 8)) = (1, 2, 5, 7) := by decide
/-- `s` in module 4 with torus port 0 up and one credit of VC 5. -/
def msgPort (s : State) : State :=
  [(Reg.lnkStatusState 0, lnkUpSync), (Reg.lnkStatusLanes 0, 15), (creditFld 0 5, 1), (Reg.glbModuleNumValid, 1), (Reg.glbModuleNumModule, 4)].foldl
    (fun s x => s.wr x.1 x.2) s
theorem test_message_sent : let s := msgPort sv5
  let t := nx (exec (.shadowMessageReceive 0 5 2 7 8 8 [1, 2]) s)
  s.routePort 0 1 5 = some 0 ∧ s.mayTx 0 5 = true ∧ (s.port 0).txq = [] ∧ Sparse.get (fun _ => 0) (s.port 0).opened 5 = 0 ∧
  (t.outbox.drop s.outbox.length).map (fun x => (x.kind, x.args.drop 3)) = [(.linkFlit, [5, 6, 5, 0, 0, 0, 0, 0, 7])] := by decide
/-- FD 0 awaits the acknowledgements of step 7; peers 1 to 7 have sent theirs. -/
def sa : State := { State.reset.wr (Reg.fdShdStatAcked 0) 0xFE with shdStep := [(0, 8)] }
theorem test_shadow_ack : let t := nx (exec (.shadowAckReceive 0 0 7) sa)
  (t.rd (Reg.fdShdStatAcked 0), t.rd (Reg.fdShdStatDoneStep 0), t.flag (Reg.fdShdStatValid 0)) = (0xFF, 7, true) := by decide
theorem test_shadow_ack_stale : (nx (exec (.shadowAckReceive 0 0 6) sa)).rd (Reg.fdShdStatAcked 0) = 0xFE := by decide
/-- All eight peers of FD 0 are valid. -/
def sp : State := (List.range 8).foldl (fun s k => s.wr (Reg.fdShdPeerValid 0 k) 1) State.reset
theorem test_pull_start : (nx (exec (.shdPullStart 0 5 7) sp)).rd (Reg.fdShdPullState 0) = 1 ∧ (nx (exec (.shdPullStart 0 5 7) State.reset)).rd (Reg.fdShdPullState 0) = 4 := by
  decide
theorem test_pull_request : (nx (exec (.pullRequestReceive 0 1 5 0 none) sv5)).pulls = [] := by decide
/-- Seven stripes have answered 7, 8, …. -/
def pa : State := { sp.wr (Reg.fdShdPullState 0) 1 with pulls := [(0, ⟨(List.range 7).map (fun i => (i, 7 + i)), [], 0⟩)] }
theorem test_pull_response : let t := nx (exec (.pullResponseReceive 0 7 (some 9)) pa)
  (t.rd (Reg.fdShdPullState 0), t.rd (Reg.fdShdPullStep 0)) = (2, 7) := by decide
theorem test_pull_response_none : (nx (exec (.pullResponseReceive 0 7 none) pa)).rd (Reg.fdShdPullState 0) = 4 := by decide
/-- Seven stripes have come; the shadow has no blocks. -/
def pb : State := { sp.wr (Reg.fdShdPullState 0) 2 with pulls := [(0, ⟨[], List.range 7, 0⟩)] }
theorem test_pull_stripe : (nx (exec (.pullStripeReceive 0 7 true 2 []) pb)).rd (Reg.fdShdPullState 0) = 3 ∧
  (nx (exec (.pullStripeReceive 0 6 true 2 []) pb)).rd (Reg.fdShdPullState 0) = 2 ∧ (nx (exec (.pullStripeReceive 0 7 false 2 []) pb)).rd (Reg.fdShdPullState 0) = 4 := by
  decide
theorem test_peer_discard : let t := nx (exec (.peerDiscard 0 5) { State.reset with remote := [rrq (5 * 2 ^ 46), rrq (6 * 2 ^ 46)] })
  (t.remote.map (·.addr), t.rd (Reg.glbPeerCtlModule 0)) = ([6 * 2 ^ 46], 5) := by decide
theorem test_peer_discard_busy : (nx (exec (.peerDiscard 0 5) (State.reset.wr (Reg.glbTrvStatusState 0) trvRunning))).rd (Reg.glbPeerCtlModule 0) = 0 := by decide

/-! ## Repair -/

/-- FD 0's first station took part up to leg 0's barrier; its last barrier record: S1 = 5 and pc 3. -/
def br : State :=
  { lone with lsts := [(0, { Lst.empty with barrec := some ⟨[((Reg.stnPcPc k0.b).addr - k0.b, 3)], [], 3, 0, 0⟩ })] }
def k128 : Loc := ⟨0, 0, 128⟩

theorem test_spares : State.reset.spares 0 = [128, 129, 130, 131, 132, 133, 134, 135] ∧ br.logOf 0 0 = some 0 ∧ br.NoneWaits := by
  unfold State.NoneWaits; decide
theorem test_station_error : let t := nx (exec (.stationError 0 0 false) br)
  (t.physOf 0 0, t.failed, t.rd (Reg.fdRstkStatRestakes 0), t.rd (Reg.fdStatusSparesLeft 0), t.pcOf k128, (t.lst 0).repeating) = (128, [(0, 0, 0)], 1, 7, 3, true) := by decide
theorem test_station_error_escalates : let t := nx (exec (.stationError 0 0 true) br)
  (t.physOf 0 0, t.rd (Reg.fdRstkStatEscalated 0), t.rd (Reg.fdRstkStatErrors 0)) = (0, 1, 1) := by decide
/-- All the spares of FD 0 have failed. -/
def noSpare : State := { br with failed := (List.range 8).map (fun i => (0, 128 + i, 255)) }
theorem test_station_error_last : noSpare.spares 0 = [] ∧ (nx (exec (.stationError 0 0 false) noSpare)).retireReq ≠ [] := by decide
theorem test_station_error_retired : (nx (exec (.stationError 1 0 false) br)).rd (Reg.fdRstkStatErrors 1) = 0 ∧ br.flag (Reg.fdStatusRetired 1) = true := by decide
theorem test_spare_fails : (nx (exec (.stationError 0 128 false) State.reset)).failed = [(0, 128, 255)] := by decide
theorem test_watchdog : br.stateOf 0 0 = stRunning ∧ (nx (exec (.watchdogTimeout 0 0) State.reset)).failed = [] := by decide
theorem test_spare_self_test : (nx (exec (.spareSelfTest 0 128 false) State.reset)).rd (Reg.fdStatusFailed 0) = 1 ∧
  (nx (exec (.spareSelfTest 0 128 true) State.reset)).rd (Reg.fdStatusFailed 0) = 0 := by decide
theorem test_fd_retire : let t := nx (exec (.fdRetire 0) { State.reset.wr Reg.glbParcelCfgSplit 7 with retireReq := [(0, 3)] })
  (t.flag (Reg.fdStatusRetired 0), t.physOf 0 5, t.rd (Reg.fdRetireInfoCause 0), t.retireReq) = (true, 0xFF, 1, []) := by decide
theorem test_fd_retire_waits : (nx (exec (.fdRetire 0) { lone with retireReq := [(0, 3)] })).flag (Reg.fdStatusRetired 0) = false := by decide
/-- The spare 128 has failed its test. -/
def fs : State := (State.reset.wr (Reg.fdStatusSparesLeft 0) 7).wr (Reg.fdStatusFailed 0) 1
theorem test_return_start : let t := nx (exec (.returnStart 0 128) { fs with failed := [(0, 128, 255)] })
  (t.rd (Reg.fdReturnCtlState 0), t.returns) = (1, [⟨0, 128, none, 0, 0⟩]) := by decide
theorem test_return_start_other : (nx (exec (.returnStart 0 129) { fs with failed := [(0, 128, 255)] })).returns = [] := by decide
theorem test_return_spare : let t := nx (exec (.returnTestDone 0 true) { fs with failed := [(0, 128, 255)], returns := [⟨0, 128, none, 0, 0⟩] })
  (t.rd (Reg.fdReturnCtlState 0), t.rd (Reg.fdStatusSparesLeft 0), t.failed) = (0, 8, []) := by decide
theorem test_return_station : (nx (exec (.returnTestDone 0 true) { fs with failed := [(0, 0, 3)], returns := [⟨0, 0, none, 0, 0⟩] })).returns = [⟨0, 0, some 3, 0, 0⟩] := by decide
theorem test_return_fails : (nx (exec (.returnTestDone 0 false) { fs with failed := [(0, 128, 255)], returns := [⟨0, 128, none, 0, 0⟩] })).rd (Reg.fdReturnCtlState 0) = 3 := by decide

/-! ## Ingest -/

/-- A descriptor of one clip: one frame of 16×16, one patch of UINT8; the clip list at byte 0, buffers of 4096 bytes from
65536, the credit at the first bytes of the scratch. -/
def ingB : List (Nat × Byte) :=
  [(8, 1), (24, 1), (32, 1), (36, 1), (37, 1), (38, 16), (39, 1), (40, 16), (42, 16), (44, 16), (46, 16), (52, 1), (90, 1), (97, 16), (104, 2),
   (106, 0xFF), (107, 0xFF), (109, 3), (116, 1), (124, 0x40), (125, 1)]
/-- The descriptor at 4096; its clip, 8 bytes of controller 0, at byte 0; 1 KiB of scratch; firmware runs. -/
def ig : State :=
  { ((State.reset.wr (Reg.scPartScratchKib 0) 1).wr (Reg.ingJobAddrAddr 0 0) 4096) with
    mem := (16, 8) :: ingB.map (fun x => (4096 + x.1, x.2)) ++ (List.range 8).map (fun i => (scBase + i, 0))
    fw := { State.reset.fw with run := [some 0, some 0, some 0] } }
/-- The job's state. -/
def ingSt (s : State) : Nat := s.rd (Reg.ingJobCtlState 0 0)
/-- The job after its start. -/
def ij : IngJob := { IngJob.idle with desc := ig.bytesAt 4096 192 }
def ir (j : IngJob) (st : Nat) : State := { ig.wr (Reg.ingJobCtlState 0 0) st with ing := [(0, j)] }

theorem test_ingest_checks : (ig.ingChecks 0 ij).all (fun x => !x.2) = true := by decide
theorem test_ingest_start : ingSt (nx (exec (.ingestStart 0) ig)) = ingRunning ∧ ((nx (exec (.ingestStart 0) ig)).job 0).samples = 1 := by decide
theorem test_ingest_start_bad : let t := nx (exec (.ingestStart 0) { ig with mem := ig.mem.filter (fun x => x.1 ≠ 4132) })
  (ingSt t, t.rd (Reg.ingJobCtlErrOff 0 0)) = (ingHeld, 36) := by decide
theorem test_ingest_start_no_firmware : let t := nx (exec (.ingestStart 0) { ig with fw := { ig.fw with run := [some 0, none, some 0] } })
  (ingSt t, t.rd (Reg.ingJobCtlErrOff 0 0)) = (ingHeld, 0xFF) := by decide
theorem test_ingest_start_misaligned : (nx (exec (.ingestStart 0) (ig.wr (Reg.ingJobAddrAddr 0 0) 4097))).rd (Reg.ingJobCtlErrOff 0 0) = 0 := by decide
theorem test_ingest_start_busy : (nx (exec (.ingestStart 0) (ir ij ingRunning))).rd (Reg.ingJobStatDiscard 0 0) = 1 := by decide
theorem test_ingest_stop : ingSt (nx (exec (.ingestStop 0) (ir ij ingRunning))) = ingIdle ∧
  ingSt (nx (exec (.ingestStop 0) (ir { ij with busy := true } ingRunning))) = ingStopping := by decide
theorem test_ingest_step : let t := nx (exec (.ingestStepBegin 0) (ir ij ingRunning))
  ((t.job 0).busy, (t.job 0).reads, t.outbox) = (true, [⟨0, 0, 8, [], 0⟩], [⟨.nvmeRead, [0, 0, 0, 0, 0, 8], []⟩]) := by decide
theorem test_ingest_contexts : let t := nx (exec (.ingestStepBegin 0) (ir ij ingRunning))
  (t.igInUse 1, t.igInUse 0, (t.job 0).ctx, t.igWaits 0 1, t.igShare 1 0) = (1, 0, [0], [], 128) := by decide
theorem test_ingest_step_no_credit : ((nx (exec (.ingestStepBegin 0) (ir { ij with step := 2 } ingRunning))).job 0).busy = false ∧
  ((nx (exec (.ingestStepBegin 0) (ir { ij with step := 1 } ingRunning))).job 0).busy = true := by decide
theorem test_ingest_step_lost : ingSt (nx (exec (.ingestStepBegin 0) ((ir ij ingRunning).wr ⟨(Reg.ingNvmeStatLost 1).addr, 16, 1⟩ 1))) = ingHeld := by decide
/-- A step in progress that waits for its 8 bytes. -/
def iw (tries : Nat) : State := ir { ij with busy := true, reads := [⟨0, 0, 8, [], tries⟩] } ingRunning
theorem test_nvme_read : ((nx (exec (.nvmeReadComplete 0 0 true 8 [1, 2, 3, 4, 5, 6, 7, 8]) (iw 0))).job 0).reads.map (·.have'.length) = [8] := by decide
theorem test_nvme_retry : let t := nx (exec (.nvmeReadComplete 0 0 false 8 []) (iw 1))
  ((t.job 0).reads.map (·.tries), t.outbox.length, t.rd (Reg.ingNvmeStatReadErr 1)) = ([2], 1, 0) := by decide
theorem test_nvme_gives_up : let t := nx (exec (.nvmeReadComplete 0 0 false 8 []) (iw 2))
  ((t.job 0).reads.map (·.have'.length), t.rd (Reg.ingNvmeStatReadErr 1)) = ([8], 1) := by decide
theorem test_controller_lost : let t := nx (exec (.nvmeControllerLost 0) (iw 0))
  ((t.job 0).hold, (t.job 0).reads.map (·.have'.length)) = (true, [8]) := by decide
theorem test_ingest_complete_waits : ((nx (exec (.ingestStepComplete 0) (iw 0))).job 0).busy = true := by decide
/-- A step in progress of a clip that breaks R415. -/
def ib : State := { ir { ij with busy := true } ingRunning with mem := (0, 9) :: ig.mem }
theorem test_ingest_complete : (nx (exec (.ingestStepComplete 0) ib)).rd (Reg.ingJobStepStep 0 0) = 0 ∧ ((nx (exec (.ingestStepComplete 0) ib)).job 0).step = 1 := by decide

/-! ## Security -/

/-- The root of trust with `f` changed. -/
def se (f : Sec → Sec) : State := { State.reset with sec := f State.reset.sec }
/-- A malformed token under verification, with `run` failures before it. -/
def tk (run : Nat) : State := se (fun x => { x with verifying := some (List.replicate 224 0, List.replicate 96 0, none), failRun := run })

theorem test_security_serves : State.reset.down = false ∧ State.reset.flag Reg.secStatusRotError = false := by decide
theorem test_nonce : (nx (exec .nonceReq State.reset)).sec.nonceNo = 1 ∧ (nx (exec .nonceReq State.reset)).sec.nonce.isSome = true ∧
  (nx (exec .nonceExpiry (nx (exec .nonceReq State.reset)))).sec.nonce = none := by decide
theorem test_token_submit : (nx (exec .tokenSubmit State.reset)).sec.verifying.isSome = true ∧
  (nx (exec .tokenSubmit (se (fun x => { x with refused := true })))).rd Reg.secStatusTokenResult = 8 := by decide
theorem test_verify_format : let t := nx (exec .tokenVerificationDone (tk 14))
  tokenFormatOk (List.replicate 224 0) = false ∧ (t.rd Reg.secStatusTokenResult, t.rd Reg.secStatusTokenFails, t.sec.failRun, t.sec.refused) = (2, 1, 15, false) := by decide
theorem test_verify_lockout : let t := nx (exec .tokenVerificationDone (tk 15))
  (t.sec.failRun, t.sec.refused) = (0, true) ∧ (nx (exec .tokenLockoutEnd t)).sec.refused = false := by decide
theorem test_token_format : tokenFormatOk ([0x55, 0x54, 0x4B, 0x31, 1, 1, 0, 0, 1, 0, 0, 0, 0, 0, 0, 0, 1, 0, 0, 0] ++ List.replicate 204 0) = true := by decide
theorem test_grant_expiry : let t := nx (exec (.grantExpiry 5) (se (fun x => { x with grants := [(0, 5), (1, 6)] })))
  (t.sec.grants, t.rd Reg.secGrantsScope) = ([(1, 1)], 2) := by decide
theorem test_relock : (nx (exec .relock (se (fun x => { x with grants := [(0, 5)] })))).sec.grants = [] := by decide
theorem test_decommission : let t := nx (exec .decommission { se (fun x => { x with decom := true }) with mem := [(64, 1)] })
  (t.rd Reg.secStatusLifecycle, t.mem, t.sec.decom) = (3, [], false) := by decide
theorem test_svn_commit : let s := (State.reset.wr Reg.secSvnPkcRun 2).wr Reg.secSvnIngFused 3
  ((nx (exec .svnCommit s)).rd Reg.secSvnPkcFused, (nx (exec .svnCommit s)).rd Reg.secSvnIngFused) = (2, 3) := by decide
theorem test_to_field : (nx (exec .toField (State.reset.wr Reg.secStatusLifecycle 1))).sec.toField = true ∧
  (nx (exec .toField (State.reset.wr Reg.secStatusLifecycle 2))).sec.toField = false := by decide
theorem test_lock : (nx (exec (.secLockWrite true) State.reset)).flag Reg.secLockLock = true := by decide
theorem test_rot_failure : let t := nx (exec .rotSelftestFailure (se (fun x => { x with grants := [(0, 5)] })))
  (t.flag Reg.secStatusRotError, t.sec.grants) = (true, []) := by decide
theorem test_tenant_clear : let t := nx (exec (.tenantClear 1 true) { lone with mem := [(64, 1), (lsKey 0 0 0, 1), (2 ^ 45, 1)] })
  lone.trvIdleAt 0 = true ∧ (t.clearing 0, t.stns, t.mem) = (true, [], [(2 ^ 45, 1)]) := by decide
theorem test_tenant_clear_kept : (nx (exec (.tenantClear 1 false) { lone with mem := [(64, 1), (lsKey 0 0 0, 1)] })).mem = [(64, 1)] := by decide
theorem test_tenant_clear_none : (nx (exec (.tenantClear 8 false) State.reset)).clearing 3 = false := by decide
theorem test_tenant_clear_done : (nx (exec (.tenantClearDone 0) (State.reset.setClearing 0 true))).flag Reg.glbParcelCfgClearing = false ∧
  (State.reset.setClearing 0 true).clearing 0 = true := by decide
theorem test_tap : (nx (exec (.tapInstructionSelect .debug) State.reset)).sec.tap = .bypass ∧ (nx (exec (.tapInstructionSelect .extest) State.reset)).down = true ∧
  (nx (exec (.tapInstructionSelect .idcode) State.reset)).sec.tap = .idcode := by decide

/-! ## Management -/

/-- The answer to a management command. -/
def ansOf (c : Instr) (s : State) : Option (List Nat × List Byte) := (nx (exec c s)).outbox.getLast?.map (fun m => (m.args, m.data))

theorem test_smbus_timeout : (nx (exec .smbusTimeout State.reset)).rd Reg.mgtSmbStatTimeouts = 1 := by decide
theorem test_endpoint : ansOf (.setEndpointId 9) State.reset = some ([0, 1, 0], [9]) ∧ ansOf (.setEndpointId 0) State.reset = some ([0, 1, 2], []) ∧
  ansOf .getEndpointId (nx (exec (.setEndpointId 9) State.reset)) = some ([0, 2, 0], [9]) := by decide
theorem test_message_types : ansOf .getMessageTypeSupport State.reset = some ([0, 5, 0], [0x00, 0x01, 0x05, 0x7E]) ∧
  ansOf .getVendorDefinedMessageSupport State.reset = some ([0, 6, 0], [0x5C, 0x1F]) ∧ (ansOf (.getMctpVersionSupport 2) State.reset = some ([0, 4, 0x80], [])) := by decide
theorem test_tid : ansOf (.settid 0xFF) State.reset = some ([1, 1, 2], []) ∧ ansOf .gettid (nx (exec (.settid 4) State.reset)) = some ([1, 2, 0], [4]) := by decide
theorem test_pldm_types : ansOf .getpldmtypes State.reset = some ([1, 4, 0], [0x25, 0, 0, 0, 0, 0, 0, 0]) ∧ ansOf (.getpldmversion 3) State.reset = some ([1, 3, 0x83], []) := by
  decide
theorem test_pldm_commands : ansOf (.getpldmcommands 0) State.reset = some ([1, 5, 0], 0x3E :: List.replicate 31 0) ∧
  ansOf (.getpldmcommands 1) State.reset = some ([1, 5, 0x83], []) := by decide
theorem test_sensor : ansOf (.getsensorreading 1) (State.reset.wr Reg.pwrInAMv 54000) = some ([1, 0x211, 0], leBytes 8 54000) ∧
  ansOf (.getsensorreading 38) State.reset = some ([1, 0x211, 0x80], []) ∧ ansOf .getstatesensorreadings State.reset = some ([1, 0x221, 0x80], []) := by decide
theorem test_repository : (ansOf .getpdrrepositoryinfo State.reset).map (·.1) = some [1, 0x250, 0] ∧ (ansOf (.getpdr 0) State.reset).map (·.1) = some [1, 0x251, 0] ∧
  (ansOf .getEndpointUuid State.reset).map (·.1) = some [0, 3, 0] := by decide
theorem test_effecter : ansOf (.getnumericeffectervalue 0) (nx (exec (.setnumericeffectervalue 0 500) State.reset)) = some ([1, 0x232, 0], [0xF4, 1]) ∧
  ansOf (.setnumericeffectervalue 1 500) State.reset = some ([1, 0x231, 0x80], []) := by decide
theorem test_event_receiver : (nx (exec (.seteventreceiver 1 9) { State.reset with platQueue := [[7]] })).outbox = [⟨.mctpResponse, [1, 0x204, 0], []⟩, ⟨.platformEvent, [9], [7]⟩] ∧
  (nx (exec (.seteventreceiver 0 9) State.reset)).pldmReceiver = none ∧ (nx (exec (.seteventreceiver 2 9) State.reset)).pldmReceiver = some (9, false) := by decide
theorem test_poll : ansOf .pollforplatformeventmessage { State.reset with platQueue := [[7], [8]] } = some ([1, 0x20B, 0], [7]) ∧
  ansOf .pollforplatformeventmessage State.reset = some ([1, 0x20B, 0], []) ∧ ansOf (.eventmessagebuffersize 256) State.reset = some ([1, 0x20D, 0], [0, 1]) := by decide

/-! ## Firmware -/

/-- The update state `u`, component `c`, the table naming both, an image `img`. -/
def fw0 (u c : Nat) (img : List Byte) (ap : List Nat) : State :=
  { State.reset with fw := { State.reset.fw with upd := u, comp := c, table := [1, 2], image := img, applied := ap, run := [some 0, some 0, some 0] } }
def updOf (c : Instr) (s : State) : Nat := (nx (exec c s)).fw.upd

theorem test_device_identifiers : ansOf .querydeviceidentifiers State.reset = some ([1, 0x501, 0], [0x5C, 0x1F, 0x20, 0x74]) ∧
  (ansOf .getfirmwareparameters (fw0 0 0 [] [])).map (·.2.length) = some 128 := by decide
theorem test_request_update : updOf .requestupdate (fw0 0 0 [] []) = 1 ∧ ansOf .requestupdate (fw0 1 0 [] []) = some ([1, 0x510, 0x81], []) := by decide
theorem test_component_table : updOf (.passcomponenttable 1 true) (fw0 1 0 [] []) = 2 ∧ ansOf (.passcomponenttable 1 true) (fw0 0 0 [] []) = some ([1, 0x513, 0x80], []) ∧
  ansOf (.passcomponenttable 1 true) (fw0 2 0 [] []) = some ([1, 0x513, 0x84], []) := by decide
theorem test_update_component : updOf (.updatecomponent 2) (fw0 2 0 [] []) = 3 ∧ ansOf (.updatecomponent 3) (fw0 2 0 [] []) = some ([1, 0x514, 0x82], []) := by decide
theorem test_transfer : (updOf (.transfercomplete 0 [1]) (fw0 3 1 [] []), updOf (.transfercomplete 1 []) (fw0 3 1 [] [])) = (4, 2) := by decide
theorem test_verify_short : updOf .verifycomplete (fw0 4 1 [1] []) = 2 := by decide
theorem test_apply : (nx (exec (.applycomplete 0) (fw0 5 1 [] []))).fw.applied = [0] ∧ updOf (.applycomplete 1) (fw0 5 1 [] []) = 2 ∧ (fw0 5 1 [] []).fw.imgs.length = 4 := by decide
theorem test_activate : let t := nx (exec (.activatefirmware 1) (fw0 2 0 [] [0]))
  (t.fw.upd, t.fw.active.getD 0 0, t.fw.run.getD 0 none) = (0, 1, some 1) ∧ (fw0 2 0 [] [0]).fw.active.getD 0 0 = 0 := by decide
theorem test_activate_nothing : ansOf (.activatefirmware 1) (fw0 2 0 [] []) = some ([1, 0x51A, 0x85], []) := by decide
theorem test_activate_busy : let t := nx (exec (.activatefirmware 2) ((fw0 2 0 [] [1]).wr (Reg.ingJobCtlState 0 0) ingRunning))
  (t.fw.pend, t.fw.active.getD 1 0) = (some true, 1) := by decide
theorem test_activate_fails : let t := nx (exec (.activatefirmware 0) (fw0 2 0 [] [1]))
  (t.fw.pend, t.fw.active.getD 1 0) = (none, 0) := by decide
theorem test_update_status : ansOf .getstatus (fw0 4 0 [] []) = some ([1, 0x51B, 0], [4]) ∧ updOf .cancelupdatecomponent (fw0 5 0 [] []) = 2 ∧
  updOf .cancelupdate (fw0 2 0 [] []) = 0 ∧ ansOf .cancelupdate (fw0 0 0 [] []) = some ([1, 0x51D, 0x80], []) := by decide

/-! ## Attestation, segments, tag -/

theorem test_spdm_version : ansOf .getVersion State.reset = some ([5, 0x84, 0], [0x13]) ∧
  ansOf .getVersion (State.reset.wr Reg.secStatusRotError 1) = some ([5, 0x84, 0xFF], []) := by decide
theorem test_spdm_capabilities : (ansOf .getCapabilities State.reset).map (·.1) = some [5, 0xE1, 0] ∧ (ansOf .negotiateAlgorithms State.reset).map (·.1) = some [5, 0xE3, 0] ∧
  (ansOf .getDigests (State.reset.wr Reg.secStatusLifecycle 3)).map (·.1) = some [5, 0x81, 0xFF] := by decide
theorem test_spdm_measurements : (ansOf (.getMeasurements 0 []) (State.reset.wr Reg.secStatusLifecycle 3)) = some ([5, 0xE0, 0], [8]) := by decide
theorem test_spdm_certificate : (ansOf (.getCertificate 0 0 0) State.reset) = some ([5, 0x82, 0], []) := by decide
theorem test_bus_clear : (nx (exec .i2cBusClear State.reset)).rd Reg.mgtI2cStatClears = 1 := by decide
theorem test_segment_isolate : let t := nx (exec (.i2cSegmentIsolate 1) State.reset)
  (t.rd Reg.mgtI2cStatIsolated, t.flag (fldLost 0)) = (2, true) ∧ (nx (exec (.i2cSegmentIsolate 3) State.reset)).rd Reg.mgtI2cStatIsolated = 8 := by decide
theorem test_segment_restore : let t := nx (exec (.i2cRestore 7 2) (State.reset.wr Reg.mgtI2cStatIsolated 6))
  (t.rd Reg.mgtI2cStatIsolated, t.rd Reg.mgtI2cStatClears) = (4, 2) := by decide
/-- The tag unlocked, its window's first word 0x44332211. -/
def nf : State := (State.reset.wr (Reg.nfcDataData 0) 0x44332211)
def errOf (c : Instr) (s : State) : Nat := (nx (exec c s)).rd Reg.nfcStatusErr
theorem test_nfc_write : State.reset.nfc = ⟨none, false, []⟩ ∧ (nx (exec (.nfcGo 0x1001000 true) nf)).tagRead 0x1000 4 = [0x11, 0x22, 0x33, 0x44] := by decide
theorem test_nfc_errors : (errOf (.nfcGo 0x1000FFC true) nf, errOf (.nfcGo 0x3FC true) nf, errOf (.nfcGo 0x11FFC true) nf, errOf (.nfcGo 0x1000 true) (nf.wr Reg.mgtI2cStatIsolated 1)) =
  (1, 1, 2, 3) := by decide
theorem test_nfc_read : (nx (exec (.nfcGo 0x1000 true) { nf with tag := [(0x1000, 1), (0x1001, 2), (0x1002, 3), (0x1003, 4)] })).rd (Reg.nfcDataData 0) % 2 ^ 32 = 0x04030201 := by decide
theorem test_nfc_gap : let s := { nf with nfc := ⟨none, true, []⟩ }
  (nx (exec (.nfcGo 0x1001000 true) s)).nfc.waiting = [0x1001000] ∧ (nx (exec (.nfcLockGapEnd true) s)).nfc.gap = false ∧
  (nx (exec (.nfcLockGapEnd true) { nf with nfc := ⟨none, true, [0x1001000]⟩ })).tagRead 0x1000 1 = [0x11] := by decide
theorem test_nfc_keeps_lock : (nx (exec (.nfcGo 0x3001000 true) nf)).nfc.lock = some 0 ∧ (nx (exec .nfcSessionExpiry { nf with nfc := ⟨some 0, false, []⟩ })).nfc.lock = none := by decide
theorem test_rf_write : (nx (exec (.rfRequest 0x400 1 true [1, 2, 3, 4] true) nf)).tagRead 0x1000 4 = [1, 2, 3, 4] := by decide
/-- The last answer to an RF request. -/
def rfOf (c : Instr) (s : State) : Option (List Nat) := (nx (exec c s)).outbox.getLast?.map (·.args)
theorem test_rf_codes : rfOf (.rfRequest 0x3FF 1 true [1, 2, 3, 4] false) nf = some [0xFFC, 4, 1, 0x12] ∧ rfOf (.rfRequest 0x800 1 false [] false) nf = some [0x2000, 4, 0, 0x10] ∧
  rfOf (.rfRequest 0x7FF 1 false [] false) nf = some [0x1FFC, 4, 0, 0] := by decide
theorem test_rf_locked : let t := nx (exec (.rfRequest 0x400 1 true [1, 2, 3, 4] true) { nf with nfc := ⟨some 0, false, []⟩ })
  (t.rd Reg.nfcStatusRfDenied, t.tag) = (1, []) := by decide

/-! ## Limits, waits, and what is elsewhere -/

/-- FD 0's stations are allowed no transactions (R320). -/
def capped (s : State) : State := s.wr (Reg.memTrkCfgStnMax 0) 0
theorem test_trk_room : m1.trkRoom 0 0 = true ∧ (capped m1).trkRoom 0 0 = false ∧ (capped m1).issuable 0 = some k0 := by decide
theorem test_sst_survey_hypotheses : m1.OpenWord k0 1 8 8 .write 8 ∧ m1.Lands 0 8 8 ∧ (capped m1).OpenWord k0 1 8 8 .write 8 :=
  ⟨⟨by decide, .inr ⟨rfl, by decide, by decide, by decide, by decide, .inl (by decide)⟩⟩, ⟨apart_of (by decide), by decide, by decide⟩,
    by decide, .inr ⟨rfl, by decide, by decide, by decide, by decide, .inl (by decide)⟩⟩
/-- D1 and D2: eight UINT8 at survey addresses 64 and 128; a copy of them that reverses axis 0. -/
def m4 : State :=
  let d := fun (s : State) (j b : Nat) => withD s j [(0, b), (1, 8), (2, 1), (3, 1), (4, 1), (5, 1), (21, fUint8), (30, 1)]
  d (d m1 1 64) 2 128
def copyR : TensF := { copyF with mode := 18056 + 0x8000 }
/-- With `n` copies of station 1 before it in the queue of FD 0's die-level transposer. -/
def xq (n : Nat) : State := { m4 with xpQueue := List.replicate n (0, 1) }
theorem test_die_copy_hypotheses : copyR.okFor (uDD + uDA) (2 ^ 21 - 1) = true ∧ m4.dieCopy k0 (tensWord 0x30 copyR) = true ∧
  m4.platHeads (m4.env k0 (tensWord 0x30 copyR)) .read 1 = [] ∧
  settled (copyCheck false copyR (m4.env k0 (tensWord 0x30 copyR)) m4) (fun c => fed (m4.xpJoin (m4.env k0 0)) (m4.copySpans k0 c) &&
    lands m4 (tensWord 0x30 copyR) (m4.stageWrites k0 c ++ (copyWrites copyR c k0 m4).1)) = true := by decide
theorem test_die_copy_queue : ((xq 16).xpFull 0, (xq 1).xpFull 0, ((xq 1).xpJoin ((xq 1).env k0 0)).xpBehind ((xq 1).env k0 0) true,
  ((xq 0).xpJoin ((xq 0).env k0 0)).xpBehind ((xq 0).env k0 0) true) = (true, false, true, false) ∧
  settled (copyCheck false copyR ((xq 16).env k0 (tensWord 0x30 copyR)) (xq 16)) = true := by decide
theorem test_die_copy_stalls : (nx (exec (.copy 0 copyR) (xq 16))).rd (Reg.fdXpStallCount 0) = 1 ∧ pcAfter (.copy 0 copyR) (xq 16) = 0 := by decide
/-- D1 besides: a plat of this station's store. -/
def m5 : State := withD m3 1 [(0, 4096), (1, 4), (2, 2), (3, 1), (4, 1), (5, 1), (20, layPlat), (21, fInt8)]
def copyP : TensF := ⟨1, 2, 0, 0, 0, 0, 0, 0, 18056⟩
theorem test_plat_elsewhere_settled : let v := m5.env k0 (tensWord 0x30 copyP)
  m5.remoteHere (m5.platHeads v .read 2) = false ∧ settled (copyOps false copyP v m5) = true := by decide
/-- QUANT of D3 to the plat of D2, whose header is elsewhere. -/
def g2 : State :=
  withD (withD m3 3 [(0, 256), (1, 4), (2, 2), (3, 1), (4, 1), (5, 1), (6, 16), (21, fFp32)]) 2
    [(0, 5 * 2 ^ 46), (1, 4), (2, 2), (3, 1), (4, 1), (5, 1), (20, layPlat), (21, fInt8), (30, 1)]
def quantP : TensF := ⟨2, 3, 0, 0, 0, 0, 0, 0, 0⟩
theorem test_quant_elsewhere : let v := g2.env k0 (tensWord 0x83 quantP)
  g2.remoteHere (g2.platHeads v .write 2) = false ∧ settled (quantOps quantP v g2) = true := by decide
theorem test_chain_repeated : let s := { b3 1 with lsts := [(1, { Lst.empty with rechain := 2 })] }
  ((nx (exec (.chainTransferArrival 1) s)).lst 1).rechain = 1 ∧ ((b3 1).lst 1).rechain = 0 := by decide
theorem test_dispatch_stopped : b4.fdStopped 0 = false ∧ (b4.stn k0).dead = false ∧
  (nx (exec (.engineQueueDispatch 0 (BitVec.ofNat 3 engMat)) { b4 with memTrip := [0] })).stns = b4.stns := by decide
/-- Parcel 0's lockstep group 2 ended its last traverse at 8, and owes module 6's marks by port 0. -/
def le1 : State := { b1 with lockEnded := [⟨0, 2, 8, [(0, 6)], [3]⟩] }
theorem test_ready_after_traverse : le1.trvLoaded 0 = false ∧
  (nx (exec (.readyMessage 0 2 4 6 5) le1)).lockEnded = [⟨0, 2, 8, [(0, 6)], [3, 4]⟩] ∧
  (nx (exec (.readyMessage 0 2 3 6 5) le1)).lockEnded = le1.lockEnded := by decide
theorem test_ready_after_held : le1.stepPort 0 0 6 = none := by decide
/-- A station of the held parcel is stopped for good. -/
def dead0 : State := (tq 1 0x11 trvHeld { lone with stns := [(0, { Stn.idle with active := true, held := true, dead := true })] })
theorem test_resume_abandoned : dead0.mustAbandon 0 = true ∧ tqAfter 1 (.resume 0) dead0 = (tqNotApplicable, 1) ∧
  (tq 1 0x11 trvHeld lone).mustAbandon 0 = false ∧ f1.mustAbandon 0 = false := by decide
/-- The plan is sparse, and D1 a plat in module 5. -/
def cp : State :=
  let s := ((cl 0 4).wr Reg.glbModuleNumValid 1).wr (Reg.glbMemReachLast 0) 9
  let d := fun (s : State) (j b sp : Nat) => withD s j [(0, b), (1, 4), (2, 2), (3, 1), (4, 1), (5, 1), (20, layPlat), (21, fInt8), (30, sp)]
  d (d { s with mem := (257, 2) :: s.mem.filter (fun x => x.1 ≠ 257) } 1 (5 * 2 ^ 46) 1) 2 128 0
theorem test_coll_plat_elsewhere : let v := cp.env k0 (tensWord 0x75 collF)
  cp.remoteHere (cp.platHeads v .read 1 ++ cp.platHeads v .write 2) = false ∧ (cp.plan 0 0).sparse = true ∧
  settled (collOps collF v cp (cp.plan 0 0)) = true ∧ settled (cp.collCheck v 0 3 false false) = true := by decide
/-- The run is held. -/
def ch : State := let s := cs 1 (cj 1); { s with colls := s.colls.map (fun r => { r with held := true }) }
theorem test_coll_recv_add_held : (ch.stepAt 0 0 1 2).isSome = true ∧
  (nx (exec (.collRecvAdd 0 0 1 1 0 1 [5, 6] [] [] 0) ch)).rd (Reg.colTreeErrCount 0) = 0 ∧
  (nx (exec (.collRecvAdd 0 0 1 1 0 4 [5, 6] [] [] 0) ch)).rd (Reg.colTreeErrCount 0) = 1 := by decide
theorem test_coll_port : (cs 0 (cj 1)).collPort false 0 0 1 = some 0 ∧ (cj 1).collPort false 0 0 1 = none := by decide
theorem test_host_memory_stopped : State.reset.hostBlind .pf 128 = false ∧
  (nx (exec (.bar2Access .pf 128 4 []) { State.reset with memTrip := [0] })).outbox = [⟨.completion, [0, 1], []⟩] := by decide
theorem test_no_writes_held : State.reset.NoWritesHeld (List.range 16) :=
  ⟨fun e he => by simp [State.reset] at he, fun r hr => by simp [State.reset] at hr⟩
theorem test_cap_stays : (nx (exec (.capControlLoop 101 10 [] []) { State.reset.wr Reg.pwrCapStatusEffective 100 with
  pwr := { State.reset.pwr with unmet := true } })).pwr.unmet = true ∧ (nx (exec (.capControlLoop 99 10 [] []) { State.reset.wr Reg.pwrCapStatusEffective 100 with
  pwr := { State.reset.pwr with unmet := true } })).pwr.unmet = false := by decide
theorem test_cap_target : (nx (exec (.capControlLoop 100 10 [[1, 2]] []) (State.reset.wr Reg.pwrCapStatusEffective 1000))).capMv 0 = 605 := by decide
theorem test_go_down_port : ((nx (exec (.goDown 2) (State.reset.wr (Reg.lnkStatusState 12) lnkUpSync))).outbox.head?.map (fun x => (x.kind, x.args.take 1, x.args.drop 3))) =
  some (.linkFlit, [12], [7, 1, 0, 0, 0, 0, 0, 2]) := by decide
theorem test_hello_flit : let t := nx (exec (.hello 0 1 1 1 0 0 0 0 0) (pe lnkHello))
  (t.rd (Reg.lnkRxFlitsCount 0), t.rd (Reg.lnkTxFlitsCount 0), (t.port 0).rxSeq, (t.port 0).unacked.map (·.1)) = (1, 1, 1, [0]) := by decide
theorem test_hello_retrain : let t := nx (exec (.hello 0 1 1 1 0 0 0 0 0) { pe lnkHello with ports := [(0, { Port.idle with retrain := true, unacked := [(4, tf)] })] })
  (t.rd (Reg.lnkRxFlitsCount 0), (t.port 0).rounds, (t.port 0).unacked) = (0, 1, [(4, tf)]) := by decide
theorem test_hello_miswired_retrain : let t := nx (exec (.hello 0 2 1 1 0 0 0 0 0) { pe lnkHello with ports := [(0, { Port.idle with retrain := true, unacked := [(4, tf)] })] })
  (t.rd (Reg.lnkStatusState 0), (t.port 0).retrain, (t.port 0).unacked) = (lnkMiswired, false, []) := by decide
/-- Port 0 up, a credit of VC 7, its lane 2 tested to rejoin. -/
def rj : State := ((pu Port.idle).wr (creditFld 0 7) 1).wr (Reg.lnkCfgRejoin 0) 2
theorem test_rejoin_flit : rj.mayTx 0 7 = true ∧ ((nx (exec (.laneRejoinTestEnd 0 1 true) rj)).outbox.map (fun x => (x.kind, x.args.drop 3))) =
  [(.linkFlit, [7, 1, 0, 0, 0, 0, 0, 1])] := by decide
theorem test_plane_sends : (up0 []).planeSends 0 0 = true ∧ ({ up0 [] with ports := [(6, { Port.idle with paused := 1 })] } : State).planeSends 0 0 = false := by decide
theorem test_frame_paused : let t := nx (exec (.uplinkFrameReceive 0 (fr 0)) { up0 [] with ports := [(6, { Port.idle with paused := 1 })] })
  ((t.ctx 0 5 0).map (fun c => (c.rxSeq, c.reply)), t.outbox) = (some (1, some false), []) := by decide
theorem test_memory_stalls : (nx (exec (.memReadRequest 1 128 []) (State.reset.wr (Reg.memTrkCfgLockResv 1) 16384))).rd (Reg.memTrkStallCount 1) = 1 := by decide
/-- A link die with all its contexts open. -/
def cxFull : State := up0 (List.replicate 2048 (Ctx.fresh 0 6 0))
theorem test_frame_no_room : (cxFull.openCtx 0 5 0).2.isNone = true ∧ cxFull.frameOk 0 (fr 0) = true := by decide
theorem test_failed_start_up_resets_cold : State.reset.rstKind = 2 ∧ (nx (exec (.startUpComplete false 15 []) State.reset)).rstKind = 2 ∧
  (nx (exec (.goDown 2) State.reset)).rstKind = 0 := by decide
/-- Module 1's parcel 0 runs a traverse whose image is at 0. -/
def rmi : State := { rm.wr (Reg.glbTrvStatusState 0) trvRunning with mem := [(12, 1)] }
theorem test_remote_image : rmi.inImage 8 1 = true ∧ (nx (exec (.remoteRequestReceive 0 9 (sv 8) 1 [5] false false false) rmi)).byteAt 8 = 0 := by decide
theorem test_remote_stopped : let s := { rm with memTrip := [0] }
  s.stackStopped 128 = true ∧ (nx (exec (.remoteRequestReceive 0 9 (sv 128) 1 [5] false false false) s)).byteAt 128 = 0 := by decide
/-- After an error at edge 1 of FD 0: `l` held. -/
def eg (l : List (Nat × Nat)) : State := { State.reset with edgeRun := [(1, 1)], fab := { State.reset.fab with edgeHeld := [(1, l)] } }
theorem test_edge_credits : ((nx (exec (.edgeFlitReceive 0 1 40 2 true) (eg ((List.range 16).map (fun i => (i, 2)))))).edgeHeldOf 1).length = 16 ∧
  ((nx (exec (.edgeFlitReceive 0 1 40 0 true) (eg ((List.range 16).map (fun i => (i, 2)))))).edgeHeldOf 1).length = 17 := by decide
theorem test_au_stopped : (nx (exec (.auCommandTake 0) { aq snapC 1 with fdTrip := [0] })).au = [] := by decide
theorem test_snapcopy_closed : let t := nx (exec (.snapcopy 0) { (sn (auC 7 0 0 7 2 64 0)).wr (Reg.glbSnapStrideBytes 0) 2 with mem := [(64, 9)], snapClosed := [0] })
  (t.rd (Reg.auSnapLenBytes 0), t.rd (Reg.auCmdsCount 0)) = (0, 1) := by decide
theorem test_pull_request_unnumbered : exec (.pullRequestReceive 0 1 5 0 none) State.reset = .next State.reset := by
  unfold exec execPullRequestReceive; rfl
theorem test_shadows : let s := { State.reset.wr (Reg.fdReturnCtlState 0) 2 with returns := [⟨0, 3, some 3, 0, 0⟩] }
  s.shadows 0 3 = true ∧ s.stateOf 0 3 ≠ stRunning := by decide
/-- The descriptor of job 0 is in module 5. -/
def igr : State := ((ig.wr (Reg.ingJobAddrAddr 0 0) (5 * 2 ^ 46)).wr Reg.glbModuleNumValid 1).wr (Reg.glbMemReachLast 0) 9
theorem test_ingest_elsewhere : igr.remoteHere [(igr.keyOf (5 * 2 ^ 46), 192)] = false ∧ ((nx (exec (.ingestStart 0) igr)).job 0).starting = true ∧
  (nx (exec (.ingestStart 0) igr)).remote.map (fun r => (r.addr, r.len)) = [(5 * 2 ^ 46, 192)] := by decide
theorem test_ingest_stop_starting : ((nx (exec (.ingestStop 0) (nx (exec (.ingestStart 0) igr)))).job 0, (nx (exec (.ingestStop 0) (nx (exec (.ingestStart 0) igr)))).remote) =
  (IngJob.idle, []) := by decide
theorem test_rf_silent : let s := { nf.wr Reg.secStatusRotError 1 with down := true }
  s.flag Reg.secStatusRotError = true ∧ (nx (exec (.rfRequest 0x7FF 2 false [] true) s)).outbox = [] ∧
  (nx (exec (.rfRequest 0 2 false [] true) s)).outbox.length = 1 := by decide
theorem test_reference_return_ptp : (nx (exec .merReferenceReturn ((me 0 3 merHoldover).wr (Reg.lnkStatusState 6) lnkUpUnsync))).outbox.map (·.args.drop 6) = [[12, 0, 252], [12, 9, 252]] := by decide

end Sys2Proof.Tests
end

section
/-! PROOFS. What reset leaves in registers, stations and memory. -/

namespace Sys2Proof.Machine

theorem reset_reg (a : Nat) : State.reset.reg a = regDefault a := rfl

theorem regDefault_of_isP0 {a : Nat} (h : isP0 a = true) : regDefault a = BitVec.allOnes 64 := by
  simp [regDefault, h]

theorem regDefault_of_row {a : Nat} {r : RegRow} (hp : isP0 a = false) (hr : regRowAt a = some r)
    (hm : ¬ (0x1000000 ≤ a ∧ a < 0x2000000 ∧ 0x100 ≤ (a - 0x1000000) % 0x100000 ∧ (a - 0x1000000) % 0x100000 < 0x180)) :
    regDefault a = BitVec.ofNat 64 r.rst := by
  simp only [regDefault, hp, if_neg hm, hr, Bool.false_eq_true, if_false]

/-- FD_STN_MAP as made puts logical station n on physical station n (R27, log 1): byte `j` of register `i`. -/
theorem stnMapDefault_byte : ∀ i < 16, ∀ j < 8, stnMapDefault i % 2 ^ 64 / 2 ^ (8 * j) % 2 ^ 8 = 8 * i + j := by
  decide

theorem regDefault_stnMap {fd i a : Nat} (hfd : fd < 16) (hi : i < 16) (ha : a = 0x1000000 + fd * 0x100000 + 0x100 + i * 8) :
    regDefault a = BitVec.ofNat 64 (stnMapDefault i) := by
  have hm : (a - 0x1000000) % 0x100000 = 0x100 + 8 * i := by omega
  have hp : isP0 a = false := by
    have : ¬ 0x20000 ≤ (a - 0x1000000) % 0x100000 := by omega
    simp [isP0, this]
  have hr : 0x1000000 ≤ a ∧ a < 0x2000000 ∧ 0x100 ≤ (a - 0x1000000) % 0x100000 ∧ (a - 0x1000000) % 0x100000 < 0x180 := by omega
  have hq : ((a - 0x1000000) % 0x100000 - 0x100) / 8 = i := by omega
  simp only [regDefault, hp, Bool.false_eq_true, if_false, if_pos hr, hq]
theorem reset_physOf {fd log : Nat} (hfd : fd < 16) (hl : log < 128) : State.reset.physOf fd log = log := by
  obtain ⟨a, ha⟩ : ∃ a, a = (Reg.fdStnMapPhys fd (log / 8) (log % 8)).addr := ⟨_, rfl⟩
  have hd := regDefault_stnMap hfd (by omega) ha
  have hb := stnMapDefault_byte (log / 8) (by omega) (log % 8) (by omega)
  simp only [State.physOf, State.rd, ← ha, reset_reg, hd]
  simp only [Reg.fdStnMapPhys, Fld.extract, BitVec.toNat_ofNat, Nat.zero_add, Nat.mul_comm (log % 8), hb]
  omega

theorem reset_locate {n : Nat} (hn : n < 2048) : State.reset.locate n = some ⟨n / 128, n % 128, n % 128⟩ := by
  have hd : n / 128 % 16 = n / 128 := by omega
  simp only [State.locate, hd, reset_physOf (fd := n / 128) (log := n % 128) (by omega) (by omega)]
  rw [if_pos (by omega)]


theorem regDefault_eq_elim {a : Nat} (hp : isP0 a = false)
    (hm : ¬ (0x1000000 ≤ a ∧ a < 0x2000000 ∧ 0x100 ≤ (a - 0x1000000) % 0x100000 ∧ (a - 0x1000000) % 0x100000 < 0x180)) :
    regDefault a = (regRowAt a).elim 0 (fun r => BitVec.ofNat 64 r.rst) := by
  simp only [regDefault, hp, if_neg hm, Bool.false_eq_true, if_false]
  cases regRowAt a <;> rfl

/-- The blocks of the FDs, the link dies and the ingest dies. -/
theorem regBlock_of_le {a : Nat} (h : 0x1000000 ≤ a) : regBlock a =
    if a < 0x2000000 then
      if (a - 0x1000000) % 0x100000 < 0x20000 then (regRowsFd, (a - 0x1000000) % 0x100000)
      else if (a - 0x1000000) % 0x100000 < 0xA8000 then (regRowsStn, ((a - 0x1000000) % 0x100000 - 0x20000) % 0x1000) else ([], a)
    else if a < 0x2200000 then
      if 0x10000 ≤ (a - 0x2000000) % 0x100000 ∧ (a - 0x2000000) % 0x100000 < 0x18000 then
        (regRowsPort, ((a - 0x2000000) % 0x100000 - 0x10000) % 0x1000)
      else (regRowsLd, (a - 0x2000000) % 0x100000)
    else if a < 0x2400000 then (regRowsIg, (a - 0x2200000) % 0x100000)
    else ([], a) := by
  unfold regBlock
  rw [if_neg (by omega), if_neg (by omega), if_neg (by omega), if_neg (by omega), if_neg (by omega), if_neg (by omega),
    if_neg (by omega)]
  by_cases h1 : a < 0x2000000
  · rw [if_pos ⟨h, h1⟩, if_pos h1]
  · rw [if_neg (by omega), if_neg h1]
    by_cases h2 : a < 0x2200000
    · rw [if_pos ⟨by omega, h2⟩, if_pos h2]
    · rw [if_neg (by omega), if_neg h2]
      by_cases h3 : a < 0x2400000
      · rw [if_pos ⟨by omega, h3⟩, if_pos h3]
      · rw [if_neg (by omega), if_neg h3]

/-- PARKED of FD_STATUS is 0 at reset; at a number that names no FD the word there has bit 25 clear too. -/
theorem regDefault_fdStatus_parked (fd a : Nat) (ha : a = 0x1000000 + fd * 0x100000 + 0) :
    (regDefault a).toNat / 2 ^ 25 % 2 = 0 := by
  have hm : (a - 0x1000000) % 0x100000 = 0 := by omega
  have hl : (a - 0x2000000) % 0x100000 = 0 := by
    rw [show a - 0x2000000 = (fd - 16) * 0x100000 by omega, Nat.mul_mod_left]
  have hi : (a - 0x2200000) % 0x100000 = 0 := by
    rw [show a - 0x2200000 = (fd - 18) * 0x100000 by omega, Nat.mul_mod_left]
  rw [regDefault_eq_elim (by simp [isP0, hm]) (by omega), regRowAt, regBlock_of_le (by omega), hm, hl, hi,
    if_pos (by decide : 0 < 0x20000), if_neg (by decide : ¬ (0x10000 ≤ 0 ∧ 0 < 0x18000))]
  split
  · decide
  · split
    · decide
    · split
      · decide
      · simp

theorem reset_stateOf (fd phys : Nat) : State.reset.stateOf fd phys = stIdle := by
  have h : State.reset.flag (Reg.fdStatusParked fd) = false := by
    have hx : (Reg.fdStatusParked fd).extract (regDefault (Reg.fdStatusParked fd).addr) = 0 :=
      regDefault_fdStatus_parked fd (Reg.fdStatusParked fd).addr rfl
    rw [State.flag, State.rd, reset_reg, hx]
    rfl
  have hs : State.reset.stnAt (stnKey fd phys) = Stn.idle := rfl
  simp [State.stateOf, hs, h, Stn.idle]

theorem reset_peek (k : Nat) : State.reset.peek k = memDefault k := by
  simp [State.peek, State.scrMask, State.reset, memDefault]

theorem reset_cwPoison (c : Nat) : State.reset.cwPoison c = false := by
  simp [State.cwPoison, State.cwLost, State.reset]

theorem reset_poisonAt (k : Nat) : State.reset.poisonAt k 1 = none := by
  unfold State.poisonAt
  split
  · simp [State.reset]
  · simp only [reset_cwPoison]
    split <;> simp [State.reset]

theorem reset_parcelFds_zero : State.reset.parcelFds 0 = List.range 16 := by decide

theorem reset_parcelExists_one : State.reset.parcelExists 1 = false := by decide

/-- Settles O2: at reset no register is listed, so each reads the Reset column of its row; no byte and no station is either. -/
theorem resetLeavesResetColumn : Obligations.ResetLeavesResetColumn := by
  unfold Obligations.ResetLeavesResetColumn
  refine ⟨fun a r hp hr hm => ?_, fun a hp => ?_, fun n hn => reset_locate hn, reset_stateOf, reset_parcelFds_zero,
    reset_parcelExists_one, fun k => ⟨reset_peek k, reset_poisonAt k⟩, rfl, rfl, rfl, rfl⟩
  · rw [reset_reg, regDefault_of_row hp hr hm]
  · rw [reset_reg, regDefault_of_isP0 hp]

/-- Settles O3: the maps of the reset state list nothing. -/
theorem resetIsCanonical : Obligations.ResetIsCanonical := ⟨rfl, rfl, rfl⟩

end Sys2Proof.Machine
end

section
/-! PROOFS. Every command goes on, and what a step keeps. -/

namespace Sys2Proof.Machine

/-- Every command has a next state: no arm of `exec` faults or refuses. -/
theorem exec_goes_on (i : Instr) (s : State) : ∃ t, exec i s = .next t := by
  cases i <;> exact ⟨_, rfl⟩

/-- What each of the commands keeps, by the law of its own meaning. -/
theorem exec_keeps {r s : State} (i : Instr) (hs : Keeps r s) : KeepsO r (exec i s) := by
  cases i <;> simp [exec, hs]

/-- Settles O4: a step is the front command on the rest of the queue, or a tick, and each keeps what `Keeps` says. -/
theorem everyStepGoesOnAndKeepsTheInvariant : Obligations.EveryStepGoesOnAndKeepsTheInvariant := by
  intro s
  unfold step
  split
  next c rest hp =>
    obtain ⟨t, ht⟩ := exec_goes_on c { s with pending := rest }
    obtain ⟨hq, ho, hf, hc⟩ := exec_keeps c (Keeps.refl { s with pending := rest }) t ht
    exact ⟨t, ht, by rw [hq, hp, List.tail_cons], ho, hf, hc⟩
  next hp =>
    obtain ⟨hq, ho, hf, hc⟩ := State.tick_keeps (Keeps.refl s)
    exact ⟨s.tick, rfl, by rw [hq, hp, List.tail_nil], ho, hf, hc⟩

end Sys2Proof.Machine
end

section
/-! PROOFS. The rows of station registers, and writes of plain registers. -/

namespace Sys2Proof.Machine

/-! ### Which row describes a register -/

/-- Registers of a station block. -/
theorem regRowAt_stn {fd p o a : Nat} (hfd : fd < 16) (hp : p < 136) (ho : o < 0x1000) (ha : a = stnBase fd p + o) :
    regRowAt a = regRowsStn.find? (fun r => r.covers o) := by
  have hb : a = 0x1000000 + fd * 0x100000 + 0x20000 + p * 0x1000 + o := ha
  have hm : (a - 0x1000000) % 0x100000 = 0x20000 + p * 0x1000 + o := by
    rw [show a - 0x1000000 = 0x20000 + p * 0x1000 + o + fd * 0x100000 by omega, Nat.add_mul_mod_self_right]
    exact Nat.mod_eq_of_lt (by omega)
  have ho' : (0x20000 + p * 0x1000 + o - 0x20000) % 0x1000 = o := by
    rw [show 0x20000 + p * 0x1000 + o - 0x20000 = o + p * 0x1000 by omega, Nat.add_mul_mod_self_right, Nat.mod_eq_of_lt ho]
  rw [regRowAt, regBlock_of_le (by omega), if_pos (by omega), if_neg (by omega), if_pos (by omega), hm, ho']

/-! ### Writes by access codes -/

theorem State.plainWrite_of_row {s : State} {a : Nat} {r : RegRow} (h : regRowAt a = some r) (v : BitVec 64) :
    s.plainWrite a v = s.setReg a (((s.reg a &&& ~~~BitVec.ofNat 64 r.rw) ||| (v &&& BitVec.ofNat 64 r.rw)) &&&
      ~~~(v &&& BitVec.ofNat 64 r.w1c)) := by
  simp only [State.plainWrite, h]

/-- A register whose every bit is RW takes the value written. -/
theorem State.plainWrite_of_full {s : State} {a : Nat}
    (h : (regRowAt a).map (fun r => (r.rw, r.w1c)) = some (2 ^ 64 - 1, 0)) (v : BitVec 64) :
    s.plainWrite a v = s.setReg a v := by
  obtain ⟨r, hr, hm⟩ := Option.map_eq_some_iff.1 h
  obtain ⟨hrw, hw1c⟩ := Prod.mk.inj hm
  rw [State.plainWrite_of_row hr, hrw, hw1c, show BitVec.ofNat 64 (2 ^ 64 - 1) = BitVec.allOnes 64 from rfl,
    BitVec.and_allOnes, show BitVec.ofNat 64 0 = 0#64 from rfl, BitVec.and_zero, BitVec.not_zero, BitVec.and_allOnes,
    BitVec.not_allOnes, BitVec.and_zero, BitVec.zero_or]


/-! ### The rows of a station's state and random registers -/

/-- Offsets of the registers of a station that take a write whole: S, P and D registers, SEED, STREAM and BASE. -/
def stnFullOff (o : Nat) : Bool :=
  o % 8 == 0 && (decide (0x600 ≤ o ∧ o < 0x700) || decide (0x708 ≤ o ∧ o < 0x748) || decide (0x800 ≤ o ∧ o < 0xC00) ||
    decide (o = 0x500) || decide (0x510 ≤ o ∧ o < 0x590))

theorem stnRow_of_full : ∀ i < 0x200, stnFullOff (8 * i) = true →
    (regRowsStn.find? (fun r => r.covers (8 * i))).map (fun r => (r.rw, r.w1c)) = some (2 ^ 64 - 1, 0) := by
  decide +kernel
end Sys2Proof.Machine
end

section
/-! PROOFS. Control of a station from outside: HALT, STEP and its state and random registers. -/

namespace Sys2Proof.Machine

/-! ### Where a located station lies -/

theorem Loc.bounds_of_locate {s : State} {n : Nat} {k : Loc} (h : s.locate n = some k) : k.fd < 16 ∧ k.phys < 136 := by
  simp only [State.locate] at h
  split at h
  next hp => cases h; exact ⟨(by omega : n / 128 < 16), hp.1⟩
  next => cases h

/-! ### Writes of STN_CTL.HALT -/

theorem regRowsStn_ctl : regRowsStn.find? (fun r => r.covers 0) = some ⟨0x0, 0x8, 1, 0x1, 0x0, 0x0, 0x0⟩ := by decide

theorem stnWrite_halt {s : State} {k : Loc} (hk : k.fd < 16 ∧ k.phys < 136) (v : BitVec 64) :
    s.stnWrite k.fd k.phys 0 v = s.wr (Reg.stnCtlHalt k.b) (v.toNat % 2) := by
  have hr := (regRowAt_stn (a := stnBase k.fd k.phys + 0) hk.1 hk.2 (by omega) rfl).trans regRowsStn_ctl
  have h0 : isStateReg 0 = false := rfl
  have h1 : isRngReg 0 = false := rfl
  simp only [State.stnWrite, h0, h1, Bool.false_eq_true, if_false, State.plainWrite_of_row hr]
  simp only [State.wr, Reg.stnCtlHalt, Loc.b, Fld.deposit]
  congr 1
  have hm : Fld.mask ⟨stnBase k.fd k.phys + 0, 0, 1⟩ = 1#64 := rfl
  rw [hm]
  simp only [BitVec.and_zero, BitVec.not_zero, BitVec.and_allOnes]
  congr 1
  refine BitVec.eq_of_toNat_eq ?_
  simp [Nat.and_one_is_mod]
  omega


/-! ### Writes of the state and random registers -/

theorem stnWrite_state_discarded {s : State} {fd p o : Nat} (ho : isStateReg o = true) (hh : s.stateOf fd p ≠ stHalted) (v : BitVec 64) :
    s.stnWrite fd p o v = s.inc (Reg.stnStatusWrDiscard (stnBase fd p)) := by
  simp only [State.stnWrite, ho, if_true, if_pos hh]

theorem stnWrite_rng_discarded {s : State} {fd p o : Nat} (hs : isStateReg o = false) (ho : isRngReg o = true)
    (hh : s.stateOf fd p ≠ stHalted) (v : BitVec 64) :
    s.stnWrite fd p o v = s.inc (Reg.stnRngStatusWrDiscard (stnBase fd p)) := by
  simp only [State.stnWrite, hs, ho, Bool.false_eq_true, if_false, if_true, if_pos hh]

/-- The bits of a write that a state register other than S0 and P0 takes before its access codes: bit 0 of STN_SDATA and bits
[511:496] of a D register are kept. -/
def stnTaken (o : Nat) (v : BitVec 64) : BitVec 64 :=
  if o = 0x700 then v &&& 0xFFFFFFFE else if o % 0x40 = 0x38 ∧ 0x800 ≤ o then v &&& 0xFFFFFFFFFFFF else v

theorem stnWrite_state_halted {s : State} {fd p o : Nat} (ho : isStateReg o = true) (hh : s.stateOf fd p = stHalted)
    (h0 : ¬ (o = 0x600 ∨ o = p0Off)) (v : BitVec 64) :
    s.stnWrite fd p o v = s.plainWrite (stnBase fd p + o) (stnTaken o v) := by
  simp only [State.stnWrite, ho, if_true, hh, ne_eq, not_true_eq_false, if_false, if_neg h0, stnTaken]
  split
  · rfl
  · split <;> rfl

theorem stnWrite_rng_halted {s : State} {fd p o : Nat} (hs : isStateReg o = false) (ho : isRngReg o = true)
    (hh : s.stateOf fd p = stHalted) (v : BitVec 64) :
    s.stnWrite fd p o v = s.plainWrite (stnBase fd p + o) v := by
  simp only [State.stnWrite, hs, ho, Bool.false_eq_true, if_false, if_true, hh, ne_eq, not_true_eq_false]

theorem plainWrite_stn_full {s : State} {fd p o : Nat} (hfd : fd < 16) (hp : p < 136) (ho : stnFullOff o = true) (v : BitVec 64) :
    s.plainWrite (stnBase fd p + o) v = s.setReg (stnBase fd p + o) v := by
  have h8 : o = 8 * (o / 8) ∧ o / 8 < 0x200 := by
    simp only [stnFullOff, Bool.and_eq_true, beq_iff_eq, Bool.or_eq_true, decide_eq_true_eq] at ho
    omega
  have hr := regRowAt_stn hfd hp (o := o) (by omega) rfl
  refine State.plainWrite_of_full ?_ v
  rw [hr, h8.1]
  exact stnRow_of_full _ h8.2 (h8.1 ▸ ho)

theorem regRowsStn_sdata : regRowsStn.find? (fun r => r.covers 0x700) = some ⟨0x700, 0x8, 1, 0xFFFFFFFF, 0x0, 0x0, 0x0⟩ := by
  decide +kernel

theorem regRowsStn_sg : ∀ i < 16, regRowsStn.find? (fun r => r.covers (0x780 + 8 * i)) =
    some ⟨0x780, 0x8, 16, 0xFFFFFFFF, 0x0, 0x0, 0x0⟩ := by
  decide +kernel

/-- A register of 32 RW bits takes the low half of a write and keeps its high half. -/
theorem State.plainWrite_of_low {s : State} {a : Nat} {r : RegRow} (h : regRowAt a = some r) (hrw : r.rw = 0xFFFFFFFF)
    (hw1c : r.w1c = 0) (v : BitVec 64) :
    s.plainWrite a v = s.setReg a ((s.reg a &&& 0xFFFFFFFF00000000) ||| (v &&& 0xFFFFFFFF)) := by
  rw [State.plainWrite_of_row h, hrw, hw1c, show BitVec.ofNat 64 0 = 0#64 from rfl, BitVec.and_zero, BitVec.not_zero,
    BitVec.and_allOnes]
  rfl

/-- The state registers that a write reaches (R216, R217), with what they take of the value `v`: the registers S1 to S31,
STN_SDATA, P1 to P7, SG and D of the station block at `b`. -/
def State.StateRegTakes (s : State) (b o : Nat) (v x : BitVec 64) : Prop :=
  (∃ i, i < 32 ∧ i ≠ 0 ∧ o = 0x600 + 8 * i ∧ x = v) ∨ (o = 0x700 ∧ x = v &&& 0xFFFFFFFE) ∨
  (∃ i, i < 8 ∧ i ≠ 0 ∧ o = 0x708 + 8 * i ∧ x = v) ∨
  (∃ i, i < 16 ∧ o = 0x780 + 8 * i ∧ x = (s.reg (b + o) &&& 0xFFFFFFFF00000000) ||| (v &&& 0xFFFFFFFF)) ∨
  (∃ i, i < 128 ∧ o = 0x800 + 8 * i ∧ x = if i % 8 = 7 then v &&& 0xFFFFFFFFFFFF else v)

theorem State.StateRegTakes.isStateReg {s : State} {b o : Nat} {v x : BitVec 64} (h : s.StateRegTakes b o v x) :
    Machine.isStateReg o = true ∧ ¬ (o = 0x600 ∨ o = p0Off) := by
  simp only [Machine.isStateReg, p0Off, Bool.or_eq_true, Bool.and_eq_true, decide_eq_true_eq]
  rcases h with ⟨i, hi, h0, rfl, -⟩ | ⟨rfl, -⟩ | ⟨i, hi, h0, rfl, -⟩ | ⟨i, hi, rfl, -⟩ | ⟨i, hi, rfl, -⟩ <;> omega

theorem stnWrite_takes {s : State} {fd p o : Nat} (hfd : fd < 16) (hp : p < 136) (hh : s.stateOf fd p = stHalted) {v x : BitVec 64}
    (h : s.StateRegTakes (stnBase fd p) o v x)
    (hs : o = 0x700 → s.reg (stnBase fd p + 0x700) &&& 0xFFFFFFFF00000000 = 0) :
    s.stnWrite fd p o v = s.setReg (stnBase fd p + o) x := by
  rw [stnWrite_state_halted h.isStateReg.1 hh h.isStateReg.2]
  rcases h with ⟨i, hi, h0, rfl, rfl⟩ | ⟨rfl, rfl⟩ | ⟨i, hi, h0, rfl, rfl⟩ | ⟨i, hi, rfl, rfl⟩ | ⟨i, hi, rfl, rfl⟩
  · rw [stnTaken, if_neg (by omega), if_neg (by omega)]
    exact plainWrite_stn_full hfd hp (by simp [stnFullOff]; omega) _
  · rw [stnTaken, if_pos rfl,
      State.plainWrite_of_low ((regRowAt_stn hfd hp (by omega) rfl).trans regRowsStn_sdata) rfl rfl, hs rfl, BitVec.and_assoc]
    simp
  · rw [stnTaken, if_neg (by omega), if_neg (by omega)]
    exact plainWrite_stn_full hfd hp (by simp [stnFullOff]; omega) _
  · rw [stnTaken, if_neg (by omega), if_neg (by omega),
      State.plainWrite_of_low ((regRowAt_stn hfd hp (by omega) rfl).trans (regRowsStn_sg i hi)) rfl rfl]
  · have hD : stnTaken (0x800 + 8 * i) v = if i % 8 = 7 then v &&& 0xFFFFFFFFFFFF else v := by
      rw [stnTaken, if_neg (by omega)]
      by_cases h7 : i % 8 = 7
      · rw [if_pos (by omega), if_pos h7]
      · rw [if_neg (by omega), if_neg h7]
    rw [hD]
    exact plainWrite_stn_full hfd hp (by simp [stnFullOff]; omega) _

/-- Offsets of SEED, STREAM and BASE (R189). -/
def rngOff (o : Nat) : Prop := o = 0x500 ∨ ∃ j, j < 8 ∧ (o = 0x510 + 16 * j ∨ o = 0x518 + 16 * j)

theorem rngOff.classes {o : Nat} (h : rngOff o) : isStateReg o = false ∧ isRngReg o = true ∧ stnFullOff o = true := by
  rcases h with rfl | ⟨j, hj, rfl | rfl⟩
  · decide
  · simp [isStateReg, isRngReg, stnFullOff]; omega
  · simp [isStateReg, isRngReg, stnFullOff]; omega

/-! ### A single step -/

theorem Sparse.mem_set {α : Type} [DecidableEq α] {d : Nat → α} {l : Sparse α} {k : Nat} {v : α} {e : Nat × α}
    (h : e ∈ Sparse.set d l k v) : e = (k, v) ∨ e ∈ l := by
  unfold Sparse.set at h
  split at h
  · exact .inr (List.mem_filter.1 h).1
  · induction l with
    | nil => exact .inl (by simpa [Sparse.insert] using h)
    | cons a t ih =>
      obtain ⟨a, x⟩ := a
      simp only [Sparse.insert] at h
      split at h
      · simpa using h
      · split at h
        · rcases List.mem_cons.1 h with rfl | h
          · exact .inl rfl
          · exact .inr (List.mem_cons_of_mem _ h)
        · rcases List.mem_cons.1 h with rfl | h
          · exact .inr (by simp)
          · exact (ih h).imp_right (List.mem_cons_of_mem _)

theorem Sparse.get_mem_or_default {α : Type} (d : Nat → α) (l : Sparse α) (k : Nat) :
    (k, Sparse.get d l k) ∈ l ∨ Sparse.get d l k = d k := by
  induction l with
  | nil => exact .inr rfl
  | cons e t ih =>
    obtain ⟨a, v⟩ := e
    rw [sparse_get_cons]
    split
    next h => subst h; exact .inl (by simp)
    next => exact ih.imp_left (List.mem_cons_of_mem _)

theorem State.NoneWaits.stnAt {s : State} (h : s.NoneWaits) (key : Nat) : (s.stnAt key).waiting = none := by
  rcases Sparse.get_mem_or_default (fun _ => Stn.idle) s.stns key with hm | hd
  · exact h _ hm
  · rw [State.stnAt, hd]; rfl

/-- A change of a station that leaves what it waits for keeps that none waits. -/
theorem State.NoneWaits.updStn {s : State} (h : s.NoneWaits) (k : Loc) (f : Stn → Stn) (hf : ∀ t, (f t).waiting = t.waiting) :
    (s.updStn k f).NoneWaits := by
  intro e he
  have he : e ∈ Sparse.set (fun _ => Stn.idle) s.stns k.key (f (s.stnAt k.key)) := he
  rcases Sparse.mem_set he with rfl | he
  · exact (hf _).trans (h.stnAt _)
  · exact h e he

/-- With no station waiting, settling wakes none. -/
theorem State.NoneWaits.settle {s : State} (h : s.NoneWaits) : s.settle = s := by
  have : s.stns.filter (fun e => e.2.waiting.isSome) = [] :=
    List.filter_eq_nil_iff.2 (fun e he => by simp [h e he])
  rw [State.settle, this]
  rfl

/-! What a station reads of the registers is the same after a change of a station's state. -/

@[simp] theorem State.updStn_reg (s : State) (k : Loc) (f : Stn → Stn) (a : Nat) : (s.updStn k f).reg a = s.reg a := rfl
@[simp] theorem State.updStn_pcOf (s : State) (k q : Loc) (f : Stn → Stn) : (s.updStn k f).pcOf q = s.pcOf q := rfl
@[simp] theorem State.updStn_legOf (s : State) (k q : Loc) (f : Stn → Stn) : (s.updStn k f).legOf q = s.legOf q := rfl
@[simp] theorem State.updStn_parcelOf (s : State) (k : Loc) (f : Stn → Stn) (fd : Nat) : (s.updStn k f).parcelOf fd = s.parcelOf fd := rfl
@[simp] theorem State.updStn_env (s : State) (k : Loc) (f : Stn → Stn) (w : BitVec 64) : (s.updStn k f).env k w = s.env k w := rfl
@[simp] theorem State.wr_stn (s : State) (f : Fld) (x : Nat) (k : Loc) : (s.wr f x).stn k = s.stn k := rfl

/-- `s` with the station at `k` in a single step whose instruction is still to issue. -/
abbrev State.stepBegun (s : State) (k : Loc) : State := s.updStn k (fun t => { t with step := .issue })

/-- What a single step that has begun does: it finds PC outside the program, waits under R206, or issues. -/
theorem stepGo_outside {s : State} {k : Loc} (h : (s.stepBegun k).progWords (s.parcelOf k.fd) k.num ≤ s.pcOf k) :
    (s.stepBegun k).stepGo k = ((s.stepBegun k).updStn k (fun t => { t with step := .none' })).faultAt
      (s.env k ((s.stepBegun k).wordAt (s.parcelOf k.fd) k.num (s.pcOf k))) false fcPcInvalid (s.pcOf k) := by
  have h' : (s.stepBegun k).progWords ((s.stepBegun k).parcelOf k.fd) k.num ≤ (s.stepBegun k).pcOf k := h
  rw [State.stepGo, if_pos h']
  simp only [State.updStn_parcelOf, State.updStn_pcOf, State.updStn_env]

theorem stepGo_inside {s : State} {k : Loc} (h : s.pcOf k < (s.stepBegun k).progWords (s.parcelOf k.fd) k.num) {w : BitVec 64}
    (hw : (s.stepBegun k).wordAt (s.parcelOf k.fd) k.num (s.pcOf k) = w) :
    (s.stepBegun k).stepGo k =
      if (s.stepBegun k).hazard k w then (s.stepBegun k).inc (Reg.stnHazardWaitCount k.b)
      else if (s.stepBegun k).stalls k w then (s.stepBegun k).inc (Reg.stnIssueStallCount k.b)
      else ((issueWord w (s.env k w) (s.stepBegun k)).stepIssued k w (s.pcOf k) (s.stn k).engq.length).settle := by
  have h' : ¬ (s.stepBegun k).progWords ((s.stepBegun k).parcelOf k.fd) k.num ≤ (s.stepBegun k).pcOf k := Nat.not_le.2 h
  rw [State.stepGo, if_neg h']
  simp only [State.updStn_parcelOf, State.updStn_pcOf, State.updStn_env, hw, State.stn_updStn_same]

theorem execStnStep_of_halted {s : State} {stn : BitVec 11} {k : Loc} (hl : s.locate stn.toNat = some k) (hh : s.stateAt k = stHalted) :
    exec (.stnStep stn) s = .next ((s.stepBegun k).stepGo k) := by
  simp only [exec, execStnStep, hl, hh, ne_eq, not_true_eq_false, if_false]

theorem issueWord_nop (v : Env) (s : State) : issueWord 0 v s = s.advance v.loc := rfl

/-- A single step of a word that is in no engine's class and has queued nothing is over. -/
theorem stepIssued_done {s : State} {k : Loc} {w : BitVec 64} {n : Nat} (hw : opEngine (w.toNat / 2 ^ 56) = none)
    (hn : (s.stn k).engq.length ≤ n) (pc : Nat) :
    s.stepIssued k w pc n = s.updStn k (fun t => { t with step := .none' }) := by
  have hlt : ¬ n < (s.stnAt k.key).engq.length := Nat.not_lt.2 hn
  simp only [State.stepIssued, State.updStn, hw, if_neg hlt]
  simp

/-- A change of the station at `k`, a write of a register, and another change of the station. -/
theorem stationOnly_updStn_wr_updStn (s : State) (k : Loc) (g h : Stn → Stn) (f : Fld) (x : Nat) :
    StationOnly s (((s.updStn k g).wr f x).updStn k h) k [f.addr] := by
  refine ⟨rfl, fun q hq => ?_, fun a ha _ => ?_⟩
  · exact (State.stnAt_setStnAt_ne _ _ hq).trans (s.stnAt_setStnAt_ne _ hq)
  · exact (s.updStn k g).reg_wr_ne x (by simpa using ha)

theorem stn_updStn_wr_updStn (s : State) (k : Loc) (g h : Stn → Stn) (f : Fld) (x : Nat) :
    (((s.updStn k g).wr f x).updStn k h).stn k = h (g (s.stn k)) := by
  rw [State.stn_updStn_same, State.wr_stn, State.stn_updStn_same]

theorem State.NoneWaits.wr {s : State} (h : s.NoneWaits) (f : Fld) (x : Nat) : (s.wr f x).NoneWaits := h

/-- What a single step of a NOP leaves: PC one word on, and no step under way. -/
abbrev State.nopStepped (s : State) (k : Loc) : State :=
  ((s.stepBegun k).advance k).updStn k (fun t => { t with step := .none' })

theorem stepIssued_nop (s : State) (k : Loc) :
    ((s.stepBegun k).advance k).stepIssued k 0 (s.pcOf k) (s.stn k).engq.length = s.nopStepped k :=
  stepIssued_done (by decide) (Nat.le_of_eq (by rw [State.advance, State.setPc, State.wr_stn, State.stn_updStn_same])) _

theorem goesOn_nopStepped (s : State) (k : Loc) : GoesOn s (s.nopStepped k) k := by
  obtain ⟨-, hpc, hleg⟩ := pcOnly_advance (s.stepBegun k) k
  refine ⟨?_, ?_⟩
  · rw [State.updStn_pcOf, hpc, State.nextPc, State.updStn_pcOf]
  · rw [State.updStn_legOf, hleg, State.updStn_legOf]

theorem State.NoneWaits.nopStepped {s : State} (h : s.NoneWaits) (k : Loc) : (s.nopStepped k).NoneWaits :=
  ((h.updStn k (fun t => { t with step := .issue }) (fun _ => rfl)).wr (Reg.stnPcPc k.b) ((s.stepBegun k).pcOf k + 1)).updStn k
    (fun t => { t with step := .none' }) (fun _ => rfl)

/-- Settles O28: each write is `State.stnWrite` of the located station, and STEP is `State.stepGo` of it. -/
theorem stationControlWrites : Obligations.StationControlWrites := by
  unfold Obligations.StationControlWrites
  intro s stn k hl
  have hk := Loc.bounds_of_locate hl
  refine ⟨fun h => ?_, ⟨fun hh => ?_, fun hh hlen => ?_, fun hh hlen => ⟨fun hz => ?_, fun hz hst => ⟨?_, fun hw hn => ?_⟩⟩⟩,
    fun off v x hx => ?_, fun off v ho => ?_⟩
  · refine ⟨s.wr (Reg.stnCtlHalt k.b) (if h then 1 else 0), ?_, OnlyRegs.wr s _ _, ?_⟩
    · simp only [exec, execStnHaltWrite, hl, stnWrite_halt hk]
      cases h <;> rfl
    · rw [State.rd_wr_same _ _ (by simp [Reg.stnCtlHalt])]
      cases h <;> rfl
  · simp only [exec, execStnStep, hl, if_pos hh]
  · rw [execStnStep_of_halted hl hh, stepGo_outside hlen]
  · rw [execStnStep_of_halted hl hh, stepGo_inside hlen rfl, if_pos hz]
  · rw [execStnStep_of_halted hl hh, stepGo_inside hlen rfl, if_neg (by simpa using hz), if_neg (by simpa using hst)]
  · refine ⟨s.nopStepped k, ?_, stationOnly_updStn_wr_updStn s k _ _ _ _,
      goesOn_nopStepped s k, stn_updStn_wr_updStn s k _ _ _ _⟩
    have hst : ¬ (s.stepBegun k).stalls k 0 = true := Bool.false_ne_true
    rw [execStnStep_of_halted hl hh, stepGo_inside hlen hw, if_neg (by rw [← hw]; simpa using hz), if_neg hst, issueWord_nop,
      env_loc, stepIssued_nop, (hn.nopStepped k).settle]
  · refine ⟨fun hh h0 => ?_, fun hh => ?_⟩
    · have hx : s.StateRegTakes k.b off.toNat v x := by
        rcases hx with h | ⟨rfl, h⟩ | h
        · exact .inl h
        · exact .inr (.inl ⟨rfl, h⟩)
        · exact .inr (.inr h)
      simp only [exec, execStnStateRegWrite, hl, hx.isStateReg.1, if_true]
      rw [stnWrite_takes hk.1 hk.2 hh hx (fun h => h0 (BitVec.eq_of_toNat_eq h))]
      rfl
    · have hx : isStateReg off.toNat = true := by
        rcases hx with h | ⟨rfl, h⟩ | h
        · exact (State.StateRegTakes.isStateReg (s := s) (b := k.b) (.inl h)).1
        · rfl
        · exact (State.StateRegTakes.isStateReg (s := s) (b := k.b) (.inr (.inr h))).1
      simp only [exec, execStnStateRegWrite, hl, hx, if_true]
      rw [stnWrite_state_discarded hx hh]
      rfl
  · have ho : rngOff off.toNat := ho.imp_left (fun h => congrArg BitVec.toNat h)
    obtain ⟨hs, hr, hf⟩ := ho.classes
    simp only [exec, execStnRngRegWrite, hl, hr, if_true]
    refine ⟨fun hh => ?_, fun hh => ?_⟩
    · rw [stnWrite_rng_halted hs hr hh, plainWrite_stn_full hk.1 hk.2 hf]
      rfl
    · rw [stnWrite_rng_discarded hs hr hh]
      rfl

end Sys2Proof.Machine
end

section
/-! PROOFS. Register reads and writes by the host and management. -/

namespace Sys2Proof.Machine

/-! ### What a read clears -/

theorem getLsbD_ofNat_lt {x i : Nat} (hi : i < 64) : (BitVec.ofNat 64 x).getLsbD i = x.testBit i := by
  rw [BitVec.getLsbD_ofNat, decide_eq_true hi, Bool.true_and]

/-- `c` of the bits of `v` replaced by those of `d`. -/
theorem getLsbD_replaced (v d c : BitVec 64) {i : Nat} (hi : i < 64) :
    ((v &&& ~~~c) ||| (d &&& c)).getLsbD i = if c.getLsbD i then d.getLsbD i else v.getLsbD i := by
  simp only [BitVec.getLsbD_or, BitVec.getLsbD_and, BitVec.getLsbD_not, hi, decide_true, Bool.true_and]
  cases c.getLsbD i <;> simp

theorem State.afterRead_unreached {s : State} {q : Req} {a : Nat} {m : BitVec 64} (h : s.reaches q a = false ∨ regRowAt a = none) :
    s.afterRead q a m = s := by
  unfold State.afterRead
  split
  · rfl
  next hr =>
    rcases h with h | h
    · simp [h] at hr
    · rw [h]

/-- A read leaves every register but the one it reads. -/
theorem State.afterRead_only (s : State) (q : Req) (a : Nat) (m : BitVec 64) : OnlyRegs s (s.afterRead q a m) [a] := by
  unfold State.afterRead
  split
  · exact OnlyRegs.refl s _
  · split
    · exact OnlyRegs.refl s _
    · dsimp only
      split
      · exact OnlyRegs.refl s _
      · exact OnlyRegs.setReg s a _

/-- The RC bits that a read covers return to Reset, the others stay (R14, R15). -/
theorem State.afterRead_bit {s : State} {q : Req} {a : Nat} {m : BitVec 64} {r : RegRow} (hq : s.reaches q a = true)
    (hr : regRowAt a = some r) {i : Nat} (hi : i < 64) :
    ((s.afterRead q a m).reg a).getLsbD i = if r.rc.testBit i && m.getLsbD i then (regDefault a).getLsbD i else (s.reg a).getLsbD i := by
  have hc : (BitVec.ofNat 64 r.rc &&& m).getLsbD i = (r.rc.testBit i && m.getLsbD i) := by
    rw [BitVec.getLsbD_and, getLsbD_ofNat_lt hi]
  rw [← hc]
  simp only [State.afterRead, hq, hr, Bool.not_true, Bool.false_eq_true, if_false]
  split
  next h0 => rw [h0]; simp
  next => rw [State.reg_setReg_same, getLsbD_replaced _ _ _ hi]

/-! ### What a write changes -/

theorem State.maskedWrite_only (s : State) (a : Nat) (v m : BitVec 64) : OnlyRegs s (s.maskedWrite a v m) [a] := by
  unfold State.maskedWrite
  split
  · exact OnlyRegs.refl s _
  · exact OnlyRegs.setReg s a _

/-- A write changes the RW bits it covers and clears the W1C bits written as 1 (R14). -/
theorem State.maskedWrite_bit {s : State} {a : Nat} {r : RegRow} (hr : regRowAt a = some r) (v m : BitVec 64) {i : Nat} (hi : i < 64) :
    ((s.maskedWrite a v m).reg a).getLsbD i = ((if r.rw.testBit i && m.getLsbD i then v.getLsbD i else (s.reg a).getLsbD i) &&
      !(r.w1c.testBit i && m.getLsbD i && v.getLsbD i)) := by
  simp only [State.maskedWrite, hr, State.reg_setReg_same, BitVec.getLsbD_and, BitVec.getLsbD_not, getLsbD_replaced _ _ _ hi,
    getLsbD_ofNat_lt hi, hi, decide_true, Bool.true_and]
  congr 2
  rw [Bool.and_comm _ (r.w1c.testBit i), ← Bool.and_assoc, Bool.and_right_comm]

/-! ### An FD's plain registers -/

/-- A register of an FD's own block whose write has no rule beside its access codes. -/
def plainReg (a : Nat) : Prop :=
  0x1000000 ≤ a ∧ a < 0x2000000 ∧ a % 0x100000 < 0x20000 ∧ idleReg (a % 0x100000) = false ∧
    a % 0x100000 ∉ [0x180, 0x188, 0x1210, 0x1280, 0x1928, 0x1AB0] ∧ (regRowAt a).isSome = true

theorem fdOfAddr_of_fd {a : Nat} (h : 0x1000000 ≤ a ∧ a < 0x2000000) : fdOfAddr a = some ((a - 0x1000000) / 0x100000) :=
  if_pos h

/-- Where in its block a register of an FD lies. -/
theorem fdOff_eq {a : Nat} (h : 0x1000000 ≤ a) : (a - 0x1000000) % 0x100000 = a % 0x100000 := by
  obtain ⟨b, rfl⟩ := Nat.exists_eq_add_of_le h
  rw [Nat.add_sub_cancel_left, show 0x1000000 + b = b + 16 * 0x100000 by omega, Nat.add_mul_mod_self_right]

theorem plainReg.writeFd {a : Nat} (h : plainReg a) (s : State) (q : Req) (fd : Nat) (v e m : BitVec 64) :
    s.writeFd q fd a v e m = s.maskedWrite a v m := by
  obtain ⟨hlo, -, ho, hi, hne, -⟩ := h
  simp only [List.mem_cons, List.not_mem_nil, or_false, not_or] at hne
  obtain ⟨h180, h188, h1210, h1280, h1928, h1AB0⟩ := hne
  simp only [State.writeFd, fdOff_eq hlo, if_pos ho, h180, h188, h1210, h1280, h1928, h1AB0, hi, or_self, if_false,
    Bool.false_eq_true]

theorem plainReg.bar0Write {a : Nat} (h : plainReg a) {s : State} {q : Req} (hq : s.reaches q a = true) {m : BitVec 64} (hm : m ≠ 0)
    (v : BitVec 64) : s.bar0Write q a v m = s.maskedWrite a v m := by
  obtain ⟨r, hr⟩ := Option.isSome_iff_exists.1 h.2.2.2.2.2
  simp only [State.bar0Write, hq, hr, decide_eq_false hm, Bool.not_true, Bool.or_self, Bool.false_eq_true, if_false,
    fdOfAddr_of_fd ⟨h.1, h.2.1⟩]
  exact h.writeFd s q _ v _ m

theorem State.bar0Write_unlanded {s : State} {q : Req} {a : Nat} {m : BitVec 64}
    (h : (decide (m ≠ 0) && s.reaches q a && (regRowAt a).isSome) = false) (v : BitVec 64) : s.bar0Write q a v m = s := by
  unfold State.bar0Write
  split
  · rfl
  next hc =>
    simp only [Bool.or_eq_true, decide_eq_true_eq, not_or, Bool.not_eq_true', Bool.not_eq_false] at hc
    split
    · rfl
    next r hr => exact absurd (by simpa [hc.2, hr] using h) hc.1

/-- A register of an FD that is not a reset register is in the arbiter's class of execution (R538). -/
theorem plainReg.arbClass {a : Nat} (h : plainReg a) : Machine.arbClass a = 2 := by
  obtain ⟨hlo, hhi, -, -, hne, -⟩ := h
  simp only [List.mem_cons, List.not_mem_nil, or_false, not_or] at hne
  obtain ⟨h180, h188, -⟩ := hne
  rw [Machine.arbClass, if_neg (by omega), if_neg (by omega), fdOfAddr_of_fd ⟨hlo, hhi⟩, fdOff_eq hlo]
  exact if_neg (by simp [h180, h188])

/-! ### The arbiter's record -/

/-- The registers of the record of a discarded write. -/
def arbRegs : List Nat := [Reg.glbArbStatusCount.addr, Reg.glbArbValueValue.addr]

theorem State.arbDiscard_only (s : State) (q : Req) (c a : Nat) (v : BitVec 64) : OnlyRegs s (s.arbDiscard q c a v) arbRegs := by
  have h := ((((OnlyRegs.inc s Reg.glbArbStatusCount 1).trans (OnlyRegs.wr _ Reg.glbArbStatusLoser (if q = .mgt then 2 else 1))).trans
    (OnlyRegs.wr _ Reg.glbArbStatusClass c)).trans (OnlyRegs.wr _ Reg.glbArbStatusFunc (Req.func q))).trans
    ((OnlyRegs.wr _ Reg.glbArbStatusOffset a).trans (OnlyRegs.setReg _ Reg.glbArbValueValue.addr v))
  exact h.mono (by decide)

theorem State.arbDiscard_value (s : State) (q : Req) (c a : Nat) (v : BitVec 64) :
    (s.arbDiscard q c a v).reg Reg.glbArbValueValue.addr = v := State.reg_setReg_same _ _ _

theorem State.rd_setReg_ne (s : State) {f : Fld} {a : Nat} (v : BitVec 64) (h : f.addr ≠ a) : (s.setReg a v).rd f = s.rd f := by
  rw [State.rd, State.rd, s.reg_setReg_ne v h]

/-- What the record of a discarded write shows (R538). -/
theorem State.arbDiscard_record (s : State) (q : Req) (c a : Nat) (v : BitVec 64) :
    (s.arbDiscard q c a v).rd Reg.glbArbStatusCount = min (s.rd Reg.glbArbStatusCount + 1) (2 ^ Reg.glbArbStatusCount.w - 1) ∧
    (s.arbDiscard q c a v).rd Reg.glbArbStatusLoser = (if q = .mgt then 2 else 1) % 2 ^ 2 ∧
    (s.arbDiscard q c a v).rd Reg.glbArbStatusClass = c % 2 ^ 2 ∧
    (s.arbDiscard q c a v).rd Reg.glbArbStatusFunc = Req.func q % 2 ^ 4 ∧
    (s.arbDiscard q c a v).rd Reg.glbArbStatusOffset = a % 2 ^ 26 := by
  unfold State.arbDiscard
  refine ⟨?_, ?_, ?_, ?_, ?_⟩
  · simp (disch := decide) only [State.rd_setReg_ne, State.rd_wr_apart, State.rd_inc]
  · simp (disch := decide) only [State.rd_setReg_ne, State.rd_wr_apart, State.rd_wr_same]
    rfl
  · simp (disch := decide) only [State.rd_setReg_ne, State.rd_wr_apart, State.rd_wr_same]
    rfl
  · simp (disch := decide) only [State.rd_setReg_ne, State.rd_wr_apart, State.rd_wr_same]
    rfl
  · simp (disch := decide) only [State.rd_setReg_ne, State.rd_wr_same]
    rfl

/-- Who reaches what depends on SPLIT, STANDBY and the enabled virtual functions alone. -/
theorem OnlyRegs.reaches {s t : State} {as : List Nat} (h : OnlyRegs s t as) (hsp : Reg.glbParcelCfgSplit.addr ∉ as)
    (hsb : Reg.glbLpCtlStandby.addr ∉ as) (q : Req) (a : Nat) : t.reaches q a = s.reaches q a := by
  have hd : t.down = s.down := by rw [h.1]
  have hn : t.numVfs = s.numVfs := by rw [h.1]
  have hs := h.rd _ hsp
  have hb : t.flag Reg.glbLpCtlStandby = s.flag Reg.glbLpCtlStandby := by rw [State.flag, State.flag, h.rd _ hsb]
  have hv : ∀ p, t.vfReaches p a = s.vfReaches p a := by
    intro p
    have hp : ∀ fd, t.parcelOf fd = s.parcelOf fd := fun fd => by rw [State.parcelOf, State.parcelOf, hs]
    have he : t.parcelExists p = s.parcelExists p := by rw [State.parcelExists, State.parcelExists, hs]
    unfold State.vfReaches
    rw [hn, he]
    simp only [hp]
  unfold State.reaches
  rw [hd, hb]
  cases q <;> simp only [hv]

/-! ### Register accesses -/

/-- `t` is `s` after a read of the register at `a` in the bits `m` that sent `msg`: its RC bits alone changed, where the
requester reaches it. -/
def ReadLeaves (s t : State) (reach : Bool) (a : Nat) (m : BitVec 64) (msg : OutMsg) : Prop :=
  t = { s with regs := t.regs, outbox := s.outbox ++ [msg] } ∧ (∀ b, b ≠ a → t.reg b = s.reg b) ∧
  (reach = false ∨ regRowAt a = none → t.reg a = s.reg a) ∧
  (∀ r, reach = true → regRowAt a = some r → ∀ i, i < 64 →
    (t.reg a).getLsbD i = if r.rc.testBit i && m.getLsbD i then (regDefault a).getLsbD i else (s.reg a).getLsbD i)

/-- `t` is `s` after a write of `v` to the register at `a` in the bits `m`: its RW bits taken, its W1C bits cleared. -/
def WriteLeaves (s t : State) (a : Nat) (v m : BitVec 64) : Prop :=
  t = { s with regs := t.regs } ∧ (∀ b, b ≠ a → t.reg b = s.reg b) ∧
  ∀ r, regRowAt a = some r → ∀ i, i < 64 →
    (t.reg a).getLsbD i = ((if r.rw.testBit i && m.getLsbD i then v.getLsbD i else (s.reg a).getLsbD i) &&
      !(r.w1c.testBit i && m.getLsbD i && v.getLsbD i))

@[simp] theorem State.send_reg (s : State) (msg : OutMsg) (a : Nat) : (s.send msg).reg a = s.reg a := rfl

theorem readLeaves_send {s u : State} {as : List Nat} (h : OnlyRegs s u as) (msg : OutMsg) :
    u.send msg = { s with regs := (u.send msg).regs, outbox := s.outbox ++ [msg] } := by
  rw [State.send_regs, h.1]
  rfl

theorem readLeaves_afterRead (s : State) (q : Req) (a : Nat) (m : BitVec 64) (msg : OutMsg) :
    ReadLeaves s ((s.afterRead q a m).send msg) (s.reaches q a) a m msg := by
  have h := s.afterRead_only q a m
  refine ⟨readLeaves_send h msg, fun b hb => h.2 b (by simpa using hb), fun hn => ?_, fun r hq hr i hi => ?_⟩
  · rw [State.send_reg, State.afterRead_unreached hn]
  · rw [State.send_reg, State.afterRead_bit hq hr hi]

theorem writeLeaves_maskedWrite (s : State) (a : Nat) (v m : BitVec 64) : WriteLeaves s (s.maskedWrite a v m) a v m := by
  have h := s.maskedWrite_only a v m
  exact ⟨h.1, fun b hb => h.2 b (by simpa using hb), fun r hr i hi => State.maskedWrite_bit hr v m hi⟩

theorem accMask_narrow {x : RegAcc} (h : x.width = .w8 ∨ x.width = .w16) : accMask x = 0 := by
  rcases h with h | h <;> simp [accMask, h]

theorem State.writeAcc_unlanded {s : State} {x : RegAcc} (h : s.lands x = false) : s.writeAcc x = s :=
  State.bar0Write_unlanded h _

theorem State.lands_iff {s : State} {x : RegAcc} :
    s.lands x = true ↔ accMask x ≠ 0 ∧ s.reaches x.req (accBase x) = true ∧ (regRowAt (accBase x)).isSome = true := by
  simp only [State.lands, Bool.and_eq_true, decide_eq_true_eq, and_assoc]

theorem plainReg.writeAcc {x : RegAcc} (h : plainReg (accBase x)) {s : State} (hl : s.lands x = true) :
    s.writeAcc x = s.maskedWrite (accBase x) (accVal x) (accMask x) := by
  obtain ⟨hm, hq, -⟩ := State.lands_iff.1 hl
  exact h.bar0Write hq hm _

/-- Of two writes of one plain register the host's stands, and management's is recorded (R538). -/
theorem arbitrate_plain {s : State} {x y : RegAcc} (hx : s.lands x = true) (hy : s.lands y = true) (hxy : accBase x = accBase y)
    (hp : plainReg (accBase x)) (hqx : x.req ≠ .mgt) (hqy : y.req = .mgt) :
    s.arbitrate x y = (s.arbDiscard .mgt 2 y.addr.toNat (accVal y)).writeAcc x ∧
    s.arbitrate y x = (s.arbDiscard .mgt 2 y.addr.toNat (accVal y)).writeAcc x := by
  have hpy : Machine.arbClass (accBase y) = 2 := hxy ▸ hp.arbClass
  constructor
  · simp [State.arbitrate, hqx, hqy, hx, hy, ← hxy, hp.arbClass]
  · simp [State.arbitrate, hqx, hqy, hx, hy, ← hxy, hp.arbClass]

theorem plainReg.not_tq {a : Nat} (h : plainReg a) : isTqReg a = false := by
  obtain ⟨hlo, -⟩ := h
  have : setOfAddr a = none := if_neg (by omega)
  simp only [isTqReg, this]

/-- Settles O36: a read is `State.afterRead`, and a write of a plain register of an FD `State.maskedWrite`. -/
theorem registerReadsAndWrites : Obligations.RegisterReadsAndWrites := by
  unfold Obligations.RegisterReadsAndWrites
  intro s hd
  refine ⟨fun x => ?_, fun x => accMask_narrow, fun x hx => ?_, fun x hx hp => ?_, fun x y hx hy hxy hp hqx hqy e he => ?_,
    fun a => ⟨fun h => ?_, fun hlt h8 hw => ?_⟩, fun a v => ⟨fun h => ?_, fun hlt h8 htq => ?_, fun h8 hq hp => ?_⟩⟩
  · exact ⟨_, by simp only [exec, execRcRegisterRead, hd, Bool.false_eq_true, if_false], readLeaves_afterRead s _ _ _ _⟩
  · simp only [exec, execRegisterWrite, State.writeAcc_unlanded hx]
  · have hp : plainReg (accBase x) := hp
    exact ⟨_, by simp only [exec, execRegisterWrite, hp.writeAcc hx], writeLeaves_maskedWrite s _ _ _⟩
  · have hp : plainReg (accBase x) := hp
    have hu := s.arbDiscard_only .mgt 2 y.addr.toNat (accVal y)
    have hlx : (s.arbDiscard .mgt 2 y.addr.toNat (accVal y)).lands x = true := by
      rw [State.lands, hu.reaches (by decide) (by decide)]
      exact hx
    obtain ⟨hc, hl, hcl, hf, ho⟩ := s.arbDiscard_record .mgt 2 y.addr.toNat (accVal y)
    obtain ⟨h1, h2⟩ := arbitrate_plain hx hy hxy hp hqx hqy
    refine ⟨_, _, ?_, writeLeaves_maskedWrite _ _ _ _, hu, hc, hl, hcl, hf, ho.trans (Nat.mod_eq_of_lt y.addr.isLt),
      s.arbDiscard_value _ _ _ _⟩
    rw [← hp.writeAcc hlx]
    simp only [List.mem_cons, List.not_mem_nil, or_false] at he
    rcases he with rfl | rfl
    · simp only [exec, execRegisterWrite, h1]
    · simp only [exec, execRegisterWrite, h2]
  · simp only [exec, execMgtRegRead, hd, Bool.false_eq_true, if_false, if_pos h]
  · have hn : ¬ (0x4000000 ≤ a.toNat ∨ a.toNat % 8 ≠ 0) := by omega
    exact ⟨_, by simp only [exec, execMgtRegRead, hd, hw, Bool.false_eq_true, if_false, if_neg hn], readLeaves_afterRead s _ _ _ _⟩
  · simp only [exec, execMgtRegWrite, hd, Bool.false_eq_true, if_false, if_pos h]
  · have hn : ¬ (0x4000000 ≤ a.toNat ∨ a.toNat % 8 ≠ 0) := by omega
    simp only [exec, execMgtRegWrite, hd, htq, Bool.false_eq_true, if_false, if_true, if_neg hn]
  · have hp : plainReg a.toNat := hp
    have hn : ¬ (0x4000000 ≤ a.toNat ∨ a.toNat % 8 ≠ 0) := by have := hp.2.1; omega
    refine ⟨_, ?_, writeLeaves_maskedWrite s _ _ _⟩
    simp only [exec, execMgtRegWrite, hd, hp.not_tq, Bool.false_eq_true, if_false, if_neg hn]
    rw [hp.bar0Write hq (by decide)]

end Sys2Proof.Machine
end

section
/-! PROOFS. A change of SPLIT that leaves a poison record behind. -/

namespace Sys2Proof.Machine

/-! ### A poisoned write lands at a parcel cleared before it

A change of SPLIT clears the parcels that end one after another, and each clearing first lands the writes held in the
directories of its own FDs. A held write is not bound to lie in the FD whose directory holds it: a poisoned one of parcel 1 that
lies in FD 0 is logged at FD 0 after parcel 0 has been cleared. -/

/-- A poisoned write of one byte at the start of FD 0, asked by FD 4. -/
def poisonedWrite : HomeReq := ⟨4, 0, 0, true, [0], true, false⟩

/-- Two parcels, FDs 0 to 3 and FDs 4 to 15, and the poisoned write queued in the directory of FD 4. -/
def strayWriteHeld : State :=
  { State.reset.wr Reg.glbParcelCfgSplit 1 with dir := [(4, [⟨0, 0, 0, false, 0, none, false, [poisonedWrite]⟩])] }

theorem strayWriteHeld_canon : strayWriteHeld.canon := by decide

theorem strayWriteHeld_split : strayWriteHeld.rd Reg.glbParcelCfgSplit = 1 := by decide

theorem strayWriteHeld_idle : ∀ p ∈ splitMoved 0 1, strayWriteHeld.busyParcel p = false := by decide +kernel

/-- FD 0 belongs to parcel 0, which the change to one parcel ends, and its poison log is not empty afterwards. -/
theorem plog_splitWrite_strayWriteHeld : (strayWriteHeld.splitWrite 0).plog 0 ≠ [] := by decide +kernel

theorem splitWrite_of_exec {s t : State} {split : BitVec 3} (hd : s.down = false)
    (h : exec (.parcelCfgWrite .pf split) s = .next t) : s.splitWrite split.toNat = t := by
  simpa [exec, execParcelCfgWrite, hd] using h

/-- Refutes O42: its clause that a parcel whose SPLIT goes leaves empty poison logs takes no hypothesis about held writes, and a
poisoned write in the directory of an FD of parcel 1 that lies in FD 0 is logged there after parcel 0 was cleared. -/
theorem not_moduleAndParcelNumbers : ¬ Obligations.ModuleAndParcelNumbers := by
  unfold Obligations.ModuleAndParcelNumbers
  intro h
  obtain ⟨-, -, hsplit, -⟩ := h strayWriteHeld rfl
  obtain ⟨-, -, hmoved⟩ := hsplit .pf 0 (.inl rfl)
  rw [strayWriteHeld_split] at hmoved
  obtain ⟨t, ht, -, -, -, -, hlogs, -⟩ := hmoved (by decide) strayWriteHeld_idle strayWriteHeld_canon
  rw [← splitWrite_of_exec rfl ht] at hlogs
  exact plog_splitWrite_strayWriteHeld (hlogs 0 (by decide) 0 (by decide)).1

end Sys2Proof.Machine
end

section
/-! PROOFS. What stops, resets and lost links leave alone. -/

namespace Sys2Proof.Machine

/-! ### A relation for what stops, resets and lost links leave alone

A stopped traverse, a lost link and the events they raise write counters, credits and states of many units. The registers that
say which parcels there are, which FDs and ports are in use, and what is parked are not among them. -/

/-- GLB_PARCEL_CFG, GLB_LP_CTL, and of every FD or edge die the registers at the page offsets of FD_STATUS, T2_STATUS and
LNK_STATUS. -/
def fixedReg (a : Nat) : Prop := a = 0x20 ∨ a = 0x40 ∨ (0x1000000 ≤ a ∧ (a % 0x1000 = 0 ∨ a % 0x1000 = 8 ∨ a % 0x1000 = 0x190))

/-- `t` has the stations, directories and waiting requests of `s`, and its registers `fixedReg`. -/
def Steady (s t : State) : Prop :=
  t.stns = s.stns ∧ t.lsts = s.lsts ∧ t.dir = s.dir ∧ t.readWait = s.readWait ∧ ∀ a, fixedReg a → t.reg a = s.reg a

/-- `Steady`, with memory as it was. -/
def Unmoved (s t : State) : Prop := Steady s t ∧ t.mem = s.mem

theorem Steady.refl (s : State) : Steady s s := ⟨rfl, rfl, rfl, rfl, fun _ _ => rfl⟩

theorem Steady.trans {r s t : State} (h : Steady r s) (g : Steady s t) : Steady r t := by
  obtain ⟨h1, h2, h3, h4, h5⟩ := h
  obtain ⟨g1, g2, g3, g4, g5⟩ := g
  exact ⟨g1.trans h1, g2.trans h2, g3.trans h3, g4.trans h4, fun a ha => (g5 a ha).trans (h5 a ha)⟩

theorem Steady.foldl {α : Type} {f : State → α → State} (hf : ∀ s x, Steady s (f s x)) (l : List α) (s : State) :
    Steady s (l.foldl f s) := by
  induction l generalizing s with
  | nil => exact .refl s
  | cons x l ih => exact (hf s x).trans (ih (f s x))

theorem Unmoved.refl (s : State) : Unmoved s s := ⟨.refl s, rfl⟩

/-- Any change of other parts of the state. -/
theorem Unmoved.of_same {s t : State}
    (h : (t.stns, t.lsts, t.dir, t.readWait, t.regs, t.mem) = (s.stns, s.lsts, s.dir, s.readWait, s.regs, s.mem)) : Unmoved s t := by
  simp only [Prod.mk.injEq] at h
  obtain ⟨h1, h2, h3, h4, h5, hm⟩ := h
  exact ⟨⟨h1, h2, h3, h4, fun a _ => by rw [State.reg, h5, State.reg]⟩, hm⟩

theorem Unmoved.trans {r s t : State} (h : Unmoved r s) (g : Unmoved s t) : Unmoved r t := ⟨h.1.trans g.1, g.2.trans h.2⟩

theorem Unmoved.foldl {α : Type} {f : State → α → State} (hf : ∀ s x, Unmoved s (f s x)) (l : List α) (s : State) :
    Unmoved s (l.foldl f s) := by
  induction l generalizing s with
  | nil => exact .refl s
  | cons x l ih => exact (hf s x).trans (ih (f s x))

theorem Unmoved.ite {c : Prop} [Decidable c] {s t u : State} (ht : c → Unmoved s t) (hu : ¬ c → Unmoved s u) :
    Unmoved s (if c then t else u) := by
  split
  next h => exact ht h
  next h => exact hu h

theorem State.wr_unmoved (s : State) {f : Fld} (x : Nat) (hf : ¬ fixedReg f.addr) : Unmoved s (s.wr f x) :=
  ⟨⟨rfl, rfl, rfl, rfl, fun a ha => (OnlyRegs.wr s f x).2 a (fun h => hf (List.mem_singleton.1 h ▸ ha))⟩, rfl⟩

theorem State.inc_unmoved (s : State) {f : Fld} (n : Nat) (hf : ¬ fixedReg f.addr) : Unmoved s (s.inc f n) :=
  s.wr_unmoved _ hf

theorem State.raise_unmoved (s : State) (code parcel : Nat) (detail : List Nat) : Unmoved s (s.raise code parcel detail) := by
  have h := (EventsOnly.refl s).raise code parcel detail
  obtain ⟨h1, h2⟩ := h
  refine ⟨⟨by rw [h1], by rw [h1], by rw [h1], by rw [h1], fun a ha => h2 a ?_⟩, by rw [h1]⟩
  unfold fixedReg at ha
  omega

/-- Registers of edge dies at other offsets of their page. -/
theorem not_fixedReg_of_page {a : Nat} (b o : Nat) (ha : a = b * 0x1000 + o) (hb : 1 ≤ b)
    (ho : 8 < o ∧ o < 0x1000 ∧ o ≠ 0x190) : ¬ fixedReg a := by
  unfold fixedReg
  omega

/-! ### Ports, contexts and what they send -/

theorem State.updPort_unmoved (s : State) (k : Nat) (f : Port → Port) : Unmoved s (s.updPort k f) :=
  .of_same rfl

theorem State.send_unmoved (s : State) (m : OutMsg) : Unmoved s (s.send m) := .of_same rfl

theorem State.setCtx_unmoved (s : State) (c : Ctx) : Unmoved s (s.setCtx c) := .of_same rfl

theorem not_fixedReg_lnk (k o : Nat) (ho : 8 < o ∧ o < 0x1000 ∧ o ≠ 0x190) :
    ¬ fixedReg (0x2010000 + k / 8 * 0x100000 + k % 8 * 0x1000 + o) :=
  not_fixedReg_of_page (0x2010 + k / 8 * 0x100 + k % 8) o (by omega) (by omega) ho

theorem State.deal_unmoved (s : State) (k : Nat) (rest : List Nat) (data : List Byte) : Unmoved s (s.deal k rest data) :=
  (s.updPort_unmoved k _).trans (State.send_unmoved _ _)

theorem State.returnCredit_unmoved (s : State) (k vc : Nat) : Unmoved s (s.returnCredit k vc) :=
  Unmoved.ite (fun _ => s.deal_unmoved _ _ _) (fun _ => .refl s)

theorem State.leaveRx_unmoved (s : State) (f : TxFlit) : Unmoved s (s.leaveRx f) :=
  Unmoved.ite (fun _ => .refl s) (fun _ => (s.updPort_unmoved _ _).trans (State.returnCredit_unmoved _ _ _))

theorem not_fixedReg_credit (k vc : Nat) : ¬ fixedReg (creditFld k vc).addr := by
  unfold creditFld
  split
  · exact not_fixedReg_lnk k 0x70 (by decide)
  · exact not_fixedReg_lnk k 0x78 (by decide)

theorem State.txNow_unmoved (s : State) (k : Nat) (f : TxFlit) : Unmoved s (s.txNow k f) := by
  have hcredit := s.wr_unmoved (s.rd (creditFld k f.vc) - 1) (not_fixedReg_credit k f.vc)
  have hsent := hcredit.trans (State.inc_unmoved _ (f := Reg.lnkTxFlitsCount k) 1 (not_fixedReg_lnk k 0x60 (by decide)))
  exact ((hsent.trans (State.updPort_unmoved _ _ _)).trans (State.deal_unmoved _ _ _ _)).trans (State.leaveRx_unmoved _ _)

theorem State.txOne_unmoved (s : State) (k : Nat) : Unmoved s (s.txOne k) := by
  unfold State.txOne
  split
  · exact .refl s
  · dsimp only
    split
    · exact s.updPort_unmoved _ _
    · exact ((s.updPort_unmoved _ _).trans (State.updPort_unmoved _ _ _)).trans (State.txNow_unmoved _ _ _)

theorem State.txMsg_unmoved (s : State) (k : Nat) (fs : List TxFlit) : Unmoved s (s.txMsg k fs) :=
  (s.updPort_unmoved _ _).trans (Unmoved.foldl (fun s _ => s.txOne_unmoved k) _ _)

theorem State.frameNow_unmoved (s : State) (c : Ctx) (fs : List TxFlit) : Unmoved s (s.frameNow c fs) :=
  ((s.setCtx_unmoved _).trans (State.send_unmoved _ _)).trans (State.inc_unmoved _ _ (not_fixedReg_lnk _ 0x60 (by decide)))

theorem State.sendFrames_unmoved (plane n : Nat) (s : State) : Unmoved s (State.sendFrames plane n s) := by
  induction n generalizing s with
  | zero => exact .refl s
  | succ n ih =>
    unfold State.sendFrames
    split
    · exact .refl s
    · dsimp only
      split
      · exact s.updPort_unmoved _ _
      · exact (((s.updPort_unmoved _ _).trans (State.updPort_unmoved _ _ _)).trans (State.frameNow_unmoved _ _ _)).trans (ih _)

theorem not_fixedReg_e2e (d : Nat) : ¬ fixedReg (0x2000000 + d * 0x100000 + 0x38) :=
  not_fixedReg_of_page (0x2000 + d * 0x100) 0x38 (by omega) (by omega) (by decide)

theorem State.openCtx_unmoved (s : State) (plane peer vc : Nat) : Unmoved s (s.openCtx plane peer vc).1 := by
  unfold State.openCtx
  split
  · exact .refl s
  · split
    · refine Unmoved.trans (s := { s with ctxs := s.ctxs ++ [Ctx.fresh plane peer vc] }) (.of_same rfl) ?_
      exact Unmoved.foldl (fun s d => s.wr_unmoved _ (not_fixedReg_e2e d)) _ _
    · exact .refl s

theorem State.txFrame_unmoved (s : State) (plane peer vc : Nat) (fs : List TxFlit) (wait : Bool) :
    Unmoved s (s.txFrame plane peer vc fs wait) := by
  have ho := s.openCtx_unmoved plane peer vc
  unfold State.txFrame
  split
  next u hu =>
    rw [hu] at ho
    refine Unmoved.trans (s := if wait then u.inc (Reg.lnkE2eStatWait (plane / 2)) else u) ?_ (.of_same rfl)
    exact Unmoved.ite (fun _ => ho.trans (u.inc_unmoved 1 (not_fixedReg_e2e _))) (fun _ => ho)
  next u c hu =>
    rw [hu] at ho
    exact (ho.trans (u.setCtx_unmoved _)).trans (State.sendFrames_unmoved _ _ _)

theorem State.sendFlits_unmoved (s : State) (k : Nat) (fs : List TxFlit) : Unmoved s (s.sendFlits k fs) := by
  unfold State.sendFlits
  split
  · exact .refl s
  · exact Unmoved.ite (fun _ => s.txFrame_unmoved _ _ _ _ _) (fun _ => s.txMsg_unmoved _ _)

theorem State.routeFlits_unmoved (s : State) (fs : List TxFlit) : Unmoved s (s.routeFlits fs) := by
  unfold State.routeFlits
  split
  · exact .refl s
  · split
    · exact s.sendFlits_unmoved _ _
    · exact .of_same rfl

/-! ### A port that goes down -/

theorem State.collLost_unmoved (s : State) (r : CollRun) (peer : Nat) : Unmoved s (s.collLost r peer) :=
  Unmoved.ite (fun _ => .refl s) (fun _ =>
    Unmoved.trans (s := s.setRun { r with held := true }) (.of_same rfl) (State.raise_unmoved _ _ _ _))

theorem State.holdLost_unmoved (s : State) : Unmoved s s.holdLost := by
  refine Unmoved.foldl (fun s r => ?_) _ _
  split
  · exact s.collLost_unmoved _ _
  · exact .refl s

theorem State.tellLost_unmoved (s old : State) : Unmoved s (s.tellLost old) :=
  Unmoved.foldl (fun s _ => s.raise_unmoved _ _ _) _ _

/-- A port that goes down shows its new state, and the rest is a matter of flits, frames and events. -/
theorem State.takeDown_unmoved (s : State) (k st : Nat) :
    Unmoved ((s.wr (Reg.lnkStatusState k) st).wr (Reg.lnkStatusLanes k) 0) (s.takeDown k st) := by
  refine Unmoved.trans ?_ ((State.holdLost_unmoved _).trans (State.tellLost_unmoved _ s))
  refine Unmoved.trans ?_ (Unmoved.foldl (fun s f => s.routeFlits_unmoved [f]) _ _)
  refine Unmoved.ite (fun _ => ?_) (fun _ => State.updPort_unmoved _ _ _)
  exact (State.updPort_unmoved _ _ _).trans (State.raise_unmoved _ _ _ _)

/-! ### A stopped parcel -/

theorem not_fixedReg_parcel {p : Nat} (o : Nat) (hp : p < 4) (ho : o < 0x100) : ¬ fixedReg (0x400 + p * 0x100 + o) := by
  unfold fixedReg
  omega

theorem not_fixedReg_fd (fd o : Nat) (ho : 8 < o % 0x1000 ∧ o % 0x1000 ≠ 0x190) : ¬ fixedReg (0x1000000 + fd * 0x100000 + o) := by
  unfold fixedReg
  omega

/-- A change of the stations in `l` leaves every other station alone, -/
theorem State.stnAt_updStn_fold (g : Stn → Stn) (l : List Loc) (s : State) {key : Nat} (h : ∀ k ∈ l, key ≠ k.key) :
    (l.foldl (fun s k => s.updStn k g) s).stnAt key = s.stnAt key := by
  induction l generalizing s with
  | nil => rfl
  | cons k l ih =>
    rw [List.foldl_cons, ih _ (fun j hj => h j (List.mem_cons_of_mem _ hj))]
    exact sparse_get_set_ne _ _ _ (h k List.mem_cons_self)

theorem State.failReturns_unmoved (s : State) (p : Nat) : Unmoved s (s.failReturns p) :=
  Unmoved.foldl (fun s r =>
    (Unmoved.trans (s := { s with returns := s.returns.filter (· ≠ r) }) (.of_same rfl)
      (State.wr_unmoved _ 3 (not_fixedReg_fd r.fd 0x1928 (by decide)))).trans (State.raise_unmoved _ _ _ _)) _ _

theorem State.showActive_unmoved (s : State) : Unmoved s s.showActive :=
  Unmoved.foldl (fun s d => s.wr_unmoved _ (not_fixedReg_of_page (0x2000 + d * 0x100) 0x40
    (by simp only [Reg.colStatusActive]; omega) (by omega) (by decide))) _ _

/-- `t` is `s` with parcel `p` stopped: its own stations changed, those of other FDs did not, and memory, directories, waiting
requests and the registers `fixedReg` are as they were. -/
def Stopped (s : State) (p : Nat) (t : State) : Prop :=
  (∀ key, key / 256 ∉ s.parcelFds p → t.stnAt key = s.stnAt key) ∧ t.mem = s.mem ∧ t.dir = s.dir ∧ t.readWait = s.readWait ∧
    ∀ a, fixedReg a → t.reg a = s.reg a

theorem Stopped.unmoved {s t u : State} {p : Nat} (h : Stopped s p t) (g : Unmoved t u) : Stopped s p u := by
  obtain ⟨hstns, hmem, hdir, hwait, hregs⟩ := h
  obtain ⟨⟨gstns, -, gdir, gwait, gregs⟩, gmem⟩ := g
  refine ⟨fun key hk => ?_, gmem.trans hmem, gdir.trans hdir, gwait.trans hwait, fun a ha => (gregs a ha).trans (hregs a ha)⟩
  rw [← hstns key hk, State.stnAt, gstns, State.stnAt]

theorem State.key_of_mem_parcelStns {s : State} {p : Nat} {k : Loc} (h : k ∈ s.parcelStns p) : k.key / 256 ∈ s.parcelFds p := by
  obtain ⟨fd, hfd, hk⟩ := List.mem_flatMap.1 h
  obtain ⟨l, hl, hloc⟩ := List.mem_filterMap.1 hk
  have hl := List.mem_range.1 hl
  have hphys := (Loc.bounds_of_locate hloc).2
  have hk : k.fd = fd := by
    simp only [State.locate] at hloc
    split at hloc
    next => cases hloc; exact (by omega : (fd * 128 + l) / 128 = fd)
    next => cases hloc
  have hkey : k.key / 256 = fd := by rw [Loc.key, stnKey, hk]; omega
  exact hkey ▸ hfd

theorem State.dropTraverse_stopped {s t : State} {p : Nat} (h : Stopped s p t) (q : Nat) : Stopped s p (t.dropTraverse q) := h

/-- Changes of the parcel's stations. -/
theorem State.updStn_fold_stopped (s : State) (p : Nat) (g : Stn → Stn) :
    Stopped s p ((s.parcelStns p).foldl (fun s k => s.updStn k g) s) := by
  have honly : ∀ (l : List Loc) (s : State), l.foldl (fun s k => s.updStn k g) s =
      { s with stns := (l.foldl (fun s k => s.updStn k g) s).stns } := by
    intro l
    induction l with
    | nil => exact fun _ => rfl
    | cons k l ih => intro s; rw [List.foldl_cons, ih]; rfl
  have hstns : ∀ key, key / 256 ∉ s.parcelFds p → ((s.parcelStns p).foldl (fun s k => s.updStn k g) s).stnAt key = s.stnAt key :=
    fun key hkey => s.stnAt_updStn_fold g _ (fun k hk e => hkey (e ▸ State.key_of_mem_parcelStns hk))
  refine ⟨hstns, ?_⟩
  rw [honly]
  exact ⟨rfl, rfl, rfl, fun _ _ => rfl⟩

theorem State.endTraverse_stopped (s : State) {p : Nat} (hp : p < 4) : Stopped s p (s.endTraverse p) := by
  unfold State.endTraverse
  extract_lets ended mine dropped
  have hdropped : Stopped s p dropped := s.updStn_fold_stopped p _
  have hfailed := State.dropTraverse_stopped (hdropped.unmoved (dropped.failReturns_unmoved p)) p
  exact hfailed.unmoved ((State.showActive_unmoved _).trans (State.wr_unmoved _ _ (not_fixedReg_parcel 0 hp (by decide))))

theorem State.setJob_unmoved (s : State) (q : Nat) (j : IngJob) : Unmoved s (s.setJob q j) := .of_same rfl

theorem State.igTrim_unmoved (s : State) (d q : Nat) : Unmoved s (s.igTrim d q) :=
  Unmoved.ite (fun _ => .refl s) (fun _ => s.setJob_unmoved _ _)

theorem State.igGrant_unmoved (s : State) (d : Nat) : Unmoved s (s.igGrant d) := by
  unfold State.igGrant
  extract_lets held ready
  refine Unmoved.ite (fun _ => .refl s) (fun _ => ?_)
  split
  · exact .refl s
  next x _ =>
    extract_lets q u j
    have hu : Unmoved s u := .of_same rfl
    split
    · exact hu
    · exact Unmoved.ite (fun _ => hu.trans (u.setJob_unmoved _ _)) (fun _ => hu.trans (u.setJob_unmoved _ _))

theorem State.igDealDie_unmoved (s : State) (d : Nat) : Unmoved s (s.igDealDie d) := by
  refine (Unmoved.trans ?_ (Unmoved.foldl (fun s q => s.igTrim_unmoved d q) _ _)).trans (Unmoved.foldl (fun s _ => s.igGrant_unmoved d) _ _)
  exact Unmoved.foldl (fun s q => Unmoved.foldl (fun s b =>
    Unmoved.ite (fun _ => s.setJob_unmoved _ _) (fun _ => .refl s)) _ _) _ _

theorem State.nvmeEnumerate_unmoved (s : State) : Unmoved s s.nvmeEnumerate :=
  Unmoved.ite (fun _ => .refl s) (fun _ => .of_same rfl)

theorem State.showRun_unmoved (s : State) : Unmoved s s.showRun :=
  (s.wr_unmoved _ (by unfold fixedReg; decide)).trans (State.wr_unmoved _ _ (by unfold fixedReg; decide))

theorem State.ingSwap_unmoved (s : State) : Unmoved s s.ingSwap := by
  have hfw : ∀ x, Unmoved s { s with fw := x } := fun _ => .of_same rfl
  unfold State.ingSwap
  split
  · exact .refl s
  · refine Unmoved.ite (fun _ => .refl s) (fun _ => Unmoved.ite (fun _ => ?_) (fun _ => (hfw _).trans (State.raise_unmoved _ _ _ _)))
    exact (((hfw _).trans (State.nvmeEnumerate_unmoved _)).trans (State.showRun_unmoved _)).trans (State.raise_unmoved _ _ _ _)

theorem State.ingDrop_unmoved (s : State) (q : Nat) : Unmoved s (s.ingDrop q) :=
  Unmoved.ite (fun _ => .refl s) (fun _ => .of_same rfl)

theorem State.ingEnd_unmoved (s : State) {q : Nat} (hq : q < 4) : Unmoved s (s.ingEnd q) := by
  have hstate : ¬ fixedReg (Reg.ingJobCtlState 0 q).addr :=
    not_fixedReg_of_page 0x2200 (0x108 + q * 0x40) (by simp only [Reg.ingJobCtlState]; omega) (by omega) (by omega)
  have hidle := ((s.ingDrop_unmoved q).trans (State.wr_unmoved _ ingIdle hstate)).trans (State.setJob_unmoved _ q IngJob.idle)
  exact ((hidle.trans (State.igDealDie_unmoved _ 0)).trans (State.igDealDie_unmoved _ 1)).trans (State.ingSwap_unmoved _)

theorem State.setAu_unmoved (s : State) (fd : Nat) (r : AuRun) : Unmoved s (s.setAu fd r) := .of_same rfl

theorem State.auStop_unmoved (s : State) (fd : Nat) : Unmoved s (s.auStop fd) :=
  (s.wr_unmoved 0 (not_fixedReg_fd fd 0x1810 (by decide))).trans (State.setAu_unmoved _ _ _)

theorem State.stopParcel_stopped (s : State) {p : Nat} (hp : p < 4) : Stopped s p (s.stopParcel p) := by
  unfold State.stopParcel
  extract_lets ingested stopped fab dropped
  have hstopped : Stopped s p stopped :=
    (s.endTraverse_stopped hp).unmoved ((State.ingEnd_unmoved _ hp).trans (Unmoved.foldl (fun s fd => s.auStop_unmoved fd) _ _))
  clear_value stopped
  have hdropped : Stopped s p dropped := hstopped
  exact hdropped.unmoved (State.wr_unmoved _ 0 (not_fixedReg_parcel 0x80 hp (by decide)))

/-! ### Writes that land -/

theorem State.inc_steady (s : State) {f : Fld} (n : Nat) (hf : ¬ fixedReg f.addr) : Steady s (s.inc f n) := (s.inc_unmoved n hf).1

theorem State.poke_steady (bs : List Byte) (s : State) (k : Nat) : Steady s (s.poke k bs) := by
  induction bs generalizing s k with
  | nil => exact .refl s
  | cons b t ih => exact Steady.trans (s := { s with mem := _ }) ⟨rfl, rfl, rfl, rfl, fun _ _ => rfl⟩ (ih _ _)

theorem State.setCwPoison_steady (s : State) (c : Nat) (v : Bool) : Steady s (s.setCwPoison c v) := ⟨rfl, rfl, rfl, rfl, fun _ _ => rfl⟩

theorem State.writeCw_steady (s : State) (k : Nat) (bs : List Byte) (c : Nat) : Steady s (s.writeCw k bs c) := by
  unfold State.writeCw
  dsimp only
  split
  · exact .refl s
  · split
    · exact (s.setCwPoison_steady c false).trans (State.poke_steady _ _ _)
    · split
      · exact s.inc_steady 1 (not_fixedReg_fd _ 0x1200 (by decide))
      · exact State.poke_steady _ _ _

theorem State.writeRaw_steady (s : State) (k : Nat) (bs : List Byte) : Steady s (s.writeRaw k bs) := by
  unfold State.writeRaw
  split
  · exact .refl s
  · exact Steady.foldl (fun s i => s.writeCw_steady k bs _) _ _

theorem State.logPoison_steady (s : State) (k found : Nat) : Steady s (s.logPoison k found) := by
  unfold State.logPoison
  dsimp only
  split
  · exact ⟨rfl, rfl, rfl, rfl, fun _ _ => rfl⟩
  · have hinc := s.inc_steady (f := Reg.memPoisonStatOvf (k / 2 ^ 41)) 1 (not_fixedReg_fd _ 0x1210 (by decide))
    split
    · exact hinc.trans (State.raise_unmoved _ _ _ _).1
    · exact hinc

theorem State.poisonDest_steady (s : State) (cws : List Nat) : Steady s (s.poisonDest cws) := by
  refine Steady.foldl (fun s c => ?_) _ _
  split
  · exact ((s.inc_steady 1 (not_fixedReg_fd _ 0x1208 (by decide))).trans (State.setCwPoison_steady _ _ _)).trans
      (State.logPoison_steady _ _ _)
  · exact .refl s

theorem State.putBytes_steady (s : State) (k : Nat) (bs : List Byte) (poison : Bool) : Steady s (s.putBytes k bs poison) := by
  unfold State.putBytes
  split
  · exact s.poisonDest_steady _
  · exact s.writeRaw_steady _ _

theorem State.landWrites_steady (s : State) (fds : List Nat) : Steady s (s.landWrites fds) :=
  Steady.foldl (fun s _ => s.putBytes_steady _ _ _) _ _

/-- No write is held for the FDs, so none lands. -/
theorem State.NoWritesHeld.landWrites {s : State} {fds : List Nat} (h : s.NoWritesHeld fds) : s.landWrites fds = s := by
  obtain ⟨hdir, hwait⟩ := h
  unfold State.landWrites
  extract_lets held asked
  have hnone : (held ++ asked).filter (·.isWrite) = [] := by
    refine List.filter_eq_nil_iff.2 fun r hr => ?_
    rcases List.mem_append.1 hr with hr | hr
    · obtain ⟨e, he, hx⟩ := List.mem_flatMap.1 hr
      obtain ⟨x, hx, hr⟩ := List.mem_flatMap.1 hx
      obtain ⟨he, hfd⟩ := List.mem_filter.1 he
      obtain ⟨hw, hq⟩ := hdir e he (by simpa using hfd) x hx
      rw [hw] at hr
      simp [hq r (by simpa using hr)]
    · obtain ⟨hr, hfd⟩ := List.mem_filter.1 hr
      simp [hwait r hr (by simpa using hfd)]
  rw [hnone]
  rfl

theorem State.NoWritesHeld.congr {s t : State} {fds : List Nat} (h : s.NoWritesHeld fds) (hd : t.dir = s.dir)
    (hr : t.readWait = s.readWait) : t.NoWritesHeld fds := by
  unfold State.NoWritesHeld
  rw [hd, hr]
  exact h

end Sys2Proof.Machine
end

section
/-! PROOFS. What a reset leaves of registers and memory, and the reset of a parcel. -/

namespace Sys2Proof.Machine

/-! ### Registers and memory after a reset -/

theorem merge_same (x m : BitVec 64) : (x &&& m) ||| (x &&& ~~~m) = x := by
  ext i hi
  cases h : m[i] <;> simp [h]

/-- A canonical map whose values were changed by `g`, and whose defaults `g` keeps, reads as `g` of what it read. -/
theorem Sparse.get_remap {α : Type} [DecidableEq α] {d : Nat → α} (g : Nat → α → α) (hd : ∀ a, g a (d a) = d a) {l : Sparse α}
    (h : Sparse.wf d l = true) (k : Nat) :
    Sparse.get d ((l.map fun e => (e.1, g e.1 e.2)).filter fun e => decide (e.2 ≠ d e.1)) k = g k (Sparse.get d l k) := by
  induction l with
  | nil => exact (hd k).symm
  | cons e t ih =>
    obtain ⟨a, v⟩ := e
    obtain ⟨-, habove, ht⟩ := (sparse_wf_cons d a v t).1 h
    have ih := ih ht
    rw [List.map_cons, sparse_get_cons]
    by_cases hg : g a v = d a
    · rw [List.filter_cons_of_neg (by simp [hg]), ih]
      split
      next hk => subst hk; rw [hg, sparse_get_of_above d habove (Nat.le_refl a), hd]
      next => rfl
    · rw [List.filter_cons_of_pos (by simpa using hg), sparse_get_cons, ih]
      split
      next hk => rw [hk]
      next => rfl

/-- A map without the keys of `P` reads its default there. -/
theorem Sparse.get_drop {α : Type} (d : Nat → α) (P : Nat → Bool) (l : Sparse α) (k : Nat) :
    Sparse.get d (l.filter fun e => !P e.1) k = if P k then d k else Sparse.get d l k := by
  induction l with
  | nil => split <;> rfl
  | cons e t ih =>
    obtain ⟨a, v⟩ := e
    cases hP : P a
    · rw [List.filter_cons_of_pos (by simp [hP]), sparse_get_cons, sparse_get_cons, ih]
      by_cases hk : a = k
      · simp [← hk, hP]
      · simp [hk]
    · rw [List.filter_cons_of_neg (by simp [hP]), sparse_get_cons, ih]
      by_cases hk : a = k
      · simp [← hk, hP]
      · simp [hk]

theorem State.reg_resetRegs {s : State} (h : Registers.wf s.regs = true) (keep : Nat → BitVec 64) (a : Nat) :
    (s.resetRegs keep).reg a = (s.reg a &&& keep a) ||| (regDefault a &&& ~~~keep a) :=
  Sparse.get_remap (fun a v => (v &&& keep a) ||| (regDefault a &&& ~~~keep a)) (fun _ => merge_same _ _) h a

theorem State.reg_resetRegs_kept {s : State} (h : Registers.wf s.regs = true) {keep : Nat → BitVec 64} {a : Nat}
    (ha : keep a = allBits) : (s.resetRegs keep).reg a = s.reg a := by
  rw [s.reg_resetRegs h, ha, allBits, BitVec.and_allOnes, BitVec.not_allOnes, BitVec.and_zero, BitVec.or_zero]

theorem State.reg_resetRegs_gone {s : State} (h : Registers.wf s.regs = true) {keep : Nat → BitVec 64} {a : Nat}
    (ha : keep a = 0) : (s.resetRegs keep).reg a = regDefault a := by
  rw [s.reg_resetRegs h, ha]
  change _ &&& 0#64 ||| _ &&& ~~~0#64 = _
  rw [BitVec.and_zero, BitVec.not_zero, BitVec.and_allOnes, BitVec.zero_or]

theorem State.resetRegs_wf {s : State} (h : Registers.wf s.regs = true) (keep : Nat → BitVec 64) :
    Registers.wf (s.resetRegs keep).regs = true := sparse_wf_remap _ _ _ (fun _ => rfl) h

theorem State.get_mem_zeroMem (s : State) (fds : List Nat) (cs : List Clears) (k : Nat) :
    Sparse.get memDefault (s.zeroMem fds cs).mem k = if clearsKey fds cs k then memDefault k else Sparse.get memDefault s.mem k :=
  Sparse.get_drop memDefault (clearsKey fds cs) s.mem k

/-- What clearing the shared regions and the stores of `fds` leaves of memory, region by region. -/
theorem State.get_mem_zeroMem_shared_stores (s : State) (fds : List Nat) (k : Nat) :
    Sparse.get memDefault (s.zeroMem fds [.shared, .stores]).mem k =
      if fds.contains (k / 2 ^ 41) then
        match regionOf (k / 2 ^ 41) (k % 2 ^ 41) with
        | .sc _ => memDefault k
        | .ls _ _ => memDefault k
        | _ => Sparse.get memDefault s.mem k
      else Sparse.get memDefault s.mem k := by
  rw [s.get_mem_zeroMem, clearsKey]
  cases fds.contains (k / 2 ^ 41) with
  | false => rfl
  | true => cases regionOf (k / 2 ^ 41) (k % 2 ^ 41) <;> rfl

/-! ### One place of several -/

/-- A fold that changes nothing but at `j` is its one step there. -/
theorem foldl_at {α : Type} {f : State → α → State} {j : α} {l : List α} (hl : l.Nodup) (hj : j ∈ l)
    (hf : ∀ s, ∀ x ∈ l, x ≠ j → f s x = s) (s : State) : l.foldl f s = f s j := by
  induction l generalizing s with
  | nil => cases hj
  | cons x l ih =>
    obtain ⟨hx, hl⟩ := List.nodup_cons.1 hl
    rw [List.foldl_cons]
    by_cases hxj : x = j
    · subst hxj
      exact List.foldlRecOn (motive := (· = f s x)) l f rfl
        fun u hu y hy => (hf u y (List.mem_cons_of_mem _ hy) (fun e => hx (e ▸ hy))).trans hu
    · rw [hf s x List.mem_cons_self hxj]
      exact ih hl ((List.mem_cons.1 hj).resolve_left (Ne.symm hxj)) (fun s y hy => hf s y (List.mem_cons_of_mem _ hy)) s

theorem bitOf_two_pow (j i : Nat) : bitOf (2 ^ j) i = decide (i = j) := by
  rw [bitOf, ← Nat.testBit_eq_decide_div_mod_eq, Nat.testBit_two_pow]
  simp [eq_comm]

theorem mem_keyInsert {l : List Nat} {k x : Nat} : x ∈ keyInsert l k ↔ x = k ∨ x ∈ l := by
  induction l with
  | nil => simp [keyInsert]
  | cons a t ih =>
    unfold keyInsert
    split
    · simp
    · split
      next h => subst h; simp
      next => rw [List.mem_cons, List.mem_cons, ih, or_left_comm]

theorem mem_foldl_keyInsert {ks l : List Nat} {x : Nat} : x ∈ ks.foldl keyInsert l ↔ x ∈ ks ∨ x ∈ l := by
  induction ks generalizing l with
  | nil => simp
  | cons k ks ih => rw [List.foldl_cons, ih, mem_keyInsert, List.mem_cons, or_left_comm, or_assoc]

/-! ### The reset of a parcel -/

theorem State.discardReset_leaves (s : State) : OnlyRegs s s.discardReset [Reg.glbResetCauseDiscard.addr] ∧
    s.discardReset.rd Reg.glbResetCauseDiscard = min (s.rd Reg.glbResetCauseDiscard + 1) (2 ^ Reg.glbResetCauseDiscard.w - 1) := by
  unfold State.discardReset
  exact ⟨OnlyRegs.inc s _ 1, by rw [State.rd_inc _ _ (by decide)]⟩

/-- The bits that the reset of a function's register set keeps: those of every other page. -/
def setKeep (p a : Nat) : BitVec 64 :=
  if decide (0x501000 + p * 0x1000 ≤ a) && decide (a < 0x502000 + p * 0x1000) then 0 else allBits

theorem State.regs_resetSet (s : State) (p : Nat) : (s.resetSet p).regs = (s.resetRegs (setKeep p)).regs := rfl

theorem State.reg_resetSet {s : State} (h : Registers.wf s.regs = true) {p a : Nat}
    (ha : ¬ (0x501000 + p * 0x1000 ≤ a ∧ a < 0x502000 + p * 0x1000)) : (s.resetSet p).reg a = s.reg a := by
  rw [State.reg, s.regs_resetSet]
  exact State.reg_resetRegs_kept h (if_neg (by simpa using ha))

theorem parcelKeep_trvStatus {p : Nat} (fds : List Nat) : parcelKeep p fds (Reg.glbTrvStatusState p).addr = 0 :=
  if_pos (by simp only [Reg.glbTrvStatusState]; omega)

/-- STATE of GLB_TRV_STATUS is 0 in the Reset column. -/
theorem trvStatus_row : ∀ p < 4, (regRowAt (0x400 + p * 0x100)).elim 0 RegRow.rst = 0 := by decide

theorem rd_trvStatus_default {p : Nat} (hp : p < 4) {a : Nat} (ha : a = 0x400 + p * 0x100) : regDefault a = 0 := by
  have hrow := trvStatus_row p hp
  rw [regDefault_eq_elim (by simp [isP0]; omega) (by omega), ha]
  cases hr : regRowAt (0x400 + p * 0x100) with
  | none => rfl
  | some r => rw [hr] at hrow; simp only [Option.elim] at hrow ⊢; rw [hrow]; rfl

/-- A reset of other FDs keeps the status of an FD. -/
theorem parcelKeep_fdStatus {p fd : Nat} {fds : List Nat} (hp : p < 4) (hfd : fd < 16) (h : fd ∉ fds) {a : Nat}
    (ha : a = 0x1000000 + fd * 0x100000 + 0) : parcelKeep p fds a = allBits := by
  have hof : fdOfAddr a = some fd := by
    have hd : (a - 0x1000000) / 0x100000 = fd := by omega
    rw [fdOfAddr, if_pos (by omega), hd]
  rw [parcelKeep, if_neg (by omega), if_neg (by omega), if_neg (by omega), keepFds, hof]
  exact if_neg (by simpa using h)

/-- Parcel `p` stopped, and the writes held for its FDs landed. -/
def State.landed (s : State) (p : Nat) : State := (s.stopParcel p).landWrites (s.parcelFds p)

section
variable {s : State} {p : Nat} (hp : p < 4)
include hp

theorem State.landed_reg {a : Nat} (ha : fixedReg a) : (s.landed p).reg a = s.reg a := by
  obtain ⟨-, -, -, -, hland⟩ := (s.stopParcel p).landWrites_steady (s.parcelFds p)
  obtain ⟨-, -, -, -, hstop⟩ := s.stopParcel_stopped hp
  exact (hland a ha).trans (hstop a ha)

theorem State.landed_stnAt {key : Nat} (hkey : key / 256 ∉ s.parcelFds p) : (s.landed p).stnAt key = s.stnAt key := by
  obtain ⟨hland, -⟩ := (s.stopParcel p).landWrites_steady (s.parcelFds p)
  rw [← (s.stopParcel_stopped hp).1 key hkey, State.stnAt, State.landed, hland, State.stnAt]

theorem State.landed_mem (h : s.NoWritesHeld (s.parcelFds p)) : (s.landed p).mem = s.mem := by
  obtain ⟨-, hmem, hdir, hwait, -⟩ := s.stopParcel_stopped hp
  rw [State.landed, (h.congr hdir hwait).landWrites, hmem]

end

theorem State.landed_wf {s : State} (hc : s.canon) (p : Nat) : Registers.wf (s.landed p).regs = true :=
  have hkeep : Keeps s (s.landed p) := State.landWrites_keeps (s.parcelFds p) (State.stopParcel_keeps p (Keeps.refl s))
  (hkeep.2.2.2 hc).1

/-- What the reset of parcel `p` drops from a state in which none of its FDs `fds` forms its tier 2 anew; `all` are its FDs, the
retired ones included. -/
def State.wiped (u : State) (p : Nat) (fds all : List Nat) : State :=
  let s := ((u.zeroMem fds [.shared, .stores]).zeroMem [] [.t2]).dropLines fds
  let s := ((s.dropFds fds).resetRegs (parcelKeep p fds)).resetSet p
  let s := ((s.dropHeld p).cutRetired all).resetTrips fds
  { s with rstParcels := keyInsert s.rstParcels p, atc := s.atc.filter (fun e => decide (e.1 ≠ p + 1)) }

theorem State.parcelReset_eq {s : State} {p : Nat} (hp : p < 4)
    (hform : ∀ fd ∈ s.parcelFds p, s.flag (Reg.t2StatusReform fd) = false) :
    s.parcelReset p = (s.landed p).wiped p (s.parcelFds p) (parcelFdsOf (s.rd Reg.glbParcelCfgSplit) p) := by
  have href : (s.parcelFds p).filter (fun fd => (s.landed p).flag (Reg.t2StatusReform fd)) = [] :=
    List.filter_eq_nil_iff.2 fun fd hfd => by
      have hfixed : fixedReg (Reg.t2StatusReform fd).addr := by simp only [Reg.t2StatusReform, fixedReg]; omega
      rw [State.flag, State.rd, State.landed_reg hp hfixed, ← State.rd, ← State.flag, hform fd hfd]
      exact Bool.false_ne_true
  unfold State.parcelReset
  extract_lets fds all landed ref
  have hnone : ref = [] := href
  clear_value ref
  subst hnone
  rfl

section
variable {u : State} {p : Nat} {fds all : List Nat}

theorem State.wiped_reg (h : Registers.wf u.regs = true) {a : Nat}
    (ha : ¬ (0x501000 + p * 0x1000 ≤ a ∧ a < 0x502000 + p * 0x1000)) :
    (u.wiped p fds all).reg a = (u.resetRegs (parcelKeep p fds)).reg a := by
  have hregs : (u.wiped p fds all).regs = ((u.resetRegs (parcelKeep p fds)).resetSet p).regs := rfl
  rw [State.reg, hregs]
  exact State.reg_resetSet (State.resetRegs_wf h _) ha

theorem State.wiped_trvStatus (h : Registers.wf u.regs = true) (hp : p < 4) :
    (u.wiped p fds all).rd (Reg.glbTrvStatusState p) = trvIdle := by
  have hreg : (u.wiped p fds all).reg (Reg.glbTrvStatusState p).addr = 0 := by
    rw [State.wiped_reg h (by simp only [Reg.glbTrvStatusState]; omega), State.reg_resetRegs_gone h (parcelKeep_trvStatus fds),
      rd_trvStatus_default hp (a := (Reg.glbTrvStatusState p).addr) rfl]
  rw [State.rd, hreg]
  simp [Fld.extract, trvIdle]

theorem State.wiped_stns : (u.wiped p fds all).stns = u.stns.filter (fun e => !fds.contains (e.1 / 256)) := rfl

theorem State.wiped_stnAt {key : Nat} (hkey : key / 256 ∉ fds) : (u.wiped p fds all).stnAt key = u.stnAt key := by
  have hget := Sparse.get_drop (fun _ => Stn.idle) (fun n => fds.contains (n / 256)) u.stns key
  rwa [if_neg (by simpa using hkey), ← State.wiped_stns] at hget

theorem State.wiped_plog {fd : Nat} (hfd : fd ∈ fds) : (u.wiped p fds all).plog fd = [] := by
  have hget := Sparse.get_drop (fun _ => []) (fun n => fds.contains n) u.poisonLog fd
  rw [if_pos (by simpa using hfd)] at hget
  exact hget

theorem State.wiped_mem (k : Nat) : Sparse.get memDefault (u.wiped p fds all).mem k =
    Sparse.get memDefault (u.zeroMem fds [.shared, .stores]).mem k := by
  have hget := (u.zeroMem fds [.shared, .stores]).get_mem_zeroMem [] [.t2] k
  rwa [if_neg (by simp [clearsKey])] at hget

theorem State.wiped_fdAnswers (h : Registers.wf u.regs = true) (hp : p < 4) {fd : Nat} (hlt : fd < 16) (hall : fd ∈ all)
    (hnot : fd ∉ fds) (hret : u.flag (Reg.fdStatusRetired fd) = true) : (u.wiped p fds all).fdAnswers fd = false := by
  have hreg : (u.wiped p fds all).reg (Reg.fdStatusRetired fd).addr = u.reg (Reg.fdStatusRetired fd).addr := by
    rw [State.wiped_reg h (by simp only [Reg.fdStatusRetired]; omega),
      State.reg_resetRegs_kept h (parcelKeep_fdStatus hp hlt hnot (a := (Reg.fdStatusRetired fd).addr) rfl)]
  have hflag : (u.wiped p fds all).flag (Reg.fdStatusRetired fd) = true := by rwa [State.flag, State.rd, hreg]
  have hcut : fd ∈ (u.wiped p fds all).fdUnreach := mem_foldl_keyInsert.2 (.inl (List.mem_filter.2 ⟨hall, hflag⟩))
  simpa [State.fdAnswers] using hcut

end

end Sys2Proof.Machine
end

section
/-! PROOFS. Requests for resets, the reset of a station, and ports that go down. -/

namespace Sys2Proof.Machine

/-! ### Requests for the reset of one parcel -/

theorem State.askParcel_one {s : State} {q : Req} {p : Nat} (hp : p < 4) (he : s.parcelExists p = true)
    (hq : ∀ v, q = .vf v → v.toNat = p ∧ p < s.numVfs) :
    s.askParcel q (2 ^ p) = if s.underReset p then s.discardReset else s.parcelReset p := by
  unfold State.askParcel
  rw [foldl_at List.nodup_range (List.mem_range.2 hp) (fun t x _ hx => if_pos (by simp [bitOf_two_pow, hx]))]
  have hbit : bitOf (2 ^ p) p = true := by simp [bitOf_two_pow]
  cases q with
  | vf v =>
    obtain ⟨hv, hn⟩ := hq v rfl
    exact if_neg (by simp [hbit, he, hv, hn])
  | pf => exact if_neg (by simp [hbit, he])
  | mgt => exact if_neg (by simp [hbit, he])

theorem State.underReset_iff {s : State} {p : Nat} : s.underReset p = true ↔ s.rstKind ≠ 0 ∨ p ∈ s.rstParcels := by
  simp [State.underReset]

/-! ### Folds that settle each place they come to -/

/-- A fold whose step makes `Q` true at `y`, and keeps it true elsewhere, makes it true when `y` is in the list. -/
theorem foldl_settles {α : Type} {f : State → α → State} {Q : State → Prop} {y : α} {l : List α} (hset : ∀ s, Q (f s y))
    (hkeep : ∀ s, ∀ x ∈ l, Q s → Q (f s x)) (s : State) (hy : Q s ∨ y ∈ l) : Q (l.foldl f s) := by
  induction l generalizing s with
  | nil => exact hy.resolve_right List.not_mem_nil
  | cons x l ih =>
    have ih := ih (fun s z hz => hkeep s z (List.mem_cons_of_mem _ hz)) (f s x)
    rcases hy with hs | hy
    · exact ih (.inl (hkeep s x List.mem_cons_self hs))
    · rcases List.mem_cons.1 hy with rfl | hy
      · exact ih (.inl (hset s))
      · exact ih (.inr hy)

/-! ### The end of a parcel's reset -/

theorem State.reformed_only (fds : List Nat) (s : State) :
    OnlyRegs s (fds.foldl (fun s fd => s.wr (Reg.t2StatusReform fd) 0) s) (fds.map fun fd => (Reg.t2StatusReform fd).addr) := by
  induction fds generalizing s with
  | nil => exact OnlyRegs.refl s _
  | cons fd fds ih =>
    rw [List.foldl_cons, List.map_cons, ← List.singleton_append]
    exact (OnlyRegs.wr s (Reg.t2StatusReform fd) 0).trans (ih _)

theorem State.reformed_flag (fds : List Nat) (s : State) {fd : Nat} (hfd : fd ∈ fds) :
    (fds.foldl (fun s fd => s.wr (Reg.t2StatusReform fd) 0) s).flag (Reg.t2StatusReform fd) = false := by
  have hset : ∀ s : State, (s.wr (Reg.t2StatusReform fd) 0).flag (Reg.t2StatusReform fd) = false := fun s => by
    rw [State.flag, State.rd_wr_same _ _ (by simp [Reg.t2StatusReform])]
    rfl
  refine foldl_settles (f := fun s fd => s.wr (Reg.t2StatusReform fd) 0) (y := fd)
    (Q := fun s => s.flag (Reg.t2StatusReform fd) = false) hset (fun s x _ hs => ?_) s (.inr hfd)
  by_cases hx : fd = x
  · exact hx ▸ hset s
  · have hrd := s.rd_wr_ne (Reg.t2StatusReform x) (Reg.t2StatusReform fd) 0 (by simp only [Reg.t2StatusReform]; omega)
    exact (congrArg (fun n => decide (n ≠ 0)) hrd).trans hs

theorem parcelResetComplete_leaves {s : State} {p : BitVec 2} (h : p.toNat ∈ s.rstParcels) :
    ∃ t, exec (.parcelResetComplete p) s = .next t ∧ t.rstParcels = s.rstParcels.filter (· ≠ p.toNat) ∧
      (∀ fd ∈ s.parcelFds p.toNat, t.flag (Reg.t2StatusReform fd) = false) ∧ t.mem = s.mem ∧ t.stns = s.stns := by
  have hev := (EventsOnly.refl ((s.parcelFds p.toNat).foldl (fun s fd => s.wr (Reg.t2StatusReform fd) 0)
    { s with rstParcels := keyErase s.rstParcels p.toNat })).raise evParcelResetDone p.toNat []
  have honly := State.reformed_only (s.parcelFds p.toNat) { s with rstParcels := keyErase s.rstParcels p.toNat }
  refine ⟨_, ?_, ?_, fun fd hfd => ?_, hev.mem.trans ?_, hev.stns.trans ?_⟩
  · simp only [exec, execParcelResetComplete]
    rw [if_neg (by simpa using h)]
  · rw [hev.1, honly.1]; rfl
  · rw [State.flag, hev.rd _ (by simp only [Reg.t2StatusReform]; omega), ← State.flag]
    exact State.reformed_flag _ _ hfd
  · rw [honly.1]
  · rw [honly.1]

/-! ### The reset of a station -/

theorem State.stnReset_one {s : State} {fd m i : Nat} {k : Loc} (hi : i < 64) (hk : s.locate (fd * 128 + 64 * m + i) = some k)
    (hr : s.underReset (s.parcelOf fd) = false) (hidle : s.trvIdleAt (s.parcelOf fd) = true) :
    s.stnReset fd m (2 ^ i) = s.resetStation k := by
  unfold State.stnReset
  extract_lets p
  rw [if_neg (Nat.ne_of_gt (Nat.two_pow_pos i)), if_neg (by simp [p, hr]), if_neg (by simp [p, hidle]),
    foldl_at List.nodup_range (List.mem_range.2 hi) (fun t x _ hx => if_pos (by simp [bitOf_two_pow, hx])),
    if_neg (by simp [bitOf_two_pow]), hk]

/-- The bits that the reset of a station keeps: all but those of its own state registers. -/
def stationKeep (k : Loc) (a : Nat) : BitVec 64 :=
  if decide (k.b ≤ a) && decide (a < k.b + 0x1000) && stnStateOff (a - k.b) then 0 else allBits

theorem State.resetStation_leaves {s : State} (hc : s.canon) (k : Loc) :
    s.resetStation k = { s with regs := (s.resetStation k).regs, stns := (s.resetStation k).stns } ∧
    (∀ key, key ≠ k.key → (s.resetStation k).stnAt key = s.stnAt key) ∧
    ((s.resetStation k).stn k).active = false ∧ ((s.resetStation k).stn k).faulted = false ∧
    ((s.resetStation k).stn k).held = false ∧ ((s.resetStation k).stn k).vregs = Stn.idle.vregs ∧
    ∀ a, (s.resetStation k).reg a =
      if k.b ≤ a ∧ a < k.b + 0x1000 ∧ stnStateOff (a - k.b) = true then regDefault a else s.reg a := by
  have hregs : ∀ a, (s.resetStation k).reg a = (s.resetRegs (stationKeep k)).reg a := fun _ => rfl
  refine ⟨rfl, fun key hkey => State.stnAt_setStnAt_ne _ _ hkey, ?_, ?_, ?_, ?_, fun a => ?_⟩
  · rw [State.resetStation, State.stn_updStn_same]; rfl
  · rw [State.resetStation, State.stn_updStn_same]; rfl
  · rw [State.resetStation, State.stn_updStn_same]; rfl
  · rw [State.resetStation, State.stn_updStn_same]
  · rw [hregs]
    split
    next h => exact State.reg_resetRegs_gone hc.1 (if_pos (by simpa [and_assoc] using h))
    next h => exact State.reg_resetRegs_kept hc.1 (if_neg (by simpa [and_assoc] using h))

/-! ### Standby -/

theorem State.portUp_congr {s t : State} {k : Nat} (h : t.reg (Reg.lnkStatusState k).addr = s.reg (Reg.lnkStatusState k).addr) :
    t.portUp k = s.portUp k := by
  rw [State.portUp, State.rd, h, State.portUp, State.rd]

theorem fixedReg_lnkStatus (k : Nat) : fixedReg (Reg.lnkStatusState k).addr := by
  simp only [Reg.lnkStatusState, fixedReg]
  omega

/-- STATE and LANES of a port are in one register. -/
theorem State.reg_showPort_ne (s : State) {k a : Nat} (st : Nat) (h : a ≠ (Reg.lnkStatusState k).addr) :
    ((s.wr (Reg.lnkStatusState k) st).wr (Reg.lnkStatusLanes k) 0).reg a = s.reg a :=
  (State.reg_wr_ne (f := Reg.lnkStatusLanes k) _ _ h).trans (State.reg_wr_ne _ _ h)

theorem State.takeDown_portUp_same (s : State) (k : Nat) : (s.takeDown k lnkDown).portUp k = false := by
  have hreg := (s.takeDown_unmoved k lnkDown).1.2.2.2.2 _ (fixedReg_lnkStatus k)
  have hstate : ((s.wr (Reg.lnkStatusState k) lnkDown).wr (Reg.lnkStatusLanes k) 0).rd (Reg.lnkStatusState k) = 0 := by
    rw [State.rd_wr_apart _ _ _ (by simp [Reg.lnkStatusLanes]) (by simp [Reg.lnkStatusState]) _
      (by simp [Reg.lnkStatusLanes, Reg.lnkStatusState]), State.rd_wr_same _ _ (by simp [Reg.lnkStatusState])]
    rfl
  rw [State.portUp_congr hreg, State.portUp, hstate]
  rfl

theorem State.takeDown_portUp_ne (s : State) {j k : Nat} (hj : j < 16) (hk : k < 16) (h : j ≠ k) (st : Nat) :
    (s.takeDown k st).portUp j = s.portUp j := by
  have hreg := (s.takeDown_unmoved k st).1.2.2.2.2 _ (fixedReg_lnkStatus j)
  have hne : (Reg.lnkStatusState j).addr ≠ (Reg.lnkStatusState k).addr := by
    simp only [Reg.lnkStatusState]
    omega
  rw [State.portUp_congr hreg]
  exact State.portUp_congr (s.reg_showPort_ne st hne)

/-- What ports that go down or train leave alone: memory, stations, stores and the registers below the edge dies' blocks. -/
def PortsOnly (s t : State) : Prop :=
  t.mem = s.mem ∧ t.stns = s.stns ∧ t.lsts = s.lsts ∧ t.reg Reg.glbLpCtlStandby.addr = s.reg Reg.glbLpCtlStandby.addr

theorem PortsOnly.refl (s : State) : PortsOnly s s := ⟨rfl, rfl, rfl, rfl⟩

theorem PortsOnly.trans {r s t : State} (h : PortsOnly r s) (g : PortsOnly s t) : PortsOnly r t := by
  obtain ⟨h1, h2, h3, h4⟩ := h
  obtain ⟨g1, g2, g3, g4⟩ := g
  exact ⟨g1.trans h1, g2.trans h2, g3.trans h3, g4.trans h4⟩

theorem PortsOnly.foldl {α : Type} {f : State → α → State} (hf : ∀ s x, PortsOnly s (f s x)) (l : List α) (s : State) :
    PortsOnly s (l.foldl f s) := by
  induction l generalizing s with
  | nil => exact .refl s
  | cons x l ih => exact (hf s x).trans (ih (f s x))

theorem PortsOnly.of_unmoved {s t : State} (h : Unmoved s t) : PortsOnly s t := by
  obtain ⟨⟨hstns, hlsts, -, -, hregs⟩, hmem⟩ := h
  exact ⟨hmem, hstns, hlsts, hregs _ (.inr (.inl rfl))⟩

theorem standby_ne_lnkStatus (k : Nat) : Reg.glbLpCtlStandby.addr ≠ (Reg.lnkStatusState k).addr := by
  simp only [Reg.glbLpCtlStandby, Reg.lnkStatusState]
  omega

theorem State.showPort_portsOnly (s : State) (k st : Nat) :
    PortsOnly s ((s.wr (Reg.lnkStatusState k) st).wr (Reg.lnkStatusLanes k) 0) :=
  ⟨(State.wr_mem _ _ _).trans (State.wr_mem _ _ _), (State.wr_stns _ _ _).trans (State.wr_stns _ _ _),
    (State.wr_lsts _ _ _).trans (State.wr_lsts _ _ _), s.reg_showPort_ne st (standby_ne_lnkStatus k)⟩

theorem State.takeDown_portsOnly (s : State) (k st : Nat) : PortsOnly s (s.takeDown k st) :=
  (s.showPort_portsOnly k st).trans (.of_unmoved (s.takeDown_unmoved k st))

theorem State.toTrain_portsOnly (s : State) (k : Nat) : PortsOnly s (s.toTrain k) :=
  (s.showPort_portsOnly k lnkTrain).trans (.of_unmoved (State.updPort_unmoved _ _ _))

theorem State.trainPorts_portsOnly (s : State) : PortsOnly s s.trainPorts := by
  refine PortsOnly.foldl (fun s k => ?_) _ _
  split
  · exact .refl s
  · exact (s.takeDown_portsOnly k lnkTrain).trans (State.toTrain_portsOnly _ k)

/-- All ports down. -/
def State.portsDown (s : State) : State := (List.range 16).foldl (fun s k => if s.portUp k then s.takeDown k lnkDown else s) s

theorem State.portsDown_portsOnly (s : State) : PortsOnly s s.portsDown := by
  refine PortsOnly.foldl (fun s k => ?_) _ _
  split
  · exact s.takeDown_portsOnly k lnkDown
  · exact .refl s

theorem State.portsDown_portUp (s : State) {k : Nat} (hk : k < 16) : s.portsDown.portUp k = false := by
  refine foldl_settles (y := k) (Q := fun s => s.portUp k = false) (fun s => ?_) (fun s x hx hdown => ?_) s (.inr (List.mem_range.2 hk))
  · split
    · exact s.takeDown_portUp_same k
    next h => simpa using h
  · split
    next hup =>
      have hkx : k ≠ x := fun e => by rw [e, hup] at hdown; cases hdown
      exact (s.takeDown_portUp_ne hk (List.mem_range.1 hx) hkx lnkDown).trans hdown
    · exact hdown

theorem State.standby_off {s : State} (h : s.flag Reg.glbLpCtlStandby = true) :
    (s.standby false).flag Reg.glbLpCtlStandby = false ∧ (s.standby false).mem = s.mem ∧ (s.standby false).stns = s.stns := by
  obtain ⟨hmem, hstns, -, hreg⟩ := (s.wr Reg.glbLpCtlStandby 0).trainPorts_portsOnly
  have hrun : s.standby false = (s.wr Reg.glbLpCtlStandby 0).trainPorts := by
    unfold State.standby
    extract_lets was
    rw [if_neg (by simp [was, h]), if_pos (by rfl : (!false) = true)]
  rw [hrun]
  refine ⟨?_, hmem, hstns⟩
  rw [State.flag, State.rd, hreg, ← State.rd, State.rd_wr_same _ _ (by decide)]
  rfl

theorem State.standby_on {s : State} (h : s.flag Reg.glbLpCtlStandby = false) (hidle : s.allIdle = true) :
    (s.standby true).flag Reg.glbLpCtlStandby = true ∧ (s.standby true).stns = [] ∧ (s.standby true).lsts = [] ∧
    (∀ k, k < 16 → (s.standby true).portUp k = false) ∧
    (s.standby true).mem = ((s.landWrites (List.range 16)).zeroMem (List.range 16) [.shared, .stores]).mem := by
  unfold State.standby
  extract_lets was fds wiped reset emptied ports
  rw [if_neg (by simp [was, h]), if_neg (by decide), if_neg (by simp [hidle])]
  obtain ⟨hmem, hstns, hlsts, -⟩ := emptied.portsDown_portsOnly
  refine ⟨?_, hstns, hlsts, fun k hk => ?_, hmem⟩
  · rw [State.flag, State.rd_wr_same _ _ (by decide)]
    rfl
  · have hne : (Reg.lnkStatusState k).addr ≠ Reg.glbLpCtlStandby.addr := by
      simp only [Reg.glbLpCtlStandby, Reg.lnkStatusState]
      omega
    exact (State.portUp_congr (State.reg_wr_ne _ _ hne)).trans (emptied.portsDown_portUp hk)

end Sys2Proof.Machine
end

section
/-! PROOFS. Parcel and station resets, parking and standby. -/

namespace Sys2Proof.Machine

/-! ### Refusals -/

theorem State.parcelBusy_leaves (s : State) (p : Nat) : RegsAndEvents s (s.parcelBusy p) [] :=
  have h := (EventsOnly.refl s).raise evParcelBusy p []
  ⟨h.1, fun a _ => h.2 a⟩

/-! ### Parking -/

/-- The bit of GLB_LP_CTL that parks an FD. -/
abbrev parkBit (fd : Nat) : Fld := ⟨Reg.glbLpCtlPark.addr, fd, 1⟩

theorem parkBit_ne_fdStatus (fd : Nat) : (parkBit fd).addr ≠ (Reg.fdStatusParked fd).addr := by
  simp only [Reg.glbLpCtlPark, Reg.fdStatusParked]
  omega

/-- Both park bits of an FD written. -/
theorem State.parkWritten_leaves (s : State) {fd : Nat} (hfd : fd < 16) (x : Nat) :
    OnlyRegs s ((s.wr (parkBit fd) x).wr (Reg.fdStatusParked fd) x) [(parkBit fd).addr, (Reg.fdStatusParked fd).addr] ∧
    ((s.wr (parkBit fd) x).wr (Reg.fdStatusParked fd) x).rd (parkBit fd) = x % 2 ∧
    ((s.wr (parkBit fd) x).wr (Reg.fdStatusParked fd) x).rd (Reg.fdStatusParked fd) = x % 2 := by
  refine ⟨(OnlyRegs.wr s (parkBit fd) x).trans (OnlyRegs.wr _ (Reg.fdStatusParked fd) x), ?_, ?_⟩
  · rw [State.rd_wr_ne _ _ _ _ (parkBit_ne_fdStatus fd), State.rd_wr_same _ _ (by simp only; omega)]
    rfl
  · rw [State.rd_wr_same _ _ (by simp [Reg.fdStatusParked])]
    rfl

theorem State.parkBusy_leaves {s : State} {fd : Nat} (h : s.flag (parkBit fd) = false)
    (hbusy : s.trvIdleAt (s.parcelOf fd) = false) : RegsAndEvents s (s.park fd true) [] := by
  have hrun : s.park fd true = s.parcelBusy (s.parcelOf fd) := by
    unfold State.park
    extract_lets bit
    rw [if_neg (by decide), if_neg (by simp [bit, h]), if_pos (by simp [hbusy])]
  rw [hrun]
  exact s.parcelBusy_leaves _

theorem State.park_idle {s : State} {fd : Nat} (h : s.flag (parkBit fd) = false) (hidle : s.trvIdleAt (s.parcelOf fd) = true) :
    s.park fd true = (s.wr (parkBit fd) 1).wr (Reg.fdStatusParked fd) 1 := by
  unfold State.park
  extract_lets bit
  rw [if_neg (by decide), if_neg (by simp [bit, h]), if_neg (by simp [hidle])]

theorem State.standbyBusy_leaves {s : State} (h : s.flag Reg.glbLpCtlStandby = false) (hbusy : s.allIdle = false) :
    RegsAndEvents s (s.standby true) [] := by
  have hrun : ∃ p, s.standby true = s.parcelBusy p := by
    unfold State.standby
    extract_lets was
    rw [if_neg (by simp [was, h]), if_neg (by decide), if_pos (by simp [hbusy])]
    exact ⟨_, rfl⟩
  obtain ⟨p, hrun⟩ := hrun
  rw [hrun]
  exact s.parcelBusy_leaves p

/-- Settles O44, operation by operation. -/
theorem parcelAndStationResets : Obligations.ParcelAndStationResets := by
  unfold Obligations.ParcelAndStationResets
  intro s hd hc
  refine ⟨fun q mask p hp hmask he hq => ?_, fun p => ⟨fun h => ?_, parcelResetComplete_leaves⟩, fun fd m mask i k hi hmask hk => ?_,
    fun fd => ?_, ?_⟩
  · have hrun : exec (.resetParcel q mask) s = .next (if s.underReset p then s.discardReset else s.parcelReset p) := by
      simp only [exec, execResetParcel, hd, Bool.false_eq_true, if_false, hmask, State.askParcel_one hp he hq]
    refine ⟨fun hr => ⟨s.discardReset, ?_, s.discardReset_leaves⟩, fun hk hnot hform => ?_⟩
    · rw [hrun, if_pos (State.underReset_iff.2 hr)]
    · rw [hrun, if_neg (by simp [State.underReset_iff, hk, hnot]), State.parcelReset_eq hp hform]
      have hwf := s.landed_wf hc p
      refine ⟨_, rfl, mem_keyInsert.2 (.inl rfl), State.wiped_trvStatus hwf hp, fun e he => ?_,
        fun key hkey => (State.wiped_stnAt hkey).trans (State.landed_stnAt hp hkey), fun fd hfd hret => ?_,
        fun fd hfd => State.wiped_plog hfd, fun hheld k => ?_⟩
      · rw [State.wiped_stns] at he
        simpa using (List.mem_filter.1 he).2
      · have hfixed : fixedReg (Reg.fdStatusRetired fd).addr := by simp only [Reg.fdStatusRetired, fixedReg]; omega
        have hnot : fd ∉ s.parcelFds p := fun h => by simpa [hret] using (List.mem_filter.1 h).2
        refine State.wiped_fdAnswers hwf hp (List.mem_range.1 (List.mem_filter.1 hfd).1) hfd hnot ?_
        rwa [State.flag, State.rd, State.landed_reg hp hfixed]
      · have hzero := s.get_mem_zeroMem_shared_stores (s.parcelFds p) k
        rw [State.wiped_mem, State.get_mem_zeroMem, State.landed_mem hp hheld, ← State.get_mem_zeroMem]
        exact hzero
  · simp only [exec, execParcelResetComplete]
    rw [if_pos (by simpa using h)]
  · have hrun : exec (.stationReset fd m mask) s = .next (s.stnReset fd.toNat m.toNat (2 ^ i)) := by
      simp only [exec, execStationReset, hd, Bool.false_eq_true, if_false, hmask]
    rw [hrun]
    refine ⟨fun hr => ⟨s.discardReset, ?_, s.discardReset_leaves⟩, fun hr hbusy => ⟨s.parcelBusy (s.parcelOf fd.toNat), ?_, s.parcelBusy_leaves _⟩,
      fun hr hidle => ⟨s.resetStation k, ?_, State.resetStation_leaves hc k⟩⟩
    · rw [State.stnReset, if_neg (Nat.ne_of_gt (Nat.two_pow_pos i)), if_pos hr]
    · rw [State.stnReset, if_neg (Nat.ne_of_gt (Nat.two_pow_pos i)), if_neg (by simp [hr]), if_pos (by simp [hbusy])]
    · rw [State.stnReset_one hi hk hr hidle]
  · have hrun : ∀ on, exec (.lpPark fd on) s = .next (s.park fd.toNat on) := fun on => by
      simp only [exec, execLpPark, hd, Bool.false_eq_true, if_false]
    simp only [hrun]
    refine ⟨⟨_, rfl, s.parkWritten_leaves fd.isLt 0⟩, fun h hidle => ⟨_, rfl, ?_⟩, fun h hbusy => ⟨_, rfl, State.parkBusy_leaves h hbusy⟩⟩
    rw [State.park_idle h hidle]
    exact s.parkWritten_leaves fd.isLt 1
  · have hrun : ∀ on, exec (.lpStandby on) s = .next (s.standby on) := fun on => by
      simp only [exec, execLpStandby, hd, Bool.false_eq_true, if_false]
    simp only [hrun]
    refine ⟨congrArg _ (if_pos rfl), fun h => ⟨_, rfl, State.standby_off h⟩, fun h hbusy => ⟨_, rfl, State.standbyBusy_leaves h hbusy⟩,
      fun h hidle => ?_⟩
    obtain ⟨hflag, hstns, hlsts, hports, hmem⟩ := State.standby_on h hidle
    refine ⟨_, rfl, hflag, hstns, hlsts, hports, fun hheld k hk => ?_⟩
    have hget := s.get_mem_zeroMem_shared_stores (List.range 16) k
    rw [if_pos (by simpa using hk)] at hget
    rw [hmem, hheld.landWrites]
    exact hget

end Sys2Proof.Machine
end
